-- ==== Sys2Proof/Word.lean ====
section
/-! DEFINITION. The words of the machine: 64-bit scalars (R32), 32-bit lanes (R33) and bytes. -/

namespace Sys2Proof

/-- A scalar register's word (R32). -/
abbrev Word := BitVec 64

/-- One lane of a vector register (R33). -/
abbrev Lane := BitVec 32

/-- One byte of a memory. -/
abbrev Byte := BitVec 8

end Sys2Proof
end

