-- ==== Sys2Proof/Config.lean ====
section
/-! DEFINITION. What the spec leaves open and an implementation fixes: values with no body, so that nothing can be proved of
them. -/

namespace Sys2Proof.Config

/-- A value the spec leaves open (a Variable or Bound delay, R4; a value no rule states), one for each number of the counter
`nextFree`. Log 6. -/
opaque freeNat : Nat → Nat

/-- The bytes of the module's private identity operations (R494–R496), which no rule states. Log 7. -/
opaque secretByte : Nat → Nat → Nat

end Sys2Proof.Config
end

