-- ==== Sys2Proof/Syntax.lean ====
section
/-! DEFINITION. The syntax of the machine: one constructor of `Instr` for each row of the table of steps, 138 of them the
instruction words of R81 and the others the events of the device. A word carries its sequencing fields (R59, R61) and the
fields of its operand format (R66–R72), every one as a natural number; `inRange` says that each fits its width. Words stand first, then the events that carry operands,
then those that carry none. -/

namespace Sys2Proof

/-- The selectors of R61; values 12 to 15 are no selector. -/
inductive Sel where
  | next | endloop | safe | exit | j | jc | jnc | ji | jm | call | ret | done
  deriving DecidableEq, Repr

/-- The three engines of a slot (R89), in the order of their codes (R96). -/
inductive Eng where
  | a | x | d
  deriving DecidableEq, Repr

/-- The sequencing fields of every word (R59). -/
structure Seq where
  sel : Sel
  popp : Bool
  popn : Bool
  pushp : Bool
  pushn : Bool
  fl : Nat
  lvl : Nat
  tgt : Nat
  deriving DecidableEq, Repr

/-- Operand format A, three registers (R66). `low` holds the reserved bits at the foot of the word. -/
structure FmtA where
  dst : Nat
  oa : Nat
  ob : Nat
  oc : Nat
  mask : Nat
  fmt : Nat
  rnd : Nat
  sub : Nat
  low : Nat
  deriving DecidableEq, Repr

/-- Operand format B, register and immediate (R67). -/
structure FmtB where
  dst : Nat
  oa : Nat
  sub : Nat
  hi : Nat
  rsv : Nat
  imm : Nat
  deriving DecidableEq, Repr

/-- Operand format C, tower access (R68). `low` holds the reserved bits at the foot of the word. -/
structure FmtC where
  data : Nat
  base : Nat
  mask : Nat
  fmt : Nat
  col : Nat
  s : Nat
  sz : Nat
  aux : Nat
  disp : Nat
  sub : Nat
  low : Nat
  deriving DecidableEq, Repr

/-- Operand format D, matrix (R69). `low` holds the reserved bits at the foot of the word. -/
structure FmtD where
  md : Nat
  ma : Nat
  mb : Nat
  acc : Nat
  fold : Nat
  slip : Nat
  quad : Nat
  frec : Nat
  stamp : Nat
  sub : Nat
  low : Nat
  deriving DecidableEq, Repr

/-- Operand format E, engine command (R70). `low` holds the reserved bits at the foot of the word. -/
structure FmtE where
  dest : Nat
  src : Nat
  len : Nat
  aux : Nat
  cmpl : Nat
  ctgt : Nat
  acq : Nat
  rel : Nat
  scope : Nat
  s : Nat
  ch : Nat
  sub : Nat
  low : Nat
  deriving DecidableEq, Repr

/-- Operand format F, system (R71). `low` holds the reserved bits at the foot of the word. -/
structure FmtF where
  dst : Nat
  oa : Nat
  csel : Nat
  imm16 : Nat
  sub : Nat
  low : Nat
  deriving DecidableEq, Repr

/-- Operand format G, handle (R72). `low` holds the reserved bits at the foot of the word. -/
structure FmtG where
  data : Nat
  h : Nat
  c0 : Nat
  c1 : Nat
  c2 : Nat
  c3 : Nat
  mask : Nat
  s : Nat
  sub : Nat
  low : Nat
  deriving DecidableEq, Repr

/-- A channel of R271, R272: channel `ch` of slot `slot` of column `col`, or channel `ch` of a pier. -/
inductive Chan where
  | column (col slot ch : Nat)
  | pier (pier ch : Nat)
  deriving DecidableEq, Repr

/-- A walk of the page tables on behalf of a context (R429): the page and the kind of access (R433). -/
structure Walk where
  ctx : Nat
  vpage : Nat
  kind : Nat
  deriving DecidableEq, Repr

/-- An arrival on its way to a barrier word: the address, the parity it carries, the bytes it brings and whether it is a plain
arrival of a record or a command (R330, R332, R333). -/
structure Arrival where
  addr : Nat
  parity : Nat
  count : Nat
  bytes : Nat
  deriving DecidableEq, Repr

/-- A flit of the fabric (R449): its header fields, the package it comes from, its payload bytes, and its CRC field. -/
structure Flit where
  kind : Nat
  seqno : Nat
  src : Nat
  dst : Nat
  last : Bool
  body : List Nat
  crc : Nat
  deriving DecidableEq, Repr

/-- Every row of the table of steps. -/
inductive Instr where
  /-- NOP (R121). -/
  | nop (q : Seq) (f : FmtA)
  /-- ADD (R121). -/
  | add (q : Seq) (f : FmtA)
  /-- SUB (R121). -/
  | sub (q : Seq) (f : FmtA)
  /-- MUL (R121). -/
  | mul (q : Seq) (f : FmtA)
  /-- MULH (R121). -/
  | mulh (q : Seq) (f : FmtA)
  /-- DIV (R122). -/
  | div (q : Seq) (f : FmtA)
  /-- REM (R122). -/
  | rem (q : Seq) (f : FmtA)
  /-- AND (R121). -/
  | and (q : Seq) (f : FmtA)
  /-- OR (R121). -/
  | or (q : Seq) (f : FmtA)
  /-- XOR (R121). -/
  | xor (q : Seq) (f : FmtA)
  /-- SHL (R121). -/
  | shl (q : Seq) (f : FmtA)
  /-- SHR (R121). -/
  | shr (q : Seq) (f : FmtA)
  /-- SAR (R121). -/
  | sar (q : Seq) (f : FmtA)
  /-- ROL (R121). -/
  | rol (q : Seq) (f : FmtA)
  /-- CLZ (R121). -/
  | clz (q : Seq) (f : FmtA)
  /-- POPC (R121). -/
  | popc (q : Seq) (f : FmtA)
  /-- MIN (R121). -/
  | min (q : Seq) (f : FmtA)
  /-- MAX (R121). -/
  | max (q : Seq) (f : FmtA)
  /-- CMP (R123). -/
  | cmp (q : Seq) (f : FmtA)
  /-- MOV (R124). -/
  | mov (q : Seq) (f : FmtA)
  /-- QPUT (R135). -/
  | qput (q : Seq) (f : FmtA)
  /-- QGET (R135). -/
  | qget (q : Seq) (f : FmtA)
  /-- ADDI (R121). -/
  | addi (q : Seq) (f : FmtB)
  /-- ANDI (R121). -/
  | andi (q : Seq) (f : FmtB)
  /-- ORI (R121). -/
  | ori (q : Seq) (f : FmtB)
  /-- XORI (R121). -/
  | xori (q : Seq) (f : FmtB)
  /-- SHLI (R121). -/
  | shli (q : Seq) (f : FmtB)
  /-- SHRI (R121). -/
  | shri (q : Seq) (f : FmtB)
  /-- SARI (R121). -/
  | sari (q : Seq) (f : FmtB)
  /-- ROLI (R121). -/
  | roli (q : Seq) (f : FmtB)
  /-- CMPI (R123). -/
  | cmpi (q : Seq) (f : FmtB)
  /-- MOVI (R124). -/
  | movi (q : Seq) (f : FmtB)
  /-- LEA (R125). -/
  | lea (q : Seq) (f : FmtB)
  /-- EXT (R126). -/
  | ext (q : Seq) (f : FmtB)
  /-- INS (R126). -/
  | ins (q : Seq) (f : FmtB)
  /-- SPILL (R127). -/
  | spill (q : Seq) (f : FmtB)
  /-- FILL (R127). -/
  | fill (q : Seq) (f : FmtB)
  /-- LPS (R128). -/
  | lps (q : Seq) (f : FmtB)
  /-- LPST (R129). -/
  | lpst (q : Seq) (f : FmtB)
  /-- SBASE (R136). -/
  | sbase (q : Seq) (f : FmtB)
  /-- RDCYC (R137). -/
  | rdcyc (q : Seq) (f : FmtF)
  /-- CTLRD (R138). -/
  | ctlrd (q : Seq) (f : FmtF)
  /-- CTLWR (R139). -/
  | ctlwr (q : Seq) (f : FmtF)
  /-- MBRD (R134). -/
  | mbrd (q : Seq) (f : FmtF)
  /-- LCRD (R131). -/
  | lcrd (q : Seq) (f : FmtF)
  /-- TRAP (R140). -/
  | trap (q : Seq) (f : FmtF)
  /-- BREAK (R140). -/
  | brk (q : Seq) (f : FmtF)
  /-- ERET (R141). -/
  | eret (q : Seq) (f : FmtF)
  /-- VADD (R149). -/
  | vadd (q : Seq) (f : FmtA)
  /-- VSUB (R149). -/
  | vsub (q : Seq) (f : FmtA)
  /-- VMUL (R149). -/
  | vmul (q : Seq) (f : FmtA)
  /-- VFMA (R149). -/
  | vfma (q : Seq) (f : FmtA)
  /-- VMIN (R151). -/
  | vmin (q : Seq) (f : FmtA)
  /-- VMAX (R151). -/
  | vmax (q : Seq) (f : FmtA)
  /-- VDIV (R149). -/
  | vdiv (q : Seq) (f : FmtA)
  /-- VABS (R151). -/
  | vabs (q : Seq) (f : FmtA)
  /-- VNEG (R151). -/
  | vneg (q : Seq) (f : FmtA)
  /-- VCMP (R153). -/
  | vcmp (q : Seq) (f : FmtA)
  /-- VSEL (R154). -/
  | vsel (q : Seq) (f : FmtA)
  /-- VAND (R155). -/
  | vand (q : Seq) (f : FmtA)
  /-- VOR (R155). -/
  | vor (q : Seq) (f : FmtA)
  /-- VXOR (R155). -/
  | vxor (q : Seq) (f : FmtA)
  /-- VSHL (R155). -/
  | vshl (q : Seq) (f : FmtA)
  /-- VSHR (R155). -/
  | vshr (q : Seq) (f : FmtA)
  /-- VSAR (R155). -/
  | vsar (q : Seq) (f : FmtA)
  /-- VCVT (R156). -/
  | vcvt (q : Seq) (f : FmtA)
  /-- VSQRT (R152). -/
  | vsqrt (q : Seq) (f : FmtA)
  /-- VRSQ (R152). -/
  | vrsq (q : Seq) (f : FmtA)
  /-- VRCP (R152). -/
  | vrcp (q : Seq) (f : FmtA)
  /-- VEXP2 (R152). -/
  | vexp2 (q : Seq) (f : FmtA)
  /-- VLOG2 (R152). -/
  | vlog2 (q : Seq) (f : FmtA)
  /-- VREDSUM (R159). -/
  | vredsum (q : Seq) (f : FmtA)
  /-- VREDMIN (R159). -/
  | vredmin (q : Seq) (f : FmtA)
  /-- VREDMAX (R159). -/
  | vredmax (q : Seq) (f : FmtA)
  /-- VSCAN (R160). -/
  | vscan (q : Seq) (f : FmtA)
  /-- VPERM (R161). -/
  | vperm (q : Seq) (f : FmtA)
  /-- VSHIFT (R164). -/
  | vshift (q : Seq) (f : FmtA)
  /-- VMOV (R162). -/
  | vmov (q : Seq) (f : FmtA)
  /-- VBCAST (R162). -/
  | vbcast (q : Seq) (f : FmtA)
  /-- VEXT (R162). -/
  | vext (q : Seq) (f : FmtA)
  /-- VIDX (R162). -/
  | vidx (q : Seq) (f : FmtA)
  /-- KAND (R166). -/
  | kand (q : Seq) (f : FmtA)
  /-- KOR (R166). -/
  | kor (q : Seq) (f : FmtA)
  /-- KXOR (R166). -/
  | kxor (q : Seq) (f : FmtA)
  /-- KNOT (R166). -/
  | knot (q : Seq) (f : FmtA)
  /-- KPOPC (R166). -/
  | kpopc (q : Seq) (f : FmtA)
  /-- CSPUSH (R168). -/
  | cspush (q : Seq) (f : FmtA)
  /-- CSPOP (R169). -/
  | cspop (q : Seq) (f : FmtA)
  /-- MLD (R197). -/
  | mld (q : Seq) (f : FmtC)
  /-- MMA (R198). -/
  | mma (q : Seq) (f : FmtD)
  /-- MMAQ (R193). -/
  | mmaq (q : Seq) (f : FmtD)
  /-- MMAC (R199). -/
  | mmac (q : Seq) (f : FmtD)
  /-- MDRAIN (R200). -/
  | mdrain (q : Seq) (f : FmtD)
  /-- MZERO (R201). -/
  | mzero (q : Seq) (f : FmtD)
  /-- MPERTURB (R204). -/
  | mperturb (q : Seq) (f : FmtD)
  /-- MLEASE (R202). -/
  | mlease (q : Seq) (f : FmtF)
  /-- MFREE (R202). -/
  | mfree (q : Seq) (f : FmtF)
  /-- MFOLD (R203). -/
  | mfold (q : Seq) (f : FmtF)
  /-- LD (R238). -/
  | ld (q : Seq) (f : FmtC)
  /-- ST (R238). -/
  | st (q : Seq) (f : FmtC)
  /-- VLD (R240). -/
  | vld (q : Seq) (f : FmtC)
  /-- VST (R240). -/
  | vst (q : Seq) (f : FmtC)
  /-- NST (R239). -/
  | nst (q : Seq) (f : FmtC)
  /-- ACT (R241). -/
  | act (q : Seq) (f : FmtC)
  /-- PRE (R241). -/
  | pre (q : Seq) (f : FmtC)
  /-- REF (R241). -/
  | ref (q : Seq) (f : FmtC)
  /-- REFHOLD (R242). -/
  | refhold (q : Seq) (f : FmtF)
  /-- REFREL (R242). -/
  | refrel (q : Seq) (f : FmtF)
  /-- HDEF (R262). -/
  | hdef (q : Seq) (f : FmtG)
  /-- HLD (R263). -/
  | hld (q : Seq) (f : FmtG)
  /-- HST (R264). -/
  | hst (q : Seq) (f : FmtG)
  /-- RELAY (R265). -/
  | relay (q : Seq) (f : FmtG)
  /-- HWAIT (R266). -/
  | hwait (q : Seq) (f : FmtG)
  /-- HQUERY (R267). -/
  | hquery (q : Seq) (f : FmtG)
  /-- HCLOSE (R268). -/
  | hclose (q : Seq) (f : FmtG)
  /-- COPY (R288). -/
  | copy (q : Seq) (f : FmtE)
  /-- CHAIN (R292). -/
  | chain (q : Seq) (f : FmtE)
  /-- GATHER (R290). -/
  | gather (q : Seq) (f : FmtE)
  /-- SCATTER (R290). -/
  | scatter (q : Seq) (f : FmtE)
  /-- CPYX (R291). -/
  | cpyx (q : Seq) (f : FmtE)
  /-- STBIND (R294). -/
  | stbind (q : Seq) (f : FmtE)
  /-- AATOM (R295). -/
  | aatom (q : Seq) (f : FmtE)
  /-- ATOM (R319). -/
  | atom (q : Seq) (f : FmtC)
  /-- RED (R320). -/
  | red (q : Seq) (f : FmtC)
  /-- SEAL (R322). -/
  | seal (q : Seq) (f : FmtC)
  /-- FENCE (R309). -/
  | fence (q : Seq) (f : FmtF)
  /-- MARK (R308). -/
  | mark (q : Seq) (f : FmtF)
  /-- BINIT (R338). -/
  | binit (q : Seq) (f : FmtC)
  /-- ARRIVE (R338). -/
  | arrive (q : Seq) (f : FmtC)
  /-- ARRDROP (R338). -/
  | arrdrop (q : Seq) (f : FmtC)
  /-- BEXPECT (R338). -/
  | bexpect (q : Seq) (f : FmtC)
  /-- BTEST (R338). -/
  | btest (q : Seq) (f : FmtC)
  /-- BWAIT (R338). -/
  | bwait (q : Seq) (f : FmtC)
  /-- POPW (R357). -/
  | popw (q : Seq) (f : FmtF)
  /-- ENQW (R358). -/
  | enqw (q : Seq) (f : FmtF)
  /-- YIELD (R382). -/
  | yield (q : Seq) (f : FmtF)
  /-- ENQ (R359). -/
  | enq (q : Seq) (f : FmtF)
  /-- GSIG (R383). -/
  | gsig (q : Seq) (f : FmtF)
  /-- CS_SHARED_RETRY (R172). -/
  | csSharedRetry (col : Nat) (slot : Nat)
  /-- WORD_COMPLETE (R79). -/
  | wordComplete (id : Nat)
  /-- TOKEN_AVAILABLE (R63). -/
  | tokenAvailable (col : Nat) (slot : Nat) (fifo : Nat)
  /-- SECTION_DISPATCH (R79). -/
  | sectionDispatch (col : Nat) (slot : Nat) (eng : Eng)
  /-- SECTION_RETIRE (R79). -/
  | sectionRetire (col : Nat) (slot : Nat) (eng : Eng)
  /-- SCHEDULE_MISS (R103). -/
  | scheduleMiss (col : Nat) (slot : Nat)
  /-- MESSAGE_LAND (R133). -/
  | messageLand (gid : Nat) (mb : Nat) (value : Nat) (word : Nat)
  /-- LOAD_PERFORMED (R303). -/
  | loadPerformed (id : Nat)
  /-- STORE_REACH_PORT (R303). -/
  | storeReachPort (id : Nat) (dist : Nat)
  /-- WRITE_QUEUE_DRAIN (R231). -/
  | writeQueueDrain (tower : Nat)
  /-- ROW_OPERATION_END (R213). -/
  | rowOperationEnd (tower : Nat) (bank : Nat)
  /-- BACKGROUND_REFRESH (R224). -/
  | backgroundRefresh (tower : Nat)
  /-- FORCED_REFRESH (R225). -/
  | forcedRefresh (tower : Nat) (bank : Nat) (row : Nat)
  /-- ROW_SPARE_COPY_VERIFY (R233). -/
  | rowSpareCopyVerify (tower : Nat) (good : Bool)
  /-- ROWSPARE_START (R235). -/
  | rowspareStart (col : Nat) (value : Nat)
  /-- BED_JOINT_FAILURE (R188). -/
  | bedJointFailure (col : Nat) (joint : Nat) (batch : Nat)
  /-- BYPASS_GRANT (R189). -/
  | bypassGrant (col : Nat)
  /-- BYPASS_FAILURE (R190). -/
  | bypassFailure (col : Nat)
  /-- LEASE_GRANT (R112). -/
  | leaseGrant (col : Nat)
  /-- THERMAL_THROTTLE (R488). -/
  | thermalThrottle (site : Nat) (course : Nat) (celsius : Nat)
  /-- THERMAL_TRIP (R488). -/
  | thermalTrip (site : Nat) (course : Nat) (celsius : Nat)
  /-- AGEING_MARGIN_LOW (R485). -/
  | ageingMarginLow (site : Nat) (course : Nat) (margin : Nat)
  /-- OP_POINT_CHANGE (R487). -/
  | opPointChange (point : Nat)
  /-- CHANNEL_COMMAND_START (R271). -/
  | channelCommandStart (chan : Chan)
  /-- TRANSLATION_FAULT (R282). -/
  | translationFault (chan : Chan) (record : Nat)
  /-- COMMAND_COMPLETE (R280). -/
  | commandComplete (chan : Chan)
  /-- ENGINE_FAULT (R283). -/
  | engineFault (chan : Chan) (code : Nat) (info : Nat)
  /-- CHAIN_RECORD (R292). -/
  | chainRecord (pier : Nat) (chan : Nat)
  /-- CHAIN_RECORD_POLL (R273). -/
  | chainRecordPoll (pier : Nat) (chan : Nat)
  /-- STREAM_PORT_VECTOR (R294). -/
  | streamPortVector (chan : Chan)
  /-- GROUP_PLACE (R363). -/
  | groupPlace (gid : Nat) (col : Nat) (slot : Nat)
  /-- CODE_STORE_COPY_COMPLETE (R344). -/
  | codeStoreCopyComplete (gid : Nat)
  /-- CODE_BLOCK_FETCH (R344). -/
  | codeBlockFetch (col : Nat) (slot : Nat) (block : Nat)
  /-- WATCHDOG (R366). -/
  | watchdog (col : Nat) (slot : Nat)
  /-- FORCED_FULL_SAVE (R373). -/
  | forcedFullSave (gid : Nat)
  /-- SAVE_COMPLETE (R374). -/
  | saveComplete (gid : Nat)
  /-- MIGRATION_COMPLETE (R377). -/
  | migrationComplete (ctx : Nat) (src : Nat)
  /-- GROUP_RETIRE (R379). -/
  | groupRetire (gid : Nat)
  /-- LAUNCH_CHECK (R349). -/
  | launchCheck (lid : Nat)
  /-- LAUNCH_RETIRE (R355). -/
  | launchRetire (lid : Nat)
  /-- POOL_TERMINATE (R353). -/
  | poolTerminate (lid : Nat)
  /-- DOORBELL_ADVANCE (R386). -/
  | doorbellAdvance (queue : Nat) (ptr : Nat)
  /-- SAVE_FRAME_WAIT (R407). -/
  | saveFrameWait (gid : Nat)
  /-- PAGE_WALK (R429). -/
  | pageWalk (pier : Nat) (col : Nat) (walk : Walk)
  /-- PFRESP_RETRY (R434). -/
  | pfrespRetry (id : Nat)
  /-- PFRESP_REFUSE_PAGE_FAULT (R434). -/
  | pfrespRefusePageFault (id : Nat)
  /-- PFRESP_REFUSE_PERMISSION (R434). -/
  | pfrespRefusePermission (id : Nat)
  /-- RELAYOUT_TILE_RETRY (R434). -/
  | relayoutTileRetry (ctx : Nat) (entry : Nat)
  /-- PGINV_PAGE (R430). -/
  | pginvPage (ctx : Nat) (vpage : Nat)
  /-- QUARANTINE (R436). -/
  | quarantine (page : Nat)
  /-- SCRUB (R436). -/
  | scrub (page : Nat)
  /-- RELEASE (R436). -/
  | release (page : Nat)
  /-- RELAYOUT_TILE_MOVING (R254). -/
  | relayoutTileMoving (ctx : Nat) (entry : Nat)
  /-- RELAYOUT_TILE_NEW (R254). -/
  | relayoutTileNew (ctx : Nat) (entry : Nat)
  /-- RELAYOUT_COMPLETE (R259). -/
  | relayoutComplete (ctx : Nat) (entry : Nat)
  /-- HANDLE_ENTRY_FREE (R250). -/
  | handleEntryFree (ctx : Nat) (entry : Nat)
  /-- BARRIER_UPDATE (R330). -/
  | barrierUpdate (addr : Nat)
  /-- BARRIER_ARRIVAL_REACH (R517). -/
  | barrierArrivalReach (arrival : Arrival)
  /-- HOST_READ (R445). -/
  | hostRead (offset : Nat) (size : Nat)
  /-- HOST_WRITE (R445). -/
  | hostWrite (offset : Nat) (data : List Nat)
  /-- HOST_MESSAGE (R443). -/
  | hostMessage (value : Nat)
  /-- HOST_ACCESS_TIMEOUT (R446). -/
  | hostAccessTimeout (chan : Chan)
  /-- LINK_TRAINED (R444). -/
  | linkTrained (lanes : Nat)
  /-- PORT_TRAINED (R451). -/
  | portTrained (port : Nat) (lambda : Nat)
  /-- WAVELENGTH_LOSS (R451). -/
  | wavelengthLoss (port : Nat)
  /-- LIGHT_LOSS (R451). -/
  | lightLoss (port : Nat)
  /-- PORT_DRAINED (R451). -/
  | portDrained (port : Nat)
  /-- FLIT_RECEIVE (R449). -/
  | flitReceive (port : Nat) (flit : Flit)
  /-- FLIT_NAK (R450). -/
  | flitNak (port : Nat) (seqno : Nat)
  /-- ROUTE_WRITE (R454). -/
  | routeWrite (value : Nat)
  /-- PKGID_WRITE (R440). -/
  | pkgidWrite (value : Nat)
  /-- COLLGO (R458). -/
  | collgo (col : Nat) (slot : Nat) (desc : Nat)
  /-- COLLECTIVE_COMPLETE (R461). -/
  | collectiveComplete (comm : Nat) (inst : Nat)
  /-- EVCTL_ARM (R464). -/
  | evctlArm (value : Nat)
  /-- GCTL_PREEMPT (R371). -/
  | gctlPreempt (col : Nat) (slot : Nat) (force : Bool)
  /-- GCTL_MIGRATE (R377). -/
  | gctlMigrate (col : Nat) (slot : Nat) (dest : Nat) (dwin : Nat)
  /-- GREGDATA_WRITE (R370). -/
  | gregdataWrite (col : Nat) (value : Nat)
  /-- RNGSEED_WRITE (R50). -/
  | rngseedWrite (col : Nat) (slot : Nat) (value : Nat)
  /-- QMAP_WRITE (R96). -/
  | qmapWrite (col : Nat) (slot : Nat) (value : Nat)
  /-- TWIN_WRITE (R209). -/
  | twinWrite (col : Nat) (win : Nat) (value : Nat)
  /-- PURGE (R472). -/
  | purge (value : Nat)
  /-- PURGE_COMPLETE (R472). -/
  | purgeComplete (ctx : Nat) (tag : Nat)
  /-- FWRST (R474). -/
  | fwrst (col : Nat)
  /-- MICRO_PC_RECORD_ARRIVAL (R115). -/
  | microPcRecordArrival (col : Nat) (slot : Nat)
  /-- AUDIT_REPLAY_PLACE (R479). -/
  | auditReplayPlace (gid : Nat)
  /-- AUDIT_NO_COLUMN (R479). -/
  | auditNoColumn (gid : Nat)
  /-- AUDIT_COMPARE (R481). -/
  | auditCompare (gid : Nat)
  /-- REMAP_GO (R484). -/
  | remapGo (value : Nat)
  /-- COLUMN_RETIRED (R88). -/
  | columnRetired (col : Nat)
  /-- BLOCK (R490). -/
  | block (quad : Nat)
  /-- QUIESCE (R490). -/
  | quiesce (quad : Nat)
  /-- UNBLOCK (R490). -/
  | unblock (quad : Nat)
  /-- QWAKE (R490). -/
  | qwake (quad : Nat)
  /-- QUAD_DRAIN_COMPLETE (R490). -/
  | quadDrainComplete (quad : Nat)
  /-- QUAD_RAIL_OFF (R490). -/
  | quadRailOff (quad : Nat)
  /-- QUAD_WAKE_COMPLETE (R490). -/
  | quadWakeComplete (quad : Nat)
  /-- ATTEST_REPORT (R495). -/
  | attestReport (addr : Nat)
  /-- ATTEST_REMAP (R496). -/
  | attestRemap (addr : Nat)
  /-- IDENTITY_STORE_READ (R486). -/
  | identityStoreRead (offset : Nat) (count : Nat)
  /-- BRING_UP (R497). -/
  | bringUp (image : List Nat)
  /-- LOGIC_CLOCK_STOP (R490). -/
  | logicClockStop (quad : Nat)
  /-- LOGIC_RAIL_UP (R490). -/
  | logicRailUp (quad : Nat)
  /-- LOGIC_CLOCK_START (R490). -/
  | logicClockStart (quad : Nat)
  /-- IDENTITY_STORE_WRITE (R496). -/
  | identityStoreWrite (offset : Nat) (data : List Nat)
  /-- CAP_STEP (R488). -/
  | capStep
  /-- QUEUE_ADMIT (R398). The queue or context it is about is `State.subject`. -/
  | queueAdmit
  /-- QUEUE_ACTIVE (R398). The queue or context it is about is `State.subject`. -/
  | queueActive
  /-- QUEUE_SLICE_END (R399). The queue or context it is about is `State.subject`. -/
  | queueSliceEnd
  /-- QUEUE_PARK (R400). The queue or context it is about is `State.subject`. -/
  | queuePark
  /-- QUEUE_UNPARK (R400). The queue or context it is about is `State.subject`. -/
  | queueUnpark
  /-- LAUNCH (R390). The queue or context it is about is `State.subject`. -/
  | launch
  /-- WAIT (R391). The queue or context it is about is `State.subject`. -/
  | wait
  /-- WAIT_REREAD (R391). The queue or context it is about is `State.subject`. -/
  | waitReread
  /-- WAIT_TIMEOUT (R391). The queue or context it is about is `State.subject`. -/
  | waitTimeout
  /-- SIGNAL (R392). The queue or context it is about is `State.subject`. -/
  | signal
  /-- MARK_PACKET (R392). The queue or context it is about is `State.subject`. -/
  | markPacket
  /-- EVICT (R393). The queue or context it is about is `State.subject`. -/
  | evict
  /-- HOLD_TIMEOUT (R397). The queue or context it is about is `State.subject`. -/
  | holdTimeout
  /-- DOORBELL_HALT (R388). The queue or context it is about is `State.subject`. -/
  | doorbellHalt
  /-- DOORBELL_RESUME (R388). The queue or context it is about is `State.subject`. -/
  | doorbellResume
  /-- DOORBELL_RESET (R388). The queue or context it is about is `State.subject`. -/
  | doorbellReset
  /-- CREATE (R409). The queue or context it is about is `State.subject`. -/
  | create
  /-- SWITCHOUT (R418). The queue or context it is about is `State.subject`. -/
  | switchout
  /-- SWITCHIN (R421). The queue or context it is about is `State.subject`. -/
  | switchin
  /-- TEARDOWN (R423). The queue or context it is about is `State.subject`. -/
  | teardown
  /-- SWITCHOUT_DRAIN_COMPLETE (R418). The queue or context it is about is `State.subject`. -/
  | switchoutDrainComplete
  /-- SWITCHIN_RESTORE_COMPLETE (R421). The queue or context it is about is `State.subject`. -/
  | switchinRestoreComplete
  /-- TEARDOWN_COMPLETE (R409). The queue or context it is about is `State.subject`. -/
  | teardownComplete
  /-- FAULT_RECORD_WRITE (R433). -/
  | faultRecordWrite
  /-- PGINV_CONTEXT (R430). The queue or context it is about is `State.subject`. -/
  | pginvContext
  /-- PGINV_ALL (R430). -/
  | pginvAll
  /-- INVALIDATION_COMPLETE (R430). -/
  | invalidationComplete
  /-- SCRUB_COMPLETE (R436). -/
  | scrubComplete
  /-- HOST_TRAINING_REQUEST (R444). -/
  | hostTrainingRequest
  /-- LNKCTL_TRAIN (R444). -/
  | lnkctlTrain
  /-- LNKCTL_DRAIN (R444). -/
  | lnkctlDrain
  /-- LNKCTL_DOWN (R444). -/
  | lnkctlDown
  /-- LINK_LANE_FAILURE (R444). -/
  | linkLaneFailure
  /-- LINK_DRAINED (R444). -/
  | linkDrained
  /-- PORTCTL_TRAIN (R451). -/
  | portctlTrain
  /-- PORTCTL_DRAIN (R451). -/
  | portctlDrain
  /-- PORTCTL_DOWN (R451). -/
  | portctlDown
  /-- LATCH_OPEN (R451). -/
  | latchOpen
  /-- LATCH_CLOSE (R451). -/
  | latchClose
  /-- EVCTL_FWDONE (R465). -/
  | evctlFwdone
  /-- EVICT_RESERVE_ACCEPT (R465). -/
  | evictReserveAccept
  /-- QUIESCE_COMPLETE (R465). -/
  | quiesceComplete
  /-- STREAMING_COMPLETE (R465). -/
  | streamingComplete
  /-- ROUTE_DRAIN_COMPLETE (R465). -/
  | routeDrainComplete
  /-- EVICTION_FAIL (R466). -/
  | evictionFail
  /-- REMAP_COMPLETE (R483). -/
  | remapComplete
  deriving DecidableEq, Repr

end Sys2Proof
end

