-- ==== Sys2Proof/WellFormed.lean ====
section
/-! DEFINITION. The form of a word: its opcode (R81), the engines that may run it, and the use it makes of each field of its
format (the encoding tables R118, R121–R141, R148, R196, R236, R261, R286, R313–R316, R337, R356 and R381). A use says which
bits of the field are defined; the others are reserved (RESERVED_FIELD, R60), and a value of the defined bits that the table
does not list is ILLEGAL_ENCODING. -/

namespace Sys2Proof

/-- The use of one field: the bits that are defined, and the values of those bits that the table lists (R60, R118). -/
structure Rule where
  mask : Nat
  ok : Nat → Bool

/-- A field of the word that carries value `val` at bits `off` and up, `width` bits wide. -/
structure FieldUse where
  off : Nat
  width : Nat
  val : Nat
  rule : Rule

/-- What the decoder must know of a word. -/
structure Form where
  opc : Nat
  seq : Seq
  payload : Nat
  engines : List Eng
  fields : List FieldUse

namespace Use

/-- A field the word does not use: every bit is reserved. -/
def no : Rule := ⟨0, fun _ => true⟩
/-- A field with every value defined. -/
def any : Rule := ⟨2 ^ 64 - 1, fun _ => true⟩
/-- A field whose values end below `n`. -/
def lt (n : Nat) : Rule := ⟨2 ^ 64 - 1, fun v => v < n⟩
/-- A field whose values run from 1 to below `n`. -/
def from1 (n : Nat) : Rule := ⟨2 ^ 64 - 1, fun v => 0 < v && v < n⟩
/-- A field with the listed values. -/
def oneOf (l : List Nat) : Rule := ⟨2 ^ 64 - 1, fun v => l.contains v⟩
/-- A field of which only the bits of `m` are defined. -/
def bits (m : Nat) : Rule := ⟨m, fun _ => true⟩
/-- The bits of `m` are defined when `b` holds, else none. -/
def bitsIf (b : Bool) (m : Nat) : Rule := bits (if b then m else 0)
/-- Only the bits of `m` are defined, and their value ends below `n`. -/
def bitsLt (m n : Nat) : Rule := ⟨m, fun v => v < n⟩
/-- A field whose legality is a condition on the whole word. -/
def holds (p : Prop) [Decidable p] : Rule := ⟨2 ^ 64 - 1, fun _ => decide p⟩

/-- The format tags of R40. -/
def legalTags : List Nat :=
  [0, 1, 2, 3, 4, 5, 6, 8, 9, 10, 0x14, 0x15, 0x16, 0x17]
def anyTag : Rule := oneOf legalTags
/-- A six-bit field whose low five bits are a tag of R40 and whose bit 5 is reserved (R148, R196). -/
def srcTag : Rule := ⟨31, fun v => legalTags.contains v⟩
/-- The tags of a tile register (R175): BF16, F16, F8A, F8B, F4, I8 and the scaled formats. -/
def tileTag : Rule := oneOf [2, 3, 4, 5, 6, 9, 0x14, 0x15, 0x16, 0x17]
/-- The unscaled tags (R148). -/
def unscaled : Rule := oneOf [0, 1, 2, 3, 4, 5, 6, 8, 9, 10]
/-- F32, BF16, F16, I32, I8 (R148). -/
def arith : Rule := oneOf [1, 2, 3, 8, 9]
/-- F32, BF16, F16 (R148). -/
def floats : Rule := oneOf [1, 2, 3]
def isFloatTag (t : Nat) : Bool := t == 1 || t == 2 || t == 3
def isIntTag (t : Nat) : Bool := t == 8 || t == 9
/-- RND is used by float forms, 0 to 5, and reserved for the others (R148). -/
def rndIf (b : Bool) : Rule := if b then lt 6 else no

/-- The control registers that some chapter defines; any other selector is ILLEGAL_ENCODING (R71, R91). -/
def definedCsel : List Nat :=
  [0x0, 0x1, 0x2, 0x10, 0x11, 0x12, 0x20, 0x21, 0x22, 0x30, 0x31, 0x40, 0x41, 0x42, 0x43, 0x44] ++
  [0x45, 0x46, 0x47, 0x48, 0x49, 0x4a, 0x4b, 0x4c, 0x4d, 0x4e, 0x4f, 0x50, 0x51, 0x60, 0x61, 0x62] ++
  [0x63, 0x64, 0x70, 0x71, 0x80, 0x81, 0x82, 0x83, 0x100, 0x101, 0x102, 0x103, 0x110, 0x111, 0x112, 0x113] ++
  [0x120, 0x121, 0x122, 0x123, 0x124, 0x125, 0x126, 0x130, 0x131, 0x132, 0x133, 0x134, 0x135, 0x136, 0x137, 0x140] ++
  [0x141, 0x142, 0x143, 0x150, 0x151, 0x152, 0x160, 0x161, 0x162, 0x163, 0x164, 0x165, 0x166, 0x167, 0x170, 0x171] ++
  [0x172, 0x173, 0x174, 0x175, 0x176, 0x177, 0x178, 0x179, 0x17a, 0x17b, 0x17c, 0x180, 0x181, 0x182, 0x183, 0x184] ++
  [0x185, 0x186, 0x187, 0x188, 0x189, 0x18a, 0x190, 0x191, 0x192, 0x193, 0x195, 0x196, 0x1a0]
def csel : Rule := oneOf definedCsel

/-- EXT and INS: the immediate holds position and width minus one, which must stay within 64 bits (R126). -/
def fieldPos : Rule := ⟨0xFFF, fun v => v % 64 + (v / 64 + 1) ≤ 64⟩

/-- A tower access with the global bit `g` of SUB set takes no direction; else COL is 0 to 4 (R68, R236). -/
def colRule (f : FmtC) (g : Nat) : Rule := if f.sub / 2 ^ g % 2 = 1 then no else lt 5

/-- The conditions of VCMP that its format has (R153). -/
def vcmpCc (t : Nat) : Rule :=
  if t = 1 then oneOf [0, 1, 2, 3, 4, 5, 12, 13] else if t = 8 then lt 12 else any

/-- The SUB bits of VREDMIN and VREDMAX (R148): scalar, index with a scalar destination, unsigned for integers. -/
def vredMask (f : FmtA) : Nat :=
  1 + (if f.sub % 2 = 1 then 4 else 0) + (if isIntTag f.fmt then 8 else 0)

/-- The SUB bits of VSCAN (R148): exclusive, the operation 0 to 2, unsigned for an integer min or max. -/
def vscanSub (f : FmtA) : Rule :=
  ⟨7 + (if isIntTag f.fmt && f.sub / 2 % 4 != 0 then 8 else 0), fun v => v / 2 % 4 < 3⟩

/-- FMT of the barrier and atomic words: order in the low two bits, scope 0 to 4 above (R316, R337). -/
def order (l : List Nat) : Rule := ⟨31, fun v => l.contains (v % 4) && decide (v / 4 < 5)⟩
/-- SZ of ATOM and RED: 32 or 64 bits, and 32 only for the float codes (R316). -/
def atomSz (f : FmtC) : Rule := if f.sub % 16 < 10 then oneOf [2, 3] else oneOf [2]
/-- SUB of ATOM and RED: the code from `lo` to `hi`, and bit 4 the global form (R316). -/
def atomCode (lo hi : Nat) : Rule := ⟨31, fun v => decide (lo ≤ v % 16) && decide (v % 16 ≤ hi)⟩
/-- CTGT of a channel word (R280): a FIFO, a scalar register or a stream port. -/
def ctgt (f : FmtE) : Rule :=
  if f.cmpl = 0 then bitsLt 7 6 else if f.cmpl = 1 then any else bits 15

end Use

namespace FmtB

/-- The immediate of format B: the sign-extended IMM shifted left by 16 × HI, kept to 64 bits (R67). -/
def imm64 (f : FmtB) : Nat :=
  ((BitVec.ofNat 48 f.imm).signExtend 64 <<< (16 * f.hi)).toNat

/-- A stride fits 48 bits, two's complement (R129). -/
def strideOk (f : FmtB) : Bool :=
  decide (f.imm64 < 2 ^ 47) || decide (2 ^ 64 - 2 ^ 47 ≤ f.imm64)

end FmtB


namespace Form

/-- The fields of format A with the uses that a table row gives them (R66). -/
def fieldsA (f : FmtA) (u0 u1 u2 u3 u4 u5 u6 u7 : Rule) : List FieldUse :=
  [⟨66, 6, f.dst, u0⟩, ⟨60, 6, f.oa, u1⟩, ⟨54, 6, f.ob, u2⟩, ⟨48, 6, f.oc, u3⟩, ⟨45, 3, f.mask, u4⟩, ⟨40, 5, f.fmt, u5⟩, ⟨37, 3, f.rnd, u6⟩, ⟨32, 5, f.sub, u7⟩, ⟨0, 32, f.low, Use.no⟩]

/-- The operand bits of format A. -/
def packA (f : FmtA) : Nat :=
  f.dst * 2 ^ 66 + f.oa * 2 ^ 60 + f.ob * 2 ^ 54 + f.oc * 2 ^ 48 + f.mask * 2 ^ 45 + f.fmt * 2 ^ 40 + f.rnd * 2 ^ 37 + f.sub * 2 ^ 32 + f.low

/-- The fields of format A read from the operand bits. -/
def unpackA (n : Nat) : FmtA :=
  ⟨n / 2 ^ 66 % 2 ^ 6, n / 2 ^ 60 % 2 ^ 6, n / 2 ^ 54 % 2 ^ 6, n / 2 ^ 48 % 2 ^ 6, n / 2 ^ 45 % 2 ^ 3, n / 2 ^ 40 % 2 ^ 5, n / 2 ^ 37 % 2 ^ 3, n / 2 ^ 32 % 2 ^ 5, n % 2 ^ 32⟩

/-- Every field of format A fits its width. -/
def inRangeA (f : FmtA) : Bool :=
  decide (f.dst < 2 ^ 6) && decide (f.oa < 2 ^ 6) && decide (f.ob < 2 ^ 6) && decide (f.oc < 2 ^ 6) && decide (f.mask < 2 ^ 3) && decide (f.fmt < 2 ^ 5) && decide (f.rnd < 2 ^ 3) && decide (f.sub < 2 ^ 5) && decide (f.low < 2 ^ 32)

/-- The fields of format B with the uses that a table row gives them (R67). -/
def fieldsB (f : FmtB) (u0 u1 u2 u3 u4 : Rule) : List FieldUse :=
  [⟨66, 6, f.dst, u0⟩, ⟨60, 6, f.oa, u1⟩, ⟨56, 4, f.sub, u2⟩, ⟨54, 2, f.hi, u3⟩, ⟨48, 6, f.rsv, Use.no⟩, ⟨0, 48, f.imm, u4⟩]

/-- The operand bits of format B. -/
def packB (f : FmtB) : Nat :=
  f.dst * 2 ^ 66 + f.oa * 2 ^ 60 + f.sub * 2 ^ 56 + f.hi * 2 ^ 54 + f.rsv * 2 ^ 48 + f.imm

/-- The fields of format B read from the operand bits. -/
def unpackB (n : Nat) : FmtB :=
  ⟨n / 2 ^ 66 % 2 ^ 6, n / 2 ^ 60 % 2 ^ 6, n / 2 ^ 56 % 2 ^ 4, n / 2 ^ 54 % 2 ^ 2, n / 2 ^ 48 % 2 ^ 6, n % 2 ^ 48⟩

/-- Every field of format B fits its width. -/
def inRangeB (f : FmtB) : Bool :=
  decide (f.dst < 2 ^ 6) && decide (f.oa < 2 ^ 6) && decide (f.sub < 2 ^ 4) && decide (f.hi < 2 ^ 2) && decide (f.rsv < 2 ^ 6) && decide (f.imm < 2 ^ 48)

/-- The fields of format C with the uses that a table row gives them (R68). -/
def fieldsC (f : FmtC) (u0 u1 u2 u3 u4 u5 u6 u7 u8 u9 : Rule) : List FieldUse :=
  [⟨66, 6, f.data, u0⟩, ⟨60, 6, f.base, u1⟩, ⟨57, 3, f.mask, u2⟩, ⟨52, 5, f.fmt, u3⟩, ⟨49, 3, f.col, u4⟩, ⟨48, 1, f.s, u5⟩, ⟨46, 2, f.sz, u6⟩, ⟨40, 6, f.aux, u7⟩, ⟨14, 26, f.disp, u8⟩, ⟨9, 5, f.sub, u9⟩, ⟨0, 9, f.low, Use.no⟩]

/-- The operand bits of format C. -/
def packC (f : FmtC) : Nat :=
  f.data * 2 ^ 66 + f.base * 2 ^ 60 + f.mask * 2 ^ 57 + f.fmt * 2 ^ 52 + f.col * 2 ^ 49 + f.s * 2 ^ 48 + f.sz * 2 ^ 46 + f.aux * 2 ^ 40 + f.disp * 2 ^ 14 + f.sub * 2 ^ 9 + f.low

/-- The fields of format C read from the operand bits. -/
def unpackC (n : Nat) : FmtC :=
  ⟨n / 2 ^ 66 % 2 ^ 6, n / 2 ^ 60 % 2 ^ 6, n / 2 ^ 57 % 2 ^ 3, n / 2 ^ 52 % 2 ^ 5, n / 2 ^ 49 % 2 ^ 3, n / 2 ^ 48 % 2 ^ 1, n / 2 ^ 46 % 2 ^ 2, n / 2 ^ 40 % 2 ^ 6, n / 2 ^ 14 % 2 ^ 26, n / 2 ^ 9 % 2 ^ 5, n % 2 ^ 9⟩

/-- Every field of format C fits its width. -/
def inRangeC (f : FmtC) : Bool :=
  decide (f.data < 2 ^ 6) && decide (f.base < 2 ^ 6) && decide (f.mask < 2 ^ 3) && decide (f.fmt < 2 ^ 5) && decide (f.col < 2 ^ 3) && decide (f.s < 2 ^ 1) && decide (f.sz < 2 ^ 2) && decide (f.aux < 2 ^ 6) && decide (f.disp < 2 ^ 26) && decide (f.sub < 2 ^ 5) && decide (f.low < 2 ^ 9)

/-- The fields of format D with the uses that a table row gives them (R69). -/
def fieldsD (f : FmtD) (u0 u1 u2 u3 u4 u5 u6 u7 u8 u9 : Rule) : List FieldUse :=
  [⟨66, 6, f.md, u0⟩, ⟨60, 6, f.ma, u1⟩, ⟨54, 6, f.mb, u2⟩, ⟨39, 15, f.acc, u3⟩, ⟨37, 2, f.fold, u4⟩, ⟨36, 1, f.slip, u5⟩, ⟨35, 1, f.quad, u6⟩, ⟨34, 1, f.frec, u7⟩, ⟨14, 20, f.stamp, u8⟩, ⟨9, 5, f.sub, u9⟩, ⟨0, 9, f.low, Use.no⟩]

/-- The operand bits of format D. -/
def packD (f : FmtD) : Nat :=
  f.md * 2 ^ 66 + f.ma * 2 ^ 60 + f.mb * 2 ^ 54 + f.acc * 2 ^ 39 + f.fold * 2 ^ 37 + f.slip * 2 ^ 36 + f.quad * 2 ^ 35 + f.frec * 2 ^ 34 + f.stamp * 2 ^ 14 + f.sub * 2 ^ 9 + f.low

/-- The fields of format D read from the operand bits. -/
def unpackD (n : Nat) : FmtD :=
  ⟨n / 2 ^ 66 % 2 ^ 6, n / 2 ^ 60 % 2 ^ 6, n / 2 ^ 54 % 2 ^ 6, n / 2 ^ 39 % 2 ^ 15, n / 2 ^ 37 % 2 ^ 2, n / 2 ^ 36 % 2 ^ 1, n / 2 ^ 35 % 2 ^ 1, n / 2 ^ 34 % 2 ^ 1, n / 2 ^ 14 % 2 ^ 20, n / 2 ^ 9 % 2 ^ 5, n % 2 ^ 9⟩

/-- Every field of format D fits its width. -/
def inRangeD (f : FmtD) : Bool :=
  decide (f.md < 2 ^ 6) && decide (f.ma < 2 ^ 6) && decide (f.mb < 2 ^ 6) && decide (f.acc < 2 ^ 15) && decide (f.fold < 2 ^ 2) && decide (f.slip < 2 ^ 1) && decide (f.quad < 2 ^ 1) && decide (f.frec < 2 ^ 1) && decide (f.stamp < 2 ^ 20) && decide (f.sub < 2 ^ 5) && decide (f.low < 2 ^ 9)

/-- The fields of format E with the uses that a table row gives them (R70). -/
def fieldsE (f : FmtE) (u0 u1 u2 u3 u4 u5 u6 u7 u8 u9 u10 u11 : Rule) : List FieldUse :=
  [⟨66, 6, f.dest, u0⟩, ⟨60, 6, f.src, u1⟩, ⟨54, 6, f.len, u2⟩, ⟨48, 6, f.aux, u3⟩, ⟨46, 2, f.cmpl, u4⟩, ⟨40, 6, f.ctgt, u5⟩, ⟨39, 1, f.acq, u6⟩, ⟨38, 1, f.rel, u7⟩, ⟨35, 3, f.scope, u8⟩, ⟨34, 1, f.s, u9⟩, ⟨33, 1, f.ch, u10⟩, ⟨28, 5, f.sub, u11⟩, ⟨0, 28, f.low, Use.no⟩]

/-- The operand bits of format E. -/
def packE (f : FmtE) : Nat :=
  f.dest * 2 ^ 66 + f.src * 2 ^ 60 + f.len * 2 ^ 54 + f.aux * 2 ^ 48 + f.cmpl * 2 ^ 46 + f.ctgt * 2 ^ 40 + f.acq * 2 ^ 39 + f.rel * 2 ^ 38 + f.scope * 2 ^ 35 + f.s * 2 ^ 34 + f.ch * 2 ^ 33 + f.sub * 2 ^ 28 + f.low

/-- The fields of format E read from the operand bits. -/
def unpackE (n : Nat) : FmtE :=
  ⟨n / 2 ^ 66 % 2 ^ 6, n / 2 ^ 60 % 2 ^ 6, n / 2 ^ 54 % 2 ^ 6, n / 2 ^ 48 % 2 ^ 6, n / 2 ^ 46 % 2 ^ 2, n / 2 ^ 40 % 2 ^ 6, n / 2 ^ 39 % 2 ^ 1, n / 2 ^ 38 % 2 ^ 1, n / 2 ^ 35 % 2 ^ 3, n / 2 ^ 34 % 2 ^ 1, n / 2 ^ 33 % 2 ^ 1, n / 2 ^ 28 % 2 ^ 5, n % 2 ^ 28⟩

/-- Every field of format E fits its width. -/
def inRangeE (f : FmtE) : Bool :=
  decide (f.dest < 2 ^ 6) && decide (f.src < 2 ^ 6) && decide (f.len < 2 ^ 6) && decide (f.aux < 2 ^ 6) && decide (f.cmpl < 2 ^ 2) && decide (f.ctgt < 2 ^ 6) && decide (f.acq < 2 ^ 1) && decide (f.rel < 2 ^ 1) && decide (f.scope < 2 ^ 3) && decide (f.s < 2 ^ 1) && decide (f.ch < 2 ^ 1) && decide (f.sub < 2 ^ 5) && decide (f.low < 2 ^ 28)

/-- The fields of format F with the uses that a table row gives them (R71). -/
def fieldsF (f : FmtF) (u0 u1 u2 u3 u4 : Rule) : List FieldUse :=
  [⟨66, 6, f.dst, u0⟩, ⟨60, 6, f.oa, u1⟩, ⟨48, 12, f.csel, u2⟩, ⟨32, 16, f.imm16, u3⟩, ⟨27, 5, f.sub, u4⟩, ⟨0, 27, f.low, Use.no⟩]

/-- The operand bits of format F. -/
def packF (f : FmtF) : Nat :=
  f.dst * 2 ^ 66 + f.oa * 2 ^ 60 + f.csel * 2 ^ 48 + f.imm16 * 2 ^ 32 + f.sub * 2 ^ 27 + f.low

/-- The fields of format F read from the operand bits. -/
def unpackF (n : Nat) : FmtF :=
  ⟨n / 2 ^ 66 % 2 ^ 6, n / 2 ^ 60 % 2 ^ 6, n / 2 ^ 48 % 2 ^ 12, n / 2 ^ 32 % 2 ^ 16, n / 2 ^ 27 % 2 ^ 5, n % 2 ^ 27⟩

/-- Every field of format F fits its width. -/
def inRangeF (f : FmtF) : Bool :=
  decide (f.dst < 2 ^ 6) && decide (f.oa < 2 ^ 6) && decide (f.csel < 2 ^ 12) && decide (f.imm16 < 2 ^ 16) && decide (f.sub < 2 ^ 5) && decide (f.low < 2 ^ 27)

/-- The fields of format G with the uses that a table row gives them (R72). -/
def fieldsG (f : FmtG) (u0 u1 u2 u3 u4 u5 u6 u7 u8 : Rule) : List FieldUse :=
  [⟨66, 6, f.data, u0⟩, ⟨60, 6, f.h, u1⟩, ⟨54, 6, f.c0, u2⟩, ⟨48, 6, f.c1, u3⟩, ⟨42, 6, f.c2, u4⟩, ⟨36, 6, f.c3, u5⟩, ⟨33, 3, f.mask, u6⟩, ⟨32, 1, f.s, u7⟩, ⟨27, 5, f.sub, u8⟩, ⟨0, 27, f.low, Use.no⟩]

/-- The operand bits of format G. -/
def packG (f : FmtG) : Nat :=
  f.data * 2 ^ 66 + f.h * 2 ^ 60 + f.c0 * 2 ^ 54 + f.c1 * 2 ^ 48 + f.c2 * 2 ^ 42 + f.c3 * 2 ^ 36 + f.mask * 2 ^ 33 + f.s * 2 ^ 32 + f.sub * 2 ^ 27 + f.low

/-- The fields of format G read from the operand bits. -/
def unpackG (n : Nat) : FmtG :=
  ⟨n / 2 ^ 66 % 2 ^ 6, n / 2 ^ 60 % 2 ^ 6, n / 2 ^ 54 % 2 ^ 6, n / 2 ^ 48 % 2 ^ 6, n / 2 ^ 42 % 2 ^ 6, n / 2 ^ 36 % 2 ^ 6, n / 2 ^ 33 % 2 ^ 3, n / 2 ^ 32 % 2 ^ 1, n / 2 ^ 27 % 2 ^ 5, n % 2 ^ 27⟩

/-- Every field of format G fits its width. -/
def inRangeG (f : FmtG) : Bool :=
  decide (f.data < 2 ^ 6) && decide (f.h < 2 ^ 6) && decide (f.c0 < 2 ^ 6) && decide (f.c1 < 2 ^ 6) && decide (f.c2 < 2 ^ 6) && decide (f.c3 < 2 ^ 6) && decide (f.mask < 2 ^ 3) && decide (f.s < 2 ^ 1) && decide (f.sub < 2 ^ 5) && decide (f.low < 2 ^ 27)

end Form

def Eng.any : List Eng := [.a, .x, .d]

open Use Form in
/-- The form of each word (R81 and the encoding tables); an event has none. -/
def Instr.form : Instr → Option Form
  | .nop q f => some ⟨0x00, q, packA f, Eng.any,
      fieldsA f no no no no no no no no⟩
  | .add q f => some ⟨0x01, q, packA f, Eng.any,
      fieldsA f any any any no no no no no⟩
  | .sub q f => some ⟨0x03, q, packA f, Eng.any,
      fieldsA f any any any no no no no no⟩
  | .mul q f => some ⟨0x04, q, packA f, Eng.any,
      fieldsA f any any any no no no no no⟩
  | .mulh q f => some ⟨0x05, q, packA f, Eng.any,
      fieldsA f any any any no no no no (lt 2)⟩
  | .div q f => some ⟨0x06, q, packA f, Eng.any,
      fieldsA f any any any no no no no (lt 2)⟩
  | .rem q f => some ⟨0x07, q, packA f, Eng.any,
      fieldsA f any any any no no no no (lt 2)⟩
  | .and q f => some ⟨0x08, q, packA f, Eng.any,
      fieldsA f any any any no no no no no⟩
  | .or q f => some ⟨0x09, q, packA f, Eng.any,
      fieldsA f any any any no no no no no⟩
  | .xor q f => some ⟨0x0A, q, packA f, Eng.any,
      fieldsA f any any any no no no no no⟩
  | .shl q f => some ⟨0x0E, q, packA f, Eng.any,
      fieldsA f any any any no no no no no⟩
  | .shr q f => some ⟨0x0F, q, packA f, Eng.any,
      fieldsA f any any any no no no no no⟩
  | .sar q f => some ⟨0x10, q, packA f, Eng.any,
      fieldsA f any any any no no no no no⟩
  | .rol q f => some ⟨0x11, q, packA f, Eng.any,
      fieldsA f any any any no no no no no⟩
  | .clz q f => some ⟨0x16, q, packA f, Eng.any,
      fieldsA f any any no no no no no no⟩
  | .popc q f => some ⟨0x17, q, packA f, Eng.any,
      fieldsA f any any no no no no no no⟩
  | .min q f => some ⟨0x18, q, packA f, Eng.any,
      fieldsA f any any any no no no no (lt 2)⟩
  | .max q f => some ⟨0x19, q, packA f, Eng.any,
      fieldsA f any any any no no no no (lt 2)⟩
  | .cmp q f => some ⟨0x1A, q, packA f, Eng.any,
      fieldsA f any any any no no no no (lt 12)⟩
  | .mov q f => some ⟨0x1C, q, packA f, Eng.any,
      fieldsA f any any no no no no no no⟩
  | .qput q f => some ⟨0x29, q, packA f, Eng.any,
      fieldsA f (lt 8) any no no no no no (lt 4)⟩
  | .qget q f => some ⟨0x2A, q, packA f, Eng.any,
      fieldsA f any (lt 8) no no no no no (lt 4)⟩
  | .addi q f => some ⟨0x02, q, packB f, Eng.any,
      fieldsB f any any no any any⟩
  | .andi q f => some ⟨0x0B, q, packB f, Eng.any,
      fieldsB f any any no any any⟩
  | .ori q f => some ⟨0x0C, q, packB f, Eng.any,
      fieldsB f any any no any any⟩
  | .xori q f => some ⟨0x0D, q, packB f, Eng.any,
      fieldsB f any any no any any⟩
  | .shli q f => some ⟨0x12, q, packB f, Eng.any,
      fieldsB f any any no any (holds (f.imm64 < 64))⟩
  | .shri q f => some ⟨0x13, q, packB f, Eng.any,
      fieldsB f any any no any (holds (f.imm64 < 64))⟩
  | .sari q f => some ⟨0x14, q, packB f, Eng.any,
      fieldsB f any any no any (holds (f.imm64 < 64))⟩
  | .roli q f => some ⟨0x15, q, packB f, Eng.any,
      fieldsB f any any no any (holds (f.imm64 < 64))⟩
  | .cmpi q f => some ⟨0x1B, q, packB f, Eng.any,
      fieldsB f any any (lt 12) any any⟩
  | .movi q f => some ⟨0x1D, q, packB f, Eng.any,
      fieldsB f any no no any any⟩
  | .lea q f => some ⟨0x1E, q, packB f, Eng.any,
      fieldsB f any any (lt 5) any any⟩
  | .ext q f => some ⟨0x1F, q, packB f, Eng.any,
      fieldsB f any any (lt 2) no (fieldPos)⟩
  | .ins q f => some ⟨0x20, q, packB f, Eng.any,
      fieldsB f any any no no (fieldPos)⟩
  | .spill q f => some ⟨0x21, q, packB f, Eng.any,
      fieldsB f no any no any any⟩
  | .fill q f => some ⟨0x22, q, packB f, Eng.any,
      fieldsB f any no no any any⟩
  | .lps q f => some ⟨0x23, q, packB f, Eng.any,
      fieldsB f (lt 6) any any any (holds (q.sel != Sel.endloop))⟩
  | .lpst q f => some ⟨0x24, q, packB f, Eng.any,
      fieldsB f (from1 64) (lt 6) no any (holds (f.strideOk = true))⟩
  | .sbase q f => some ⟨0x25, q, packB f, Eng.any,
      fieldsB f no any (lt 2) any any⟩
  | .rdcyc q f => some ⟨0x26, q, packF f, Eng.any,
      fieldsF f any no no no (lt 2)⟩
  | .ctlrd q f => some ⟨0x27, q, packF f, Eng.any,
      fieldsF f any no csel no no⟩
  | .ctlwr q f => some ⟨0x28, q, packF f, Eng.any,
      fieldsF f no (if f.sub = 0 then any else no) csel (if f.sub = 0 then no else any) (oneOf [0, 4, 5, 6, 7])⟩
  | .mbrd q f => some ⟨0x2B, q, packF f, Eng.any,
      fieldsF f any (lt 4) no no (lt 2)⟩
  | .lcrd q f => some ⟨0x2C, q, packF f, Eng.any,
      fieldsF f any (lt 6) no no (lt 2)⟩
  | .trap q f => some ⟨0x2D, q, packF f, Eng.any,
      fieldsF f no no no any no⟩
  | .brk q f => some ⟨0x2E, q, packF f, Eng.any,
      fieldsF f no no no any no⟩
  | .eret q f => some ⟨0x2F, q, packF f, Eng.any,
      fieldsF f no no no no (lt 2)⟩
  | .vadd q f => some ⟨0x40, q, packA f, [.x],
      fieldsA f any any any no (lt 8) arith (rndIf (isFloatTag f.fmt)) (bitsIf (isIntTag f.fmt) 1)⟩
  | .vsub q f => some ⟨0x41, q, packA f, [.x],
      fieldsA f any any any no (lt 8) arith (rndIf (isFloatTag f.fmt)) (bitsIf (isIntTag f.fmt) 1)⟩
  | .vmul q f => some ⟨0x42, q, packA f, [.x],
      fieldsA f any any any no (lt 8) arith (rndIf (isFloatTag f.fmt)) (bitsIf (isIntTag f.fmt) 1)⟩
  | .vfma q f => some ⟨0x43, q, packA f, [.x],
      fieldsA f any any any any (lt 8) arith (rndIf (isFloatTag f.fmt)) (bits 3)⟩
  | .vmin q f => some ⟨0x44, q, packA f, [.x],
      fieldsA f any any any no (lt 8) arith no (bitsIf (isIntTag f.fmt) 1)⟩
  | .vmax q f => some ⟨0x45, q, packA f, [.x],
      fieldsA f any any any no (lt 8) arith no (bitsIf (isIntTag f.fmt) 1)⟩
  | .vdiv q f => some ⟨0x46, q, packA f, [.x],
      fieldsA f any any any no (lt 8) floats (lt 6) no⟩
  | .vabs q f => some ⟨0x47, q, packA f, [.x],
      fieldsA f any any no no (lt 8) arith no (bitsIf (isIntTag f.fmt) 1)⟩
  | .vneg q f => some ⟨0x48, q, packA f, [.x],
      fieldsA f any any no no (lt 8) arith no (bitsIf (isIntTag f.fmt) 1)⟩
  | .vcmp q f => some ⟨0x49, q, packA f, [.x],
      fieldsA f (from1 8) any any no (lt 8) (oneOf [1, 8]) no (vcmpCc f.fmt)⟩
  | .vsel q f => some ⟨0x4A, q, packA f, [.x],
      fieldsA f any any any (lt 8) (lt 8) anyTag no no⟩
  | .vand q f => some ⟨0x4B, q, packA f, [.x],
      fieldsA f any any any no (lt 8) anyTag no no⟩
  | .vor q f => some ⟨0x4C, q, packA f, [.x],
      fieldsA f any any any no (lt 8) anyTag no no⟩
  | .vxor q f => some ⟨0x4D, q, packA f, [.x],
      fieldsA f any any any no (lt 8) anyTag no no⟩
  | .vshl q f => some ⟨0x4E, q, packA f, [.x],
      fieldsA f any any any no (lt 8) (oneOf [8, 9]) no no⟩
  | .vshr q f => some ⟨0x4F, q, packA f, [.x],
      fieldsA f any any any no (lt 8) (oneOf [8, 9]) no no⟩
  | .vsar q f => some ⟨0x50, q, packA f, [.x],
      fieldsA f any any any no (lt 8) (oneOf [8, 9]) no no⟩
  | .vcvt q f => some ⟨0x51, q, packA f, [.x],
      fieldsA f any any no srcTag (lt 8) anyTag (lt 6) (holds (f.sub / 16 = 0 ∨ f.fmt = 0x17))⟩
  | .vsqrt q f => some ⟨0x52, q, packA f, [.x],
      fieldsA f any any no no (lt 8) floats (lt 6) no⟩
  | .vrsq q f => some ⟨0x53, q, packA f, [.x],
      fieldsA f any any no no (lt 8) floats (lt 6) no⟩
  | .vrcp q f => some ⟨0x54, q, packA f, [.x],
      fieldsA f any any no no (lt 8) floats (lt 6) no⟩
  | .vexp2 q f => some ⟨0x55, q, packA f, [.x],
      fieldsA f any any no no (lt 8) floats (lt 6) no⟩
  | .vlog2 q f => some ⟨0x56, q, packA f, [.x],
      fieldsA f any any no no (lt 8) floats (lt 6) no⟩
  | .vredsum q f => some ⟨0x57, q, packA f, [.x],
      fieldsA f any any no no (lt 8) arith (rndIf (isFloatTag f.fmt)) (bits (if isIntTag f.fmt then 3 else 1))⟩
  | .vredmin q f => some ⟨0x58, q, packA f, [.x],
      fieldsA f any any no no (lt 8) arith no (bits (vredMask f))⟩
  | .vredmax q f => some ⟨0x59, q, packA f, [.x],
      fieldsA f any any no no (lt 8) arith no (bits (vredMask f))⟩
  | .vscan q f => some ⟨0x5A, q, packA f, [.x],
      fieldsA f any any no no (lt 8) arith (rndIf (isFloatTag f.fmt && f.sub / 2 % 4 == 0)) (vscanSub f)⟩
  | .vperm q f => some ⟨0x5B, q, packA f, [.x],
      fieldsA f any any any no (lt 8) no no no⟩
  | .vshift q f => some ⟨0x5C, q, packA f, [.x],
      fieldsA f any any no no (lt 8) no no (bitsLt 7 6)⟩
  | .vmov q f => some ⟨0x5D, q, packA f, [.x],
      fieldsA f any (if f.sub % 2 = 1 then lt 16 else any) no no (lt 8) no no (bits 1)⟩
  | .vbcast q f => some ⟨0x5E, q, packA f, [.x],
      fieldsA f any any no no (lt 8) unscaled no no⟩
  | .vext q f => some ⟨0x5F, q, packA f, [.x],
      fieldsA f any any any no no unscaled no (bits 1)⟩
  | .vidx q f => some ⟨0x60, q, packA f, [.x],
      fieldsA f any any no no (lt 8) (oneOf [8]) no no⟩
  | .kand q f => some ⟨0x61, q, packA f, [.x],
      fieldsA f (from1 8) (lt 8) (lt 8) no no no no no⟩
  | .kor q f => some ⟨0x62, q, packA f, [.x],
      fieldsA f (from1 8) (lt 8) (lt 8) no no no no no⟩
  | .kxor q f => some ⟨0x63, q, packA f, [.x],
      fieldsA f (from1 8) (lt 8) (lt 8) no no no no no⟩
  | .knot q f => some ⟨0x64, q, packA f, [.x],
      fieldsA f (from1 8) (lt 8) no no no no no no⟩
  | .kpopc q f => some ⟨0x65, q, packA f, [.x],
      fieldsA f any (lt 8) no no no no no no⟩
  | .cspush q f => some ⟨0x66, q, packA f, [.x],
      fieldsA f no any no no (lt 8) unscaled no (bits 3)⟩
  | .cspop q f => some ⟨0x67, q, packA f, [.x],
      fieldsA f any no (lt 8) no no unscaled no (bits 15)⟩
  | .mld q f => some ⟨0x80, q, packC f, [.a],
      fieldsC f (lt 16) any no tileTag (oneOf [0]) any no any any no⟩
  | .mma q f => some ⟨0x81, q, packD f, [.x],
      fieldsD f no (lt 16) (lt 16) any (lt 3) any no no any (bits 3)⟩
  | .mmaq q f => some ⟨0x82, q, packD f, [.x],
      fieldsD f no (lt 16) (lt 16) any (lt 3) any (oneOf [1]) no any (bits 3)⟩
  | .mmac q f => some ⟨0x83, q, packD f, [.x],
      fieldsD f (holds (f.md < 16 ∧ f.md ≠ f.ma ∧ f.md ≠ f.mb)) (lt 16) (lt 16) any (lt 3) any no no any (bits 7)⟩
  | .mdrain q f => some ⟨0x84, q, packD f, [.d],
      fieldsD f srcTag any any any no no no (holds (f.frec = 0 ∨ f.sub / 8 % 2 = 0)) no (bits 15)⟩
  | .mzero q f => some ⟨0x85, q, packD f, [.x, .d],
      fieldsD f (if f.sub % 2 = 1 then lt 16 else no) (if f.sub % 2 = 0 then any else no) no (if f.sub % 2 = 0 then any else no) no no no no no (bits 1)⟩
  | .mperturb q f => some ⟨0x89, q, packD f, [.x],
      fieldsD f no any no any no no no no no no⟩
  | .mlease q f => some ⟨0x86, q, packF f, [.x],
      fieldsF f no no no no (bits 1)⟩
  | .mfree q f => some ⟨0x87, q, packF f, [.x],
      fieldsF f no no no no (bits 1)⟩
  | .mfold q f => some ⟨0x88, q, packF f, [.x],
      fieldsF f any (if f.sub = 3 then no else any) no no (lt 4)⟩
  | .ld q f => some ⟨0xA0, q, packC f, [.a, .d],
      fieldsC f any any no no (colRule f 1) any any no any (bits 3)⟩
  | .st q f => some ⟨0xA1, q, packC f, [.a, .d],
      fieldsC f any any no no (colRule f 1) any any no any (bits 2)⟩
  | .vld q f => some ⟨0xA2, q, packC f, [.a],
      fieldsC f (lt 8) any no anyTag (colRule f 1) any no no any (bits 2)⟩
  | .vst q f => some ⟨0xA3, q, packC f, [.d],
      fieldsC f (lt 8) any no anyTag (colRule f 1) any no no any (bits 2)⟩
  | .nst q f => some ⟨0xA4, q, packC f, [.d],
      fieldsC f any any no no (colRule f 1) any no no any (bits 3)⟩
  | .act q f => some ⟨0xA5, q, packC f, [.a],
      fieldsC f no any no no (colRule f 1) no no no any (bits 6)⟩
  | .pre q f => some ⟨0xA6, q, packC f, [.a],
      fieldsC f no any no no (colRule f 1) no no no any (bits 6)⟩
  | .ref q f => some ⟨0xA7, q, packC f, [.a],
      fieldsC f no any no no (colRule f 1) no no no any (bits 6)⟩
  | .refhold q f => some ⟨0xA8, q, packF f, [.a],
      fieldsF f any no no no no⟩
  | .refrel q f => some ⟨0xA9, q, packF f, [.a],
      fieldsF f no no no no no⟩
  | .hdef q f => some ⟨0xC0, q, packG f, [.a],
      fieldsG f (if f.sub % 2 = 1 then no else any) (lt 16) any no no no no no (bits 1)⟩
  | .hld q f => some ⟨0xC1, q, packG f, [.a],
      fieldsG f (if f.sub / 2 % 2 = 1 then lt 8 else any) (lt 16) any any any any no any (bits (if f.sub / 2 % 2 = 1 then 2 else 3))⟩
  | .hst q f => some ⟨0xC2, q, packG f, [.d],
      fieldsG f (if f.sub / 2 % 2 = 1 then lt 8 else any) (lt 16) any any any any no any (bits 2)⟩
  | .relay q f => some ⟨0xC3, q, packG f, [.a],
      fieldsG f any (lt 16) any any (if f.sub % 2 = 1 then any else no) no no no (bits 1)⟩
  | .hwait q f => some ⟨0xC4, q, packG f, Eng.any,
      fieldsG f any (lt 16) no no no no no no (bits 1)⟩
  | .hquery q f => some ⟨0xC5, q, packG f, Eng.any,
      fieldsG f any (lt 16) no no no no no no (bits 7)⟩
  | .hclose q f => some ⟨0xC6, q, packG f, [.a],
      fieldsG f no (lt 16) no no no no no no (bitsLt 3 3)⟩
  | .copy q f => some ⟨0xD0, q, packE f, [.a],
      fieldsE f any any any (if f.sub % 2 = 1 then any else no) (lt 2) (ctgt f) any any (lt 5) any any (bits (if f.sub % 2 = 1 then 3 else 1))⟩
  | .chain q f => some ⟨0xD1, q, packE f, [.a],
      fieldsE f no any no no (lt 2) (ctgt f) any any (lt 5) no no no⟩
  | .gather q f => some ⟨0xD2, q, packE f, [.a],
      fieldsE f any any any any (lt 2) (ctgt f) any any (lt 5) any any (bits 3)⟩
  | .scatter q f => some ⟨0xD3, q, packE f, [.a],
      fieldsE f any any any any (lt 2) (ctgt f) any any (lt 5) any any (bits 3)⟩
  | .cpyx q f => some ⟨0xD4, q, packE f, [.a],
      fieldsE f any any any any (lt 2) (ctgt f) any any (lt 5) any any no⟩
  | .stbind q f => some ⟨0xD5, q, packE f, [.a],
      fieldsE f no any any any (oneOf [2]) (ctgt f) any any (lt 5) any any (bits 1)⟩
  | .aatom q f => some ⟨0xD6, q, packE f, [.a, .d],
      fieldsE f any any any (if f.cmpl = 0 then lt 4 else no) (oneOf [0, 2]) (if f.cmpl = 0 then no else ctgt f) any any (lt 5) no any (holds (f.sub % 16 < (if f.sub / 16 = 1 then 10 else 13)))⟩
  | .atom q f => some ⟨0xE0, q, packC f, [.a, .d],
      fieldsC f any any any (order [0, 1, 2, 3]) (colRule f 4) no (atomSz f) any any (atomCode 0 12)⟩
  | .red q f => some ⟨0xE1, q, packC f, [.a, .d],
      fieldsC f any any any (order [0, 2]) (colRule f 4) no (atomSz f) (if f.sub % 16 = 13 then any else no) any (atomCode 2 13)⟩
  | .seal q f => some ⟨0xE2, q, packC f, [.a, .d],
      fieldsC f any any any (order [0, 1, 2, 3]) (colRule f 4) no (oneOf [2]) any any (bits 16)⟩
  | .fence q f => some ⟨0xE3, q, packF f, Eng.any,
      fieldsF f no no no no (holds (f.sub / 4 < 5))⟩
  | .mark q f => some ⟨0xE4, q, packF f, Eng.any,
      fieldsF f no no no no no⟩
  | .binit q f => some ⟨0xE8, q, packC f, Eng.any,
      fieldsC f no any no (order [0]) (colRule f 4) no no any any (bits 16)⟩
  | .arrive q f => some ⟨0xE9, q, packC f, Eng.any,
      fieldsC f any any no (order [0, 2]) (colRule f 4) no no any any (bits 16)⟩
  | .arrdrop q f => some ⟨0xEA, q, packC f, Eng.any,
      fieldsC f any any no (order [0, 2]) (colRule f 4) no no any any (bits 16)⟩
  | .bexpect q f => some ⟨0xEB, q, packC f, Eng.any,
      fieldsC f any any no (order [0, 2]) (colRule f 4) no no any any (bits 16)⟩
  | .btest q f => some ⟨0xEC, q, packC f, Eng.any,
      fieldsC f any any no (order [0, 1]) (colRule f 4) no no any any (bits 16)⟩
  | .bwait q f => some ⟨0xED, q, packC f, Eng.any,
      fieldsC f any any no (order [0, 1]) (colRule f 4) no no any any (bits 16)⟩
  | .popw q f => some ⟨0xF0, q, packF f, [.a],
      fieldsF f any no no no (bits 3)⟩
  | .enqw q f => some ⟨0xF1, q, packF f, Eng.any,
      fieldsF f no any no no (bits 1)⟩
  | .yield q f => some ⟨0xF2, q, packF f, Eng.any,
      fieldsF f no no no no ({ bits 1 with ok := fun _ => q.sel == Sel.safe })⟩
  | .enq q f => some ⟨0xF3, q, packF f, Eng.any,
      fieldsF f any any no (bits 0xFFF) (bits 1)⟩
  | .gsig q f => some ⟨0xF4, q, packF f, Eng.any,
      fieldsF f any any no (bits 3) (bits 1)⟩
  | .csSharedRetry .. => none
  | .wordComplete .. => none
  | .tokenAvailable .. => none
  | .sectionDispatch .. => none
  | .sectionRetire .. => none
  | .scheduleMiss .. => none
  | .messageLand .. => none
  | .loadPerformed .. => none
  | .storeReachPort .. => none
  | .writeQueueDrain .. => none
  | .rowOperationEnd .. => none
  | .backgroundRefresh .. => none
  | .forcedRefresh .. => none
  | .rowSpareCopyVerify .. => none
  | .rowspareStart .. => none
  | .bedJointFailure .. => none
  | .bypassGrant .. => none
  | .bypassFailure .. => none
  | .leaseGrant .. => none
  | .thermalThrottle .. => none
  | .thermalTrip .. => none
  | .ageingMarginLow .. => none
  | .opPointChange .. => none
  | .channelCommandStart .. => none
  | .translationFault .. => none
  | .commandComplete .. => none
  | .engineFault .. => none
  | .chainRecord .. => none
  | .chainRecordPoll .. => none
  | .streamPortVector .. => none
  | .groupPlace .. => none
  | .codeStoreCopyComplete .. => none
  | .codeBlockFetch .. => none
  | .watchdog .. => none
  | .forcedFullSave .. => none
  | .saveComplete .. => none
  | .migrationComplete .. => none
  | .groupRetire .. => none
  | .launchCheck .. => none
  | .launchRetire .. => none
  | .poolTerminate .. => none
  | .doorbellAdvance .. => none
  | .saveFrameWait .. => none
  | .pageWalk .. => none
  | .pfrespRetry .. => none
  | .pfrespRefusePageFault .. => none
  | .pfrespRefusePermission .. => none
  | .relayoutTileRetry .. => none
  | .pginvPage .. => none
  | .quarantine .. => none
  | .scrub .. => none
  | .release .. => none
  | .relayoutTileMoving .. => none
  | .relayoutTileNew .. => none
  | .relayoutComplete .. => none
  | .handleEntryFree .. => none
  | .barrierUpdate .. => none
  | .barrierArrivalReach .. => none
  | .hostRead .. => none
  | .hostWrite .. => none
  | .hostMessage .. => none
  | .hostAccessTimeout .. => none
  | .linkTrained .. => none
  | .portTrained .. => none
  | .wavelengthLoss .. => none
  | .lightLoss .. => none
  | .portDrained .. => none
  | .flitReceive .. => none
  | .flitNak .. => none
  | .routeWrite .. => none
  | .pkgidWrite .. => none
  | .collgo .. => none
  | .collectiveComplete .. => none
  | .evctlArm .. => none
  | .gctlPreempt .. => none
  | .gctlMigrate .. => none
  | .gregdataWrite .. => none
  | .rngseedWrite .. => none
  | .qmapWrite .. => none
  | .twinWrite .. => none
  | .purge .. => none
  | .purgeComplete .. => none
  | .fwrst .. => none
  | .microPcRecordArrival .. => none
  | .auditReplayPlace .. => none
  | .auditNoColumn .. => none
  | .auditCompare .. => none
  | .remapGo .. => none
  | .columnRetired .. => none
  | .block .. => none
  | .quiesce .. => none
  | .unblock .. => none
  | .qwake .. => none
  | .quadDrainComplete .. => none
  | .quadRailOff .. => none
  | .quadWakeComplete .. => none
  | .attestReport .. => none
  | .attestRemap .. => none
  | .identityStoreRead .. => none
  | .bringUp .. => none
  | .logicClockStop .. => none
  | .logicRailUp .. => none
  | .logicClockStart .. => none
  | .identityStoreWrite .. => none
  | .capStep .. => none
  | .queueAdmit .. => none
  | .queueActive .. => none
  | .queueSliceEnd .. => none
  | .queuePark .. => none
  | .queueUnpark .. => none
  | .launch .. => none
  | .wait .. => none
  | .waitReread .. => none
  | .waitTimeout .. => none
  | .signal .. => none
  | .markPacket .. => none
  | .evict .. => none
  | .holdTimeout .. => none
  | .doorbellHalt .. => none
  | .doorbellResume .. => none
  | .doorbellReset .. => none
  | .create .. => none
  | .switchout .. => none
  | .switchin .. => none
  | .teardown .. => none
  | .switchoutDrainComplete .. => none
  | .switchinRestoreComplete .. => none
  | .teardownComplete .. => none
  | .faultRecordWrite .. => none
  | .pginvContext .. => none
  | .pginvAll .. => none
  | .invalidationComplete .. => none
  | .scrubComplete .. => none
  | .hostTrainingRequest .. => none
  | .lnkctlTrain .. => none
  | .lnkctlDrain .. => none
  | .lnkctlDown .. => none
  | .linkLaneFailure .. => none
  | .linkDrained .. => none
  | .portctlTrain .. => none
  | .portctlDrain .. => none
  | .portctlDown .. => none
  | .latchOpen .. => none
  | .latchClose .. => none
  | .evctlFwdone .. => none
  | .evictReserveAccept .. => none
  | .quiesceComplete .. => none
  | .streamingComplete .. => none
  | .routeDrainComplete .. => none
  | .evictionFail .. => none
  | .remapComplete .. => none

/-- The selector's code (R61). -/
def Sel.code : Sel → Nat
  | .next => 0 | .endloop => 1 | .safe => 2 | .exit => 3 | .j => 4 | .jc => 5
  | .jnc => 6 | .ji => 7 | .jm => 8 | .call => 9 | .ret => 10 | .done => 11

/-- The selector of a code; 12 to 15 are none (R61). -/
def Sel.ofCode : Nat → Option Sel
  | 0 => some .next | 1 => some .endloop | 2 => some .safe | 3 => some .exit | 4 => some .j | 5 => some .jc
  | 6 => some .jnc | 7 => some .ji | 8 => some .jm | 9 => some .call | 10 => some .ret | 11 => some .done
  | _ => none

/-- The selectors that use TGT (R61, R62). -/
def Sel.usesTgt : Sel → Bool
  | .j | .jc | .jnc | .call | .ji | .jm => true
  | .next | .endloop | .safe | .exit | .ret | .done => false

namespace Seq

/-- The sixteen sequencing bits, [95:80] of the word (R59). -/
def pack (q : Seq) : Nat :=
  q.sel.code * 2 ^ 12 + q.popp.toNat * 2 ^ 11 + q.popn.toNat * 2 ^ 10 + q.pushp.toNat * 2 ^ 9
    + q.pushn.toNat * 2 ^ 8 + q.fl * 2 ^ 6 + q.lvl * 2 ^ 3 + q.tgt

/-- The sequencing fields read from their sixteen bits. -/
def unpack (n : Nat) : Option Seq :=
  (Sel.ofCode (n / 2 ^ 12 % 2 ^ 4)).map fun sel =>
    ⟨sel, n / 2 ^ 11 % 2 == 1, n / 2 ^ 10 % 2 == 1, n / 2 ^ 9 % 2 == 1, n / 2 ^ 8 % 2 == 1,
      n / 2 ^ 6 % 2 ^ 2, n / 2 ^ 3 % 2 ^ 3, n % 2 ^ 3⟩

/-- Every sequencing field fits its width. -/
def inRange (q : Seq) : Bool := decide (q.fl < 4) && decide (q.lvl < 8) && decide (q.tgt < 8)

/-- The uses of the sequencing fields: LVL belongs to FL (R64), TGT to the selectors that go to a target (R62), and the
token bits of TRAP and BREAK are reserved (R140). -/
def fields (q : Seq) (opc : Nat) : List FieldUse :=
  [⟨83, 3, q.lvl, if q.fl = 0 then Use.no else Use.lt 6⟩,
   ⟨80, 3, q.tgt, if q.sel.usesTgt then Use.any else Use.no⟩,
   ⟨88, 4, q.pushn.toNat + 2 * q.pushp.toNat + 4 * q.popn.toNat + 8 * q.popp.toNat,
     if opc = 0x2D ∨ opc = 0x2E then Use.no else Use.any⟩]

end Seq

/-- The word of a form: sequencing fields, opcode, operand bits (R59). -/
def Form.word (w : Form) : Nat := w.seq.pack * 2 ^ 80 + w.opc * 2 ^ 72 + w.payload

/-- The fields of a word, sequencing fields included. -/
def Form.uses (w : Form) : List FieldUse := w.seq.fields w.opc ++ w.fields

/-- The defined bits of a field hold a value that its table does not list (R60). -/
def FieldUse.bad (u : FieldUse) : Bool := !u.rule.ok (u.val &&& u.rule.mask)

/-- The reserved bits of a field that are set, at their place in the word (R60). -/
def FieldUse.rsv (u : FieldUse) : Nat := (u.val - (u.val &&& u.rule.mask)) * 2 ^ u.off

/-- A word that R82 step 1 rejects for what can be seen from the word alone. -/
def Form.illegal (w : Form) : Bool := w.uses.any FieldUse.bad

/-- The set reserved bits of a word (R82 step 2). -/
def Form.reserved (w : Form) : Nat := w.uses.foldl (fun n u => n ||| u.rsv) 0

/-- The sequencing and operand fields of a word fit their widths. -/
def Instr.inRange : Instr → Bool
  | .nop q f => q.inRange && Form.inRangeA f
  | .add q f => q.inRange && Form.inRangeA f
  | .sub q f => q.inRange && Form.inRangeA f
  | .mul q f => q.inRange && Form.inRangeA f
  | .mulh q f => q.inRange && Form.inRangeA f
  | .div q f => q.inRange && Form.inRangeA f
  | .rem q f => q.inRange && Form.inRangeA f
  | .and q f => q.inRange && Form.inRangeA f
  | .or q f => q.inRange && Form.inRangeA f
  | .xor q f => q.inRange && Form.inRangeA f
  | .shl q f => q.inRange && Form.inRangeA f
  | .shr q f => q.inRange && Form.inRangeA f
  | .sar q f => q.inRange && Form.inRangeA f
  | .rol q f => q.inRange && Form.inRangeA f
  | .clz q f => q.inRange && Form.inRangeA f
  | .popc q f => q.inRange && Form.inRangeA f
  | .min q f => q.inRange && Form.inRangeA f
  | .max q f => q.inRange && Form.inRangeA f
  | .cmp q f => q.inRange && Form.inRangeA f
  | .mov q f => q.inRange && Form.inRangeA f
  | .qput q f => q.inRange && Form.inRangeA f
  | .qget q f => q.inRange && Form.inRangeA f
  | .addi q f => q.inRange && Form.inRangeB f
  | .andi q f => q.inRange && Form.inRangeB f
  | .ori q f => q.inRange && Form.inRangeB f
  | .xori q f => q.inRange && Form.inRangeB f
  | .shli q f => q.inRange && Form.inRangeB f
  | .shri q f => q.inRange && Form.inRangeB f
  | .sari q f => q.inRange && Form.inRangeB f
  | .roli q f => q.inRange && Form.inRangeB f
  | .cmpi q f => q.inRange && Form.inRangeB f
  | .movi q f => q.inRange && Form.inRangeB f
  | .lea q f => q.inRange && Form.inRangeB f
  | .ext q f => q.inRange && Form.inRangeB f
  | .ins q f => q.inRange && Form.inRangeB f
  | .spill q f => q.inRange && Form.inRangeB f
  | .fill q f => q.inRange && Form.inRangeB f
  | .lps q f => q.inRange && Form.inRangeB f
  | .lpst q f => q.inRange && Form.inRangeB f
  | .sbase q f => q.inRange && Form.inRangeB f
  | .rdcyc q f => q.inRange && Form.inRangeF f
  | .ctlrd q f => q.inRange && Form.inRangeF f
  | .ctlwr q f => q.inRange && Form.inRangeF f
  | .mbrd q f => q.inRange && Form.inRangeF f
  | .lcrd q f => q.inRange && Form.inRangeF f
  | .trap q f => q.inRange && Form.inRangeF f
  | .brk q f => q.inRange && Form.inRangeF f
  | .eret q f => q.inRange && Form.inRangeF f
  | .vadd q f => q.inRange && Form.inRangeA f
  | .vsub q f => q.inRange && Form.inRangeA f
  | .vmul q f => q.inRange && Form.inRangeA f
  | .vfma q f => q.inRange && Form.inRangeA f
  | .vmin q f => q.inRange && Form.inRangeA f
  | .vmax q f => q.inRange && Form.inRangeA f
  | .vdiv q f => q.inRange && Form.inRangeA f
  | .vabs q f => q.inRange && Form.inRangeA f
  | .vneg q f => q.inRange && Form.inRangeA f
  | .vcmp q f => q.inRange && Form.inRangeA f
  | .vsel q f => q.inRange && Form.inRangeA f
  | .vand q f => q.inRange && Form.inRangeA f
  | .vor q f => q.inRange && Form.inRangeA f
  | .vxor q f => q.inRange && Form.inRangeA f
  | .vshl q f => q.inRange && Form.inRangeA f
  | .vshr q f => q.inRange && Form.inRangeA f
  | .vsar q f => q.inRange && Form.inRangeA f
  | .vcvt q f => q.inRange && Form.inRangeA f
  | .vsqrt q f => q.inRange && Form.inRangeA f
  | .vrsq q f => q.inRange && Form.inRangeA f
  | .vrcp q f => q.inRange && Form.inRangeA f
  | .vexp2 q f => q.inRange && Form.inRangeA f
  | .vlog2 q f => q.inRange && Form.inRangeA f
  | .vredsum q f => q.inRange && Form.inRangeA f
  | .vredmin q f => q.inRange && Form.inRangeA f
  | .vredmax q f => q.inRange && Form.inRangeA f
  | .vscan q f => q.inRange && Form.inRangeA f
  | .vperm q f => q.inRange && Form.inRangeA f
  | .vshift q f => q.inRange && Form.inRangeA f
  | .vmov q f => q.inRange && Form.inRangeA f
  | .vbcast q f => q.inRange && Form.inRangeA f
  | .vext q f => q.inRange && Form.inRangeA f
  | .vidx q f => q.inRange && Form.inRangeA f
  | .kand q f => q.inRange && Form.inRangeA f
  | .kor q f => q.inRange && Form.inRangeA f
  | .kxor q f => q.inRange && Form.inRangeA f
  | .knot q f => q.inRange && Form.inRangeA f
  | .kpopc q f => q.inRange && Form.inRangeA f
  | .cspush q f => q.inRange && Form.inRangeA f
  | .cspop q f => q.inRange && Form.inRangeA f
  | .mld q f => q.inRange && Form.inRangeC f
  | .mma q f => q.inRange && Form.inRangeD f
  | .mmaq q f => q.inRange && Form.inRangeD f
  | .mmac q f => q.inRange && Form.inRangeD f
  | .mdrain q f => q.inRange && Form.inRangeD f
  | .mzero q f => q.inRange && Form.inRangeD f
  | .mperturb q f => q.inRange && Form.inRangeD f
  | .mlease q f => q.inRange && Form.inRangeF f
  | .mfree q f => q.inRange && Form.inRangeF f
  | .mfold q f => q.inRange && Form.inRangeF f
  | .ld q f => q.inRange && Form.inRangeC f
  | .st q f => q.inRange && Form.inRangeC f
  | .vld q f => q.inRange && Form.inRangeC f
  | .vst q f => q.inRange && Form.inRangeC f
  | .nst q f => q.inRange && Form.inRangeC f
  | .act q f => q.inRange && Form.inRangeC f
  | .pre q f => q.inRange && Form.inRangeC f
  | .ref q f => q.inRange && Form.inRangeC f
  | .refhold q f => q.inRange && Form.inRangeF f
  | .refrel q f => q.inRange && Form.inRangeF f
  | .hdef q f => q.inRange && Form.inRangeG f
  | .hld q f => q.inRange && Form.inRangeG f
  | .hst q f => q.inRange && Form.inRangeG f
  | .relay q f => q.inRange && Form.inRangeG f
  | .hwait q f => q.inRange && Form.inRangeG f
  | .hquery q f => q.inRange && Form.inRangeG f
  | .hclose q f => q.inRange && Form.inRangeG f
  | .copy q f => q.inRange && Form.inRangeE f
  | .chain q f => q.inRange && Form.inRangeE f
  | .gather q f => q.inRange && Form.inRangeE f
  | .scatter q f => q.inRange && Form.inRangeE f
  | .cpyx q f => q.inRange && Form.inRangeE f
  | .stbind q f => q.inRange && Form.inRangeE f
  | .aatom q f => q.inRange && Form.inRangeE f
  | .atom q f => q.inRange && Form.inRangeC f
  | .red q f => q.inRange && Form.inRangeC f
  | .seal q f => q.inRange && Form.inRangeC f
  | .fence q f => q.inRange && Form.inRangeF f
  | .mark q f => q.inRange && Form.inRangeF f
  | .binit q f => q.inRange && Form.inRangeC f
  | .arrive q f => q.inRange && Form.inRangeC f
  | .arrdrop q f => q.inRange && Form.inRangeC f
  | .bexpect q f => q.inRange && Form.inRangeC f
  | .btest q f => q.inRange && Form.inRangeC f
  | .bwait q f => q.inRange && Form.inRangeC f
  | .popw q f => q.inRange && Form.inRangeF f
  | .enqw q f => q.inRange && Form.inRangeF f
  | .yield q f => q.inRange && Form.inRangeF f
  | .enq q f => q.inRange && Form.inRangeF f
  | .gsig q f => q.inRange && Form.inRangeF f
  | .csSharedRetry .. => false
  | .wordComplete .. => false
  | .tokenAvailable .. => false
  | .sectionDispatch .. => false
  | .sectionRetire .. => false
  | .scheduleMiss .. => false
  | .messageLand .. => false
  | .loadPerformed .. => false
  | .storeReachPort .. => false
  | .writeQueueDrain .. => false
  | .rowOperationEnd .. => false
  | .backgroundRefresh .. => false
  | .forcedRefresh .. => false
  | .rowSpareCopyVerify .. => false
  | .rowspareStart .. => false
  | .bedJointFailure .. => false
  | .bypassGrant .. => false
  | .bypassFailure .. => false
  | .leaseGrant .. => false
  | .thermalThrottle .. => false
  | .thermalTrip .. => false
  | .ageingMarginLow .. => false
  | .opPointChange .. => false
  | .channelCommandStart .. => false
  | .translationFault .. => false
  | .commandComplete .. => false
  | .engineFault .. => false
  | .chainRecord .. => false
  | .chainRecordPoll .. => false
  | .streamPortVector .. => false
  | .groupPlace .. => false
  | .codeStoreCopyComplete .. => false
  | .codeBlockFetch .. => false
  | .watchdog .. => false
  | .forcedFullSave .. => false
  | .saveComplete .. => false
  | .migrationComplete .. => false
  | .groupRetire .. => false
  | .launchCheck .. => false
  | .launchRetire .. => false
  | .poolTerminate .. => false
  | .doorbellAdvance .. => false
  | .saveFrameWait .. => false
  | .pageWalk .. => false
  | .pfrespRetry .. => false
  | .pfrespRefusePageFault .. => false
  | .pfrespRefusePermission .. => false
  | .relayoutTileRetry .. => false
  | .pginvPage .. => false
  | .quarantine .. => false
  | .scrub .. => false
  | .release .. => false
  | .relayoutTileMoving .. => false
  | .relayoutTileNew .. => false
  | .relayoutComplete .. => false
  | .handleEntryFree .. => false
  | .barrierUpdate .. => false
  | .barrierArrivalReach .. => false
  | .hostRead .. => false
  | .hostWrite .. => false
  | .hostMessage .. => false
  | .hostAccessTimeout .. => false
  | .linkTrained .. => false
  | .portTrained .. => false
  | .wavelengthLoss .. => false
  | .lightLoss .. => false
  | .portDrained .. => false
  | .flitReceive .. => false
  | .flitNak .. => false
  | .routeWrite .. => false
  | .pkgidWrite .. => false
  | .collgo .. => false
  | .collectiveComplete .. => false
  | .evctlArm .. => false
  | .gctlPreempt .. => false
  | .gctlMigrate .. => false
  | .gregdataWrite .. => false
  | .rngseedWrite .. => false
  | .qmapWrite .. => false
  | .twinWrite .. => false
  | .purge .. => false
  | .purgeComplete .. => false
  | .fwrst .. => false
  | .microPcRecordArrival .. => false
  | .auditReplayPlace .. => false
  | .auditNoColumn .. => false
  | .auditCompare .. => false
  | .remapGo .. => false
  | .columnRetired .. => false
  | .block .. => false
  | .quiesce .. => false
  | .unblock .. => false
  | .qwake .. => false
  | .quadDrainComplete .. => false
  | .quadRailOff .. => false
  | .quadWakeComplete .. => false
  | .attestReport .. => false
  | .attestRemap .. => false
  | .identityStoreRead .. => false
  | .bringUp .. => false
  | .logicClockStop .. => false
  | .logicRailUp .. => false
  | .logicClockStart .. => false
  | .identityStoreWrite .. => false
  | .capStep .. => false
  | .queueAdmit .. => false
  | .queueActive .. => false
  | .queueSliceEnd .. => false
  | .queuePark .. => false
  | .queueUnpark .. => false
  | .launch .. => false
  | .wait .. => false
  | .waitReread .. => false
  | .waitTimeout .. => false
  | .signal .. => false
  | .markPacket .. => false
  | .evict .. => false
  | .holdTimeout .. => false
  | .doorbellHalt .. => false
  | .doorbellResume .. => false
  | .doorbellReset .. => false
  | .create .. => false
  | .switchout .. => false
  | .switchin .. => false
  | .teardown .. => false
  | .switchoutDrainComplete .. => false
  | .switchinRestoreComplete .. => false
  | .teardownComplete .. => false
  | .faultRecordWrite .. => false
  | .pginvContext .. => false
  | .pginvAll .. => false
  | .invalidationComplete .. => false
  | .scrubComplete .. => false
  | .hostTrainingRequest .. => false
  | .lnkctlTrain .. => false
  | .lnkctlDrain .. => false
  | .lnkctlDown .. => false
  | .linkLaneFailure .. => false
  | .linkDrained .. => false
  | .portctlTrain .. => false
  | .portctlDrain .. => false
  | .portctlDown .. => false
  | .latchOpen .. => false
  | .latchClose .. => false
  | .evctlFwdone .. => false
  | .evictReserveAccept .. => false
  | .quiesceComplete .. => false
  | .streamingComplete .. => false
  | .routeDrainComplete .. => false
  | .evictionFail .. => false
  | .remapComplete .. => false

/-- A well-formed word: its fields fit, none holds a value its table forbids, and no reserved bit is set (R60, R82). -/
def Instr.wf (i : Instr) : Bool :=
  i.inRange && match i.form with
    | some w => !w.illegal && w.reserved == 0
    | none => false

end Sys2Proof
end

