-- ==== Sys2Proof/Decode.lean ====
section
/-! DEFINITION. The decoder, total on any 96 bits (R59, R81, R82), with the encoder written from the same tables. A pattern
that is no instruction is refused by name. -/

namespace Sys2Proof

/-- Why a pattern is no instruction (R82 steps 1 and 2). -/
inductive DecodeError where
  /-- A selector, opcode or field value that names nothing: ILLEGAL_ENCODING. -/
  | illegal
  /-- A reserved bit is set; the lowest such bit is given: RESERVED_FIELD. -/
  | reserved (bit : Nat)
  deriving DecidableEq, Repr

/-- The instruction of an opcode (R81), from the sequencing fields and the operand bits; an opcode not listed has none. -/
def ofOpcode (opc : Nat) (q : Seq) (n : Nat) : Option Instr :=
  match opc with
  | 0x00 => some (.nop q (Form.unpackA n))
  | 0x01 => some (.add q (Form.unpackA n))
  | 0x03 => some (.sub q (Form.unpackA n))
  | 0x04 => some (.mul q (Form.unpackA n))
  | 0x05 => some (.mulh q (Form.unpackA n))
  | 0x06 => some (.div q (Form.unpackA n))
  | 0x07 => some (.rem q (Form.unpackA n))
  | 0x08 => some (.and q (Form.unpackA n))
  | 0x09 => some (.or q (Form.unpackA n))
  | 0x0A => some (.xor q (Form.unpackA n))
  | 0x0E => some (.shl q (Form.unpackA n))
  | 0x0F => some (.shr q (Form.unpackA n))
  | 0x10 => some (.sar q (Form.unpackA n))
  | 0x11 => some (.rol q (Form.unpackA n))
  | 0x16 => some (.clz q (Form.unpackA n))
  | 0x17 => some (.popc q (Form.unpackA n))
  | 0x18 => some (.min q (Form.unpackA n))
  | 0x19 => some (.max q (Form.unpackA n))
  | 0x1A => some (.cmp q (Form.unpackA n))
  | 0x1C => some (.mov q (Form.unpackA n))
  | 0x29 => some (.qput q (Form.unpackA n))
  | 0x2A => some (.qget q (Form.unpackA n))
  | 0x02 => some (.addi q (Form.unpackB n))
  | 0x0B => some (.andi q (Form.unpackB n))
  | 0x0C => some (.ori q (Form.unpackB n))
  | 0x0D => some (.xori q (Form.unpackB n))
  | 0x12 => some (.shli q (Form.unpackB n))
  | 0x13 => some (.shri q (Form.unpackB n))
  | 0x14 => some (.sari q (Form.unpackB n))
  | 0x15 => some (.roli q (Form.unpackB n))
  | 0x1B => some (.cmpi q (Form.unpackB n))
  | 0x1D => some (.movi q (Form.unpackB n))
  | 0x1E => some (.lea q (Form.unpackB n))
  | 0x1F => some (.ext q (Form.unpackB n))
  | 0x20 => some (.ins q (Form.unpackB n))
  | 0x21 => some (.spill q (Form.unpackB n))
  | 0x22 => some (.fill q (Form.unpackB n))
  | 0x23 => some (.lps q (Form.unpackB n))
  | 0x24 => some (.lpst q (Form.unpackB n))
  | 0x25 => some (.sbase q (Form.unpackB n))
  | 0x26 => some (.rdcyc q (Form.unpackF n))
  | 0x27 => some (.ctlrd q (Form.unpackF n))
  | 0x28 => some (.ctlwr q (Form.unpackF n))
  | 0x2B => some (.mbrd q (Form.unpackF n))
  | 0x2C => some (.lcrd q (Form.unpackF n))
  | 0x2D => some (.trap q (Form.unpackF n))
  | 0x2E => some (.brk q (Form.unpackF n))
  | 0x2F => some (.eret q (Form.unpackF n))
  | 0x40 => some (.vadd q (Form.unpackA n))
  | 0x41 => some (.vsub q (Form.unpackA n))
  | 0x42 => some (.vmul q (Form.unpackA n))
  | 0x43 => some (.vfma q (Form.unpackA n))
  | 0x44 => some (.vmin q (Form.unpackA n))
  | 0x45 => some (.vmax q (Form.unpackA n))
  | 0x46 => some (.vdiv q (Form.unpackA n))
  | 0x47 => some (.vabs q (Form.unpackA n))
  | 0x48 => some (.vneg q (Form.unpackA n))
  | 0x49 => some (.vcmp q (Form.unpackA n))
  | 0x4A => some (.vsel q (Form.unpackA n))
  | 0x4B => some (.vand q (Form.unpackA n))
  | 0x4C => some (.vor q (Form.unpackA n))
  | 0x4D => some (.vxor q (Form.unpackA n))
  | 0x4E => some (.vshl q (Form.unpackA n))
  | 0x4F => some (.vshr q (Form.unpackA n))
  | 0x50 => some (.vsar q (Form.unpackA n))
  | 0x51 => some (.vcvt q (Form.unpackA n))
  | 0x52 => some (.vsqrt q (Form.unpackA n))
  | 0x53 => some (.vrsq q (Form.unpackA n))
  | 0x54 => some (.vrcp q (Form.unpackA n))
  | 0x55 => some (.vexp2 q (Form.unpackA n))
  | 0x56 => some (.vlog2 q (Form.unpackA n))
  | 0x57 => some (.vredsum q (Form.unpackA n))
  | 0x58 => some (.vredmin q (Form.unpackA n))
  | 0x59 => some (.vredmax q (Form.unpackA n))
  | 0x5A => some (.vscan q (Form.unpackA n))
  | 0x5B => some (.vperm q (Form.unpackA n))
  | 0x5C => some (.vshift q (Form.unpackA n))
  | 0x5D => some (.vmov q (Form.unpackA n))
  | 0x5E => some (.vbcast q (Form.unpackA n))
  | 0x5F => some (.vext q (Form.unpackA n))
  | 0x60 => some (.vidx q (Form.unpackA n))
  | 0x61 => some (.kand q (Form.unpackA n))
  | 0x62 => some (.kor q (Form.unpackA n))
  | 0x63 => some (.kxor q (Form.unpackA n))
  | 0x64 => some (.knot q (Form.unpackA n))
  | 0x65 => some (.kpopc q (Form.unpackA n))
  | 0x66 => some (.cspush q (Form.unpackA n))
  | 0x67 => some (.cspop q (Form.unpackA n))
  | 0x80 => some (.mld q (Form.unpackC n))
  | 0x81 => some (.mma q (Form.unpackD n))
  | 0x82 => some (.mmaq q (Form.unpackD n))
  | 0x83 => some (.mmac q (Form.unpackD n))
  | 0x84 => some (.mdrain q (Form.unpackD n))
  | 0x85 => some (.mzero q (Form.unpackD n))
  | 0x89 => some (.mperturb q (Form.unpackD n))
  | 0x86 => some (.mlease q (Form.unpackF n))
  | 0x87 => some (.mfree q (Form.unpackF n))
  | 0x88 => some (.mfold q (Form.unpackF n))
  | 0xA0 => some (.ld q (Form.unpackC n))
  | 0xA1 => some (.st q (Form.unpackC n))
  | 0xA2 => some (.vld q (Form.unpackC n))
  | 0xA3 => some (.vst q (Form.unpackC n))
  | 0xA4 => some (.nst q (Form.unpackC n))
  | 0xA5 => some (.act q (Form.unpackC n))
  | 0xA6 => some (.pre q (Form.unpackC n))
  | 0xA7 => some (.ref q (Form.unpackC n))
  | 0xA8 => some (.refhold q (Form.unpackF n))
  | 0xA9 => some (.refrel q (Form.unpackF n))
  | 0xC0 => some (.hdef q (Form.unpackG n))
  | 0xC1 => some (.hld q (Form.unpackG n))
  | 0xC2 => some (.hst q (Form.unpackG n))
  | 0xC3 => some (.relay q (Form.unpackG n))
  | 0xC4 => some (.hwait q (Form.unpackG n))
  | 0xC5 => some (.hquery q (Form.unpackG n))
  | 0xC6 => some (.hclose q (Form.unpackG n))
  | 0xD0 => some (.copy q (Form.unpackE n))
  | 0xD1 => some (.chain q (Form.unpackE n))
  | 0xD2 => some (.gather q (Form.unpackE n))
  | 0xD3 => some (.scatter q (Form.unpackE n))
  | 0xD4 => some (.cpyx q (Form.unpackE n))
  | 0xD5 => some (.stbind q (Form.unpackE n))
  | 0xD6 => some (.aatom q (Form.unpackE n))
  | 0xE0 => some (.atom q (Form.unpackC n))
  | 0xE1 => some (.red q (Form.unpackC n))
  | 0xE2 => some (.seal q (Form.unpackC n))
  | 0xE3 => some (.fence q (Form.unpackF n))
  | 0xE4 => some (.mark q (Form.unpackF n))
  | 0xE8 => some (.binit q (Form.unpackC n))
  | 0xE9 => some (.arrive q (Form.unpackC n))
  | 0xEA => some (.arrdrop q (Form.unpackC n))
  | 0xEB => some (.bexpect q (Form.unpackC n))
  | 0xEC => some (.btest q (Form.unpackC n))
  | 0xED => some (.bwait q (Form.unpackC n))
  | 0xF0 => some (.popw q (Form.unpackF n))
  | 0xF1 => some (.enqw q (Form.unpackF n))
  | 0xF2 => some (.yield q (Form.unpackF n))
  | 0xF3 => some (.enq q (Form.unpackF n))
  | 0xF4 => some (.gsig q (Form.unpackF n))
  | _ => none

/-- The fields of a word, with no check of their values. -/
def rawDecode (w : Nat) : Option Instr :=
  (Seq.unpack (w / 2 ^ 80 % 2 ^ 16)).bind fun q => ofOpcode (w / 2 ^ 72 % 2 ^ 8) q (w % 2 ^ 72)

/-- The lowest set bit of a number that is not zero. -/
def lowBit (n : Nat) : Nat := Nat.log2 (n - (n &&& (n - 1)))

/-- The checks of R82 that can be seen from the word alone: ILLEGAL_ENCODING before RESERVED_FIELD. -/
def checkForm (i : Instr) : Except DecodeError Instr :=
  match i.form with
  | none => .error .illegal
  | some w =>
    if w.illegal then .error .illegal
    else if w.reserved ≠ 0 then .error (.reserved (lowBit w.reserved))
    else .ok i

/-- An instruction word, decoded and checked (R59, R82). -/
def decodeWord (w : Nat) : Except DecodeError Instr :=
  match rawDecode w with
  | none => .error .illegal
  | some i => checkForm i

/-- The 12 bytes of a word, byte n holding bits [8n+7 : 8n] (R59). -/
def wordBytes (w : Nat) : List Nat := (List.range 12).map fun n => w / 2 ^ (8 * n) % 256

/-- Little-endian bytes as a number. -/
def ofBytes (bs : List Nat) : Nat := bs.foldr (fun b n => b % 256 + 256 * n) 0

/-- Decoding from bytes: a word needs twelve of them; the rest of the list is answered. -/
def decode (bs : List Nat) : Except DecodeError (Instr × List Nat) :=
  if bs.length < 12 then .error .illegal
  else (decodeWord (ofBytes (bs.take 12))).map fun i => (i, bs.drop 12)

/-- The word of an instruction; an event has none. -/
def encodeWord (i : Instr) : Option Nat := i.form.map Form.word

/-- The bytes of an instruction, as they lie in a stream (R59). -/
def encode (i : Instr) : Option (List Nat) := (encodeWord i).map wordBytes

/-- The decoder applied to an instruction whose bits are numbered from the least significant bit of its first byte; bits at and
above `nbits` are zero. -/
def decodeTableWord (nbits w : Nat) : Option Instr :=
  match decode (wordBytes (w % 2 ^ nbits)) with
  | .ok (i, _) => some i
  | .error _ => none

end Sys2Proof
end

