-- ==== Sys2Proof/Machine/State.lean ====
section
/-! DEFINITION. The state of the machine, plain data: every register, memory, queue and pending work that the spec gives the
device. A `Map` is a list of key and value pairs with rising keys; a key that is not listed stands for the reset (or placement)
value, which each accessor of Machine/Ops.lean names. Control registers are held under their selectors in the maps called
`ctl`, one for each copy (per slot, per column, per pier or per device, R91). -/

namespace Sys2Proof.Machine

/-- Pairs of key and value, keys rising, each key once. -/
abbrev Map (α : Type) := List (Nat × α)

/-- Why the machine stops. -/
inductive Fault where
  /-- A physical far address that names no byte of this package's HBM, of host memory or of another package (R426): raised by
  a far access made at a physical address. Safe: the hardware gives no effect. -/
  | farHole (addr : Nat)
  deriving DecidableEq, Repr

/-- Why the machine has no meaning for a step. -/
inductive Refusal where
  /-- Raised only by an arm of `exec` that has no meaning yet. Safe: the run ends. -/
  | notModelled (mnemonic : String)
  deriving DecidableEq, Repr

/-! ### Columns, slots and engines (ch. 3–6) -/

/-- A scalar register: 64 bits and the poison mark, the key of the poisoned word it came from (R32, R230). -/
structure SReg where
  val : Word := 0
  mark : Option Nat := none
  deriving DecidableEq, Repr

/-- A vector register: tag, 256 lanes and the poison marks of marked lanes (R33, R40, R230). -/
structure VReg where
  tag : Nat := 0
  lanes : List Lane := List.replicate 256 0
  marks : Map Nat := []
  deriving DecidableEq, Repr

/-- A value of a queue register: a scalar in q0–q3, a vector with its tag in q4–q7 (R95). -/
inductive QVal where
  | s (r : SReg)
  | v (r : VReg)
  deriving DecidableEq, Repr

/-- A queue register (R95): entries with the cycle from which each may be read, places reserved by words that have issued, and
places freed in cycle `freedAt`, which count as taken until the next cycle. -/
structure QReg where
  held : List (Nat × QVal) := []
  reserved : Nat := 0
  freed : Nat := 0
  freedAt : Nat := 0
  deriving DecidableEq, Repr

/-- A token FIFO (R97): tokens available, tokens pushed and not yet available, places reserved, and tokens popped in cycle
`poppedAt`, whose places still count in that cycle. -/
structure Fifo where
  avail : Nat := 0
  arriving : Nat := 0
  reserved : Nat := 0
  popped : Nat := 0
  poppedAt : Nat := 0
  deriving DecidableEq, Repr

/-- An open loop level (R100): head, count, iteration and the designated registers with their strides. -/
structure Level where
  lvl : Nat
  head : Nat
  count : Nat
  iter : Nat := 0
  desig : List (Nat × Int) := []
  deriving DecidableEq, Repr

/-- A section header (R74). -/
structure Header where
  eng : Nat := 0
  safe : Bool := false
  livemap : Bool := false
  tcnt : Nat := 0
  secno : Nat := 0
  waitn : Nat := 0xFFF
  waitp : Nat := 0xFFF
  len : Nat := 0
  deriving DecidableEq, Repr

/-- Where an engine's stream stands (R79). `empty`: no stream or the work is done; `retiring`: the EXIT or DONE word has issued
(`last`: after it the engine fetches no further header). -/
inductive Sec where
  | empty
  | waiting
  | dispatched
  | running
  | faulted
  | retiring (last : Bool)
  deriving DecidableEq, Repr

/-- An engine of a slot or of the firmware context: its scalar file, cf, spill store, micro-PC and section (R90, R100); `badSel` while the selector of
a resumed TRAP or BREAK cannot act (R140). -/
structure Engine where
  sregs : Map SReg := []  -- R32, R90
  cf : Bool := false  -- R61
  spill : Map SReg := []  -- R127, by byte offset of its 64-bit word
  base : Nat := 0  -- first code key of the stream
  len : Nat := 0  -- words of the stream
  pos : Nat := 0  -- word position of the current header
  hdr : Header := {}  -- R74
  targets : List Nat := []  -- R75
  sec : Sec := .empty  -- R79
  idx : Nat := 0  -- word index in the section (R77)
  lastRet : Nat := 0xFFF  -- section that retired last (R100)
  levels : List Level := []  -- open loop levels (R100, R128)
  rets : List Nat := []  -- return stack (R132)
  issueFrom : Nat := 0  -- first cycle in which the next word may issue
  wait : Nat := 0  -- age of the stream (R107)
  blocked : Nat := 0  -- cycles in which its word could not issue (R366)
  heldBy : Option Nat := none  -- the word that holds the engine until it completes
  heldTo : Nat := 0  -- cycle until which the engine is held
  target : Option Nat := none  -- R103, the target stamp that is fixed
  quadNo : Nat := 0  -- R105
  atSafe : Bool := false  -- stopped at a safe point (R372)
  codeMiss : Option Nat := none  -- the code block on its way (R344)
  badSel : Bool := false  -- R140
  pin : Option (Nat × Nat × Nat) := none  -- what FOLDPIN reads for the next product (R192)
  pinAt : Nat := 0  -- the cycle from which `pin` is there (R192)
  leased : Option Bool := none  -- whether its slot held the lease when its next word became that (R205)
  shapes : List (Nat × Nat) := []  -- tags and shapes taken for the next product (R103, R198)
  safeHere : Bool := false  -- the last word had the SAFE selector (R372)
  deriving DecidableEq, Repr

/-- A stream port (R294): bound, the tag it gives, the vectors that have arrived with the marks they carry, places that
commands have reserved, and, once the bound copy has ended, how many vectors VMOV has to take up to its last one. -/
structure StreamPort where
  bound : Bool := false
  tag : Nat := 0
  held : List VReg := []
  reserved : Nat := 0
  last : Option Nat := none
  acq : Bool := false
  deriving DecidableEq, Repr

/-- A shift latch (R164): entries with the cycle from which each is available, and the cycles in which
entries that a receive has taken free their places. -/
structure Latch where
  held : List (Nat × VReg) := []
  leaving : List Nat := []
  deriving DecidableEq, Repr

/-- A local conditional stream (R167). -/
structure CStream where
  tag : Nat := 0
  recs : List Lane := []
  deriving DecidableEq, Repr

/-- A pending pre-emption (R371): the cycle in which it takes effect, a forced full save, a YIELD, and the destination of a
migration. -/
structure Preempt where
  at_ : Nat
  force : Bool := false
  byYield : Bool := false
  migrate : Option (Nat × Nat) := none
  deriving DecidableEq, Repr

/-- An engine fault that waits to be delivered (R368): engine, source, code and TRAPINFO. -/
structure EngineFault where
  eng : Eng
  src : Nat
  code : Nat
  info : Word
  deriving DecidableEq, Repr

/-- The matrix state of a saved lease holder (R112, R374): tile bytes and accumulator bytes by their offset, the written granules,
shapes, fold record, poisoned lines and granules, and granule records. -/
structure MatrixSave where
  tiles : List Host.Cell := []
  accs : List Host.Cell := []
  grans : List Nat := []
  mshape : Map Word := []
  foldrec : Word := 0
  tileBad : List Nat := []
  accBad : List Nat := []
  recs : Map Nat := []
  deriving DecidableEq, Repr

/-- The state of one slot of a column, or of the firmware context as slot 4 (R90, R111). -/
structure Slot where
  gid : Option Nat := none  -- the group that the slot holds
  stop : Option Nat := none  -- the cycle in which its engines stopped (R113)
  vregs : Map VReg := []  -- R33
  kregs : Map (BitVec 256) := []  -- R34
  queues : Map QReg := []  -- R95
  fifos : Map Fifo := []  -- R97
  ports : Map StreamPort := []  -- R294
  hregs : Map Nat := []  -- R244, binding of h0–h15
  mbs : Map Word := []  -- R133
  mbClear : List Nat := []  -- mailboxes that an MBRD of this cycle clears (R134)
  ctl : Map Word := []  -- the per-slot control registers by selector (R91)
  flagsNow : Nat := 0  -- FPSTAT bits raised in this cycle (R46)
  slipNow : Nat := 0  -- MSLIP counts of this cycle (R102)
  lates : List (Nat × Nat) := []  -- lateness of this cycle (R218)
  gens : List Lane := []  -- R48; empty stands for the generators that RNGSEED seeds
  latches : Map Latch := []  -- R164
  cstreams : Map CStream := []  -- R167
  hold : Bool := false  -- REFHOLD (R226)
  perturb : Option (Nat × Nat × Nat) := none  -- MPERTURB (R204)
  stoppedBy : Option Nat := none  -- the group of a quad partner whose stop stopped it (R106)
  quadWith : List Nat := []  -- the slots that faulted with it in one quad operation (R106)
  resumed : Option (Option Bool) := none  -- its ERET is done and waits for theirs: how the recorded word resumes (R106)
  wdogCount : Nat := 0  -- R366
  preempt : Option Preempt := none  -- R371
  preemptErr : Bool := false  -- GCTL.ERR (R371)
  engFaults : List EngineFault := []  -- R368
  code : List Nat := []  -- the code blocks that the store holds (R344)
  codeCached : Bool := false  -- the store works as a cache (R344)
  owed : Option MatrixSave := none  -- matrix state to be restored at the next grant (R112)
  mbLand : List (Nat × Word) := []  -- messages that land at the end of this cycle (R133)
  deriving DecidableEq, Repr

/-- A stream of words: an engine of a slot of a column; slot 4 is the firmware context (R89, R111). -/
structure Stream where
  col : Nat := 0
  slot : Nat := 0
  eng : Eng := .a
  deriving DecidableEq, Repr

/-- A register that the scoreboard of R119 follows. -/
inductive Reg where
  | s (n : Nat)
  | v (n : Nat)
  | k (n : Nat)
  | h (n : Nat)
  | cf
  deriving DecidableEq, Repr

/-- A result that a word writes when it completes. -/
inductive Write where
  | s (n : Nat) (r : SReg)
  | v (n : Nat) (r : VReg)
  | k (n : Nat) (m : BitVec 256)
  | h (n : Nat) (e : Option Nat)
  | cf (b : Bool)
  | q (n delay : Nat) (v : QVal)
  deriving DecidableEq, Repr

/-- One part of an access to a tower: the lane or element it feeds, the memory key and the program address of its first byte,
its bytes, the cycle in which its port performs it (R303), and the value and the poisoned word it has found. -/
structure Piece where
  lane : Nat
  key : Nat
  prog : Nat
  size : Nat
  at_ : Nat := 0
  done : Bool := false
  got : Nat := 0
  mark : Option Nat := none
  deriving DecidableEq, Repr

/-- An element that a word finds through a tile's bitmap (R248, R263): its number in the word, its width and its number in the tile, the column number and
the column, the first byte of the window, and the column-stripe addresses of the slot's first byte and of its first element. -/
structure Spot where
  no : Nat
  w : Nat
  e : Nat
  pcol : Nat
  col : Nat
  win : Nat
  start : Nat
  body : Nat
  deriving DecidableEq, Repr

/-- What must come about before a word in flight completes. -/
inductive Pend where
  /-- Nothing but its latency. -/
  | none
  /-- A load into a scalar register (R238, R217): the bits it sign-extends from, 0 for none. -/
  | loadS (reg sx : Nat)
  /-- A load of lanes into a queue register with a tag (R240). -/
  | loadQ (q tag : Nat)
  /-- A load of lanes into a vector register with a tag, under a mask (R263). -/
  | loadV (reg tag : Nat) (mask : BitVec 256)
  /-- A row operation of ACT, PRE or REF (R241). -/
  | rows
  /-- An operation at a port: ATOM, SEAL, a barrier word, a shared ring; its address and its captured operands. -/
  | port (addr : Nat) (args : List Nat)
  /-- A BWAIT that has been performed and waits for its phase to complete (R333). -/
  | bwait (addr : Nat) (args : List Nat)
  /-- A column shift that waits for the entry of its latch (R164). -/
  | recv (side : Nat) (dst : Nat) (mask : BitVec 256)
  /-- A fence: kind, and the cycles after the last earlier write has reached its port (R309). -/
  | fence (kind delay : Nat)
  /-- An HLD of one element: register, width, nibble, whether it is sign-extended (R263). -/
  | elemS (reg w nib : Nat) (sx : Bool)
  /-- An HLD of a vector: queue register, tag, element width (R263). -/
  | elemV (q tag w : Nat)
  /-- A handle word that acts on its entry at completion: HDEF, RELAY, HCLOSE, with its operands (R251, R262, R265, R268). -/
  | handle (args : List Nat)
  /-- A tile load (R197). -/
  | tile (args : List Nat)
  /-- Matrix work that completes with its last batch (R206), with the granules an MZERO clears. -/
  | matrix (args : List Nat)
  /-- An MLEASE that waits for its grant (R112). -/
  | lease
  /-- A GSIG whose message is on its way to the group of that number (R383). -/
  | message (num : Nat)
  /-- An ENQ whose packet the front end has not taken yet: the queue and the packet's bytes with their marks (R359). -/
  | enq (queue : Nat) (bytes : List (Nat × Bool))
  deriving DecidableEq, Repr

/-- A word that has issued and has not completed (R79). `uses` names handle entries that it accesses, each with 0 or with the number
after a tile that it saw as OLD (R250, R254, R259); `spots` are the elements that its bitmap words place (R263). -/
structure Flight where
  id : Nat
  at_ : Stream
  secno : Nat
  issued : Nat
  ins : Instr
  lat : Nat
  writes : List Write := []
  busy : List Reg := []
  strides : List (Nat × Int) := []
  pushes : List Nat := []
  selLate : Bool := false
  late : Nat := 0
  pend : Pend := .none
  pieces : List Piece := []
  fault : Option (Nat × Word) := none
  before : Option Engine := none
  pops : List Nat := []
  fifos : List Nat := []
  uses : List (Nat × Nat) := []
  spots : List Spot := []
  deriving DecidableEq, Repr

/-- A write of a control register that waits for the end of its cycle (R92): who wrote it, the slot whose copy it reaches, the
selector and the value. -/
structure CtlWrite where
  by_ : Stream
  slot : Nat
  csel : Nat
  val : Word
  deriving DecidableEq, Repr

/-! ### The matrix engine (ch. 7) -/

/-- A cycle that never comes: the start of a pass that has not begun. -/
def never : Nat := 2 ^ 80

/-- One pass of a product, or the part of it from batch `lo` to before batch `hi` (R185, R188): the cycles of each of its batches, whether it writes
granules, whether it runs over the bypass (R189), and the cycle in which its first batch enters the arrays. -/
structure MPass where
  step : Nat
  writes : Bool
  bypass : Bool := false
  lo : Nat := 0
  hi : Nat := 0
  start : Nat := never
  deriving DecidableEq, Repr

/-- A product in progress (R185, R198): the word in flight, its slot, kind (0 MMA, 1 MMAQ, 2 MMAC), shape and control, the tile
registers it reads (column × 16 + register), its passes, the cycle from which they may begin, and the partial sums and poisoned lines that it took from
its operands at issue. `late` and `record` are L and FOLDREC[31:0]; `done` counts the batches whose granules are complete; `lost` lists those that stay
unwritten, each with the writes it has had (R188, R190), and `cut` is the cycle in which a failed bypass ended it; `logAt` is its entry in an audit's log
(R476). -/
structure Product where
  id : Nat
  slot : Nat
  kind : Nat
  acc : Nat
  m : Nat
  n : Nat
  z : Bool
  i32 : Bool
  late : Nat
  record : Nat
  reads : List Nat
  passes : List MPass
  after : Nat := 0
  sums : List (List Nat) := []
  flags : Nat := 0
  badA : List Nat := []
  badB : List Nat := []
  logAt : Option Nat := none
  perturb : Option (Nat × Nat × Nat) := none
  replayed : Bool := false
  done : Nat := 0
  lost : List (Nat × Nat) := []
  cut : Option Nat := none
  md : Nat := 0
  mdTag : Nat := 0
  outl : Bool := false
  mode : Nat := 0
  deriving DecidableEq, Repr

/-- A conversion of rows of accumulators (R199, R200): the word in flight, its slot, source and output tag, the elements of each
row, the granules in a row, the granules it has handled, the generators that the row's
handled elements drew from, and what it has made so far: rows of codes with their scale bytes, and flags. With `unit0` a block of zeros takes scale 127
(R199). -/
structure Convert where
  id : Nat
  slot : Nat
  i32 : Bool
  tag : Nat
  outl : Bool
  unit0 : Bool := false
  mode : Nat
  width : Nat
  rows : List (List Nat)
  g : Nat
  step : Nat := 0
  pre : List Nat := []
  out : List (List Nat × List Nat) := []
  flags : Nat := 0
  deriving DecidableEq, Repr

/-- A column (R88, R112, ch. 7). -/
structure Column where
  state : Nat := 0  -- COLSTAT.STATE (R88, R93)
  ctl : Map Word := []  -- the per-column control registers by selector (R91)
  contested : Map Nat := []  -- contested cycles of each engine (R111)
  contestedAt : Nat := 0  -- the window of 256 cycles they belong to (R111)
  lease : Option Nat := none  -- R112, the holder
  leaseWait : List (Nat × Nat) := []  -- R112, waiting slots
  quadCount : Nat := 0  -- R105
  quadReset : Bool := false  -- R105, the counts of its quad return to 0 at the end of this cycle
  tileBad : List Nat := []  -- poisoned tile lines (R178)
  accBad : List Nat := []  -- poisoned granules (R178)
  recs : Map Nat := []  -- granule records (R177)
  products : List Product := []  -- R185
  converts : List Convert := []  -- R199, R200
  arrayFree : Nat := 0  -- R187
  drainFree : Nat := 0  -- R200
  convFree : Nat := 0  -- R199
  drains : List (Nat × Nat) := []  -- granules that an MDRAIN reads, each with the cycle (R187, R200)
  bypassTo : Nat := 0  -- cycle up to which it holds the bypass (R189)
  bypassAsk : Option Nat := none  -- the cycle in which it asked for the bypass that it waits for (R189)
  written : List Nat := []  -- granules that have been written (R178)
  pendNow : Nat := 0  -- FWPEND bits set in this cycle (R46, R92)
  deriving DecidableEq, Repr

/-! ### Towers (ch. 8, 11, 12) -/

/-- The three row operations of a bank (R213). -/
inductive RowOpKind where
  | open_
  | close
  | refresh
  deriving DecidableEq, Repr

/-- A row operation that has a place at its bank (R213). A row number from 1024 on is the physical row of a background refresh, from 2048 on that of a
forced one (R224, R225). -/
structure RowOp where
  kind : RowOpKind
  row : Nat
  start : Nat
  stop : Nat
  by_ : Option Nat := none
  deriving DecidableEq, Repr

/-- A bank (R213–R217): the row in the program row buffer, the row that loads of the next cycle see as open (`seen`, and `now`
within a cycle), the row operations in progress or queued, the cycle from which the bank is free of them, the next cycle in which it can
serve a load, the cycle from which it is free of the loads that it has taken on, and the cycle in which a physical row was last restored, where that is
not the sequencer's last pass. -/
structure Bank where
  buf : Option Nat := none
  seen : Option Nat := none
  now : Option Nat := none
  ops : List RowOp := []
  freeAt : Nat := 0
  nextLoad : Nat := 0
  loadEnd : Nat := 0
  restored : Map Nat := []
  deriving DecidableEq, Repr

/-- A sum slot (R321): the exact sum in units of 2^-149 and its four special marks. -/
structure SumSlot where
  sum : Int := 0
  nan : Bool := false
  pinf : Bool := false
  ninf : Bool := false
  ovr : Bool := false
  deriving DecidableEq, Repr

/-- Bytes on their way to a tower: the distance to their port in cycles (R303), the key of the first, and whether they are
marked; `nib` is 1 where only the low nibble of the last byte is written, 2 where only the high nibble of the one byte is (R231). -/
structure WPiece where
  dist : Nat
  key : Nat
  bytes : List Nat
  marked : Bool := false
  nib : Nat := 0
  deriving DecidableEq, Repr

/-- What an entry of a store queue does at its port (R231, R308, R320, R322). -/
inductive StoreOp where
  | write
  | nibble (hi : Bool)
  | red (code ctl size operand : Nat)
  | redx (tower slot ctl operand : Nat)
  | mark
  deriving DecidableEq, Repr

/-- An entry of a store queue (R301, R303): the cycle in which it left the queue, if it has, what has not reached its port, and whether its data are there
(R200). -/
structure PortWrite where
  id : Nat
  by_ : Stream
  op : StoreOp
  pieces : List WPiece
  sent : Option Nat := none
  ready : Bool := true
  uses : List (Nat × Nat) := []
  deriving DecidableEq, Repr

/-- Bytes of one 64-bit tower word that an asynchronous transfer writes and that wait for their port (R25, R26, R216): the source (0 fill spine, 1 lintel
network, 2 channels, 3 relayout engine), the unit they belong to, the key of the first byte, whether they are marked, and the group they are made for.
With a channel in `atom` the entry is that channel's AATOM: its operation reads and writes these bytes when the port takes it (R295). `made` is the cycle of
the transfer. -/
structure AsyncWrite where
  src : Nat
  unit : Nat
  key : Nat
  bytes : List Nat
  marked : Bool := false
  gid : Option Nat := none
  atom : Option Chan := none
  made : Nat := 0
  deriving DecidableEq, Repr

/-- Far writes of a pier's parties that its far-access unit holds (R302, R304): the pier, the unit they belong to, the cycle in which they are at the plinth
fabric port or link unit, the cycle of their acceptance, the bytes with their marks, the metadata of 64-byte accesses with theirs, and the group they are
made for: none is firmware (R385); the cycle in which it was issued, and the virtual address of its first byte in host memory (R446). -/
structure FarWrite where
  pier : Nat
  unit : Nat
  plinth : Nat
  at_ : Nat
  cells : List (Nat × Nat × Bool)
  metas : List (Nat × List Nat × Bool) := []
  gid : Option Nat := none
  made : Nat := 0
  va : Nat := 0
  deriving DecidableEq, Repr

/-- A packet of a context that has been torn down, whose record is to become Abandoned: context, queue index, sequence number, ring count, the packet's
address, and its type, status, node and flags where they are known (R388, R403, R423). -/
structure Orphan where
  ctx : Nat
  queue : Nat
  seqno : Nat
  count : Nat
  va : Nat
  known : Option (Nat × Nat × Nat × Nat)
  deriving DecidableEq, Repr

/-- An arrival that a command, a record or a relayout makes on its way to a barrier word, or at its port (R329, R517): the key and
the program address of the word, its parity and bytes, the column, order and group of its issuer, the engine and TRAPSRC of an
overrun, whether it comes from another package, and whether it has its place at the bank. -/
structure ArrivalRec where
  id : Nat
  key : Nat
  prog : Nat
  parity : Nat
  bytes : Nat
  col : Nat := 0
  order : Nat := 0
  gid : Option Nat := none
  eng : Eng := .a
  src : Nat := 0
  ctx : Nat := 0
  remote : Bool := false
  served : Bool := false
  reached : Bool := false
  deriving DecidableEq, Repr

/-- What a word asks of a bank in the cycle it issues (R216): a load, an access that uses no row, or a row operation. -/
inductive ReqKind where
  | load
  | plain
  | op (k : RowOpKind)
  deriving DecidableEq, Repr

/-- A request at a bank: its word in flight (none for the sequencers), its step and source rank in R216, its row, and for an ATOM, a SEAL
or a barrier word the 64-bit word that it operates on. -/
structure PortReq where
  id : Option Nat
  step : Nat
  rank : Nat
  tower : Nat
  bank : Nat
  row : Nat
  kind : ReqKind
  ctx : Option Nat := none
  word : Option Nat := none
  deriving DecidableEq, Repr

/-- A request for a row-sparing copy: bank and physical row, and the cause that event 0x04 gives (R233, R470). -/
structure SpareReq where
  bank : Nat
  row : Nat
  cause : Nat := 2
  deriving DecidableEq, Repr

/-- A tower with its port and its refresh sequencer; `phase` is how far into its period the sequencer stands in cycle 0 (R224). -/
structure Tower where
  phase : Nat := 0  -- R224
  banks : Map Bank := []  -- R213
  queue : List Nat := []  -- R231, the lines that wait in the write queue
  seqOn : Bool := false  -- the sequencer has been started (R224)
  seqIdx : Nat := 0  -- R224
  sums : Map SumSlot := []  -- R321
  spareReqs : List SpareReq := []  -- R233
  spareNow : Option (SpareReq × Nat) := none  -- R233, the copy and its target
  spares : Map Nat := []  -- R233, bank × 512 + row to spare row
  badSpares : List Nat := []  -- R233, bank × 8 + spare
  errs : Map Nat := []  -- R233, corrected errors of a row (bank × 1024 + row), 256 more once an error was uncorrectable
  partly : Map Nat := []  -- R231, words with an error that a waiting line covers in part, with the bytes it covers
  backs : List Nat := []  -- R228, corrected words that wait for room in the write queue
  asyncLast : Nat := 0  -- R216, the source after the one that moved bytes last
  cellSpared : Bool := false  -- R234
  forced : Nat := 0  -- forced refreshes counted since `forcedAt` (R225)
  forcedAt : Nat := 0  -- when that count began
  deriving DecidableEq, Repr

/-! ### Groups and launches (ch. 13, 14) -/

/-- The states of a group (R361). -/
inductive GState where
  | queued
  | placed
  | running
  | stalled
  | atSafe
  | preempting
  | saved
  | migrating
  | faulted
  | purged
  | retired
  deriving DecidableEq, Repr

/-- The effective values of a region node, read when the launch enters Checking (R412, R413). -/
structure Region where
  prio : Nat := 0
  strict : Bool := false
  matrix : Bool := false
  debug : Bool := false
  aen : Bool := false
  auditn : Nat := 0
  cols : Nat := 0
  tower : Nat := 0
  hbmshare : Nat := 0
  plimit : Nat := 1750000
  domain : Nat := 0
  policy : Nat := 0
  deriving DecidableEq, Repr

/-- What a command does (R286, R293). -/
inductive CKind where
  | copy
  | scaled
  | pack
  | gather
  | scatter
  | cpyx
  | stbind (scl : Bool)
  | aatom
  | chain
  deriving DecidableEq, Repr

/-- A command of a channel with its captured operands (R271, R286–R288). `order` is the number of its word among the words of its
engine. `cmpl` is 0 token, 1 barrier, 2 port, 3 queue register, 4 none, with its `target`; `size` holds SUB. -/
structure Command where
  kind : CKind
  at_ : Stream
  gid : Option Nat := none
  order : Nat := 0
  dest : Nat := 0
  src : Nat := 0
  len : Nat := 0
  aux : Nat := 0
  size : Nat := 0
  acq : Bool := false
  rel : Bool := false
  scope : Nat := 0
  strong : Bool := false
  cmpl : Nat := 4
  target : Nat := 0
  started : Bool := false
  since : Nat := 0
  parity : Nat := 0
  sector : Nat := 0
  written : Nat := 0
  deriving DecidableEq, Repr

/-- A channel (R271–R273): its commands, the running one first; the open record it is Suspended on; Parked; and for a pier channel
the address of its record, its NEXT as it was read, the command that the record stands for, and the ERR of a record that has ended and whose word 0 is
not written yet (R292). A saved channel holds the refusal of its page that was answered meanwhile: the virtual page and the code (R285, R434). -/
structure ChanState where
  queue : List Command := []
  susp : Option Nat := none
  parked : Bool := false
  at_ : Nat := 0
  next : Nat := 0
  inner : Option Command := none
  err : Option Nat := none
  refused : Option (Nat × Nat) := none
  deriving DecidableEq, Repr

/-- A save record (R374). -/
structure SaveRec where
  slot : Slot
  engs : List Engine
  flights : List Flight := []
  matrix : Option MatrixSave := none
  chans : List (Nat × ChanState) := []
  faulted : Bool := false
  stoppedAt : Nat := 0
  slotNo : Nat := 0
  deriving DecidableEq, Repr

/-- What the device keeps of an audited group or of its replay (R475–R481): the log slot, the signature, the products, for a replay
the original group, and since when an audited group that has retired waits for a column, and on which physical site it ran (R481). -/
structure Audit where
  logSlot : Nat
  sig : Nat := 0
  products : Nat := 0
  replayOf : Option Nat := none
  since : Nat := 0
  site : Nat := 0
  deriving DecidableEq, Repr

/-- A group (R361, R362): its launch, node, number, request tag, region values, place and save record; `aimHeld` while the walker waits for a placement
that has been held (R352). -/
structure Group where
  ctx : Nat := 0
  lid : Option Nat := none
  node : Nat := 0
  num : Nat := 0
  reqtag : Nat := 0
  state : GState := .queued
  region : Region := {}
  gang : Bool := false
  col : Nat := 0
  slot : Nat := 0
  ccol : Nat := 0
  saved : Option SaveRec := none
  heldMsgs : List (Nat × Word) := []
  forced : Bool := false
  faulted : Bool := false
  atTail : Bool := false
  queuedAt : Nat := 0
  stoppedAt : Nat := 0
  frame : Option Nat := none
  migrate : Option (Nat × Nat) := none
  hbind : List (Nat × Nat) := []
  sregs : List Nat := []
  aimHeld : Bool := false
  audit : Option Audit := none
  deriving DecidableEq, Repr

/-- The states of a launch (R348). -/
inductive LState where
  | launched
  | checking
  | walking
  | running
  | retired
  | failed
  | aborted
  deriving DecidableEq, Repr

/-- An item that ENQW has put into a pool (R353, R358): its value, the cycle of its acceptance, the place of its sender in that cycle,
and the cycle from which pops see it. -/
structure PoolItem where
  val : Word
  at_ : Nat
  place : Nat
  seen : Nat
  deriving DecidableEq, Repr

/-- A launch of a node of a context's graph (R348–R353): its image and what checking has read from it, its region, its walker
(`total` groups, `next` of them created, the column number of the last placement) and its pool (`items` walker items, `taken` of
them popped, then ENQW's items). `packet` is the queue and the sequence number of its LAUNCH packet, `ridx` and `pflags` what its record
shows of it (HTO and PRK as in word 1), `signal` its completion signal (address, value, operation) while that is owed, and `ending` the status of an end
whose final record has not been written yet. -/
structure Launch where
  ctx : Nat := 0
  node : Nat := 0
  state : LState := .launched
  status : Nat := 0
  image : Nat := 0
  tower : Nat := 0
  region : Region := {}
  regionNode : Nat := 0
  reqtag : Nat := 0
  succ : List Nat := []
  flags : Nat := 0
  streams : List (Nat × Nat) := []
  live : List (List Nat) := []
  hbind : List (Nat × Nat) := []
  piers : Nat := 0xF
  order : List Nat := [0]
  levels : List (Int × Nat × Nat) := []
  slotsMax : Nat := 4
  gang : Nat := 0
  persist : Nat := 0
  total : Nat := 0
  next : Nat := 0
  lastCol : Option Nat := none
  items : Nat := 0
  taken : Nat := 0
  pool : List PoolItem := []
  terminated : Bool := false
  packet : Option (Nat × Nat) := none
  ridx : Nat := 0
  pflags : Nat := 0
  fclass : Nat := 0
  stopfail : Bool := false
  signal : Nat × Nat × Nat := (0, 0, 0)
  since : Nat := 0
  ending : Option Nat := none
  deriving DecidableEq, Repr

/-! ### Contexts (ch. 16) -/

/-- A context (R406–R409): its state code, the address and the fields of its record, its column map, the root budget read at creation and at
SWITCHIN, the save frames in use with their groups, the launch graph's live counters (R355), the next journal sequence number
(R403), `imaging` from the last save of a switch-out on (R418), the parts of the image that are written, the cycle since which a switch-out has found every
group Saved (R420), and the far pages whose poison its groups or channels consumed (R424). -/
structure Context where
  state : Nat := 0
  record : Nat := 0
  ptroot : Nat := 0
  handles : Nat := 0
  graph : Nat := 0
  queues : Nat := 0
  journal : Nat := 0
  jlog2 : Nat := 0
  regions : Nat := 0
  nodes : Nat := 0
  savearea : Nat := 0
  saveframes : Nat := 0
  towerimg : Nat := 0
  doorbell : Nat := 0
  colmap : List Nat := []
  rootCols : Nat := 0
  rootTower : Nat := 0
  frames : List (Nat × Nat) := []
  counters : Map Nat := []
  nextSeq : Nat := 1
  imaging : Bool := false
  imaged : Nat := 0
  savedFrom : Option Nat := none
  badPages : List Nat := []
  deriving DecidableEq, Repr

/-! ### The front end (ch. 15) -/

/-- A packet that a queue has taken up (R389–R394): its words, sequence number and ring count; whether it has begun and when; since when
it has been held for an operating point; what its record shows; and since when its page has not been resident. -/
structure Packet where
  words : List Nat := []
  seqno : Nat := 0
  count : Nat := 0
  begun : Option Nat := none
  held : Option Nat := none
  parkFrom : Option Nat := none
  prk : Bool := false
  hto : Bool := false
  user : Nat := 0
  done : Option Nat := none
  deriving DecidableEq, Repr

/-- A queue (R384–R388): its state code, what its descriptor held when it was read, its counts, the count that the last advance asked
for, the sequence numbers of accepted packets that have not been taken up, the packet taken up, the cycle in which it took its hardware slot, a halt or
a reset that waits for the packet boundary, and of a packet put back under its hold (R397) the sequence number, the cycle in which the hold began and the
class. -/
structure FQueue where
  state : Nat := 0
  log2 : Nat := 4
  prio : Nat := 0
  priv : Bool := false
  ring : Nat := 0
  rptr : Nat := 0
  wptr : Nat := 0
  adv : Nat := 0
  seqs : List Nat := []
  cur : Option Packet := none
  slotAt : Option Nat := none
  halt : Bool := false
  reset : Bool := false
  heldFrom : Option (Nat × Nat × Nat) := none
  deriving DecidableEq, Repr

/-- A migration (R377): context, columns, window register and window ranges in bytes, whether the windows are exchanged, and whether
the towers are being moved. -/
structure Move where
  ctx : Nat
  src : Nat
  dest : Nat
  swin : Nat
  dwin : Nat
  exchange : Bool
  begun : Bool := false
  deriving DecidableEq, Repr

/-! ### Quads, link, ports, pages, audits (ch. 17–20) -/

/-- A contribution to a collective (R457–R461): instance number and rank; the communicator's LOCAL and LIST; operation, format and count; where
its elements, results and descriptor lie (engine and tower addresses); its elements once they are read; its barrier with the parity at acceptance; its ERR and
whether it has ended; whether the instance's completion is on the agenda, and whether it is complete everywhere; and the first number of an access that issues
after its acceptance (R458). -/
structure Contribution where
  comm : Nat
  inst : Nat
  rank : Nat
  ctx : Nat
  at_ : Stream
  gid : Option Nat := none
  num : Nat := 1
  list : List Nat := []
  op : Nat := 0
  fmt : Nat := 0
  count : Nat := 0
  src : Nat := 0
  reading : Bool := false
  elems : List Nat := []
  desc : Nat := 0
  dst : Nat := 0
  bar : Nat := 0
  parity : Nat := 0
  err : Nat := 0
  ended : Bool := false
  going : Bool := false
  called : Bool := false
  first : Nat := 0
  deriving DecidableEq, Repr

/-- A quad's power state (R490): 0 On, 1 Blocked, 2 Draining, 3 Gated, 4 Off, 5 Waking; the cycle in which it took it, and whether its rail has been off since
it last was On. -/
structure Quad where
  state : Nat := 0
  err : Bool := false
  rail : Bool := true
  clk : Bool := true
  since : Nat := 0
  lost : Bool := false
  deriving DecidableEq, Repr

/-- A health event that waits for the end of its cycle (R468, R470). -/
structure HEvent where
  code : Nat
  ctx : Nat := 0
  tag : Nat := 0
  loc : Nat := 0
  info : Word := 0
  deriving DecidableEq, Repr

/-- The Ubcia link (R443, R444, R455): state, width code, replays, when training began, words 1 and 2 of the message port, the host's requests that training
holds, and the health events whose ring it cannot reach (R446). -/
structure Link where
  state : Nat := 0
  width : Nat := 3
  retry : Nat := 0
  since : Nat := 0
  word1 : Nat := 0
  word2 : Nat := 0
  held : List Instr := []
  events : List HEvent := []
  deriving DecidableEq, Repr

/-- An answer to the host, or a read of the identity store (R441, R486): bytes, or the error response. -/
structure Answer where
  data : List Nat
  error : Bool := false
  deriving DecidableEq, Repr

/-- A fabric port (R448–R453): `credit` is what its wavelengths have carried towards the next flit, in sixty-thirds of one; state, wavelengths, replays, when training began, the next sequence numbers to send and to expect, the
replay buffer, the flit whose replays fail with their number in a row, the sequence numbers of the negative acknowledgements returned, and the cycle from
which its wavelengths are there, none while they are gated (R448). -/
structure FPort where
  state : Nat := 0
  lambda : Nat := 0
  retry : Nat := 0
  since : Nat := 0
  txSeq : Nat := 0
  rxSeq : Nat := 0
  replay : List Flit := []
  failSeq : Option Nat := none
  fails : Nat := 0
  naks : List Nat := []
  lit : Option Nat := none
  credit : Nat := 0
  deriving DecidableEq, Repr

/-- Who waits for a translation (R434); `held`: the channel at a place of a group's save record (R285). -/
inductive Requester where
  | chan (c : Chan)
  | held (gid n : Nat)
  | relay (ctx entry : Nat)
  | queue (n : Nat)
  | fetch (k : Stream)
  | pin (col : Nat)
  | save (gid : Nat)
  | image (ctx : Nat)
  | launch (lid : Nat)
  | coll (comm : Nat)
  | walk
  deriving DecidableEq, Repr

/-- An open page-fault record (R432, R433) with the requesters attached to it. -/
structure PageRecord where
  id : Nat
  seqno : Nat := 0
  ctx : Nat
  vpage : Nat
  pier : Nat := 0
  src : Nat := 0
  level : Nat := 0
  kind : Nat := 0
  reason : Nat := 0
  written : Bool := false
  who : List Requester := []
  deriving DecidableEq, Repr

/-- A cached entry of a page table (R429): its cache (0–3 a pier's, 4 + c that of column c), context, level, the virtual address bits above the level's
page, the entry, and for a leaf the quarantine state of the page it was read for. -/
structure TEntry where
  cache : Nat
  ctx : Nat
  level : Nat
  tag : Nat
  entry : Nat
  page : Nat := 0
  quar : Nat := 0
  deriving DecidableEq, Repr

/-- The page unit (R429–R439): open records, records opened since bring-up, cached entries, QCMD in progress, QERR and whether this cycle has set it (R46,
R92), an invalidation in
progress with the writes and the relayout tiles that it waits for (R430), the faults of this cycle and those that walkers hold while no record number is
free (R432), the answers of this cycle with the code of a refusal (R434), and the pages of a teardown that wait for a number (R437). -/
structure Pages where
  open_ : List PageRecord := []
  opened : Nat := 0
  cache : List TEntry := []
  scrubbing : Option Nat := none
  qerr : Bool := false
  qerrNow : Bool := false
  invBusy : Bool := false
  invWrites : List FarWrite := []
  invTiles : List (Nat × Nat × Nat) := []
  fresh : List PageRecord := []
  held : List PageRecord := []
  answers : List (Nat × Option Nat) := []
  residues : List PageRecord := []
  deriving DecidableEq, Repr

/-- The counters of the replay auditor (R475, R482). -/
structure Auditor where
  pending : Nat := 0
  mismatch : Nat := 0
  abandoned : Nat := 0
  deriving DecidableEq, Repr

/-- The eviction unit (R464–R467): phase, SAFE, RECEIVED, FWDONE, the cycle in which the EVICT was accepted, its target, its queue, the contexts it has
switched out, the physical pages of contexts torn down since (address and bytes), and the open collective contributions that the target has been sent. -/
structure Evict where
  phase : Nat := 0
  safe : Bool := false
  received : Bool := false
  fwDone : Bool := false
  startedAt : Nat := 0
  target : Nat := 0
  queue : Nat := 0
  ctxs : List Nat := []
  gone : List (Nat × Nat) := []
  sent : List Contribution := []
  deriving DecidableEq, Repr

/-- A relayout job (R252–R260): context, entry, pier, the group and stream that issued it, its barrier's program address and the parity
that the barrier held; whether the map
has been written, whether the next tile is MOVING, whether it waits for a page, the pages that the tile's far bytes lie on, and the
old bytes of a MOVING tile with their marks and the scale bytes of their far accesses, the cycle in which it became MOVING, and whether its new bytes have
been sent to their region. -/
structure Job where
  ctx : Nat
  entry : Nat
  pier : Nat
  gid : Option Nat := none
  at_ : Stream := {}
  barrier : Option (Nat × Nat) := none
  began : Bool := false
  moving : Bool := false
  stuck : Bool := false
  pages : List (Nat × Nat) := []
  snap : Map (Nat × Bool) := []
  scales : Map (List Nat) := []
  since : Nat := 0
  wrote : Bool := false
  deriving DecidableEq, Repr

/-! ### The whole machine -/

/-- A step that will come about: the cycle, its place within the cycle (below 50 before the words of the cycle issue, from 50 at
the end of the cycle) and the row. -/
structure Due where
  at_ : Nat
  prio : Nat
  ev : Instr
  arg : Nat := 0
  deriving DecidableEq, Repr

/-- What the cycle began with, where something in the cycle can change it and a word of the cycle reads it: tokens, the lease and every control
register (R92, R97, R98, R138, R139, R205). -/
structure Dawn where
  slots : Map Slot := []
  engs : Map Engine := []
  cols : Map Column := []
  towers : Map Tower := []
  groups : Map Group := []
  pierCtl : Map Word := []
  devCtl : Map Word := []
  ctxs : Map Context := []
  quads : Map Quad := []
  link : Link := {}
  fports : Map FPort := []
  routes : Map Nat := []
  pages : Pages := {}
  auditor : Auditor := {}
  evict : Evict := {}
  ages : Map (Nat × Nat) := []
  heats : Map Nat := []
  purges : List (Nat × Nat × Nat) := []
  purgeErr : Bool := false
  remapping : Option (Nat × Nat) := none
  remapErr : Bool := false
  ctxBusy : List Nat := []
  ctxLast : Nat := 0
  ctxErr : Nat := 0
  opPoint : Nat := 15
  opCap : Nat := 15
  feFree : Nat := 256
  colls : List Contribution := []
  deriving DecidableEq, Repr

/-- The state of the package. -/
structure State where
  cyc : Nat := 0  -- CYC (R101)
  cur : Stream := {}  -- the stream whose word is executed (model)
  subject : Nat := 0  -- what a plain event is about (model)
  picked : List Stream := []  -- streams chosen in this cycle (R108; model)
  chosen : Bool := false  -- the choice has been made (model)
  dawn : Option Dawn := none  -- what the words of this cycle read as it was at its start (R92, R97; model)
  issued : List Stream := []  -- streams that have issued in this cycle (R89; model)
  agenda : List Due := []  -- what will come about (model)
  nextId : Nat := 0  -- number of the next word, group or launch (model)
  nextFree : Nat := 0  -- counter of the free values (model)
  mem : List Host.Cell := []  -- all bytes of the device by key (R20–R22, R38, R127, R344)
  poison : List Nat := []  -- poisoned 64-bit words by key (R229, R39)
  bitErrs : Map Nat := []  -- R228, R229, errors of tower words that no read has found yet: 1 single-bit, 2 uncorrectable
  hbmMeta : Map (List Nat) := []  -- scale bytes of 64-byte accesses (R38)
  hbmCheck : Map Nat := []  -- the stored check of 64-byte accesses whose check field a fault has changed (R38, R39)
  slots : Map Slot := []  -- R89, R90; slot 4 is the firmware context (R111)
  engs : Map Engine := []  -- R90
  cols : Map Column := []  -- R88
  towers : Map Tower := []  -- R21
  flights : List Flight := []  -- R79
  stores : List PortWrite := []  -- R301, R303
  async : List AsyncWrite := []  -- R25, R216, R231
  farHeld : List FarWrite := []  -- R302, R304
  privs : List Nat := []  -- R385, descriptors whose PRIV bit a party with the firmware right has set last
  reqs : List PortReq := []  -- port requests of this cycle (R216)
  arrivals : List ArrivalRec := []  -- R329, R517
  ctlq : List CtlWrite := []  -- R92
  pierCtl : Map Word := []  -- TREFHARD of each pier (R223)
  refLog : List (Nat × Nat × Nat) := []  -- R223, R224, the changes of LIMIT, newest first: pier, the cycle from which it holds, its value
  devCtl : Map Word := []  -- the per-device control registers by selector
  groups : Map Group := []  -- R361
  launches : Map Launch := []  -- R348
  downs : List (Nat × Nat × List Nat) := []  -- R355, launches that have retired in this cycle: context, node and successors
  hevents : List HEvent := []  -- R468, events of this cycle
  hevSeq : Nat := 0  -- R468
  irqs : List Nat := []  -- R447, interrupts sent to the host
  irqWaits : List (Nat × List FarWrite) := []  -- R447, interrupts behind writes to host memory
  sites : Map Nat := []  -- R17, the physical site of a column number
  ctxs : Map Context := []  -- R406
  quads : Map Quad := []  -- R490
  link : Link := {}  -- R444
  fports : Map FPort := []  -- R449, R453
  routes : Map Nat := []  -- R454, R455
  pages : Pages := {}  -- R429–R439
  auditor : Auditor := {}  -- R482
  evict : Evict := {}  -- R464
  ages : Map (Nat × Nat) := []  -- R485
  heats : Map Nat := []  -- R488
  purges : List (Nat × Nat × Nat) := []  -- R472, context, tag and count
  purgeErr : Bool := false  -- R473
  remapping : Option (Nat × Nat) := none  -- R484
  remapErr : Bool := false  -- R484
  ctxBusy : List Nat := []  -- R410
  ctxLast : Nat := 0  -- R410
  ctxErr : Nat := 0  -- R410
  opPoint : Nat := 15  -- R487
  opCap : Nat := 15  -- R488
  feFree : Nat := 256  -- R398, free hardware slots
  chans : Map ChanState := []  -- R271, R272
  hole : Option Nat := none  -- a far address with no byte that was reached (R426)
  jobs : List Job := []  -- R252
  fqueues : Map FQueue := []  -- R384
  rr : Map Nat := []  -- R398, pointer of each level
  returned : List Nat := []  -- R400, queues in the order of their return from Parked
  admitted : Option Nat := none  -- R398, the cycle of the last admission
  orphans : List Orphan := []  -- R388, R423
  moves : List Move := []  -- R377
  colls : List Contribution := []  -- R457
  collNext : Map Nat := []  -- R459, the next instance of each rank of a communicator
  failedSites : List Nat := []  -- spare sites that have failed (R484), pier × 128 + site
  remapTable : List Nat := []  -- R232, R486, the entries that bring-up read
  flits : List Flit := []  -- R449, flits to be sent
  inbox : List (Nat × Flit) := []  -- R449, flits received
  answers : List Answer := []  -- R441, R486
  identity : Map Nat := []  -- R486
  fwImage : List Nat := []  -- R493
  tripped : Bool := false  -- R488
  stuckAt : Nat := 0  -- R497, the step of a bring-up that failed
  quoin : Nat := 0  -- R486, the quoin's own status: 1 when the remap area's signature failed
  attesting : Option Nat := none  -- R495
  audits : Nat := 0  -- R475
  hostWaits : List (Requester × Nat × Nat) := []  -- R446
  denied : List (Requester × Nat × Nat) := []  -- R434, refusals to be delivered
  refCode : Nat := 0x13  -- code of the last refusal (model)
  capTick : Nat := 0  -- R488
  courseLosses : List (Nat × Nat × Nat) := []  -- R88, R184, R470: retirements decided from outside: cycle, column and cause (0 firmware, 4 course lost)
  deriving DecidableEq, Repr

/-- The machine right after reset. -/
def State.reset : State := {}

end Sys2Proof.Machine
end

