-- ==== Sys2Proof/Machine/Memory.lean ====
section
/-! DEFINITION. The maps of the state, and the one memory in its canonical form. Memory holds three disjoint spaces under one
list of cells: far space at its physical address (R426), tower space from `towerBase` (R22, at the physical offset of R211) and
the code stores from `codeBase` (R344). A byte that nothing has written reads zero. -/

namespace Sys2Proof.Machine

namespace Map

/-- The value at a key, if listed. -/
def get? {α : Type} : Map α → Nat → Option α
  | [], _ => none
  | (j, w) :: t, k => if j = k then some w else get? t k

/-- The value at a key, or the value an unlisted key stands for. -/
def getD {α : Type} (m : Map α) (k : Nat) (d : α) : α := (m.get? k).getD d

/-- The map with one key set, keys rising. -/
def put {α : Type} : Map α → Nat → α → Map α
  | [], k, v => [(k, v)]
  | (j, w) :: t, k, v =>
    if k < j then (k, v) :: (j, w) :: t else if j = k then (k, v) :: t else (j, w) :: put t k v

/-- The map without one key. -/
def del {α : Type} (m : Map α) (k : Nat) : Map α := m.filter fun r => r.1 != k

end Map

/-! ### Memory -/

/-- The key of byte 0 of tower space. -/
def towerBase : Nat := 2 ^ 52

/-- The key of byte 0 of the code stores. -/
def codeBase : Nat := 2 ^ 53

/-- The key of a tower byte: column, cell and physical offset in the tower (R22, R211). -/
def towerKey (col cell off : Nat) : Nat := towerBase + (col * 16 + cell) * 2 ^ 22 + off

/-- The key of a byte of a slot's code store (R344); streams of one slot lie in one space of 2^34 bytes. -/
def codeKey (slot off : Nat) : Nat := codeBase + slot * 2 ^ 34 + off

/-- A memory: cells with rising keys, none of them zero. -/
abbrev Memory := List Host.Cell

namespace Memory

/-- The byte at a key; an unlisted key reads zero. -/
def read : Memory → Nat → Byte
  | [], _ => 0
  | (j, b) :: t, k => if j = k then b else if k < j then 0 else read t k

/-- The memory with one byte written; a zero byte is not listed. -/
def write : Memory → Nat → Byte → Memory
  | [], k, b => if b = 0 then [] else [(k, b)]
  | (j, c) :: t, k, b =>
    if k < j then (if b = 0 then (j, c) :: t else (k, b) :: (j, c) :: t)
    else if j = k then (if b = 0 then t else (k, b) :: t)
    else (j, c) :: write t k b

/-- Keys rise from above `lo`, and no cell is zero. -/
def wfFrom : Memory → Option Nat → Bool
  | [], _ => true
  | (j, b) :: t, lo =>
    (match lo with | none => true | some n => decide (n < j)) && b != 0 && wfFrom t (some j)

/-- The canonical form. -/
def wf (m : Memory) : Bool := wfFrom m none

/-- `n` bytes from a key, in address order. -/
def readBytes (m : Memory) (k : Nat) : Nat → List Byte
  | 0 => []
  | n + 1 => read m k :: readBytes m (k + 1) n

/-- Bytes written from a key, in address order. -/
def writeBytes (m : Memory) (k : Nat) : List Byte → Memory
  | [] => m
  | b :: t => writeBytes (write m k b) (k + 1) t

end Memory

/-- Little-endian value of bytes (R3). -/
def leNat : List Byte → Nat
  | [] => 0
  | b :: t => b.toNat + 256 * leNat t

/-- The `n` little-endian bytes of a number. -/
def leBytes : Nat → Nat → List Byte
  | 0, _ => []
  | n + 1, v => BitVec.ofNat 8 v :: leBytes n (v / 256)

/-- One byte of CRC-16 with polynomial 0x1021, its bits from the top (R38). -/
def crcByte (c b : Nat) : Nat :=
  (List.range 8).foldl (fun c i =>
    let top := (c / 2 ^ 15 + b / 2 ^ (7 - i)) % 2
    Nat.xor (c * 2 % 2 ^ 16) (if top = 1 then 0x1021 else 0)) c

/-- The CRC-16 of R38: initial value 0xFFFF, no reflection and no final XOR. -/
def crc16 (l : List Nat) : Nat := l.foldl crcByte 0xFFFF

/-- One byte of CRC-32 of IEEE 802.3, reflected (R449). -/
def crc32Byte (c b : Nat) : Nat :=
  (List.range 8).foldl (fun c _ => Nat.xor (c / 2) (if c % 2 = 1 then 0xEDB88320 else 0)) (Nat.xor c (b % 256))

/-- The CRC-32 of R449: initial value and final XOR 0xFFFF_FFFF. -/
def crc32 (l : List Nat) : Nat := Nat.xor (l.foldl crc32Byte 0xFFFFFFFF) 0xFFFFFFFF

namespace State

/-- A little-endian number of `n` bytes at a key. -/
def load (s : State) (k n : Nat) : Nat := leNat (Memory.readBytes s.mem k n)

/-- A little-endian number of `n` bytes written at a key. -/
def store (s : State) (k n v : Nat) : State := { s with mem := Memory.writeBytes s.mem k (leBytes n v) }

/-- The check field of a 64-byte access of HBM as the device computes it: CRC-16 over its data and its six other metadata bytes (R38). -/
def checkField (s : State) (u : Nat) : Nat :=
  crc16 ((Memory.readBytes s.mem u 64).map BitVec.toNat ++ s.hbmMeta.getD u (List.replicate 6 0))

/-- The check field that a 64-byte access of HBM holds: what the last write computed, unless a fault has changed it (R38, R39). -/
def storedCheck (s : State) (u : Nat) : Nat := s.hbmCheck.getD u (s.checkField u)

/-- The check of the 64-byte access of HBM that holds a byte fails (R39). -/
def checkFails (s : State) (k : Nat) : Bool :=
  decide (k < 2 ^ 51) && (s.hbmCheck.get? (k / 64 * 64)).isSome && s.storedCheck (k / 64 * 64) != s.checkField (k / 64 * 64)

/-- The 64-bit word that holds a byte reads as poisoned: it is, or the read finds an uncorrectable error or a check that fails (R39, R229). -/
def poisoned (s : State) (k : Nat) : Bool := s.poison.contains (k / 8 * 8) || s.bitErrs.getD (k / 8 * 8) 0 == 2 || s.checkFails k

/-- A sorted list with one element put in, once. -/
def insertKey : List Nat → Nat → List Nat
  | [], k => [k]
  | j :: t, k => if k < j then k :: j :: t else if j = k then j :: t else j :: insertKey t k

/-- A word marked poisoned, or its poison cleared; either way its check bits are new (R229). -/
def setPoison (s : State) (k : Nat) (b : Bool) : State :=
  let w := k / 8 * 8
  { s with poison := if b then insertKey s.poison w else s.poison.filter (· != w), bitErrs := s.bitErrs.del w }

end State

/-! ### Far memory at physical addresses (R38, R39, R229, R426) -/

/-- Distinct elements of a list, in order. -/
def distinct : List Nat → List Nat
  | [] => []
  | a :: t => a :: (distinct t).filter (· != a)

/-- Bytes of HBM in a package (R426). -/
def hbmBytes : Nat := 512000000000

/-- A physical far address names a byte of host memory or of a package's HBM (R426). -/
def farNamed (pa : Nat) : Bool := decide (pa < 2 ^ 52 ∧ (2 ^ 51 ≤ pa ∨ pa % 2 ^ 42 < hbmBytes))

/-- The bytes that share one mark: a 64-byte access of HBM, whose check covers it (R38, R39), a 64-bit word elsewhere. -/
def markUnit (key : Nat) : Nat := if key < 2 ^ 51 then 64 else 8

namespace State

/-- Bytes at keys with the marks of the words they lie in (R230, R284). -/
def readRun (s : State) (keys : List Nat) : List (Nat × Bool) :=
  keys.map fun k => ((Memory.read s.mem k).toNat, s.poisoned k)

/-- A 64-byte access of HBM whose check fails has its eight words poisoned; in any case its check is computed anew (R39). -/
def renewCheck (s : State) (u : Nat) : State :=
  let s := if s.checkFails u then (List.range 8).foldl (fun s w => s.setPoison (u + 8 * w) true) s else s
  { s with hbmCheck := s.hbmCheck.del u }

/-- Bytes written at keys, in order, each with its mark. Marked bytes poison what shares their mark, and a whole unit of unmarked
bytes clears it; a narrower write leaves it as it is (R39, R229, R284). An access of HBM written here carries no scales, and the device computes its check,
after it has read the bytes that it keeps (R38, R39). -/
def writeRun (s : State) (l : List (Nat × Nat × Bool)) : State :=
  let s := (distinct ((l.filter fun x => decide (x.1 < 2 ^ 51)).map fun x => x.1 / 64 * 64)).foldl renewCheck s
  let s := { s with mem := l.foldl (fun m x => Memory.write m x.1 (BitVec.ofNat 8 x.2.1)) s.mem }
  (distinct (l.map fun x => x.1 / markUnit x.1 * markUnit x.1)).foldl (fun s u =>
    let n := markUnit u
    let part := l.filter fun x => decide (u ≤ x.1 ∧ x.1 < u + n)
    let words := (List.range (n / 8)).map fun w => u + 8 * w
    let s := if n = 64 then { s with hbmMeta := s.hbmMeta.del u } else s
    if part.any fun x => x.2.2 then words.foldl (fun s w => s.setPoison w true) s
    else if n ≤ (distinct (part.map fun x => x.1)).length then words.foldl (fun s w => s.setPoison w false) s
    else s) s

/-- Far bytes written by a party with or without the firmware right; a queue descriptor's PRIV bit that a party with it has set is noted (R385). -/
def rightRun (s : State) (right : Bool) (l : List (Nat × Nat × Bool)) : State :=
  let firsts := l.filter fun x => x.1 % 64 == 0
  let set := (firsts.filter fun x => right && x.2.1.testBit 1).map fun x => x.1
  { s.writeRun l with privs := set ++ s.privs.filter fun a => !firsts.any fun x => x.1 == a }

/-- A little-endian number of `n` bytes written at a physical far address; an address that names no byte is noted in `hole`
(R426). -/
def farStore (s : State) (pa n v : Nat) : State :=
  if farNamed pa && farNamed (pa + n - 1) then
    s.writeRun ((leBytes n v).zipIdx.map fun b => (pa + b.2, b.1.toNat, false))
  else { s with hole := some pa }

end State

end Sys2Proof.Machine
end

