-- ==== Sys2Proof/Machine/Ops.lean ====
section
/-! DEFINITION. The named operations over the state: registers, queues and token FIFOs (ch. 4), the agenda of steps to come, the
issue and completion of a word (R61–R65, R79, R119), the taking of a fault with its trap record and micro-PC record (R113–R116,
R142), and health events (R468). -/

namespace Sys2Proof.Machine

/-- The outcome of a step. -/
abbrev Out := Host.Outcome State Fault Refusal

/-- The code of an engine: 0 A, 1 X, 2 D (R96). -/
def engCode : Eng → Nat
  | .a => 0
  | .x => 1
  | .d => 2

/-- The engine of a code; 2 and above is D. -/
def engOf : Nat → Eng
  | 0 => .a
  | 1 => .x
  | _ => .d

/-- The key of slot `slot` of column `col`; slot 4 is the firmware context. -/
def slotKey (col slot : Nat) : Nat := col * 5 + slot

namespace Stream

def sk (k : Stream) : Nat := slotKey k.col k.slot
def ek (k : Stream) : Nat := k.sk * 3 + engCode k.eng
/-- A stream of the firmware context (R111). -/
def fw (k : Stream) : Bool := k.slot == 4

end Stream

namespace State

def slotAt (s : State) (k : Nat) : Slot := s.slots.getD k {}
def setSlot (s : State) (k : Nat) (v : Slot) : State := { s with slots := s.slots.put k v }
def engAt (s : State) (k : Nat) : Engine := s.engs.getD k {}
def setEng (s : State) (k : Nat) (v : Engine) : State := { s with engs := s.engs.put k v }
def colAt (s : State) (c : Nat) : Column := s.cols.getD c {}
def setCol (s : State) (c : Nat) (v : Column) : State := { s with cols := s.cols.put c v }
def towerAt (s : State) (t : Nat) : Tower := s.towers.getD t {}
def setTower (s : State) (t : Nat) (v : Tower) : State := { s with towers := s.towers.put t v }

/-- The engine and the slot of the stream whose word is being executed. -/
def e (s : State) : Engine := s.engAt s.cur.ek
def sl (s : State) : Slot := s.slotAt s.cur.sk
def setE (s : State) (v : Engine) : State := s.setEng s.cur.ek v
def setSl (s : State) (v : Slot) : State := s.setSlot s.cur.sk v

/-- What the words of a cycle read as it stood at the start of the cycle (R92, R97, R138, R205). -/
def snapshot (s : State) : Dawn :=
  { slots := s.slots, engs := s.engs, cols := s.cols, towers := s.towers, groups := s.groups, pierCtl := s.pierCtl, devCtl := s.devCtl, ctxs := s.ctxs,
    quads := s.quads, link := s.link, fports := s.fports, routes := s.routes, pages := s.pages, auditor := s.auditor, evict := s.evict, ages := s.ages,
    heats := s.heats, purges := s.purges, purgeErr := s.purgeErr, remapping := s.remapping, remapErr := s.remapErr, ctxBusy := s.ctxBusy,
    ctxLast := s.ctxLast, ctxErr := s.ctxErr, opPoint := s.opPoint, opCap := s.opCap, feFree := s.feFree, colls := s.colls }

/-- The state as words read it at the start of the cycle (R92, R97, R138, R205). -/
def atDawn (s : State) : State :=
  match s.dawn with
  | some d =>
    { s with slots := d.slots, engs := d.engs, cols := d.cols, towers := d.towers, groups := d.groups, pierCtl := d.pierCtl, devCtl := d.devCtl,
             ctxs := d.ctxs, quads := d.quads, link := d.link, fports := d.fports, routes := d.routes, pages := d.pages, auditor := d.auditor,
             evict := d.evict, ages := d.ages, heats := d.heats, purges := d.purges, purgeErr := d.purgeErr, remapping := d.remapping,
             remapErr := d.remapErr, ctxBusy := d.ctxBusy, ctxLast := d.ctxLast, ctxErr := d.ctxErr, opPoint := d.opPoint, opCap := d.opCap,
             feFree := d.feFree, colls := d.colls }
  | none => s

/-- A step is put on the agenda (newest last). -/
def due (s : State) (at_ prio : Nat) (ev : Instr) (arg : Nat := 0) : State :=
  { s with agenda := s.agenda ++ [⟨at_, prio, ev, arg⟩] }

/-- A fresh value that the spec leaves open, and the counter moved on. -/
def freeNat (s : State) : Nat × State :=
  (Config.freeNat s.nextFree, { s with nextFree := s.nextFree + 1 })

/-- A health event is posted; it is written at the end of the cycle (R468, R470). -/
def health (s : State) (ev : HEvent) : State := { s with hevents := s.hevents ++ [ev] }

/-- The location word of a health event about a column: pier and physical column site (R468). -/
def colLoc (s : State) (col : Nat) : Nat :=
  col / 64 % 4 * 2 ^ 56 + s.sites.getD col (col % 64) * 2 ^ 49

end State

/-! ### Scalar, vector and mask registers -/

namespace Engine

/-- A scalar register; s0 reads zero (R90). -/
def sreg (e : Engine) (n : Nat) : SReg := if n = 0 then {} else e.sregs.getD n {}

/-- A scalar register written; a write to s0 is discarded (R90). -/
def setS (e : Engine) (n : Nat) (r : SReg) : Engine := if n = 0 then e else { e with sregs := e.sregs.put n r }

end Engine

namespace Slot

def vreg (sl : Slot) (n : Nat) : VReg := sl.vregs.getD n {}
def setV (sl : Slot) (n : Nat) (r : VReg) : Slot := { sl with vregs := sl.vregs.put n r }
/-- A mask register; k0 is all ones (R90). -/
def kreg (sl : Slot) (n : Nat) : BitVec 256 := if n = 0 then BitVec.allOnes 256 else sl.kregs.getD n 0
/-- A mask register written; k0 is unwritable (R90). -/
def setK (sl : Slot) (n : Nat) (m : BitVec 256) : Slot := if n = 0 then sl else { sl with kregs := sl.kregs.put n m }
def queue (sl : Slot) (n : Nat) : QReg := sl.queues.getD n {}
def fifo (sl : Slot) (n : Nat) : Fifo := sl.fifos.getD n {}
def mb (sl : Slot) (n : Nat) : Word := sl.mbs.getD n 0

end Slot

/-- The reset value of a control register (the tables R44–R494); 0 where the table gives 0. -/
def ctlReset : Nat → Word
  | 0x002 => 1
  | 0x010 => 0x888888
  | 0x012 => 0x99441294
  | 0x080 => 64
  | 0x081 => 16
  | 0x125 => 0xD09D
  | 0x133 => 0x6AD
  | 0x140 => 0x155CC
  | 0x141 => 0x2AB98
  | 0x142 => 0x6AD
  | 0x172 => 0x0680_0000
  | 0x188 => 0x0000_0040_0000_0000
  | 0x195 => 0x0000_695F_0000_0000
  | 0x196 => 0xFF
  | _ => 0

namespace Slot
/-- A per-slot control register (R91). -/
def ctlr (sl : Slot) (c : Nat) : Word := sl.ctl.getD c (ctlReset c)
def setCtl (sl : Slot) (c : Nat) (v : Word) : Slot := { sl with ctl := sl.ctl.put c v }
end Slot

namespace Column
/-- A per-column control register (R91). -/
def ctlr (c : Column) (n : Nat) : Word := c.ctl.getD n (ctlReset n)
def setCtl (c : Column) (n : Nat) (v : Word) : Column := { c with ctl := c.ctl.put n v }
end Column

namespace State
/-- A control register of which the device has one copy (R91). -/
def devr (s : State) (n : Nat) : Word := s.devCtl.getD n (ctlReset n)
def setDev (s : State) (n : Nat) (v : Word) : State := { s with devCtl := s.devCtl.put n v }
end State

/-- The package's own number (R440). -/
def State.pkg (s : State) : Nat := (s.devr 0x170).toNat % 512

/-- Bits [hi : lo] of a word as a number. -/
def bitsAt (w : Word) (hi lo : Nat) : Nat := w.toNat / 2 ^ lo % 2 ^ (hi + 1 - lo)

/-- A word with bits [hi : lo] replaced. -/
def setBits (w : Word) (hi lo v : Nat) : Word :=
  BitVec.ofNat 64 (w.toNat - bitsAt w hi lo * 2 ^ lo + v % 2 ^ (hi + 1 - lo) * 2 ^ lo)

/-! ### Token FIFOs (R63, R97) -/

/-- The FIFO that an engine fills towards next and towards prev (R97). -/
def fifoOut : Eng → Bool → Nat
  | .a, true => 0 | .x, true => 1 | .d, true => 2
  | .x, false => 3 | .d, false => 4 | .a, false => 5

/-- The FIFO that an engine pops from its prev engine (`true`) and from its next engine (R97). -/
def fifoIn : Eng → Bool → Nat
  | .x, true => 0 | .d, true => 1 | .a, true => 2
  | .a, false => 3 | .x, false => 4 | .d, false => 5

/-- The FIFOs a word pops. -/
def popList (q : Seq) (e : Eng) : List Nat :=
  (if q.popp then [fifoIn e true] else []) ++ (if q.popn then [fifoIn e false] else [])

/-- The FIFOs a word pushes into. -/
def pushList (q : Seq) (e : Eng) : List Nat :=
  (if q.pushp then [fifoOut e false] else []) ++ (if q.pushn then [fifoOut e true] else [])

/-- Tokens held plus places reserved (R63, R97). -/
def Fifo.occupancy (f : Fifo) (cyc : Nat) : Nat :=
  f.avail + f.arriving + f.reserved + (if f.poppedAt = cyc then f.popped else 0)

/-- Tokens held, without reservations (R98). -/
def Fifo.count (f : Fifo) (cyc : Nat) : Nat :=
  f.avail + f.arriving + (if f.poppedAt = cyc then f.popped else 0)

def Fifo.pop (f : Fifo) (cyc : Nat) : Fifo :=
  { f with avail := f.avail - 1, popped := (if f.poppedAt = cyc then f.popped else 0) + 1, poppedAt := cyc }

def Slot.setFifo (sl : Slot) (n : Nat) (f : Fifo) : Slot := { sl with fifos := sl.fifos.put n f }

def Slot.popTokens (sl : Slot) (l : List Nat) (cyc : Nat) : Slot :=
  l.foldl (fun sl n => sl.setFifo n ((sl.fifo n).pop cyc)) sl

def Slot.reserveTokens (sl : Slot) (l : List Nat) : Slot :=
  l.foldl (fun sl n => sl.setFifo n { sl.fifo n with reserved := (sl.fifo n).reserved + 1 }) sl

/-- A reserved place of a FIFO turns into a token on its way (R63, R99). -/
def Slot.landToken (sl : Slot) (n : Nat) : Slot :=
  sl.setFifo n { sl.fifo n with reserved := (sl.fifo n).reserved - 1, arriving := (sl.fifo n).arriving + 1 }

/-- The ceiling of a FIFO (R98). -/
def Slot.ceiling (sl : Slot) (n : Nat) : Nat := bitsAt (sl.ctlr 0x10) (4 * n + 3) (4 * n)

/-- The first FIFO, in index order, whose ceiling the places in `l` would exceed (R63, R99); the slot is the one of the start of the cycle (R97). -/
def Slot.overCeiling (sl : Slot) (l : List Nat) (cyc : Nat) : Option Nat :=
  (List.range 6).find? fun n =>
    l.contains n && decide (sl.ceiling n < (sl.fifo n).occupancy cyc + l.count n)

/-- A push lands: the place becomes a token, available `2` cycles after the completion (R63). -/
def State.landTokens (s : State) (k : Stream) (l : List Nat) : State :=
  l.foldl (fun s n =>
    (s.setSlot k.sk ((s.slotAt k.sk).landToken n)).due (s.cyc + 2) 10 (.tokenAvailable k.col k.slot n)) s

/-! ### Queue registers (R95) -/

/-- Entries of a queue register (R95). -/
def queueDepth (n : Nat) : Nat := if n < 4 then 16 else 4

/-- A write has room: entries held, reserved, and freed in this very cycle are below the depth (R95). -/
def QReg.hasRoom (q : QReg) (n cyc : Nat) : Bool :=
  decide (q.held.length + q.reserved + (if q.freedAt = cyc then q.freed else 0) < queueDepth n)

/-- The oldest entry, when it is readable (R95). -/
def QReg.front (q : QReg) (cyc : Nat) : Option QVal :=
  match q.held with
  | (t, v) :: _ => if t ≤ cyc then some v else none
  | [] => none

def QReg.dropFront (q : QReg) (cyc : Nat) : QReg :=
  { q with held := q.held.tail, freed := (if q.freedAt = cyc then q.freed else 0) + 1, freedAt := cyc }

def Slot.setQueue (sl : Slot) (n : Nat) (q : QReg) : Slot := { sl with queues := sl.queues.put n q }

def Slot.reserveQueue (sl : Slot) (n : Nat) : Slot :=
  sl.setQueue n { sl.queue n with reserved := (sl.queue n).reserved + 1 }

/-- The reserved entry takes its value, readable from cycle `t`. -/
def Slot.fillQueue (sl : Slot) (n t : Nat) (v : QVal) : Slot :=
  sl.setQueue n { sl.queue n with reserved := (sl.queue n).reserved - 1, held := (sl.queue n).held ++ [(t, v)] }

/-- The writer and the reader of queue n under QMAP (R96). -/
def Slot.writerOf (sl : Slot) (n : Nat) : Nat := bitsAt (sl.ctlr 0x12) (4 * n + 1) (4 * n)
def Slot.readerOf (sl : Slot) (n : Nat) : Nat := bitsAt (sl.ctlr 0x12) (4 * n + 3) (4 * n + 2)

/-! ### Faults (R113–R116, R142) -/

/-- The open-level mask (R114). -/
def Engine.levelMask (e : Engine) : Nat := e.levels.foldl (fun m l => m ||| 2 ^ l.lvl) 0

/-- A signed stride as 64 bits. -/
def strideWord (i : Int) : Nat := (BitVec.ofInt 64 i).toNat

/-- The eight words of one level of the micro-PC record; `ord` is its place in the order of opening (R115). -/
def levelWords (l : Level) (ord : Nat) : List Nat :=
  let reg (n : Nat) : Nat := ((l.desig[n]?).map (·.1)).getD 0
  let str (n : Nat) : Nat := ((l.desig[n]?).map (fun d => strideWord d.2)).getD 0
  [l.head + ord * 2 ^ 20 + l.count * 2 ^ 32,
   l.iter + (2 ^ l.desig.length - 1) * 2 ^ 32 + reg 0 * 2 ^ 36 + reg 1 * 2 ^ 42 + reg 2 * 2 ^ 48 + reg 3 * 2 ^ 54,
   str 0, str 1, str 2, str 3, 0, 0]

/-- The index of a level in the list, innermost first, turned into its place in the order of opening. -/
def Engine.levelOrder (e : Engine) (n : Nat) : Nat :=
  e.levels.length - 1 - (e.levels.findIdx fun l => l.lvl == n)

/-- The 64 words of the micro-PC record (R115). -/
def Engine.record (e : Engine) (eng : Eng) (hdr : Bool) : List Nat :=
  let w0 := e.hdr.secno + e.lastRet * 2 ^ 12 + (if hdr then 0 else e.idx) * 2 ^ 24 + e.levelMask * 2 ^ 44
    + e.rets.length * 2 ^ 50 + engCode eng * 2 ^ 53 + hdr.toNat * 2 ^ 55
  let r (n : Nat) : Nat := e.rets.getD n 0
  [w0, r 0 + r 1 * 2 ^ 20 + r 2 * 2 ^ 40, r 3, 0, 0, 0, 0, 0]
    ++ (List.range 6).flatMap (fun n =>
        match e.levels.find? (fun l => l.lvl == n) with
        | some l => levelWords l (e.levelOrder n)
        | none => List.replicate 8 0)
    ++ List.replicate 8 0

/-- The physical address of the micro-PC record of an engine (R115). -/
def State.recordAddr (s : State) (k : Stream) : Nat :=
  bitsAt ((s.colAt k.col).ctlr 0x137) 51 13 * 8192 + 2048 * k.slot + 512 * engCode k.eng

/-- Words written from a physical far address, 8 bytes each. -/
def State.storeWords (s : State) (k : Nat) : List Nat → State
  | [] => s
  | w :: t => (s.farStore k 8 w).storeWords (k + 8) t

/-- The group of a slot. -/
def State.groupOf (s : State) (sk : Nat) : Option (Nat × Group) :=
  (s.slotAt sk).gid.bind fun g => (s.groups.get? g).map fun v => (g, v)

/-- A stack serves traffic other than a micro-PC record: commands, relayouts or writes on their way. DEDUCED (log 147): what the whole device
does counts, as the spec does not say which stack holds an address. -/
def State.farTraffic (s : State) : Bool :=
  s.chans.any (fun r => !r.2.queue.isEmpty) || s.jobs.any (·.began) || !s.farHeld.isEmpty || !s.async.isEmpty

/-- The engine with its micro-PC at the word that it has not issued yet: once the EXIT or DONE word of a section has issued, that is word 0 of the section
that follows, whether one does or not (R366, R368). DESIGN CHOICE (log 148). -/
def Engine.unissued (e : Engine) : Engine :=
  match e.sec with
  | .retiring _ | .empty => { e with hdr := { e.hdr with secno := (e.hdr.secno + 1) % 4096 }, idx := 0, levels := [], rets := [] }
  | _ => e

/-- The record of an engine is written, and its arrival at its DEV point scheduled: the very delay is left open, and is at most 200 cycles while
the stack serves no other traffic (R115). -/
def State.writeRecord (s : State) (k : Stream) (hdr : Bool) : State :=
  let s := s.storeWords (s.recordAddr k) ((s.engAt k.ek).unissued.record k.eng hdr)
  let (d, s) := s.freeNat
  let n := if s.farTraffic then d else min d 200
  s.due (s.cyc + n) 20 (.microPcRecordArrival k.col k.slot) (d - n)

/-- The firmware context of a column stops on all three engines, and event 0x20 is posted (R142, R474). DESIGN CHOICE (log 133): two firmware engines
that fault in one cycle post one event each. -/
def State.stopFirmware (s : State) (k : Stream) (code : Nat) : State :=
  let s := s.setSlot k.sk { s.slotAt k.sk with stop := some s.cyc }
  s.health { code := 0x20, loc := s.colLoc k.col,
             info := BitVec.ofNat 64 (code + engCode k.eng * 64 + (s.engAt k.ek).idx * 256) }

/-- The trap record of a slot (R114). -/
def Slot.trap (sl : Slot) (e : Engine) (eng : Eng) (code : Nat) (info : Word) (hdr : Bool) (upc : Nat) : Slot :=
  ((((sl.setCtl 0x60 (BitVec.ofNat 64 (code + engCode eng * 64 + hdr.toNat * 256))).setCtl 0x61
    (BitVec.ofNat 64 e.hdr.secno)).setCtl 0x62
    (BitVec.ofNat 64 ((if hdr then 0 else e.idx) + e.levelMask * 2 ^ 20 + e.rets.length * 2 ^ 26))).setCtl 0x63
    info).setCtl 0x64 (BitVec.ofNat 64 upc)

/-- The group of a slot enters Faulted with the record of engine `k` (R113–R115, R367, R368); `src`: TRAPSRC of an engine
fault, 0 for a word fault. An engine fault and WATCHDOG leave the engine where it stands, be it before its section's waits (R366, R368). -/
def State.groupFault (s : State) (k : Stream) (code : Nat) (info : Word) (hdr : Bool) (src : Nat) : State :=
  let e := s.engAt k.ek
  let dom := ((s.groupOf k.sk).map fun g => g.2.region.domain).getD 0
  let sl := ((s.slotAt k.sk).trap e.unissued k.eng code info hdr (s.recordAddr k)).setCtl 0x136 (BitVec.ofNat 64 src)
  let sl := sl.setCtl 0x135 (BitVec.ofNat 64 dom)
  let s := s.setSlot k.sk { sl with stop := some s.cyc, wdogCount := 0 }
  let s := s.setEng k.ek { e with sec := if src = 0 ∧ code ≠ 0x1A then .faulted else e.sec }
  let s := match s.groupOf k.sk with
    | some (g, v) => { s with groups := s.groups.put g { v with state := .faulted, stoppedAt := s.cyc } }
    | none => s
  s.writeRecord k hdr

/-- A far page of a context whose poison has been consumed (R424). -/
def State.noteBad (s : State) (ctx : Nat) (info : Word) : State :=
  if bitsAt info 63 63 = 0 then s
  else
    let c := s.ctxs.getD ctx {}
    { s with ctxs := s.ctxs.put ctx { c with badPages := bitsAt info 51 16 :: c.badPages.filter (· != bitsAt info 51 16) } }

/-- A slot has recorded, in this cycle, a word's or header's fault of an engine that comes after `eng` in the order A, X, D (R113). -/
def State.laterFault (s : State) (sk : Nat) (eng : Eng) : Bool :=
  let sl := s.slotAt sk
  sl.stop == some s.cyc && sl.ctlr 0x136 == 0 && decide (engCode eng < bitsAt (sl.ctlr 0x60) 7 6) && bitsAt (sl.ctlr 0x60) 5 0 != 0x1A
    && (match s.groupOf sk with | some (_, g) => g.state == .faulted && g.stoppedAt == s.cyc | none => false)

/-- The recorded fault of a slot gives way to one of an earlier engine (R113): its engine stands where it did, and what its fault brought about at
the end of the cycle does not come. -/
def State.dropFault (s : State) (k : Stream) : State :=
  let sl := s.slotAt k.sk
  let o : Stream := { k with eng := engOf (bitsAt (sl.ctlr 0x60) 7 6) }
  let e := s.engAt o.ek
  let s := s.setEng o.ek { e with sec := if bitsAt (sl.ctlr 0x60) 8 8 = 1 then .waiting else .running }
  let purged (d : Due) : Bool := match d.ev, s.groupOf k.sk with
    | .purge a, some (_, g) => d.at_ == s.cyc && d.prio == 950 && a == g.ctx * 2 ^ 32 + g.reqtag
    | _, _ => false
  let poisoned (h : HEvent) : Bool := match s.groupOf k.sk with
    | some (_, g) => h.code == 0x10 && h.ctx == g.ctx && h.tag == g.reqtag && h.loc == s.colLoc k.col && h.info == sl.ctlr 0x63
    | none => false
  { s with
    agenda := s.agenda.filter fun d => !(purged d && bitsAt (sl.ctlr 0x60) 5 0 == 0x0D) && d.ev != .microPcRecordArrival k.col k.slot
    hevents := s.hevents.filter fun h => !(poisoned h && bitsAt (sl.ctlr 0x60) 5 0 == 0x0D)
    slots := s.slots.put k.sk { sl with stop := none } }

/-- A word or a header of stream `k` raises a fault (R113, R142). When an earlier engine of the slot, in the order A, X, D, has faulted in this
cycle, or the group has stopped, the word has no effect and is tried again after the group resumes; the fault of a later engine gives way to it
(R113). Consumed poison posts event 0x10 and purges the request tag at the end of the cycle (R471). -/
def State.takeFault (s : State) (k : Stream) (code : Nat) (info : Word) (hdr : Bool := false) : State :=
  let s := if !k.fw && s.laterFault k.sk k.eng then s.dropFault k else s
  if k.fw then s.stopFirmware k code
  else if (s.slotAt k.sk).stop.isSome then s
  else
    let s := s.groupFault k code info hdr 0
    match s.groupOf k.sk with
    | some (_, g) =>
      if code = 0x0D then
        ((s.noteBad g.ctx info).health { code := 0x10, ctx := g.ctx, tag := g.reqtag, loc := s.colLoc k.col, info := info }).due s.cyc 950
          (.purge (g.ctx * 2 ^ 32 + g.reqtag)) 1
      else s
    | none => s

/-- Entries of the load queue and of the store queue that a stream uses (R301). -/
def State.loadCount (s : State) (k : Stream) : Nat :=
  (s.flights.filter fun f => f.at_ == k && (match f.pend with
    | .loadS _ _ | .loadQ _ _ | .loadV _ _ _ | .elemS _ _ _ _ | .elemV _ _ _ | .port _ _ | .bwait _ _ | .tile _ => true
    | _ => false)).length

def State.storeCount (s : State) (k : Stream) : Nat :=
  (s.stores.filter fun e => e.by_ == k).length +
  (s.flights.filter fun f => f.at_ == k && (match f.pend with
    | .port _ _ => f.pieces.isEmpty || f.pieces.any fun p => !p.done
    | .bwait _ _ => true
    | _ => false)).length

/-- A queue of the stream has no entry free (R301). -/
def queuesFull (s : State) : Bool := decide (16 ≤ s.loadCount s.cur) || decide (16 ≤ s.storeCount s.cur)

/-! ### Issue and completion of a word -/

/-- What a word does when it issues. -/
structure Done where
  st : State
  lat : Nat := 1
  writes : List Write := []
  busy : List Reg := []
  fifos : List Nat := []
  pend : Pend := .none
  pieces : List Piece := []
  uses : List (Nat × Nat) := []
  spots : List Spot := []
  hold : Bool := false

/-- What becomes of a word whose operands are there: it is not ready (R107), it faults with a code and TRAPINFO (R116), or it
issues. -/
inductive Act where
  | wait
  | fault (code : Nat) (info : Word)
  | go (d : Done)

/-- The register a result goes to. -/
def Write.reg : Write → List Reg
  | .s n _ => if n = 0 then [] else [.s n]
  | .v n _ => [.v n]
  | .k n _ => [.k n]
  | .h n _ => [.h n]
  | .cf _ => [.cf]
  | .q _ _ _ => []

/-- A result is written (R79). -/
def State.applyWrite (s : State) (k : Stream) (w : Write) : State :=
  match w with
  | .s n r => s.setEng k.ek ((s.engAt k.ek).setS n r)
  | .v n r => s.setSlot k.sk ((s.slotAt k.sk).setV n r)
  | .k n m => s.setSlot k.sk ((s.slotAt k.sk).setK n m)
  | .h n b =>
    let sl := s.slotAt k.sk
    s.setSlot k.sk { sl with hregs := match b with | some e => sl.hregs.put n e | none => sl.hregs.del n }
  | .cf b => s.setEng k.ek { s.engAt k.ek with cf := b }
  | .q n d v => s.setSlot k.sk ((s.slotAt k.sk).fillQueue n (s.cyc + d) v)

/-- The strides of a level are added to its registers (R130). -/
def Engine.stride (e : Engine) (l : List (Nat × Int)) : Engine :=
  l.foldl (fun e d => e.setS d.1 { e.sreg d.1 with val := (e.sreg d.1).val + BitVec.ofInt 64 d.2 }) e

/-- The word has completed and nothing of its section is left in flight: the section retires at the end of this cycle (R79). -/
def State.checkRetire (s : State) (k : Stream) : State :=
  match (s.engAt k.ek).sec with
  | .retiring _ =>
    if s.flights.any (fun f => f.at_ == k) then s
    else s.due s.cyc 700 (.sectionRetire k.col k.slot k.eng)
  | _ => s

/-- The value of a JI or JM selector: the register or the mailbox it reads (R61, R132). DESIGN CHOICE (log 134): the register is no operand, so that
a mark on it is not consumed. -/
def State.selValue (s : State) (k : Stream) (q : Seq) : Nat :=
  match q.sel with
  | .ji => ((s.engAt k.ek).sreg (24 + q.tgt)).val.toNat
  | .jm => ((s.slotAt k.sk).mb (q.tgt % 4)).toNat
  | _ => 0

/-- The selector acts on the micro-PC (R61, R65, R130); `v` is the value of JI and JM, `cf` the flag as the word leaves it. -/
def Engine.advance (e : Engine) (q : Seq) (cf : Bool) (v : Nat) : Engine :=
  let tgt := e.targets.getD q.tgt 0
  match q.sel with
  | .next | .safe => { e with idx := e.idx + 1 }
  | .endloop =>
    match e.levels with
    | [] => { e with idx := e.idx + 1 }
    | l :: ls =>
      if l.iter + 1 < l.count then { e with idx := l.head, levels := { l with iter := l.iter + 1 } :: ls }
      else { e with idx := e.idx + 1, levels := ls }
  | .exit => { e with sec := .retiring false, levels := [], rets := [] }
  | .done => { e with sec := .retiring true, levels := [], rets := [] }
  | .j => { e with idx := tgt }
  | .jc => { e with idx := if cf then tgt else e.idx + 1 }
  | .jnc => { e with idx := if cf then e.idx + 1 else tgt }
  | .ji | .jm => { e with idx := v }
  | .call => { e with idx := tgt, rets := e.rets ++ [e.idx + 1] }
  | .ret => { e with idx := e.rets.getLast?.getD 0, rets := e.rets.dropLast }

/-- The strides that an ENDLOOP applies (R130). -/
def Engine.loopStrides (e : Engine) (q : Seq) : List (Nat × Int) :=
  match q.sel, e.levels with
  | .endloop, l :: _ => l.desig
  | _, _ => []

/-- The faults of the selector and of FL (R64, R65, R62), in the order of R82 step 4; none is for a mark on the register of a JI (log 134). -/
def State.selFault (s : State) (k : Stream) (q : Seq) : Option (Nat × Word) :=
  let e := s.engAt k.ek
  if q.fl ≠ 0 ∧ !(e.levels.any fun l => l.lvl == q.lvl) then some (0x15, BitVec.ofNat 64 q.lvl)
  else if q.sel = .endloop ∧ e.levels.isEmpty then some (0x15, 8)
  else if q.sel = .call ∧ 4 ≤ e.rets.length then some (0x16, 1)
  else if q.sel = .ret ∧ e.rets.isEmpty then some (0x16, 0)
  else if (q.sel = .ji ∨ q.sel = .jm) ∧ e.hdr.len ≤ s.selValue k q then
    some (0x01, BitVec.ofNat 64 (s.load (codeKey k.sk (e.base + e.pos + 8 + 12 * ((e.hdr.tcnt + 5) / 6)
      + 12 * e.idx + 4)) 8))
  else none

/-- The FL condition of a word holds (R64). -/
def Engine.flHolds (e : Engine) (q : Seq) : Bool :=
  match e.levels.find? (fun l => l.lvl == q.lvl) with
  | none => true
  | some l =>
    match q.fl with
    | 0 => true
    | 1 => l.iter == 0
    | 2 => l.iter + 1 == l.count
    | _ => l.iter == 0 || l.iter + 1 == l.count

/-- A word in flight of the same engine and slot still has to write one of the registers (R119). -/
def State.blockedOn (s : State) (k : Stream) (regs : List Reg) : Bool :=
  s.flights.any fun f => f.at_ == k && f.busy.any fun r => regs.contains r

/-- The engine may issue now: its section is Dispatched or Running, its start has come, it is not held by a word, and its group
has not stopped before this cycle (R79, R107, R113). -/
def State.canIssue (s : State) (k : Stream) : Bool :=
  let e := s.engAt k.ek
  (e.sec == .dispatched || e.sec == .running) && decide (e.issueFrom ≤ s.cyc) && e.heldBy.isNone &&
  decide (e.heldTo ≤ s.cyc) && !e.atSafe && !s.issued.contains k && !(k.eng == .x && (s.slotAt k.sk).owed.isSome) &&
  (match (s.slotAt k.sk).stop with | none => true | some t => decide (s.cyc ≤ t))

/-- The pops of a word are met (R63). -/
def State.popsMet (s : State) (k : Stream) (q : Seq) : Bool :=
  (popList q k.eng).all fun n => decide (0 < ((s.slotAt k.sk).fifo n).avail)

/-- A word completes: results, strides, pushes; then its section may retire (R79, R63, R130). A word whose cf came late has its
selector act now. -/
def State.complete (s : State) (f : Flight) (q : Seq) : State :=
  let s := f.writes.foldl (fun s w => s.applyWrite f.at_ w) s
  let s := s.setEng f.at_.ek ((s.engAt f.at_.ek).stride f.strides)
  let s := if f.selLate then
      let e := s.engAt f.at_.ek
      s.setEng f.at_.ek { e.advance q e.cf 0 with heldBy := none }
    else
      let e := s.engAt f.at_.ek
      if e.heldBy = some f.id then s.setEng f.at_.ek { e with heldBy := none, heldTo := s.cyc + 1 } else s
  (s.landTokens f.at_ f.pushes).checkRetire f.at_

/-- The cf that a word's own JC or JNC tests: the value the word writes, or cf as it stands (R61). -/
def cfAfter (ws : List Write) (cf : Bool) : Bool :=
  ws.foldl (fun c w => match w with | .cf b => b | _ => c) cf

/-! ### What the device watches of an audited group (R475–R478) -/

/-- An audit is abandoned: event 0x19 with its reason, the log slot is freed, and the group runs on (R475, R478). -/
def State.abandonAudit (s : State) (g reason what : Nat) : State :=
  match s.groups.get? g with
  | none => s
  | some v =>
    let s := { s with groups := s.groups.put g { v with audit := none },
                      auditor := { s.auditor with pending := s.auditor.pending - 1, abandoned := min 0xFFFF (s.auditor.abandoned + 1) } }
    s.health { code := 0x19, ctx := v.ctx, tag := v.reqtag, info := BitVec.ofNat 64 (reason + 256 * what) }

/-- The words of R478 that can observe time or another party, so far as the word itself shows it. -/
def unauditable (i : Instr) (q : Seq) : Bool :=
  q.sel == .jm ||
  match i with
  | .rdcyc _ _ | .mbrd _ _ | .mfold _ _ | .popw _ _ | .enqw _ _ | .enq _ _ | .gsig _ _ | .yield _ _ | .atom _ _ | .red _ _
  | .seal _ _ | .aatom _ _ | .binit _ _ | .arrive _ _ | .arrdrop _ _ | .bexpect _ _ | .btest _ _ | .bwait _ _ => true
  | .ctlrd _ f => [0x020, 0x022, 0x050, 0x051, 0x110, 0x030].contains f.csel
  | .ctlwr _ f => f.csel == 0x17A
  | .qput _ f | .qget _ f => decide (2 ≤ f.sub)
  | .hwait _ f => f.sub % 2 == 1
  | .mlease _ f => f.sub % 2 == 1
  | .cspop _ f => f.sub / 8 % 2 == 1
  | .vshift _ f => decide (f.sub % 8 < 4)
  | _ => false

/-- A word that is a matrix product (R478). -/
def isProduct : Instr → Bool
  | .mma _ _ | .mmaq _ _ | .mmac _ _ => true
  | _ => false

/-- A word of a slot's group names a tower of another column: the audit of the group, unless it is a replay, is abandoned (R478). -/
def State.auditAway (s : State) (sk opc : Nat) : State :=
  match s.groupOf sk with
  | some (g, v) => if v.audit.any fun a => a.replayOf.isNone then s.abandonAudit g 2 opc else s
  | none => s

/-- A word of an audited group issues: its products are counted, and a word of R478 ends the audit; of a word that its FL condition suppresses (R64)
only the selector acts. A replay is no audited group. -/
def State.auditIssue (s : State) (f : Flight) (q : Seq) (live : Bool) : State :=
  match s.groupOf f.at_.sk with
  | none => s
  | some (g, v) =>
    match v.audit.filter fun a => a.replayOf.isNone with
    | none => s
    | some a =>
      let away (key : Nat) : Bool := decide ((key - towerBase) / 2 ^ 22 / 16 ≠ f.at_.col)
      let shared := match f.ins, f.pend with
        | .cspush _ _, .port _ _ => true
        | .cspop _ _, .port _ _ => true
        | _, _ => false
      let far := (f.pieces.any fun p => away p.key) || s.stores.any fun e => e.id == f.id && e.pieces.any fun p => away p.key
      let n := a.products + (if live && isProduct f.ins then 1 else 0)
      let s := { s with groups := s.groups.put g { v with audit := some { a with products := n } } }
      if q.sel == .jm || (live && (unauditable f.ins q || shared || far || decide (65520 < n))) then
        s.abandonAudit g 2 ((f.ins.form.map Form.opc).getD 0)
      else s

/-- The word of the current stream issues: tokens are popped and places reserved, the selector acts, and the word completes in
this cycle or goes into flight (R61–R65, R79). -/
def State.finish (s : State) (i : Instr) (q : Seq) (d : Done) (live : Bool) : State :=
  let k := s.cur
  let pops := if live then popList q k.eng else []
  let pushes := if live then pushList q k.eng else []
  let v := s.selValue k q
  let s1 := d.st
  let e := s1.engAt k.ek
  let strides := e.loopStrides q
  let cfLate := d.busy.contains .cf && (q.sel == .jc || q.sel == .jnc)
  let e1 := if cfLate then e else e.advance q (cfAfter d.writes e.cf) v
  let f : Flight :=
    { id := s1.nextId, at_ := k, secno := e.hdr.secno, issued := s1.cyc, ins := i, lat := d.lat, writes := d.writes,
      busy := d.busy ++ d.writes.flatMap Write.reg ++ strides.map (fun x => Reg.s x.1), strides := strides,
      pushes := pushes, selLate := cfLate, pend := d.pend, pieces := d.pieces,
      before := if d.hold then some e else none, pops := pops, fifos := d.fifos, uses := d.uses, spots := d.spots }
  let s2 := s1.setEng k.ek { e1 with
    sec := if e1.sec == .dispatched then .running else e1.sec, wait := 0, blocked := 0,
    target := none, leased := none, safeHere := q.sel == .safe, heldBy := if d.hold || cfLate then some f.id else e1.heldBy }
  let sl := ((s2.slotAt k.sk).popTokens pops s2.cyc).reserveTokens (pushes ++ d.fifos)
  let s3 := { s2.setSlot k.sk sl with nextId := s2.nextId + 1, issued := s2.issued ++ [k] }
  let s3 := s3.auditIssue f q live
  if d.lat ≤ 1 ∧ d.pend = .none then s3.complete f q
  else
    let s4 := { s3 with flights := s3.flights ++ [f] }
    if d.pend = .none then s4.due (s4.cyc + d.lat - 1) 600 (.wordComplete f.id) else s4

/-- A word of the current stream raises a fault: it has taken its issue slot. -/
def faultNow (s : State) (c : Nat) (info : Word) : Out :=
  .next { s.takeFault s.cur c info with issued := s.issued ++ [s.cur] }

/-- A word in flight that held its engine is undone: the engine stands at it again, and its tokens are given back (R63, R336). -/
def State.undoWord (s : State) (f : Flight) : State :=
  let s := { s with flights := s.flights.filter fun g => g.id != f.id }
  let sl := s.slotAt f.at_.sk
  let sl := f.pops.foldl (fun sl n => sl.setFifo n { sl.fifo n with avail := (sl.fifo n).avail + 1 }) sl
  let sl := (f.pushes ++ f.fifos).foldl (fun sl n => sl.setFifo n { sl.fifo n with reserved := (sl.fifo n).reserved - 1 }) sl
  let s := s.setSlot f.at_.sk sl
  let e := s.engAt f.at_.ek
  match f.before with
  | some b => s.setEng f.at_.ek { e with
      idx := b.idx, levels := b.levels, rets := b.rets, sec := b.sec, heldBy := none, hdr := b.hdr, targets := b.targets,
      safeHere := b.safeHere }
  | none => s

/-- A word in flight raises a fault at its completion: it has had no effect (R63, R172, R332). -/
def State.lateFault (s : State) (f : Flight) (code : Nat) (info : Word) : State := (s.undoWord f).takeFault f.at_ code info

/-- The words that write memory, for fences (R309). -/
def isWriteWord : Instr → Bool
  | .st _ _ | .vst _ _ | .nst _ _ | .hst _ _ | .red _ _ | .atom _ _ | .seal _ _ | .mdrain _ _ => true
  | _ => false

/-- The signal words of R309: a push, QPUT, the words of the copy and stream class, the barrier words. -/
def isSignalWord (i : Instr) (q : Seq) : Bool :=
  q.pushp || q.pushn ||
  match i with
  | .qput _ _ | .copy _ _ | .chain _ _ | .gather _ _ | .scatter _ _ | .cpyx _ _ | .stbind _ _ | .aatom _ _ | .binit _ _
  | .arrive _ _ | .arrdrop _ _ | .bexpect _ _ | .btest _ _ | .bwait _ _ => true
  | _ => false

/-- A load whose completion writes an entry of a queue register, which another engine may then read (R311). -/
def fillsQueue : Instr → Bool
  | .vld _ _ => true
  | .hld _ f => f.sub / 2 % 2 == 1
  | _ => false

/-- A REL or AR fence of the stream has not completed (R309). -/
def State.relPending (s : State) (k : Stream) : Bool :=
  s.flights.any fun f => f.at_ == k && (match f.pend with | .fence kd _ => kd == 1 || kd == 2 | _ => false)

/-- A fence holds this word (R309); a load into a queue register is held too, so that its entry is not read before the writes that precede the fence have
reached their ports (R311). -/
def State.fenceHolds (s : State) (k : Stream) (i : Instr) (q : Seq) : Bool :=
  (isWriteWord i || isSignalWord i q || fillsQueue i) && s.relPending k

/-- The registers that the sequencing fields of a word read or write: the register of JI, cf for JC and JNC, and the registers that
an ENDLOOP strides (R61, R119, R130). -/
def seqRegs (e : Engine) (q : Seq) : List Reg :=
  (match q.sel with | .ji => [Reg.s (24 + q.tgt)] | .jc | .jnc => [Reg.cf] | _ => []) ++ (e.loopStrides q).map fun x => Reg.s x.1

/-- The issue of a word of the current stream. `regs` are the registers it reads or writes, `own` its own checks and effect,
`dec` the checks it makes at decode after WRONG_ENGINE (R146, R205). A word that is not ready leaves the state as it is
(R107). -/
def wordIssue (i : Instr) (q : Seq) (regs : List Reg) (own : State → Act) (s : State)
    (dec : State → Option (Nat × Word) := fun _ => none) : Out :=
  let k := s.cur
  let e := s.engAt k.ek
  if !s.canIssue k then .next s
  else
    match dec s with
    | some (c, info) => faultNow s c info
    | none =>
      if !e.flHolds q then
        if s.blockedOn k (seqRegs e q) then .next s
        else match s.selFault k q with
          | some (c, info) => faultNow s c info
          | none => .next (s.finish i q { st := s } false)
      else if s.blockedOn k (regs ++ seqRegs e q) || !s.popsMet k q || s.fenceHolds k i q then .next s
      else
        match own s, s.selFault k q with
        | .wait, _ => .next s
        | _, some (c, info) => faultNow s c info
        | .fault c info, none => faultNow s c info
        | .go d, none =>
          match ((s.atDawn).slotAt k.sk).overCeiling (pushList q k.eng ++ d.fifos) s.cyc with
          | some n => faultNow s 0x07 (BitVec.ofNat 64 (n + 16 * (s.slotAt k.sk).ceiling n))
          | none => .next (s.finish i q d true)

end Sys2Proof.Machine
end

