-- ==== Sys2Proof/Machine/Flags.lean ====
section
/-! DEFINITION. Conditions and flags: the compares of R123, the flags of FPSTAT (R45) and the way a word raises them (R46). -/

namespace Sys2Proof.Machine

/-- Cond(cc, a, b) on words of any width (R123, R153). -/
def condHolds {w : Nat} (cc : Nat) (a b : BitVec w) : Bool :=
  match cc with
  | 0 => a == b
  | 1 => a != b
  | 2 => a.slt b
  | 3 => a.sle b
  | 4 => b.slt a
  | 5 => b.sle a
  | 6 => a.ult b
  | 7 => a.ule b
  | 8 => b.ult a
  | 9 => b.ule a
  | 10 => a &&& b != 0
  | _ => a &&& b == 0

/-- The flags of FPSTAT by their bit (R45). -/
def NV : Nat := 1
def DZ : Nat := 2
def OF : Nat := 4
def UF : Nat := 8
def NX : Nat := 16
def SAT : Nat := 32
def QXM : Nat := 64
def SNAN : Nat := 128
def FTZD : Nat := 256

/-- Flags that a word sets; they join FPSTAT at the end of the cycle and survive a W1C write of that cycle (R46). -/
def Slot.raise (sl : Slot) (fl : Nat) : Slot := { sl with flagsNow := sl.flagsNow ||| fl }

/-- FWPEND bits that hardware sets; they survive a W1C write of the cycle (R46, R92). -/
def Column.raisePend (c : Column) (b : Nat) : Column :=
  { c.setCtl 0x134 (c.ctlr 0x134 ||| BitVec.ofNat 64 b) with pendNow := c.pendNow ||| b }

end Sys2Proof.Machine
end

