-- ==== Sys2Proof/Machine/Operands.lean ====
section
/-! DEFINITION. The operand forms: scalar operands with the poison they carry (R119, R143, R230), the immediate of format B
(R67), directions and neighbours (R15), context columns (R378), and tower addresses with their windows (R208–R211, R237,
R516). -/

namespace Sys2Proof.Machine

namespace State

/-- The value of a scalar register of the current engine. -/
def sv (s : State) (n : Nat) : Word := (s.e.sreg n).val

/-- The TRAPINFO of the first mark among scalar registers read as operands (R116, R230). -/
def markOf (s : State) (rs : List Nat) : Option Word :=
  (rs.findSome? fun n => (s.e.sreg n).mark).map fun m => BitVec.ofNat 64 m

end State

/-- A word that consumes the marks of the scalar registers it reads (R143, R230). -/
def consuming (s : State) (rs : List Nat) (act : Act) : Act :=
  match s.markOf rs with
  | some m => .fault 0x0D m
  | none => act

/-- A result for one scalar register, with no mark. -/
def resS (s : State) (dst : Nat) (v : Word) (lat : Nat := 1) : Act :=
  .go { st := s, lat := lat, writes := [.s dst { val := v }] }

/-- A word with two scalar operands and one scalar result (R121). -/
def alu3 (f : FmtA) (lat : Nat) (op : Word → Word → Word) (s : State) : Act :=
  consuming s [f.oa, f.ob] (resS s f.dst (op (s.sv f.oa) (s.sv f.ob)) lat)

/-- A word with one scalar operand and one scalar result. -/
def alu2 (f : FmtA) (op : Word → Word) (s : State) : Act :=
  consuming s [f.oa] (resS s f.dst (op (s.sv f.oa)))

/-- The registers of a three-register scalar word. -/
def regs3 (f : FmtA) : List Reg := [.s f.dst, .s f.oa, .s f.ob]

/-- The immediate of format B as a word (R67). -/
def imm (f : FmtB) : Word := BitVec.ofNat 64 f.imm64

/-- A word with a scalar operand and an immediate (R121). -/
def aluI (f : FmtB) (op : Word → Word → Word) (s : State) : Act :=
  consuming s [f.oa] (resS s f.dst (op (s.sv f.oa) (imm f)))

def regsI (f : FmtB) : List Reg := [.s f.dst, .s f.oa]

/-- TRAPINFO of QUEUE_MISUSE by a word (R116). -/
def misuse (n : Nat) (wr : Bool) : Act := .fault 0x14 (BitVec.ofNat 64 (n + wr.toNat * 8))

/-! ### Columns -/

/-- The neighbour column in a direction: 1 north, 2 south, 3 west, 4 east; 0 is the column itself (R15, R68). -/
def neighbour (col dir : Nat) : Option Nat :=
  let r := col % 64 / 8
  let c := col % 8
  match dir with
  | 0 => some col
  | 1 => if 0 < r then some (col - 8) else none
  | 2 => if r < 7 then some (col + 8) else none
  | 3 => if 0 < c then some (col - 1) else none
  | 4 => if c < 7 then some (col + 1) else none
  | _ => none

/-- One column is another's neighbour or the same (R15). -/
def nearColumn (a b : Nat) : Bool := (List.range 5).any fun d => neighbour a d == some b

/-- The quad of a column (R16) and its place in the quad: grid row mod 2, grid column mod 2. -/
def quadOf (col : Nat) : Nat := col / 64 * 16 + col % 64 / 16 * 4 + col % 8 / 2
def quadPos (col : Nat) : Nat := col / 8 % 2 * 2 + col % 2

/-- The columns of a quad by place (R16). -/
def quadCols (q : Nat) : List Nat :=
  let b := q / 16 * 64 + q % 16 / 4 * 16 + q % 4 * 2
  [b, b + 1, b + 8, b + 9]

namespace State

def ctxAt (s : State) (c : Nat) : Context := s.ctxs.getD c {}
def setCtx (s : State) (c : Nat) (v : Context) : State := { s with ctxs := s.ctxs.put c v }

/-- The context of a stream's group; 0 for the firmware context, which belongs to none (R516). -/
def ctxOf (s : State) (k : Stream) : Nat := ((s.groupOf k.sk).map fun g => g.2.ctx).getD 0

/-- The group of a stream when it is the replay of an audited group (R479). -/
def replayOf (s : State) (k : Stream) : Option Group :=
  ((s.groupOf k.sk).map (·.2)).filter fun g => (g.audit.bind Audit.replayOf).isSome

/-- The context whose windows a stream reaches: for a replay the one that AUDCTL names (R210, R479). -/
def winCtx (s : State) (k : Stream) : Nat :=
  if (s.replayOf k).isSome then bitsAt (s.devr 0x186) 15 0 else s.ctxOf k

/-- The physical column of a context column, which must lie in the root budget (R378, R408). -/
def physCol (s : State) (ctx c : Nat) : Option Nat :=
  let x := s.ctxAt ctx
  if x.rootCols.testBit c then x.colmap[c]? else none

/-- The context column that maps to a physical column (R378). -/
def ctxCol (s : State) (ctx p : Nat) : Option Nat :=
  let x := s.ctxAt ctx
  (List.range 256).find? fun c => x.rootCols.testBit c && x.colmap[c]? == some p

/-- The column number that a program address of stream `k` uses for a physical column: the physical number for the firmware
context (R516), else the context column, or the physical one where none maps to it. -/
def progCol (s : State) (k : Stream) (p : Nat) : Nat :=
  if k.fw then p
  else match s.replayOf k with
    | some g => if p = k.col then g.ccol else p
    | none => (s.ctxCol (s.ctxOf k) p).getD p

/-- The physical column that a column number of stream `k` names: firmware uses physical numbers (R516), a group context columns
(R378), and a replay finds itself where the original stood (R479). -/
def namedCol (s : State) (k : Stream) (c : Nat) : Option Nat :=
  if k.fw then some c
  else match s.replayOf k with
    | some g => if c = g.ccol then some k.col else none
    | none => s.physCol (s.ctxOf k) c

end State

/-! ### Tower addresses -/

/-- A tower address: physical column, cell, offset (a window offset, or the physical offset for the firmware context), and the
column number of the program address (R22, R208). -/
structure TAddr where
  col : Nat
  cell : Nat
  off : Nat
  pcol : Nat
  deriving DecidableEq, Repr

/-- The global program address of cell `cell`, offset `off` of a column number (R22). -/
def progAddr (pcol cell off : Nat) : Nat := pcol * 2 ^ 26 + cell * 2 ^ 22 + off

def TAddr.prog (a : TAddr) : Nat := progAddr a.pcol a.cell a.off

/-- A window: base and size in bytes (R209, R211). -/
structure Window where
  base : Nat
  size : Nat
  deriving DecidableEq, Repr

/-- The window a TWIN value describes. -/
def windowOf (w : Word) : Window :=
  ⟨bitsAt w 8 0 * 8192, (bitsAt w 25 16 - bitsAt w 8 0) * 8192⟩

/-- A TWIN value is a valid window of a context. -/
def twinFor (w : Word) (ctx : Nat) : Bool := bitsAt w 63 63 == 1 && bitsAt w 47 32 == ctx

namespace State

def twin (s : State) (col n : Nat) : Word := (s.colAt col).ctlr (0x121 + n)

/-- The lowest-numbered valid window register of a column for a context (R210, R211). -/
def lowestWin (s : State) (col ctx : Nat) : Option Nat :=
  (List.range 4).find? fun n => twinFor (s.twin col n) ctx

/-- The window through which stream `k` reaches a column (R211, R516). -/
def window (s : State) (k : Stream) (col : Nat) : Option Window :=
  if k.fw then some ⟨0, 2 ^ 22⟩
  else
    let ctx := s.winCtx k
    if col = k.col then
      let w := s.twin col (bitsAt ((s.slotAt k.sk).ctlr 0x120) 33 32)
      if twinFor w ctx then some (windowOf w) else none
    else (s.lowestWin col ctx).map fun n => windowOf (s.twin col n)

/-- The tower row and key of a byte at window offset `off`, when `n` bytes from it lie in the window (R211). -/
def towerByte (s : State) (k : Stream) (col cell off n : Nat) : Option Nat :=
  match s.window k col with
  | some w => if off + n ≤ w.size then some (towerKey col cell (w.base + off)) else none
  | none => none

/-- The address a synchronous word forms (R237), or the TRAPINFO of its TOWER_BOUNDS. -/
def towerAddr (s : State) (v : Word) (global : Bool) (dir : Nat) : Except Word TAddr :=
  let k := s.cur
  let n := v.toNat
  let here := s.progCol k k.col
  if !global then
    match neighbour k.col dir with
    | none => .error (BitVec.ofNat 64 (2 ^ 63 + here * 2 ^ 26 + n % 2 ^ 26))
    | some c =>
      if 2 ^ 26 ≤ n then .error (BitVec.ofNat 64 (s.progCol k c * 2 ^ 26 + n % 2 ^ 26))
      else .ok ⟨c, n / 2 ^ 22, n % 2 ^ 22, s.progCol k c⟩
  else if 2 ^ 34 ≤ n then .error (BitVec.ofNat 64 (n % 2 ^ 34))
  else
    let pc := n / 2 ^ 26
    match s.namedCol k pc with
    | none => .error (BitVec.ofNat 64 n)
    | some c =>
      if nearColumn k.col c then .ok ⟨c, n / 2 ^ 22 % 16, n % 2 ^ 22, pc⟩ else .error (BitVec.ofNat 64 n)

/-- The effective address of format C: base register plus sign-extended displacement (R237). -/
def effAddr (s : State) (f : FmtC) : Word := s.sv f.base + (BitVec.ofNat 26 f.disp).signExtend 64

end State

end Sys2Proof.Machine
end

