-- ==== Sys2Proof/Machine/Refresh.lean ====
section
/-! DEFINITION. Where a byte lies in its tower (R212), the sequencers' passes and the ages of rows (R222–R225), and REFBUDGET.LEFT
(R227). -/

namespace Sys2Proof.Machine

/-! ### Keys -/

/-- Tower, bank and row of a memory key (R212). -/
def keyTower (k : Nat) : Nat := (k - towerBase) / 2 ^ 22
def keyBank (k : Nat) : Nat := k / 512 % 16
def keyRow (k : Nat) : Nat := k % 2 ^ 22 / 8192

/-- The rank of a column's engine among the sources of a port: own column, then north, south, west, east, each A, X, D
(R216). -/
def sourceRank (k : Stream) (tower : Nat) : Nat :=
  let d := ((List.range 5).find? fun d => neighbour (tower / 16) d == some k.col).getD 5
  d * 3 + engCode k.eng

/-! ### Rows and their spares (R212, R233) -/

/-- The physical row that a row operation of a bank restores: the spare that holds a remapped row, or the row that a refresh names. -/
def Tower.physRow (t : Tower) (bank row : Nat) : Nat :=
  if 1024 ≤ row then row % 1024 else t.spares.getD (bank * 512 + row) row

/-- The location word of a health event about a tower (R468); physical cell 4 is the spare of its course (R19). -/
def State.cellLoc (s : State) (tower : Nat) : Nat :=
  s.colLoc (tower / 16) + tower % 16 / 4 * 2 ^ 47 + (if (s.towerAt tower).cellSpared then 4 else tower % 4) * 2 ^ 44

/-- The location word of a health event about a row of a tower, which names the physical row that holds it (R468). -/
def State.towerLoc (s : State) (tower bank row : Nat) : Nat :=
  s.cellLoc tower + bank * 2 ^ 40 + (s.towerAt tower).physRow bank row * 2 ^ 30

/-- The row that a physical row of a bank holds: none for a row that a spare has replaced, or a spare that holds none. -/
def Tower.logicalRow (t : Tower) (bank phys : Nat) : Option Nat :=
  if phys < 512 then (if (t.spares.get? (bank * 512 + phys)).isSome then none else some phys)
  else (t.spares.find? fun r => r.1 / 512 == bank && r.2 == phys).map fun r => r.1 % 512

/-! ### Refresh sequencers (R223, R224) -/

/-- TREFHARD.LIMIT of a tower's pier. -/
def State.refLimit (s : State) (tower : Nat) : Nat := bitsAt (s.pierCtl.getD (tower / 1024) (ctlReset 0x125)) 15 0

/-- The period of a sequencer under a limit (R224). -/
def refPeriod (limit : Nat) : Nat := min 1750000000 (limit * 32768)

/-- The stretches of time in which a sequencer has kept one period, newest first: the first cycle, the period, and how far into it the sequencer stood
then (R223, R224). Where the period changes the sequencer stays at its row. Log 141. -/
def seqEpochs (phase : Nat) : List (Nat × Nat) → List (Nat × Nat × Nat)
  | [] => []
  | (c, l) :: t =>
    let old := seqEpochs phase t
    let p := refPeriod l
    match old with
    | [] => [(c, p, phase)]
    | (c0, p0, x0) :: _ =>
      let x := (x0 + (c - c0)) % p0
      let n := min (x / (p0 / 8320)) 8319
      (c, p, n * (p / 8320) + min (x - n * (p0 / 8320)) (p / 8320 - 1)) :: old

/-- The stretches of a tower's sequencer. -/
def State.epochs (s : State) (tower : Nat) : List (Nat × Nat × Nat) :=
  seqEpochs (s.towerAt tower).phase
    ((s.refLog.filterMap fun r => if r.1 = tower / 1024 then some r.2 else none) ++ [(0, bitsAt (ctlReset 0x125) 15 0)])

/-- The row that a sequencer restores first after cycle `c`, and the cycle; the last stretch begins no later than the cycle after `c`. -/
def nextRefresh (es : List (Nat × Nat × Nat)) (c : Nat) : Nat × Nat :=
  match es with
  | [] => (0, c + 1)
  | (c0, p, x0) :: _ =>
    let x := (x0 + (c + 1 - c0)) % p
    let n := (x + p / 8320 - 1) / (p / 8320)
    if n < 8320 then (n, c + 1 + n * (p / 8320) - x) else (0, c + 1 + p - x)

/-- The last cycle up to `c` in which a sequencer came to a row, by its place in the sequence (R224); cycle 0 before its first pass. -/
def lastPass : List (Nat × Nat × Nat) → Nat → Nat → Nat
  | [], _, _ => 0
  | (c0, p, x0) :: t, c, i =>
    let x := x0 + (c - c0)
    let y := x / p * p + i * (p / 8320)
    let y := if y ≤ x then y + p else y
    if c0 ≤ c ∧ x0 + p ≤ y then c0 + (y - p - x0) else lastPass t (min c (c0 - 1)) i

/-- The first cycle after `c` in which a sequencer comes to a row. -/
def nextPass (es : List (Nat × Nat × Nat)) (c i : Nat) : Nat :=
  match es with
  | [] => 0
  | (c0, p, x0) :: _ =>
    let x := x0 + (c + 1 - c0)
    let y := x / p * p + i * (p / 8320)
    c + 1 + (if x ≤ y then y else y + p) - x

/-- The cycle in which a row was last restored by a pass that is over by cycle `c`: 8 cycles after the sequencer came to it, and 0 before its first pass
(R213, R222). -/
def passRestored (es : List (Nat × Nat × Nat)) (c i : Nat) : Nat :=
  let p := lastPass es (c - 8) i
  if p = 0 then 0 else p + 8

/-- The cycle in which a physical row was last restored (R222). -/
def State.restoredAt (s : State) (tower bank row : Nat) : Nat :=
  (((s.towerAt tower).banks.getD bank {}).restored).getD row (passRestored (s.epochs tower) s.cyc (row * 16 + bank))

/-- The age at which a row is forced (R225). -/
def State.forceAge (s : State) (tower : Nat) : Nat := s.refLimit tower * 65536 - 4096

/-- The row of a window, counted as the sequencer counts, that it restored longest ago among those that are not open, lie in no spare, and whose
last restore was a pass of the sequencer. -/
def oldestPass (s : State) (tower lo hi : Nat) : Option Nat :=
  let es := s.epochs tower
  let n := (nextRefresh es s.cyc).1
  let first := if lo ≤ n ∧ n < hi then n else lo
  let row (k : Nat) : Nat := if first + k < hi then first + k else first + k - (hi - lo)
  ((List.range' 0 (hi - lo)).find? fun k =>
    let b := (s.towerAt tower).banks.getD (row k % 16) {}
    b.buf != some (row k / 16) && (b.restored.get? (row k / 16)).isNone
      && ((s.towerAt tower).spares.get? (row k % 16 * 512 + row k / 16)).isNone).map fun k => passRestored es s.cyc (row k)

/-- The cycles until the first forced refresh of a row that is not open falls due in a window of a column; 0 while one is in progress (R225, R227). -/
def State.windowLeft (s : State) (col : Nat) (w : Window) : Nat :=
  let lo := w.base / 8192
  let hi := lo + w.size / 8192
  (List.range 16).foldl (fun m cell =>
    let t := col * 16 + cell
    let v := s.towerAt t
    let f := s.forceAge t
    let left (r : Nat) : Nat := r + f - s.cyc
    let here (bank phys : Nat) : Bool := (v.logicalRow bank phys).any fun r =>
      decide (lo ≤ r ∧ r < hi) && (v.banks.getD bank {}).buf != some r
    let m := match oldestPass s t (16 * lo) (16 * hi) with | some r => min m (left r) | none => m
    let m := v.spares.foldl (fun m r => if here (r.1 / 512) r.2 then min m (left (s.restoredAt t (r.1 / 512) r.2)) else m) m
    v.banks.foldl (fun m x =>
      let m := x.2.restored.foldl (fun m r => if here x.1 r.1 then min m (left r.2) else m) m
      if x.2.ops.any fun o => decide (2048 ≤ o.row ∧ o.start ≤ s.cyc ∧ s.cyc < o.stop) && here x.1 (o.row % 1024) then 0 else m) m)
    (s.forceAge (col * 16))

end Sys2Proof.Machine
end

