-- ==== Sys2Proof/Machine/Control.lean ====
section
/-! DEFINITION. The control space (R91–R98, R138, R139 and the register tables of every chapter): which context may reach a
register, what a read returns, which bits a write may set, and when the write takes effect. -/

namespace Sys2Proof.Machine

/-- Where the copies of a control register live (R91). -/
inductive Copies where
  | slot
  | column
  | pier
  | device
  deriving DecidableEq, Repr

/-- The copies of each control register (R91 and the tables of the later chapters). -/
def copiesOf (c : Nat) : Copies :=
  if c ≤ 0x012 ∨ c = 0x021 ∨ c = 0x022 ∨ c = 0x050 ∨ c = 0x051 ∨ (0x060 ≤ c ∧ c ≤ 0x071) ∨ (0x100 ≤ c ∧ c ≤ 0x103)
      ∨ c = 0x111 ∨ c = 0x112 ∨ c = 0x120 ∨ c = 0x130 ∨ c = 0x133 ∨ c = 0x135 ∨ c = 0x136 then .slot
  else if c = 0x030 ∨ c = 0x031 ∨ (0x040 ≤ c ∧ c ≤ 0x04F) ∨ (0x080 ≤ c ∧ c ≤ 0x083) ∨ c = 0x110 ∨ c = 0x113
      ∨ (0x121 ≤ c ∧ c ≤ 0x124) ∨ c = 0x126 ∨ c = 0x131 ∨ c = 0x132 ∨ c = 0x134 ∨ c = 0x137 then .column
  else if c = 0x125 then .pier
  else .device

/-- Registers that only the firmware context may read (R91 and the later tables); FOLDSTAT and TALLOT may be read by a group
(R182, R210). -/
def fwOnlyRead (c : Nat) : Bool :=
  (decide (0x060 ≤ c ∧ c ≤ 0x064)) || c == 0x080 || c == 0x081 || c == 0x083 || c == 0x111 || c == 0x113 ||
  (decide (0x121 ≤ c) && c != 0x17A)

/-- Registers that only the firmware context may write. -/
def fwOnlyWrite (c : Nat) : Bool := fwOnlyRead c || c == 0x110 || c == 0x120

/-- FOLDREC and MSHAPE belong to the lease holder (R91, R112). -/
def leaseOnly (c : Nat) : Bool := c == 0x030 || decide (0x040 ≤ c ∧ c ≤ 0x04F)

/-- Bits [hi : lo] as a mask. -/
def maskOf (hi lo : Nat) : Nat := 2 ^ (hi + 1) - 2 ^ lo

/-- The reserved bits of a register that has a field of another type than RO, which a write may not set (R9). DEDUCED (log 132): a register
whose every field is RO ignores every write, as R91 says of a group. -/
def reservedMask : Nat → Nat
  | 0x000 => maskOf 63 6
  | 0x001 => maskOf 63 9
  | 0x002 => maskOf 63 32
  | 0x010 => maskOf 63 24
  | 0x012 => maskOf 63 32
  | 0x022 => maskOf 63 32
  | 0x080 => maskOf 63 16
  | 0x081 => maskOf 63 5
  | 0x083 => maskOf 63 2
  | 0x100 | 0x101 | 0x102 | 0x103 => maskOf 63 35 + 15
  | 0x110 => maskOf 63 20
  | 0x111 => maskOf 63 52 + maskOf 5 1
  | 0x120 => maskOf 62 34 + maskOf 31 23
  | 0x121 | 0x122 | 0x123 | 0x124 => maskOf 62 48 + maskOf 31 26 + maskOf 15 9
  | 0x125 => maskOf 63 16
  | 0x126 => maskOf 63 24
  | 0x130 => maskOf 63 48 + maskOf 39 34 + maskOf 31 12 + maskOf 7 6 + 8
  | 0x131 => maskOf 63 22
  | 0x133 => maskOf 63 32
  | 0x134 => maskOf 63 8
  | 0x137 => maskOf 63 52 + maskOf 12 0
  | 0x140 | 0x141 => maskOf 63 32
  | 0x142 => maskOf 63 16
  | 0x150 => maskOf 63 48 + maskOf 31 3
  | 0x152 => maskOf 63 52 + maskOf 18 0
  | 0x160 => maskOf 63 52 + maskOf 11 4
  | 0x162 => maskOf 63 18 + maskOf 15 9
  | 0x163 => maskOf 61 52
  | 0x164 => maskOf 63 20 + maskOf 15 10
  | 0x165 => maskOf 61 42 + maskOf 15 0
  | 0x166 => maskOf 63 52 + maskOf 11 0
  | 0x167 => maskOf 63 17
  | 0x170 => maskOf 63 9
  | 0x172 => maskOf 63 32 + maskOf 15 3
  | 0x173 => maskOf 63 4
  | 0x175 => maskOf 63 2
  | 0x176 | 0x177 => maskOf 63 9
  | 0x178 => maskOf 63 52 + maskOf 11 0
  | 0x17A => maskOf 63 34 + maskOf 5 0
  | 0x17B => maskOf 63 25 + maskOf 15 2
  | 0x180 => maskOf 63 52 + maskOf 11 4
  | 0x182 => maskOf 63 48 + maskOf 31 17
  | 0x183 => maskOf 63 48 + maskOf 31 18
  | 0x184 => maskOf 63 8
  | 0x185 => maskOf 63 52 + maskOf 17 4
  | 0x186 => maskOf 63 17
  | 0x188 => maskOf 63 48 + maskOf 31 11
  | 0x18A => maskOf 63 24 + maskOf 11 1
  | 0x190 => maskOf 63 14 + maskOf 7 3
  | 0x191 | 0x193 => maskOf 63 6
  | 0x195 => maskOf 63 48 + maskOf 31 8
  | 0x196 => maskOf 63 16
  | 0x1A0 => maskOf 62 52 + maskOf 6 0
  | c => if 0x040 ≤ c ∧ c ≤ 0x04F then maskOf 63 16 + maskOf 7 5 else 0

/-- The bits a write stores (type RW, R9). -/
def rwMask : Nat → Nat
  | 0x000 => maskOf 5 0
  | 0x010 => maskOf 23 0
  | 0x021 => maskOf 63 0
  | 0x022 => maskOf 31 0
  | 0x050 => maskOf 63 0
  | 0x080 => maskOf 15 0
  | 0x081 => maskOf 4 0
  | 0x083 => maskOf 1 0
  | 0x100 | 0x101 | 0x102 | 0x103 => maskOf 34 0
  | 0x110 => maskOf 15 4
  | 0x111 => maskOf 51 6 + 1
  | 0x120 => maskOf 63 63 + maskOf 33 32
  | 0x125 => maskOf 15 0
  | 0x126 => maskOf 20 4
  | 0x130 => maskOf 47 40 + maskOf 33 32
  | 0x131 => maskOf 21 0
  | 0x133 => maskOf 31 0
  | 0x137 => maskOf 51 13
  | 0x140 | 0x141 => maskOf 31 0
  | 0x142 => maskOf 15 0
  | 0x152 => maskOf 51 19
  | 0x160 => maskOf 51 12 + maskOf 3 0
  | 0x161 => maskOf 63 32
  | 0x166 => maskOf 51 12
  | 0x167 => maskOf 16 0
  | 0x172 => maskOf 31 16 + 4
  | 0x173 => maskOf 3 0
  | 0x176 => maskOf 8 0
  | 0x178 => maskOf 51 12
  | 0x17B => maskOf 24 16 + 1
  | 0x180 => maskOf 51 12 + maskOf 3 0
  | 0x181 => maskOf 63 32
  | 0x182 => maskOf 47 32 + maskOf 16 0
  | 0x185 => maskOf 51 18 + maskOf 3 0
  | 0x186 => maskOf 16 0
  | 0x188 => maskOf 47 32 + maskOf 10 0
  | 0x18A => maskOf 21 12
  | 0x191 => maskOf 5 0
  | 0x195 => maskOf 47 32
  | 0x196 => maskOf 7 0
  | 0x1A0 => maskOf 51 7
  | c => if 0x040 ≤ c ∧ c ≤ 0x04F then maskOf 15 8 + maskOf 4 0 else 0

/-- The bits that a written 1 clears (type W1C, R9). -/
def w1cMask : Nat → Nat
  | 0x001 => maskOf 8 0
  | 0x134 => maskOf 7 0
  | 0x164 => 2 ^ 19
  | _ => 0

/-- The lowest bit of the first field, from the low bits up, whose value the register's table forbids (R9, R116). The cases that
depend on other state are in `stateForbids`. -/
def forbids (c : Nat) (v : Word) : Option Nat :=
  let f (hi lo : Nat) : Nat := bitsAt v hi lo
  match c with
  | 0x000 => if 4 < f 2 0 then some 0 else none
  | 0x010 => ((List.range 6).find? fun n => f (4 * n + 3) (4 * n) == 0 || decide (8 < f (4 * n + 3) (4 * n))).map (4 * ·)
  | 0x012 => ((List.range 16).find? fun n => f (2 * n + 1) (2 * n) == 3).map (2 * ·)
  | 0x080 => if f 15 0 = 0 then some 0 else none
  | 0x081 => if f 4 0 < 4 ∨ 16 < f 4 0 then some 0 else none
  | 0x121 | 0x122 | 0x123 | 0x124 =>
    if f 63 63 = 1 ∧ (f 25 16 ≤ f 8 0 ∨ 512 < f 25 16) then some 16 else none
  | 0x125 => if 0xD09D < f 15 0 ∨ f 15 0 < 0x0800 then some 0 else none
  | 0x130 => if f 1 0 = 3 then some 0 else none
  | 0x131 =>
    let kind := f 19 18
    let range := match kind with | 0 => 64 | 1 => 1 | 2 => 512 | _ => 64 * 256
    if range ≤ f 17 0 then some 0
    else if kind = 3 ∧ f 21 20 ≠ 1 then some 18
    else if f 21 20 = 3 then some 20 else none
  | 0x150 => if f 2 0 = 0 ∨ 4 < f 2 0 then some 0 else none
  | 0x160 | 0x180 | 0x185 => if 10 < f 3 0 then some 0 else none
  | 0x162 => if f 17 16 = 3 then some 16 else none
  | 0x172 => if f 31 16 = 0 then some 16 else none
  | 0x173 => if 11 < f 3 0 then some 0 else none
  | 0x177 =>
    let bad (n : Nat) : Bool := decide (12 ≤ n ∧ n ≤ 14)
    if bad (f 3 0) then some 0 else if bad (f 7 4) then some 4 else none
  | 0x188 => if 67 < f 8 2 then some 2 else none
  | 0x190 => if 3 < f 2 0 then some 0 else none
  | 0x195 => if 110 < f 47 40 ∨ f 47 40 ≤ f 39 32 then some 40 else none
  | 0x196 => if f 7 4 < f 3 0 then some 0 else none
  | c =>
    if 0x040 ≤ c ∧ c ≤ 0x04F then
      if !([0, 2, 3, 4, 5, 6, 9, 0x14, 0x15, 0x16, 0x17].contains (f 4 0)) then some 0
      else if 192 < f 15 8 then some 8 else none
    else none

namespace State

/-- The slot whose per-slot registers a stream reaches: its own, or the one FWSLOT names (R91, R94). -/
def ctlSlot (s : State) (k : Stream) : Nat :=
  if k.fw then bitsAt ((s.colAt k.col).ctlr 0x083) 1 0 else k.slot

/-- The state code of the group in a slot (R361); 0xF for a slot with no group. -/
def GState.code : GState → Nat
  | .queued => 0 | .placed => 1 | .running => 2 | .stalled => 3 | .atSafe => 4 | .preempting => 5
  | .saved => 6 | .migrating => 7 | .faulted => 8 | .purged => 9 | .retired => 10

/-- Slots of a column that hold a group, as a mask (R93). -/
def slotMask (s : State) (col : Nat) : Nat :=
  (List.range 4).foldl (fun m n => if (s.slotAt (slotKey col n)).gid.isSome then m + 2 ^ n else m) 0

/-- TOKCNT: the tokens of each FIFO (R98). -/
def tokcnt (s : State) (sk : Nat) : Word :=
  BitVec.ofNat 64 ((List.range 6).foldl (fun m n => m + ((s.slotAt sk).fifo n).count s.cyc * 2 ^ (4 * n)) 0)

/-- AVAIL of FOLDSTAT: the courses with none of FAIL, AGE and THR (R182). -/
def foldAvail (v : Word) : Nat := 15 - (bitsAt v 15 12 ||| bitsAt v 11 8 ||| bitsAt v 7 4)

/-- The size field of TALLOT (R210). -/
def tallotSize (s : State) (col : Nat) (t : Word) : Nat := (windowOf (s.twin col (bitsAt t 33 32))).size

/-- The slot occupancy of a quad (R492). -/
def quadOcc (s : State) (q : Nat) : Nat :=
  (quadCols q).zipIdx.foldl (fun m x => m + s.slotMask x.1 * 2 ^ (4 * x.2)) 0

def quadAt (s : State) (q : Nat) : Quad := s.quads.getD q {}
def portAt (s : State) (p : Nat) : FPort := s.fports.getD p {}
def b2w (b : Bool) (n : Nat) : Nat := if b then 2 ^ n else 0

/-- REFBUDGET (R227): the stored FORCED count, HOLD, and LEFT over the rows of the window. -/
def refbudget (s : State) (k : Stream) (slot : Nat) : Word :=
  let sl := s.slotAt (slotKey k.col slot)
  let w := windowOf (s.twin k.col (bitsAt (sl.ctlr 0x120) 33 32))
  BitVec.ofNat 64 (b2w sl.hold 63 + bitsAt (sl.ctlr 0x051) 47 40 * 2 ^ 40 + s.windowLeft k.col w)

/-- Collective contributions that are accepted and not complete (R455). -/
def collFlight (s : State) : Nat := s.colls.countP fun x => !x.ended

/-- The value of a register: the stored copy, with the fields the device computes (R91). A read takes it as the cycle began (`atDawn`, R92). -/
def ctlRead (s : State) (k : Stream) (c : Nat) : Word :=
  let slot := s.ctlSlot k
  let sk := slotKey k.col slot
  let sl := s.slotAt sk
  let col := s.colAt k.col
  match c with
  | 0x011 => s.tokcnt sk
  | 0x020 => BitVec.ofNat 64 s.cyc
  | 0x031 => match col.lease with | some n => BitVec.ofNat 64 (4 + n) | none => 0
  | 0x051 => s.refbudget k slot
  | 0x082 => BitVec.ofNat 64 (s.slotMask k.col * 16 + (if col.state = 0 ∧ s.slotMask k.col ≠ 0 then 1 else col.state))
  | 0x110 => setBits (col.ctlr c) 3 0 (foldAvail (col.ctlr c))
  | 0x120 => setBits (sl.ctlr c) 22 0 (s.tallotSize k.col (sl.ctlr c))
  | 0x125 => s.pierCtl.getD (k.col / 64) (ctlReset 0x125)
  | 0x126 =>
    let towers := (List.range 16).map fun n => s.towerAt (k.col * 16 + n)
    let least := towers.foldl (fun m t => (List.range 16).foldl (fun m b =>
      min m (8 - t.spares.countP (fun r => r.1 / 512 == b) - t.badSpares.countP (fun r => r / 8 == b))) m) 8
    BitVec.ofNat 64 ((col.ctlr c).toNat % 2 ^ 21 / 16 * 16 + least
      + b2w (towers.any fun t => t.spareNow.isSome || !t.spareReqs.isEmpty) 22 + bitsAt (col.ctlr c) 21 21 * 2 ^ 21)
  | 0x130 =>
    let st := ((s.groupOf sk).map fun g => GState.code g.2.state).getD 15
    BitVec.ofNat 64 (bitsAt (sl.ctlr c) 47 40 * 2 ^ 40 + bitsAt (sl.ctlr c) 33 32 * 2 ^ 32 + st * 256
      + b2w sl.preemptErr 5 + b2w sl.preempt.isSome 4)
  | 0x132 =>
    let g := (s.groupOf sk).map fun g => g.2.state
    if g ≠ some .faulted then 0
    else
      let sel := col.ctlr 0x131
      let e := s.engAt (sk * 3 + bitsAt sel 21 20)
      let n := bitsAt sel 17 0
      match bitsAt sel 19 18 with
      | 0 => (e.sreg n).val
      | 1 => BitVec.ofNat 64 e.cf.toNat
      | 2 => (e.spill.getD n {}).val
      | _ => ((sl.vreg (n / 256)).lanes.getD (n % 256) 0).setWidth 64
  | 0x143 => BitVec.ofNat 64 s.feFree
  | 0x150 | 0x162 | 0x163 | 0x165 | 0x175 | 0x17A | 0x184 | 0x190 | 0x193 => 0
  | 0x151 => BitVec.ofNat 64 (s.ctxLast * 2 ^ 32 + s.ctxErr * 2 ^ 24 + b2w (!s.ctxBusy.isEmpty) 4 + (s.ctxAt s.ctxLast).state)
  | 0x164 =>
    let p := s.devr 0x161
    BitVec.ofNat 64 (b2w s.pages.qerr 19 + b2w s.pages.scrubbing.isSome 18
      + b2w (bitsAt p 31 0 != bitsAt p 63 32) 17 + b2w s.pages.invBusy 16 + s.pages.open_.length)
  | 0x171 => BitVec.ofNat 64 (s.link.retry * 2 ^ 32 + s.link.width * 64 + s.link.state)
  | 0x174 =>
    let p := s.portAt (s.devr 0x173).toNat
    BitVec.ofNat 64 (p.retry * 2 ^ 32 + p.lambda * 2 ^ 16 + p.state)
  | 0x177 => BitVec.ofNat 64 (s.routes.getD (s.devr 0x176).toNat 0xFF)
  | 0x179 => BitVec.ofNat 64 s.collFlight
  | 0x17C => BitVec.ofNat 64 (b2w s.evict.safe 6 + b2w s.evict.received 5 + s.evict.phase)
  | 0x183 => BitVec.ofNat 64 (b2w s.purgeErr 17 + b2w (!s.purges.isEmpty) 16)
  | 0x187 => BitVec.ofNat 64 (s.auditor.abandoned * 2 ^ 48 + s.auditor.mismatch * 2 ^ 32 + s.auditor.pending)
  | 0x189 =>
    let (m, lo) := s.ages.getD (s.devr 0x188 &&& 0x7FF).toNat (0xFFFF, 0xFFFF)
    BitVec.ofNat 64 (lo * 2 ^ 32 + m)
  | 0x18A => BitVec.ofNat 64 ((s.devr c).toNat % 2 ^ 22 / 2 ^ 12 * 2 ^ 12 + b2w s.remapping.isSome 22 + b2w s.remapErr 0)
  | 0x192 =>
    let n := (s.devr 0x191).toNat
    let q := s.quadAt n
    BitVec.ofNat 64 (s.quadOcc n * 2 ^ 16 + b2w q.err 7 + b2w q.rail 6 + b2w q.clk 5 + q.state)
  | 0x195 => BitVec.ofNat 64 (bitsAt (s.devr c) 47 32 * 2 ^ 32 + (s.heats.foldl (fun m r => max m r.2) 0) % 256)
  | 0x196 => BitVec.ofNat 64 (s.opPoint * 2 ^ 12 + s.opCap * 2 ^ 8 + (s.devr c).toNat % 256)
  | _ =>
    match copiesOf c with
    | .slot => sl.ctlr c
    | .column => col.ctlr c
    | .pier => s.pierCtl.getD (k.col / 64) (ctlReset c)
    | .device => s.devr c

/-- The value a CTLWR writes: s[OA], or the current value with a 16-bit window replaced and the W1C bits outside it zero
(R139). -/
def ctlNew (s : State) (f : FmtF) : Word :=
  if f.sub = 0 then s.sv f.oa
  else
    let h := f.sub % 4
    let cur := s.atDawn.ctlRead s.cur f.csel
    let cur := cur &&& ~~~(BitVec.ofNat 64 (w1cMask f.csel &&& (2 ^ 64 - 1 - maskOf (16 * h + 15) (16 * h))))
    setBits cur (16 * h + 15) (16 * h) f.imm16

/-- Forbidden writes that depend on other state: overlapping windows of two contexts (R209), a fifth row-sparing request
(R235), and a change of the package's number (R440). -/
def stateForbids (s : State) (k : Stream) (c : Nat) (v : Word) : Option Nat :=
  if 0x121 ≤ c ∧ c ≤ 0x124 then
    let lo := bitsAt v 8 0
    let hi := bitsAt v 25 16
    if bitsAt v 63 63 = 1 ∧ (List.range 4).any (fun n =>
        let w := s.twin k.col n
        n != c - 0x121 && bitsAt w 63 63 == 1 && bitsAt w 47 32 != bitsAt v 47 32
          && decide (lo < bitsAt w 25 16) && decide (bitsAt w 8 0 < hi)) then some 0 else none
  else if c = 0x126 then
    let t := s.towerAt (k.col * 16 + bitsAt v 20 17)
    if bitsAt v 23 23 = 1 ∧ 4 ≤ t.spareReqs.length then some 23 else none
  else if c = 0x170 then
    let new := bitsAt v 8 0
    if bitsAt (s.devr 0x17B) 0 0 = 1 ∧ s.evict.received then (if new = bitsAt (s.devr 0x17B) 24 16 then none else some 0)
    else if new ≠ bitsAt (s.devr 0x170) 8 0 ∧ (List.range 12).any (fun p => (s.portAt p).state != 0) then some 0 else none
  else none

/-- The reserved-bit check of a CTLWR, with its TRAPINFO (R116, R139). -/
def ctlBad (s : State) (k : Stream) (c : Nat) (v : Word) : Option Word :=
  let r := v.toNat &&& reservedMask c
  if r ≠ 0 then some (BitVec.ofNat 64 (lowBit r))
  else ((forbids c v).orElse fun _ => s.stateForbids k c v).map (BitVec.ofNat 64)

/-- A queue holds or has reserved an entry, words issued in this very cycle included (R96, R139). -/
def queuesBusy (s : State) (sk : Nat) : Bool :=
  (s.slotAt sk).queues.any fun r => !r.2.held.isEmpty || r.2.reserved != 0 || (r.2.freedAt == s.cyc && r.2.freed != 0)

/-- The QMAP value breaks R96: a writer that is the reader, or q4–q7 with writer D or reader A. -/
def qmapBad (v : Word) : Bool :=
  (List.range 8).any fun n =>
    let w := bitsAt v (4 * n + 1) (4 * n)
    let r := bitsAt v (4 * n + 3) (4 * n + 2)
    w == r || (decide (4 ≤ n) && (w == 2 || r == 0))

/-- QUEUE_MISUSE of a CTLWR to QMAP (R96) or to CSCTL0–CSCTL3 (R170). -/
def ctlMisuse (s : State) (k : Stream) (c : Nat) (v : Word) : Bool :=
  let sk := slotKey k.col (s.ctlSlot k)
  if c = 0x012 then s.queuesBusy sk || qmapBad v
  else if 0x100 ≤ c ∧ c ≤ 0x103 then !((s.slotAt sk).cstreams.getD (c - 0x100) {}).recs.isEmpty
  else false

/-- The order of CTLWRs of one cycle: A, X, D, then the firmware context (R92). -/
def ctlOrder (k : Stream) : Nat := if k.fw then 3 else engCode k.eng

/-- The event that a write of some registers brings about at the end of the cycle. -/
def ctlEvent (k : Stream) (slot c : Nat) (v : Word) : Option (Instr × Nat) :=
  let f (hi lo : Nat) : Nat := bitsAt v hi lo
  match c with
  | 0x002 => some (.rngseedWrite k.col slot (f 31 0), 0)
  | 0x012 => some (.qmapWrite k.col slot (f 31 0), 0)
  | 0x121 | 0x122 | 0x123 | 0x124 => some (.twinWrite k.col (c - 0x121) v.toNat, 0)
  | 0x126 => if f 23 23 = 1 then some (.rowspareStart k.col v.toNat, 0) else none
  | 0x130 =>
    match f 1 0 with
    | 1 => some (.gctlPreempt k.col slot (f 2 2 == 1), 0)
    | 2 => some (.gctlMigrate k.col slot (f 47 40) (f 33 32), f 2 2)
    | _ => none
  | 0x132 => some (.gregdataWrite k.col v.toNat, 0)
  | 0x150 =>
    match f 2 0 with
    | 1 => some (.create, f 47 32)
    | 2 => some (.switchout, f 47 32)
    | 3 => some (.switchin, f 47 32)
    | _ => some (.teardown, f 47 32)
  | 0x162 =>
    match f 17 16 with
    | 0 => some (.pfrespRetry (f 8 0), 0)
    | 1 => some (.pfrespRefusePageFault (f 8 0), 0)
    | _ => some (.pfrespRefusePermission (f 8 0), 0)
  | 0x163 =>
    match f 63 62 with
    | 0 => none
    | 1 => some (.pginvPage (f 15 0) (f 51 16), 0)
    | 2 => some (.pginvContext, f 15 0)
    | _ => some (.pginvAll, 0)
  | 0x165 =>
    match f 63 62 with
    | 0 => none
    | 1 => some (.quarantine (f 41 16), 0)
    | 2 => some (.scrub (f 41 16), 0)
    | _ => some (.release (f 41 16), 0)
  | 0x170 => some (.pkgidWrite (f 8 0), 0)
  | 0x172 =>
    match f 1 0 with
    | 0 => none
    | 1 => some (.lnkctlTrain, 0)
    | 2 => some (.lnkctlDrain, 0)
    | _ => some (.lnkctlDown, 0)
  | 0x175 =>
    match f 1 0 with
    | 0 => none
    | 1 => some (.portctlTrain, 0)
    | 2 => some (.portctlDrain, 0)
    | _ => some (.portctlDown, 0)
  | 0x177 => some (.routeWrite (f 8 0), 0)
  | 0x17A => some (.collgo k.col k.slot v.toNat, 0)
  | 0x17B => if f 1 1 = 1 then some (.evctlFwdone, 0) else some (.evctlArm v.toNat, 0)
  | 0x183 => some (.purge v.toNat, 0)
  | 0x184 => some (.fwrst (f 7 0), 0)
  | 0x18A => if f 23 23 = 1 then some (.remapGo v.toNat, 0) else none
  | 0x190 =>
    match f 2 0 with
    | 0 => none
    | 1 => some (.block (f 13 8), 0)
    | 2 => some (.quiesce (f 13 8), 0)
    | _ => some (.unblock (f 13 8), 0)
  | 0x193 => some (.qwake (f 5 0), 0)
  | 0x1A0 => if f 63 63 = 1 then some (.attestRemap (f 51 7 * 128), 0) else some (.attestReport (f 51 7 * 128), 0)
  | _ => none

/-- A write of a control register is put down for the end of the cycle (R92); one of PORTCTL or RTDATA acts on what PORTSEL or RTSEL selects by then. -/
def ctlSchedule (s : State) (k : Stream) (c : Nat) (v : Word) : State :=
  let slot := s.ctlSlot k
  let s := if rwMask c ≠ 0 ∨ w1cMask c ≠ 0 then { s with ctlq := s.ctlq ++ [⟨k, slot, c, v⟩] } else s
  let s := if c = 0x150 then { s with agenda := s.agenda.filter fun d =>
      !(d.at_ == s.cyc && decide (d.prio < 804) && (d.ev == .create || d.ev == .switchout || d.ev == .switchin || d.ev == .teardown)) } else s
  let sel (r : Nat) : Nat := ((s.ctlq.filter fun w => w.csel == r).foldl (fun _ w => w.val) (s.devr r)).toNat
  match ctlEvent k slot c v with
  | some (ev, arg) => s.due s.cyc (800 + ctlOrder k) ev (if c = 0x175 then sel 0x173 else if c = 0x177 then sel 0x176 else arg)
  | none => s

/-- A stored register after a write: RW bits take the new value, W1C bits are cleared by ones, the rest stays (R9). -/
def ctlMerge (c : Nat) (old new : Word) : Word :=
  let rw : Word := BitVec.ofNat 64 (rwMask c)
  let wc : Word := BitVec.ofNat 64 (w1cMask c)
  ((old &&& ~~~rw) ||| (new &&& rw)) &&& ~~~(new &&& wc)

/-- A THERM write has every reading of the sensors looked at again (R488). -/
def heatsAgain (s : State) : State :=
  s.heats.foldl (fun s r => s.due (s.cyc + 1) 20 (.thermalThrottle (r.1 / 4) (r.1 % 4) r.2)) s

/-- A CTLWR takes effect (R92). A write of ATTEST has none while an earlier one is in progress (R495). -/
def ctlApply (s : State) (w : CtlWrite) : State :=
  match copiesOf w.csel with
  | .slot =>
    let sk := slotKey w.by_.col w.slot
    let sl := s.slotAt sk
    let sl := if w.csel = 0x022 then { sl with slipNow := 0 } else sl
    s.setSlot sk (sl.setCtl w.csel (ctlMerge w.csel (sl.ctlr w.csel) w.val))
  | .column =>
    let col := s.colAt w.by_.col
    s.setCol w.by_.col (col.setCtl w.csel (ctlMerge w.csel (col.ctlr w.csel) w.val))
  | .pier =>
    let p := w.by_.col / 64
    { s with pierCtl := s.pierCtl.put p (ctlMerge w.csel (s.pierCtl.getD p (ctlReset w.csel)) w.val) }
  | .device =>
    if w.csel = 0x164 then
      { s with pages := { s.pages with qerr := s.pages.qerr && bitsAt w.val 19 19 == 0 } }
    else if w.csel = 0x1A0 ∧ s.attesting.isSome ∧ s.attesting ≠ some (bitsAt w.val 51 7 * 128) then s
    else if w.csel = 0x195 then (s.setDev w.csel (ctlMerge w.csel (s.devr w.csel) w.val)).heatsAgain
    else s.setDev w.csel (ctlMerge w.csel (s.devr w.csel) w.val)

/-- The slot of a stream holds the matrix lease of its column (R112). -/
def holdsLease (s : State) (k : Stream) : Bool := (s.colAt k.col).lease == some k.slot

/-- TRAPINFO of MATRIX_LEASE: the holder (R116). -/
def leaseInfo (s : State) (k : Stream) : Word :=
  match (s.colAt k.col).lease with
  | some n => BitVec.ofNat 64 (4 + n)
  | none => 0

/-- PRIVILEGE and MATRIX_LEASE of CTLRD and CTLWR (R138, R139). -/
def ctlDenied (s : State) (c : Nat) (wr : Bool) : Option (Nat × Word) :=
  let k := s.cur
  if !k.fw && (if wr then fwOnlyWrite c else fwOnlyRead c) then some (0x19, BitVec.ofNat 64 c)
  else if !k.fw && leaseOnly c && !s.atDawn.holdsLease k then some (0x1B, s.atDawn.leaseInfo k)
  else none

end State

/-- CTLRD (R138): latency 2, the value at the start of the issue cycle. -/
def execCtlrd (q : Seq) (f : FmtF) (s : State) : Out :=
  wordIssue (.ctlrd q f) q [.s f.dst]
    (fun s => match s.ctlDenied f.csel false with
      | some (c, i) => .fault c i
      | none => resS s f.dst (s.atDawn.ctlRead s.cur f.csel) 2) s

end Sys2Proof.Machine
end

