-- ==== Sys2Proof/Machine/Section.lean ====
section
/-! DEFINITION. Sections: headers and target tables (R73–R78), dispatch and retirement (R77, R79, R80), and the events that end a
word: completion (R79) and a token becoming available (R63). -/

namespace Sys2Proof.Machine

/-- Where the word of an engine lies in its code store: after its section's header and target table (R73). -/
def Engine.wordOff (e : Engine) (idx : Nat) : Nat :=
  e.base + e.pos + 8 + 12 * ((e.hdr.tcnt + 5) / 6) + 12 * idx

/-- The 96 bits of the word an engine stands at. -/
def State.wordAt (s : State) (k : Stream) : Nat :=
  let e := s.engAt k.ek
  s.load (codeKey k.sk (e.wordOff e.idx)) 12

/-- The fields of a header (R74). -/
def parseHeader (h : Nat) : Header :=
  { eng := h / 2 ^ 62 % 4, safe := h.testBit 61, livemap := h.testBit 60, tcnt := h / 2 ^ 56 % 16,
    secno := h / 2 ^ 44 % 4096, waitn := h / 2 ^ 32 % 4096, waitp := h / 2 ^ 20 % 4096, len := h % 2 ^ 20 }

/-- The entries of a target table: six of 16 bits to a word of 12 bytes (R75). -/
def targetsAt (s : State) (key n : Nat) : List Nat :=
  (List.range n).map fun j => s.load (key + 12 * (j / 6) + 2 * (j % 6)) 2

/-- The bits of a target table beyond its last entry (R75). -/
def targetRest (s : State) (key n : Nat) : Nat :=
  let last := (n + 5) / 6
  if n = 0 then 0 else s.load (key + 12 * (last - 1)) 12 / 2 ^ (16 * (n - 6 * (last - 1)))

/-- The section number that must follow (R78): one more than the previous section's, 0 for the first. -/
def Engine.nextSecno (e : Engine) : Nat := (e.lastRet + 1) % 4096

/-- The checks of a header, in the order of R78, with code and TRAPINFO. -/
def headerFault (k : Stream) (e : Engine) (h : Nat) (hd : Header) (tgts : List Nat) (rest : Nat) : Option (Nat × Word) :=
  if hd.eng ≠ engCode k.eng then some (0x03, BitVec.ofNat 64 hd.eng)
  else if 8 < hd.tcnt ∨ hd.secno ≠ e.nextSecno ∨ hd.len = 0 ∨ tgts.any (fun t => decide (hd.len ≤ t)) then
    some (0x01, BitVec.ofNat 64 h)
  else if rest ≠ 0 then
    some (0x02, BitVec.ofNat 64 (lowBit rest + 16 * (hd.tcnt - 6 * ((hd.tcnt + 5) / 6 - 1))))
  else none

/-- A wait on section `w` of an engine whose last-retired number is `l` is met (R77). -/
def waitMet (l w : Nat) : Bool := w == 0xFFF || decide ((l + 4096 - w) % 4096 < 2048)

/-- The engine after and before an engine on the ring A → X → D → A (R59). -/
def engNext : Eng → Eng
  | .a => .x
  | .x => .d
  | .d => .a

def engPrev (e : Eng) : Eng := engNext (engNext e)

/-- Both waits of an engine's current header are met (R77, R79). -/
def State.waitsMet (s : State) (k : Stream) : Bool :=
  let e := s.engAt k.ek
  let ret (o : Eng) : Nat := (s.engAt (k.sk * 3 + engCode o)).lastRet
  e.codeMiss.isNone && waitMet (ret (engNext k.eng)) e.hdr.waitn && waitMet (ret (engPrev k.eng)) e.hdr.waitp

/-- The first 1 KiB block among `n` bytes of a slot's code that a code store used as a cache does not hold (R344). -/
def State.missingBlock (s : State) (sk off n : Nat) : Option Nat :=
  let sl := s.slotAt sk
  if sl.codeCached then (List.range' (off / 1024) ((off + n - 1) / 1024 + 1 - off / 1024)).find? fun b => !sl.code.contains b
  else none

/-- An engine needs a block that is not there: its fetch comes up, unless it is on its way (R344). -/
def State.needBlock (s : State) (k : Stream) (b : Nat) : State :=
  let waiting := [0, 1, 2].any fun n => (s.engAt (k.sk * 3 + n)).codeMiss == some b
  let s := s.setEng k.ek { s.engAt k.ek with codeMiss := some b }
  if waiting then s
  else
    let (d, s) := s.freeNat
    s.due (s.cyc + 1 + d) 26 (.codeBlockFetch k.col k.slot b)

/-- The position after a run of padding headers, and whether the stream ends there (R76); at most `n` headers are passed. A
padding header with a reserved bit set stops the run, so that the check of R78 meets it. -/
def skipPadding (s : State) (sk : Nat) (e : Engine) : Nat → Nat → Nat
  | 0, p => p
  | n + 1, p =>
    if e.len ≤ p ∨ (s.missingBlock sk (e.base + p) 8).isSome then p
    else
      let h := s.load (codeKey sk (e.base + p)) 8
      if h / 2 ^ 62 = 3 ∧ h / 2 ^ 20 % 2 ^ 42 = 0 then skipPadding s sk e n (p + 8 + 4 * (h % 2 ^ 20)) else p

/-- The fault of the header that an engine stands at, if it fails a check (R76, R78). -/
def State.hdrFault (s : State) (k : Stream) : Option (Nat × Word) :=
  let e := s.engAt k.ek
  let key := codeKey k.sk (e.base + e.pos)
  let h := s.load key 8
  if h / 2 ^ 62 = 3 then some (0x02, BitVec.ofNat 64 (lowBit (h / 2 ^ 20 % 2 ^ 42) + 20))
  else headerFault k e h e.hdr e.targets (targetRest s (key + 8) e.hdr.tcnt)

/-- The engine reaches its next header in cycle `t + 1`: padding is passed, the header is checked, and the section waits; when its
waits are met it is dispatched in that cycle, so that its first word can issue in cycle `t + 2` (R76–R80). At the end of the
stream the engine's work is done (R79). -/
def State.reachHeader (s : State) (k : Stream) (t : Nat) : State :=
  let e := s.engAt k.ek
  let p := skipPadding s k.sk e (e.len / 8 + 1) e.pos
  let h := s.load (codeKey k.sk (e.base + p)) 8
  let hd := parseHeader h
  let miss := (s.missingBlock k.sk (e.base + p) 8).or (s.missingBlock k.sk (e.base + p) (8 + 12 * ((hd.tcnt + 5) / 6)))
  if e.len ≤ p then s.setEng k.ek { e with pos := p, sec := .empty }
  else if miss.isSome then (s.setEng k.ek { e with pos := p, sec := .waiting }).needBlock k (miss.getD 0)
  else
    let key := codeKey k.sk (e.base + p + 8)
    let tgts := targetsAt s key hd.tcnt
    let e := { e with pos := p, idx := 0, hdr := hd, targets := tgts, levels := [], rets := [], sec := .waiting }
    let s := s.setEng k.ek e
    match s.hdrFault k with
    | some (c, i) => if t < s.cyc then s.takeFault k c i true else s.due (t + 1) 20 (.sectionDispatch k.col k.slot k.eng)
    | none => if s.waitsMet k then s.due (t + 1) 20 (.sectionDispatch k.col k.slot k.eng) else s

/-- SECTION_DISPATCH: a Waiting section whose header is in order and whose waits are met becomes Dispatched; its word 0 can issue from the
next cycle (R78–R80). A pre-empted group stops here when the section's entry is a safe point (R372). -/
def execSectionDispatch (col slot : Nat) (eng : Eng) (s : State) : Out :=
  let k : Stream := ⟨col, slot, eng⟩
  let e := s.engAt k.ek
  if e.sec = .waiting ∧ e.codeMiss.isNone then
    match s.hdrFault k with
    | some (c, i) => .next (if k.fw && (s.slotAt k.sk).stop.isSome then s else s.takeFault k c i true)
    | none =>
      .next (if s.waitsMet k then
          s.setEng k.ek { e with sec := .dispatched, issueFrom := max e.issueFrom (s.cyc + 1) }
        else s)
  else .next s

/-- The other engines of a slot that wait are dispatched when their waits are met now (R79, R80). -/
def State.wakeWaiters (s : State) (k : Stream) : State :=
  [engNext k.eng, engPrev k.eng].foldl (fun s o =>
    let w : Stream := { k with eng := o }
    if (s.engAt w.ek).sec == .waiting && s.waitsMet w then s.due (s.cyc + 1) 20 (.sectionDispatch k.col k.slot o) else s) s

/-- SECTION_RETIRE: the section's EXIT or DONE word and all earlier ones have completed: L takes its number, the engine reaches
its next header, or its work is done (R77, R79). -/
def execSectionRetire (col slot : Nat) (eng : Eng) (s : State) : Out :=
  let k : Stream := ⟨col, slot, eng⟩
  let e := s.engAt k.ek
  match e.sec with
  | .retiring last =>
    if s.flights.any (fun f => f.at_ == k) then .next s
    else
      let after := e.pos + 8 + 12 * ((e.hdr.tcnt + 5) / 6 + e.hdr.len)
      let e := { e with lastRet := e.hdr.secno, pos := after, levels := [], rets := [], idx := 0,
                        sec := if last then Sec.empty else .waiting }
      let s := s.setEng k.ek e
      let s := if last then s else s.reachHeader k s.cyc
      .next (s.wakeWaiters k)
  | _ => .next s

/-- A word in flight, by its number. -/
def State.flight (s : State) (id : Nat) : Option Flight := s.flights.find? fun f => f.id == id

def State.setFlight (s : State) (f : Flight) : State :=
  { s with flights := s.flights.map fun g => if g.id == f.id then f else g }

def State.dropFlight (s : State) (id : Nat) : State := { s with flights := s.flights.filter fun f => f.id != id }

/-- A word whose work is done writes its results and its pushes, or raises the fault it met at its port (R79). Its lateness joins
ROWLATE in its delivery cycle, the next one (R218). -/
def State.endWord (s : State) (f : Flight) : State :=
  match f.fault with
  | some (c, i) => s.lateFault f c i
  | none =>
    let q := ((f.ins.form).map Form.seq).getD ⟨.next, false, false, false, false, 0, 0, 0⟩
    let s := s.dropFlight f.id
    let s := if f.late = 0 ∨ f.at_.fw then s
      else
        let sl := s.slotAt f.at_.sk
        s.setSlot f.at_.sk { sl with lates := sl.lates ++ [(s.cyc + 1, f.late)] }
    s.complete f q

/-- TOKEN_AVAILABLE: a pushed token can be popped from this cycle on (R63). -/
def execTokenAvailable (col slot fifo : Nat) (s : State) : Out :=
  let sl := s.slotAt (slotKey col slot)
  let f := sl.fifo fifo
  if f.arriving = 0 then .next s
  else .next (s.setSlot (slotKey col slot) (sl.setFifo fifo { f with arriving := f.arriving - 1, avail := f.avail + 1 }))

end Sys2Proof.Machine
end

