-- ==== Sys2Proof/Machine/Float.lean ====
section
/-! DEFINITION. Number formats and rounding (R30–R58): values are held exactly, every operation computes its exact result, and one
function rounds it. -/

namespace Sys2Proof.Machine

/-- A floating-point format (R30): width, fraction bits, bias, the code of the largest finite magnitude, and whether it has
infinities (R30). -/
structure FFmt where
  width : Nat
  frac : Nat
  bias : Nat
  maxBits : Nat
  hasInf : Bool
  canonNan : Nat
  deriving DecidableEq, Repr

def fmtF32 : FFmt := ⟨32, 23, 127, 0x7F7FFFFF, true, 0x7FC00000⟩
def fmtBF16 : FFmt := ⟨16, 7, 127, 0x7F7F, true, 0x7FC0⟩
def fmtF16 : FFmt := ⟨16, 10, 15, 0x7BFF, true, 0x7E00⟩
def fmtF8A : FFmt := ⟨8, 3, 7, 0x7E, false, 0x7F⟩
def fmtF8B : FFmt := ⟨8, 2, 15, 0x7B, true, 0x7E⟩
def fmtF4 : FFmt := ⟨4, 1, 1, 0x7, false, 0⟩

/-- The format of an unscaled float tag; a scaled tag gives its element format (R40). -/
def fmtOf (tag : Nat) : FFmt :=
  match tag % 16 with
  | 1 => fmtF32
  | 2 => fmtBF16
  | 3 => fmtF16
  | 4 => fmtF8A
  | 5 => fmtF8B
  | _ => fmtF4

/-- The element width of a tag (R144). -/
def tagWidth (tag : Nat) : Nat :=
  match tag with
  | 2 | 3 => 16
  | 4 | 5 | 9 | 10 | 0x14 | 0x15 => 8
  | 6 | 0x16 | 0x17 => 4
  | _ => 32

/-- An exact value: a NaN with its sign and its fraction aligned to 23 bits, an infinity, or n × 2^e with a sign. -/
inductive FVal where
  | nan (sign : Bool) (payload : Nat)
  | inf (sign : Bool)
  | fin (sign : Bool) (n : Nat) (e : Int)
  deriving DecidableEq, Repr

/-- The controls of FPMODE that a word captures (R44, R46). -/
structure FCtl where
  rm : Nat := 0
  ftz : Bool := false
  ovf : Bool := false
  cnan : Bool := false
  deriving DecidableEq, Repr

/-- FPMODE as a word captures it; a RND field other than 0 replaces RM (R46, R66). -/
def fctl (mode : Word) (rnd : Nat) : FCtl :=
  { rm := if rnd = 0 then bitsAt mode 2 0 else rnd - 1, ftz := bitsAt mode 3 3 == 1, ovf := bitsAt mode 4 4 == 1,
    cnan := bitsAt mode 5 5 == 1 }

namespace FFmt

/-- The exponent of the smallest subnormal. -/
def qmin (F : FFmt) : Int := 1 - (F.bias : Int) - F.frac

/-- Bits that stand for infinity, or the first code above the largest finite one. -/
def infBits (F : FFmt) : Nat := F.maxBits + 1

/-- The value of an encoding (R30), NaNs made quiet (R31). -/
def dec (F : FFmt) (b : Nat) : FVal :=
  let sign := b.testBit (F.width - 1)
  let m := b % 2 ^ (F.width - 1)
  if m ≤ F.maxBits then
    let e := m / 2 ^ F.frac
    if e = 0 then .fin sign m F.qmin
    else .fin sign (2 ^ F.frac + m % 2 ^ F.frac) (F.qmin + (e - 1 : Nat))
  else if F.hasInf ∧ m = F.infBits then .inf sign
  else .nan sign ((m % 2 ^ F.frac * 2 ^ (23 - F.frac)) ||| 2 ^ 22)

/-- An encoding is a subnormal, zero excluded. -/
def isSub (F : FFmt) (b : Nat) : Bool :=
  let m := b % 2 ^ (F.width - 1)
  decide (0 < m ∧ m < 2 ^ F.frac)

/-- FTZ acts on F32, BF16 and F16 only (R44, R52). -/
def flushes (F : FFmt) : Bool := decide (16 ≤ F.width)

/-- The value of an input under FTZ, with its flag (R44, R47). -/
def input (F : FFmt) (c : FCtl) (b : Nat) : FVal × Nat :=
  if c.ftz && F.flushes && F.isSub b then (.fin (b.testBit (F.width - 1)) 0 F.qmin, FTZD) else (F.dec b, 0)

def signBit (F : FFmt) (s : Bool) : Nat := if s then 2 ^ (F.width - 1) else 0

/-- A NaN in a format: sign and the high fraction bits that fit, or the canonical one (R44, R47, R52). -/
def nanBits (F : FFmt) (c : FCtl) (s : Bool) (p : Nat) : Nat :=
  if c.cnan then F.canonNan
  else if F.hasInf then F.signBit s + F.infBits + (p ||| 2 ^ 22) / 2 ^ (23 - F.frac) % 2 ^ F.frac
  else F.signBit s + F.canonNan

end FFmt

/-- The magnitude n × 2^-sh of a value with a sign, rounded to an integer, `sticky` standing for a remainder below the last bit (R47); under RSN
the draw is held against the place of the value above its lower neighbour, which for a negative value is the neighbour of greater magnitude (R48).
The second part says whether the value was inexact. -/
def roundInt (rm draw : Nat) (sign : Bool) (n sh : Nat) (sticky : Bool) : Nat × Bool :=
  let q := n / 2 ^ sh
  let r := n % 2 ^ sh
  let inexact := r != 0 || sticky
  let up := match rm with
    | 0 => decide (2 ^ sh < 2 * r) || (decide (2 ^ sh = 2 * r) && (sticky || q % 2 == 1))
    | 1 => false
    | 2 => inexact && !sign
    | 3 => inexact && sign
    | _ => inexact && (if sign then decide (((2 ^ sh - r) * 2 ^ 24 - sticky.toNat) / 2 ^ sh ≤ draw)
        else decide (draw < r * 2 ^ 24 / 2 ^ sh))
  (if up then q + 1 else q, inexact)

/-- n × 2^e as a multiple of 2^q, rounded. -/
def roundTo (rm draw : Nat) (sign : Bool) (n : Nat) (e q : Int) (sticky : Bool) : Nat × Bool :=
  if q ≤ e then (n * 2 ^ (e - q).toNat, sticky) else roundInt rm draw sign n (q - e).toNat sticky

/-- How an overflow is delivered (R47, R52). -/
inductive OvfRule where
  | ieee
  | narrow
  deriving DecidableEq, Repr

/-- The magnitude and the flags of an overflowed result (R47, R52). -/
def overflowBits (F : FFmt) (c : FCtl) (rule : OvfRule) (sign : Bool) : Nat × Nat :=
  let away := match c.rm with | 1 => false | 2 => !sign | 3 => sign | _ => true
  let ieee := (if away then F.infBits else F.maxBits, OF ||| NX)
  match rule with
  | .ieee => ieee
  | .narrow =>
    if F.width = 4 then (F.maxBits, SAT ||| OF ||| NX)
    else if !c.ovf then (F.maxBits, SAT ||| OF ||| NX)
    else ieee

/-- An F8A overflow with OVF = 1 gives a NaN whatever the direction (R52). -/
def overflowOf (F : FFmt) (c : FCtl) (rule : OvfRule) (sign : Bool) : Nat × Nat :=
  if rule = .narrow ∧ F = fmtF8A ∧ c.ovf then (0x7F, OF ||| NX) else overflowBits F c rule sign

/-- The exact value ±n × 2^e (plus less than 2^e when `sticky`) rounded once to a format, with its flags (R47, R48, R52). -/
def encode_ (F : FFmt) (c : FCtl) (rule : OvfRule) (draw : Nat) (sign : Bool) (n : Nat) (e : Int) (sticky : Bool) : Nat × Nat :=
  if n = 0 then (F.signBit sign, 0)
  else
    let q0 : Int := e + (Nat.log2 n + 1 : Nat) - (F.frac + 1 : Nat)
    let q := max q0 F.qmin
    let bitsOf (m : Nat) : Nat := (q - F.qmin).toNat * 2 ^ F.frac + m
    let (m, inexact) := roundTo c.rm draw sign n e q sticky
    let b := bitsOf m
    let rne := bitsOf (roundTo 0 0 sign n e q sticky).1
    let spills := if c.rm = 4 then decide (F.maxBits < rne) else decide (F.maxBits < b)
    if spills then
      let (m, fl) := overflowOf F c rule sign
      (F.signBit sign + m, fl)
    else
      let b := min b F.maxBits
      let tiny := decide (q0 < F.qmin) &&
        !(decide (q0 = F.qmin - 1) && (roundTo c.rm draw sign n e q0 sticky).1 == 2 ^ (F.frac + 1))
      if c.ftz && F.flushes && decide (0 < b ∧ b < 2 ^ F.frac) then (F.signBit sign, FTZD ||| UF ||| NX)
      else (F.signBit sign + b, (if inexact then NX else 0) ||| (if inexact && tiny then UF else 0))

/-- Every result of arithmetic: the value rounded to its format, IEEE overflow (R47, R147). -/
def encodeVal (F : FFmt) (c : FCtl) (draw : Nat) (v : FVal) (sticky : Bool := false) : Nat × Nat :=
  match v with
  | .nan s p => (F.nanBits c s p, 0)
  | .inf s => (F.signBit s + F.infBits, 0)
  | .fin s n e => encode_ F c .ieee draw s n e sticky

/-- The NaN of an invalid operation: the canonical one. -/
def invalidNan (F : FFmt) : Nat × Nat := (F.canonNan, NV)

namespace FVal

def isNan : FVal → Bool
  | .nan _ _ => true
  | _ => false

def isZero : FVal → Bool
  | .fin _ 0 _ => true
  | _ => false

def sign : FVal → Bool
  | .nan s _ => s
  | .inf s => s
  | .fin s _ _ => s

/-- The sign flipped when `b`. -/
def negIf (b : Bool) : FVal → FVal
  | .nan s p => .nan (s != b) p
  | .inf s => .inf (s != b)
  | .fin s n e => .fin (s != b) n e

/-- A finite value as a multiple of 2^q, q at most its exponent. -/
def scaled (q : Int) : FVal → Int
  | .fin s n e => (if s then -1 else 1) * ((n * 2 ^ (e - q).toNat : Nat) : Int)
  | _ => 0

def exp : FVal → Int
  | .fin _ _ e => e
  | _ => 0

/-- The value of an exact integer sum of units 2^q; `neg0` is the sign of a zero. -/
def ofSum (i : Int) (q : Int) (neg0 : Bool) : FVal :=
  if i = 0 then .fin neg0 0 q else .fin (i < 0) i.natAbs q

end FVal

/-- The first NaN of a list. -/
def firstNan (l : List FVal) : Option FVal := l.find? FVal.isNan

/-- x + y, exact (R149); an invalid sum is `none`. -/
def addVal (rm : Nat) (x y : FVal) : Option FVal :=
  match x, y with
  | .inf a, .inf b => if a == b then some (.inf a) else none
  | .inf a, _ => some (.inf a)
  | _, .inf b => some (.inf b)
  | x, y =>
    let q := min x.exp y.exp
    let z := if x.isZero && y.isZero && x.sign == y.sign then x.sign else rm == 3
    some (.ofSum (x.scaled q + y.scaled q) q z)

/-- x × y, exact; an invalid product is `none`. -/
def mulVal (x y : FVal) : Option FVal :=
  let s := x.sign != y.sign
  match x, y with
  | .inf _, y => if y.isZero then none else some (.inf s)
  | x, .inf _ => if x.isZero then none else some (.inf s)
  | .fin _ n e, .fin _ m g => some (.fin s (n * m) (e + g))
  | x, _ => some x

/-- A result rounded, or the NaN of R47: the first NaN operand, or the canonical one with NV for an invalid operation. -/
def deliver (F : FFmt) (c : FCtl) (draw : Nat) (ops : List FVal) (r : Option FVal) : Nat × Nat :=
  match firstNan ops with
  | some n => encodeVal F c draw n
  | none =>
    match r with
    | none => invalidNan F
    | some v => encodeVal F c draw v

/-- The inputs of an operation and the flags of flushing them. -/
def inputs (F : FFmt) (c : FCtl) (l : List Nat) : List FVal × Nat :=
  let r := l.map (F.input c)
  (r.map (·.1), r.foldl (fun f x => f ||| x.2) 0)

def withFlags (f : Nat) (r : Nat × Nat) : Nat × Nat := (r.1, r.2 ||| f)

/-- x + y or x − y rounded once. -/
def fAdd (F : FFmt) (c : FCtl) (draw : Nat) (neg : Bool) (a b : Nat) : Nat × Nat :=
  let (x, f1) := F.input c a
  let (y, f2) := F.input c b
  withFlags (f1 ||| f2) (deliver F c draw [x, y] (addVal c.rm x (y.negIf neg)))

/-- x × y rounded once. -/
def fMul (F : FFmt) (c : FCtl) (draw a b : Nat) : Nat × Nat :=
  let (x, f1) := F.input c a
  let (y, f2) := F.input c b
  withFlags (f1 ||| f2) (deliver F c draw [x, y] (mulVal x y))

/-- (±x × y) + (±z) rounded once (R149). -/
def fFma (F : FFmt) (c : FCtl) (draw : Nat) (np nc : Bool) (a b d : Nat) : Nat × Nat :=
  let (x, f1) := F.input c a
  let (y, f2) := F.input c b
  let (z, f3) := F.input c d
  withFlags (f1 ||| f2 ||| f3)
    (deliver F c draw [x.negIf np, y, z.negIf nc] ((mulVal (x.negIf np) y).bind fun p => addVal c.rm p (z.negIf nc)))

/-- x / y rounded once (R149). -/
def fDiv (F : FFmt) (c : FCtl) (draw a b : Nat) : Nat × Nat :=
  let (x, f1) := F.input c a
  let (y, f2) := F.input c b
  let s := x.sign != y.sign
  withFlags (f1 ||| f2) (
    match firstNan [x, y] with
    | some n => encodeVal F c draw n
    | none =>
      match x, y with
      | .inf _, .inf _ => invalidNan F
      | .inf _, _ => (F.signBit s + F.infBits, 0)
      | _, .inf _ => (F.signBit s, 0)
      | .fin _ n e, .fin _ m g =>
        if m = 0 then (if n = 0 then invalidNan F else (F.signBit s + F.infBits, DZ))
        else
          let t := n * 2 ^ 128
          encode_ F c .ieee draw s (t / m) (e - g - 128) (t % m != 0)
      | _, _ => invalidNan F)

/-- The integer square root of a number below 2^(2b), bit by bit. -/
def isqrtFrom : Nat → Nat → Nat → Nat
  | 0, _, r => r
  | b + 1, n, r => isqrtFrom b n (if (r + 2 ^ b) * (r + 2 ^ b) ≤ n then r + 2 ^ b else r)

/-- √x for x = n × 2^e, n not zero: root, exponent, remainder. -/
def sqrtParts (n : Nat) (e : Int) : Nat × Int × Bool :=
  let k := 127 - Nat.log2 n
  let k := if (e - (k : Nat)) % 2 = 0 then k else k - 1
  let t := n * 2 ^ k
  let r := isqrtFrom 64 t 0
  (r, (e - k) / 2, r * r != t)

/-- 1/√x for x = n × 2^e, n not zero. -/
def rsqrtParts (n : Nat) (e : Int) : Nat × Int × Bool :=
  let k := Nat.log2 n + 127
  let k := if (e + (k : Nat)) % 2 = 0 then k else k + 1
  let r := isqrtFrom 65 (2 ^ k / n) 0
  (r, -((e + k) / 2), r * r * n != 2 ^ k)

/-- The fixed-point precision of the two transcendental functions. -/
def fixBits : Nat := 224

/-- ln 2 in units of 2^-224 (floor). -/
def ln2Fix : Nat := 0xb17217f7d1cf79abc9e3b39803f2f6af40f343267298b62d8a0d175b8baafa2b / 2 ^ 32

/-- e^y in units of 2^-224 for y in the same units, 0 ≤ y < 1: the power series, 64 terms. -/
def expSeries (y : Nat) : Nat → Nat → Nat → Nat
  | 0, _, acc => acc
  | n + 1, t, acc => expSeries y n (t * y / 2 ^ fixBits / (64 - n)) (acc + t)

/-- 2^f in units of 2^-224 for a fraction f in units of 2^-224. -/
def exp2Fix (f : Nat) : Nat := expSeries (f * ln2Fix / 2 ^ fixBits) 64 (2 ^ fixBits) 0

/-- The series z + z³/3 + z⁵/5 + … in units of 2^-224, 80 terms. -/
def atanhSeries (z2 : Nat) : Nat → Nat → Nat → Nat
  | 0, _, acc => acc
  | n + 1, t, acc => atanhSeries z2 n (t * z2 / 2 ^ fixBits) (acc + t / (2 * (80 - (n + 1)) + 1))

/-- log2 m in units of 2^-224 for m = n / 2^k in [1, 2). -/
def log2Fix (n k : Nat) : Nat :=
  let z := (n - 2 ^ k) * 2 ^ fixBits / (n + 2 ^ k)
  2 * atanhSeries (z * z / 2 ^ fixBits) 80 z 0 * 2 ^ fixBits / ln2Fix

/-- The functions of R152. -/
inductive Fn1 where
  | sqrt
  | rsq
  | rcp
  | exp2
  | log2
  deriving DecidableEq, Repr

/-- 2^x rounded (R152): an integer gives a power of two exactly; any other result is irrational, so that the bits below the
224th are no more than a remainder. -/
def exp2Val (F : FFmt) (c : FCtl) (draw : Nat) (s : Bool) (n : Nat) (e : Int) : Nat × Nat :=
  if n = 0 then encode_ F c .ieee draw false 1 0 false
  else if 12 ≤ (Nat.log2 n : Int) + e then
    if s then encode_ F c .ieee draw false (2 ^ 80) (-4000) true else encode_ F c .ieee draw false (2 ^ 80) 4000 true
  else
    let x : Int := (if s then -1 else 1) * (if 0 ≤ e then ((n * 2 ^ (e.toNat + fixBits) : Nat) : Int)
      else ((n * 2 ^ fixBits / 2 ^ (-e).toNat : Nat) : Int))
    let i := x / (2 ^ fixBits : Nat)
    let f := (x % (2 ^ fixBits : Nat)).toNat
    if f = 0 then encode_ F c .ieee draw false 1 i false
    else encode_ F c .ieee draw false (exp2Fix f) (i - fixBits) true

/-- log2 x rounded for x > 0 (R152): a power of two gives an integer exactly. -/
def log2Val (F : FFmt) (c : FCtl) (draw n : Nat) (e : Int) : Nat × Nat :=
  let k := Nat.log2 n
  let i : Int := e + k
  if n = 2 ^ k then
    if i = 0 then (0, 0) else encode_ F c .ieee draw (i < 0) i.natAbs 0 false
  else
    let v : Int := i * (2 ^ fixBits : Nat) + (log2Fix n k : Int)
    encode_ F c .ieee draw (v < 0) v.natAbs (-(fixBits : Int)) true

/-- The one-operand functions with their special inputs (R152). -/
def fFn1 (F : FFmt) (c : FCtl) (draw : Nat) (fn : Fn1) (a : Nat) : Nat × Nat :=
  let (x, f1) := F.input c a
  let inf (s : Bool) : Nat := F.signBit s + F.infBits
  withFlags f1 (
    match x with
    | .nan s p => encodeVal F c draw (.nan s p)
    | .inf s =>
      match fn with
      | .sqrt | .log2 => if s then invalidNan F else (inf false, 0)
      | .rsq => if s then invalidNan F else (0, 0)
      | .rcp => (F.signBit s, 0)
      | .exp2 => if s then (0, 0) else (inf false, 0)
    | .fin s n e =>
      if n = 0 then
        match fn with
        | .sqrt => (F.signBit s, 0)
        | .rsq | .rcp => (inf s, DZ)
        | .exp2 => exp2Val F c draw false 0 0
        | .log2 => (inf true, DZ)
      else
        match fn with
        | .sqrt => if s then invalidNan F else
            let (r, q, st) := sqrtParts n e
            encode_ F c .ieee draw false r q st
        | .rsq => if s then invalidNan F else
            let (r, q, st) := rsqrtParts n e
            encode_ F c .ieee draw false r q st
        | .rcp => encode_ F c .ieee draw s (2 ^ 128 / n) (-e - 128) (2 ^ 128 % n != 0)
        | .exp2 => exp2Val F c draw s n e
        | .log2 => if s then invalidNan F else log2Val F c draw n e)

/-! ### Compares (R151, R153) -/

/-- x < y for values that are no NaN; zeros are equal. -/
def ltVal (x y : FVal) : Bool :=
  match x, y with
  | .inf a, .inf b => a && !b
  | .inf a, _ => a
  | _, .inf b => !b
  | x, y => let q := min x.exp y.exp; decide (x.scaled q < y.scaled q)

def eqVal (x y : FVal) : Bool := !ltVal x y && !ltVal y x && !x.isNan && !y.isNan

/-- The compares of VCMP on F32, with their flags (R153). -/
def fCmp (c : FCtl) (cc a b : Nat) : Bool × Nat :=
  let (x, f1) := fmtF32.input c a
  let (y, f2) := fmtF32.input c b
  let un := x.isNan || y.isNan
  let fl := f1 ||| f2 ||| (if un && decide (2 ≤ cc ∧ cc ≤ 5) then NV else 0)
  (match cc with
    | 0 => !un && eqVal x y
    | 1 => un || !eqVal x y
    | 2 => !un && ltVal x y
    | 3 => !un && !ltVal y x
    | 4 => !un && ltVal y x
    | 5 => !un && !ltVal x y
    | 12 => un
    | _ => !un, fl)

/-- The smaller or larger of two values with −0 below +0; one NaN gives the other operand, two follow R47 (R151). -/
def minMaxVal (mx : Bool) (x y : FVal) : FVal :=
  if x.isNan then (if y.isNan then x else y)
  else if y.isNan then x
  else
    let yLess := if eqVal x y && x.isZero && y.isZero then (y.sign && !x.sign) else ltVal y x
    let xLess := if eqVal x y && x.isZero && y.isZero then (x.sign && !y.sign) else ltVal x y
    if mx then (if xLess then y else x) else (if yLess then y else x)

/-- VMIN, VMAX on floats (R151): no exception flag but FTZD. -/
def fMinMax (F : FFmt) (c : FCtl) (mx : Bool) (a b : Nat) : Nat × Nat :=
  let (x, f1) := F.input c a
  let (y, f2) := F.input c b
  ((encodeVal F { c with ftz := false } 0 (minMaxVal mx x y)).1, f1 ||| f2)

/-! ### Conversions (R51–R53) -/

/-- A value converted to a floating-point format (R51, R52). -/
def cvtFloat (F : FFmt) (c : FCtl) (draw : Nat) (v : FVal) : Nat × Nat :=
  match v with
  | .nan s p => if F.width = 4 then (0, NV) else (F.nanBits c s p, 0)
  | .inf s =>
    if F.hasInf then (F.signBit s + F.infBits, 0)
    else if F.width = 4 then (F.signBit s + F.maxBits, SAT)
    else if c.ovf then (F.signBit s + 0x7F, NV)
    else (F.signBit s + F.maxBits, SAT)
  | .fin s n e => encode_ F c (if F.width = 32 then .ieee else .narrow) draw s n e false

/-- A value converted to a two's complement integer of `w` bits (R53). DEDUCED (log 151): the clip looks at the rounded value under every RND. -/
def cvtInt (w : Nat) (c : FCtl) (draw : Nat) (v : FVal) : Nat × Nat :=
  let hi : Int := 2 ^ (w - 1) - 1
  let lo : Int := -(2 ^ (w - 1))
  let enc (i : Int) : Nat := (i % (2 ^ w : Nat)).toNat
  match v with
  | .nan _ _ => (0, NV)
  | .inf s => (enc (if s then lo else hi), NV ||| SAT)
  | .fin s n e =>
    let (m, inexact) := roundTo c.rm draw s n e 0 false
    let i : Int := if s then -(m : Int) else m
    if i < lo then (enc lo, NV ||| SAT) else if hi < i then (enc hi, NV ||| SAT)
    else (enc i, if inexact then NX else 0)

/-- A two's complement integer of `w` bits. -/
def sint (w n : Nat) : Int := if n.testBit (w - 1) then (n : Int) - 2 ^ w else n

/-- One element converted between unscaled formats (R51–R53, R156). -/
def cvtElem (src dst : Nat) (c : FCtl) (draw a : Nat) : Nat × Nat :=
  let v : FVal × Nat :=
    if src = 8 ∨ src = 9 then (.ofSum (sint (tagWidth src) a) 0 false, 0)
    else (fmtOf src).input c a
  if dst = 8 then
    if src = 9 then ((sint 8 a % (2 ^ 32 : Nat)).toNat, 0) else withFlags v.2 (cvtInt 32 c draw v.1)
  else if dst = 9 then
    if src = 8 then
      let i := sint 32 a
      if i < -128 then (0x80, SAT) else if 127 < i then (0x7F, SAT) else (a % 256, 0)
    else withFlags v.2 (cvtInt 8 c draw v.1)
  else withFlags v.2 (cvtFloat (fmtOf dst) c draw v.1)

/-! ### Block scales and Q4X (R34, R35, R54) -/

/-- The value of an element times 2^(scale − 127); scale 0xFF makes a NaN (R34). -/
def scaleVal (scale : Nat) (v : FVal) : FVal :=
  if scale = 0xFF then .nan false (2 ^ 22)
  else match v with
    | .fin s n e => .fin s n (e + (scale : Int) - 127)
    | v => v

/-- The decoding of a Q4X block from slot `i` on (R35); `fuel` counts the slots. -/
def q4xFrom (slots : List Nat) (scale : Nat) : Nat → Nat → List FVal × Nat
  | 0, _ => ([], 0)
  | fuel + 1, i =>
    if 24 ≤ i then ([], 0)
    else
      let z : FVal := .fin false 0 0
      let sl := slots.getD i 0
      if sl ≠ 8 then
        let (r, f) := q4xFrom slots scale fuel (i + 1)
        (scaleVal scale (.ofSum (sint 4 sl) 0 false) :: r, f)
      else if i ≤ 21 then
        let (r, f) := q4xFrom slots scale fuel (i + 3)
        (scaleVal scale (fmtF8A.dec (slots.getD (i + 2) 0 * 16 + slots.getD (i + 1) 0)) :: z :: z :: r, f)
      else
        let (r, f) := q4xFrom slots scale fuel (i + 1)
        (z :: r, f ||| QXM)

/-- The 24 values of a block of a scaled format, with the flags of R34 and R35. -/
def decBlock (tag : Nat) (codes : List Nat) (scale : Nat) : List FVal × Nat :=
  if scale = 0xFF then (List.replicate 24 (.nan false (2 ^ 22)), SNAN)
  else if tag = 0x17 then q4xFrom codes scale 24 0
  else (codes.map fun x => scaleVal scale ((fmtOf tag).dec x), 0)

/-- amax ≤ fmax × 2^k, exactly. -/
def fitsScale (amax : FVal) (fmax : Nat) (k : Int) : Bool :=
  let y : FVal := .fin false fmax k
  !ltVal y amax

/-- The largest magnitude of a block. -/
def amaxOf (l : List FVal) : FVal :=
  l.foldl (fun m v => let a := v.negIf v.sign; if ltVal m a then a else m) (.fin false 0 0)

/-- ceil(log2(amax / fmax)) for amax not zero: the least k with amax ≤ fmax × 2^k (R54). -/
def scaleExp (amax : FVal) (fmax : Nat) : Int :=
  match amax with
  | .fin _ n e =>
    let g : Int := e + Nat.log2 n - Nat.log2 fmax
    if fitsScale amax fmax (g - 1) then g - 1 else if fitsScale amax fmax g then g else g + 1
  | _ => 0

/-- One element coded into F8A, F8B or F4 under a scale, saturating (R54). -/
def codeElem (F : FFmt) (c : FCtl) (draw scale : Nat) (v : FVal) : Nat × Nat :=
  match v with
  | .fin s n e => cvtFloat F { c with ovf := false } draw (.fin s n (e - (scale : Int) + 127))
  | v => cvtFloat F { c with ovf := false } draw v

/-- The result of coding a block: scale byte, 24 codes, flags, and the generators after its draws. -/
structure BlockCode where
  scale : Nat
  codes : List Nat
  flags : Nat
  gens : List Nat
  deriving DecidableEq, Repr

/-- The next state of a generator (R48). -/
def genNext (g : Nat) : Nat :=
  let a := g ^^^ (g * 2 ^ 13 % 2 ^ 32)
  let b := a ^^^ (a / 2 ^ 17)
  b ^^^ (b * 2 ^ 5 % 2 ^ 32)

/-- The generator after one element: it moves only under RSN (R49). -/
def genStep (c : FCtl) (g : Nat) : Nat := if c.rm = 4 then genNext g else g

/-- A draw: bits [31:8] of the state it leaves (R48). -/
def drawOf (g : Nat) : Nat := g / 256

/-- The generator that element `i` uses, after its draw (R49); `lane` names it. -/
def genAt (c : FCtl) (gs : List Nat) (l : Nat) : List Nat := gs.set l (genStep c (gs.getD l 0))

/-- The codes of a block of values in order from element `i`, one draw each. -/
def codeAll (F : FFmt) (c : FCtl) (scale : Nat) (lane : Nat → Nat) : List FVal → Nat → List Nat → List Nat × Nat × List Nat
  | [], _, gs => ([], 0, gs)
  | v :: t, i, gs =>
    let gs := genAt c gs (lane i)
    let (b, f) := codeElem F c (drawOf (gs.getD (lane i) 0)) scale v
    let (r, f', gs') := codeAll F c scale lane t (i + 1) gs
    (b :: r, f ||| f', gs')

/-- The Q4X slots of a block from element `i` on (R54); `fuel` counts the elements. -/
def q4xCode (c : FCtl) (outl : Bool) (scale : Nat) (lane : Nat → Nat) (x : List FVal) :
    Nat → Nat → List Nat → List Nat × Nat × List Nat
  | 0, _, gs => ([], 0, gs)
  | fuel + 1, i, gs =>
    if 24 ≤ i then ([], 0, gs)
    else
      let gs := genAt c gs (lane i)
      let g := gs.getD (lane i) 0
      match x.getD i (.fin false 0 0) with
      | .fin s n e =>
        let e' := e - (scale : Int) + 127
        let (m, inexact) := roundTo c.rm (drawOf g) s n e' 0 false
        if m ≤ 7 then
          let (r, f, gs') := q4xCode c outl scale lane x fuel (i + 1) gs
          ((if s then (16 - m) % 16 else m) :: r, f ||| (if inexact then NX else 0), gs')
        else if outl && decide (i ≤ 21) then
          let (b, fb) := cvtFloat fmtF8A { c with ovf := false } (drawOf g) (.fin s n e')
          let lost := !((x.getD (i + 1) (.fin false 0 0)).isZero && (x.getD (i + 2) (.fin false 0 0)).isZero)
          let (r, f, gs') := q4xCode c outl scale lane x fuel (i + 3) gs
          (8 :: b % 16 :: b / 16 :: r, f ||| fb ||| (if lost then NX else 0), gs')
        else
          let (r, f, gs') := q4xCode c outl scale lane x fuel (i + 1) gs
          ((if s then 9 else 7) :: r, f ||| SAT ||| NX, gs')
      | _ => ([], 0, gs)

/-- ScaleGen and the coding of a block of 24 values (R54); element `i` draws from generator `lane i` of `gs`. -/
def codeBlock (tag : Nat) (c : FCtl) (outl : Bool) (x : List FVal) (lane : Nat → Nat) (gs : List Nat) : BlockCode :=
  let special := x.any fun v => match v with | .fin _ _ _ => false | _ => true
  if special then
    { scale := 0xFF, codes := List.replicate 24 0,
      flags := if x.any (fun v => match v with | .inf _ => true | _ => false) then NV else 0,
      gens := (List.range 24).foldl (fun gs i => genAt c gs (lane i)) gs }
  else
    let fmax := match tag with | 0x14 => 448 | 0x15 => 57344 | 0x16 => 6 | _ => 7
    let a := amaxOf x
    let e := if a.isZero then 127 else (max 0 (min 254 (127 + scaleExp a fmax))).toNat
    let e := if tag = 0x17 && outl then e - 3 else e
    if tag = 0x17 then
      let (r, f, gs') := q4xCode c outl e lane x 24 0 gs
      ⟨e, r, f, gs'⟩
    else
      let (r, f, gs') := codeAll (fmtOf tag) c e lane x 0 gs
      ⟨e, r, f, gs'⟩

/-! ### The course dot product (R55–R57) -/

/-- The partial sum of one course in F32, with its flags (R55, R56). -/
def dotFloat (a b : List FVal) : Nat × Nat :=
  let ps := List.zip a b
  let nan (p : FVal × FVal) : Bool := p.1.isNan || p.2.isNan
  let products := (ps.filter fun p => !nan p).map fun p => mulVal p.1 p.2
  let vs := products.filterMap id
  let pos := vs.any fun v => v == .inf false
  let neg := vs.any fun v => v == .inf true
  if products.any Option.isNone || (pos && neg) then (0x7FC00000, NV)
  else if ps.any nan then (0x7FC00000, 0)
  else
    if pos then (0x7F800000, 0)
    else if neg then (0xFF800000, 0)
    else
      let q : Int := -340
      let sum := vs.foldl (fun i v => i + v.scaled q) 0
      encodeVal fmtF32 {} 0 (.ofSum sum q (!vs.isEmpty && vs.all fun v => v.isZero && v.sign))

/-- The exact integer sum of I8 products (R57). -/
def dotInt (a b : List Int) : Int := (List.zipWith (· * ·) a b).foldl (· + ·) 0

end Sys2Proof.Machine
end

