-- ==== Sys2Proof/Machine/Lanes.lean ====
section
/-! DEFINITION. Lanes, elements and masks (R33, R36, R144–R146), the lane generators (R48–R50), and the checks every vector word
makes at issue (R41, R146). -/

namespace Sys2Proof.Machine

/-- The elements of a lane (R33). -/
def elems (w : Nat) (l : Lane) : List Nat := (List.range (32 / w)).map fun i => l.toNat / 2 ^ (w * i) % 2 ^ w

/-- A lane of elements (R33). -/
def packElems (w : Nat) : List Nat → Nat
  | [] => 0
  | a :: t => a % 2 ^ w + 2 ^ w * packElems w t

def packLane (w : Nat) (l : List Nat) : Lane := BitVec.ofNat 32 (packElems w l)

/-- The seed of a lane's generator (R50). -/
def seedLane (seed l : Nat) : Nat :=
  let v := seed ^^^ (l * 0x9E3779B9 % 2 ^ 32)
  if v = 0 then 1 else v

/-- The generators of a slot; an empty list stands for those seeded from RNGSEED's reset value (R50). -/
def Slot.genList (sl : Slot) : List Nat :=
  if sl.gens.isEmpty then (List.range 256).map (seedLane 1) else sl.gens.map BitVec.toNat

def Slot.setGens (sl : Slot) (g : List Nat) : Slot := { sl with gens := g.map (BitVec.ofNat 32) }

/-- A scaled tag (R40). -/
def isScaled (tag : Nat) : Bool := decide (16 ≤ tag)

/-- A lane is enabled: by its own mask bit, or for a scaled result by the bit of its group's first lane (R36, R145). -/
def enabled (m : BitVec 256) (tag l : Nat) : Bool := m.getLsbD (if isScaled tag then l / 8 * 8 else l)

/-- TRAPINFO of FORMAT_MISMATCH (R116). -/
def mismatchInfo (want found reg pos : Nat) : Word :=
  BitVec.ofNat 64 (want + found * 2 ^ 8 + reg * 2 ^ 16 + pos * 2 ^ 22)

/-- A source register with the tag the word expects and its position (R41, R146). -/
structure Src where
  reg : Nat
  want : Nat
  pos : Nat

/-- The first FORMAT_MISMATCH among sources, then of a destination written under a mask other than k0 (R41, R146). -/
def tagFault (sl : Slot) (srcs : List Src) (mask dst : Nat) (res : Option Nat) : Option Word :=
  let bad := srcs.find? fun x => (sl.vreg x.reg).tag != x.want
  match bad with
  | some x => some (mismatchInfo x.want (sl.vreg x.reg).tag x.reg x.pos)
  | none =>
    match res with
    | some t => if mask ≠ 0 ∧ (sl.vreg dst).tag ≠ t then some (mismatchInfo t (sl.vreg dst).tag dst 3) else none
    | none => none

/-- The first mark on an enabled lane of the registers a word consumes (R146, R230). -/
def laneMark (sl : Slot) (m : BitVec 256) (regs : List Nat) : Option Word :=
  (regs.findSome? fun r => ((sl.vreg r).marks.find? fun x => m.getLsbD x.1).map (·.2)).map (BitVec.ofNat 64)

/-- The checks of a vector word at issue: tags, then consumed poison, then its own act (R146). -/
def vchecks (s : State) (srcs : List Src) (mask dst : Nat) (res : Option Nat) (vmarks : List Nat) (m : BitVec 256)
    (smarks : List Nat) (act : Act) : Act :=
  match tagFault s.sl srcs mask dst res with
  | some i => .fault 0x04 i
  | none =>
    match laneMark s.sl m vmarks with
    | some i => .fault 0x0D i
    | none => consuming s smarks act

/-- The registers of a vector word: destination, sources, mask. -/
def vregs (dst : List Nat) (mask : Nat) : List Reg := .k mask :: dst.map Reg.v

/-- A destination with new enabled lanes: they lose their marks, the others stay; the tag is the result's (R41, R145, R230). -/
def mergeV (old : VReg) (tag : Nat) (m : BitVec 256) (new : List Lane) (marks : Map Nat := []) : VReg :=
  { tag := tag,
    lanes := (List.range 256).map fun l => if enabled m tag l then new.getD l 0 else old.lanes.getD l 0,
    marks := old.marks.filter (fun x => !enabled m tag x.1) ++ marks.filter (fun x => enabled m tag x.1) }

/-- What a lane-wise pass leaves: lanes, flags, generators. -/
structure LanePass where
  lanes : List Lane
  flags : Nat
  gens : List Nat

/-- The elements of one lane computed in ascending order, one draw each when the word rounds (R49, R147). -/
def elemPass (c : FCtl) (draws : Bool) (op : Nat → List Nat → Nat × Nat) : List (List Nat) → Nat → List Nat × Nat × Nat
  | [], g => ([], 0, g)
  | x :: t, g =>
    let g := if draws then genStep c g else g
    let (b, f) := op (drawOf g) x
    let (r, f', g') := elemPass c draws op t g
    (b :: r, f ||| f', g')

/-- A lane-wise word over sources of element width `w`: disabled lanes take no draw and raise no flag (R145). -/
def lanePass (c : FCtl) (draws : Bool) (w : Nat) (op : Nat → List Nat → Nat × Nat) (m : BitVec 256) (srcs : List VReg)
    (gens : List Nat) : LanePass :=
  let rows := (List.range 256).map fun l =>
    let g := gens.getD l 0
    if m.getLsbD l then
      let es := srcs.map fun v => elems w (v.lanes.getD l 0)
      let ops := (List.range (32 / w)).map fun i => es.map fun e => e.getD i 0
      let (r, f, g') := elemPass c draws op ops g
      (packLane w r, f, g')
    else ((0 : Lane), 0, g)
  ⟨rows.map (·.1), rows.foldl (fun f r => f ||| r.2.1) 0, rows.map (·.2.2)⟩

/-- A vector result with the flags and generators its pass leaves (R45, R49). -/
def vres (s : State) (dst : Nat) (v : VReg) (flags : Nat) (gens : Option (List Nat)) (lat : Nat) : Act :=
  let sl := s.sl.raise flags
  let sl := match gens with | some g => sl.setGens g | none => sl
  .go { st := s.setSl sl, lat := lat, writes := [.v dst v] }

/-- An element-wise word of format A with one to three sources, its tag FMT (R149). -/
def elementwise (f : FmtA) (n : Nat) (draws : Bool) (lat : Nat) (op : FCtl → Nat → List Nat → Nat × Nat) (s : State) : Act :=
  let regs := [f.oa, f.ob, f.oc].take n
  let c := fctl (s.sl.ctlr 0) f.rnd
  let m := s.sl.kreg f.mask
  let p := lanePass c draws (tagWidth f.fmt) (op c) m (regs.map s.sl.vreg) s.sl.genList
  vchecks s (regs.zipIdx.map fun r => ⟨r.1, f.fmt, r.2⟩) f.mask f.dst (some f.fmt) regs m []
    (vres s f.dst (mergeV (s.sl.vreg f.dst) f.fmt m p.lanes) p.flags
      (if draws && c.rm == 4 then some p.gens else none) lat)

def element (l : List Nat) (n : Nat) : Nat := l.getD n 0

/-- An integer result wrapped to `w` bits, or clipped with SAT (R150). -/
def intRes (w : Nat) (sat : Bool) (i : Int) : Nat × Nat :=
  let lo : Int := -(2 ^ (w - 1))
  let hi : Int := 2 ^ (w - 1) - 1
  if sat then
    let j := max lo (min hi i)
    ((j % (2 ^ w : Nat)).toNat, if j = i then 0 else SAT)
  else ((i % (2 ^ w : Nat)).toNat, 0)

end Sys2Proof.Machine
end

