-- ==== Sys2Proof/Machine/Vector.lean ====
section
/-! DEFINITION. Element-wise vector words (R149–R155), conversions (R156–R158), moves (R161, R162), cell shifts (R163) and mask
words (R166). -/

namespace Sys2Proof.Machine

/-- An integer tag among those of element-wise arithmetic (R144). -/
def isInt (tag : Nat) : Bool := tag == 8 || tag == 9

/-- The registers of an element-wise word with `n` sources. -/
def vregsA (f : FmtA) (n : Nat) : List Reg := vregs (f.dst :: ([f.oa, f.ob, f.oc].take n)) f.mask

/-- A word with two sources that rounds on floats and may saturate on integers (R149, R150). -/
def vArith (f : FmtA) (lat : Nat) (fop : FFmt → FCtl → Nat → Nat → Nat → Nat × Nat) (iop : Int → Int → Int) : State → Act :=
  let w := tagWidth f.fmt
  elementwise f 2 (!isInt f.fmt) lat fun c d x =>
    if isInt f.fmt then intRes w (f.sub % 2 == 1) (iop (sint w (element x 0)) (sint w (element x 1)))
    else fop (fmtOf f.fmt) c d (element x 0) (element x 1)

/-- VADD (R149). -/
def execVadd (q : Seq) (f : FmtA) (s : State) : Out :=
  wordIssue (.vadd q f) q (vregsA f 2) (vArith f 2 (fun F c d a b => fAdd F c d false a b) (· + ·)) s

/-- VSUB (R149). -/
def execVsub (q : Seq) (f : FmtA) (s : State) : Out :=
  wordIssue (.vsub q f) q (vregsA f 2) (vArith f 2 (fun F c d a b => fAdd F c d true a b) (· - ·)) s

/-- VMUL (R149). -/
def execVmul (q : Seq) (f : FmtA) (s : State) : Out :=
  wordIssue (.vmul q f) q (vregsA f 2) (vArith f 4 fMul (· * ·)) s

/-- VFMA: integers wrap (R149, R150). -/
def execVfma (q : Seq) (f : FmtA) (s : State) : Out :=
  let w := tagWidth f.fmt
  let np := f.sub % 2 == 1
  let nc := f.sub / 2 % 2 == 1
  wordIssue (.vfma q f) q (vregsA f 3) (elementwise f 3 (!isInt f.fmt) 4 fun c d x =>
    if isInt f.fmt then
      let p := sint w (element x 0) * sint w (element x 1)
      let z := sint w (element x 2)
      intRes w false ((if np then -p else p) + (if nc then -z else z))
    else fFma (fmtOf f.fmt) c d np nc (element x 0) (element x 1) (element x 2)) s

/-- The smaller or larger of two integer elements (R151). -/
def minMaxInt (w : Nat) (unsigned mx : Bool) (a b : Nat) : Nat :=
  let less (x y : Nat) : Bool := if unsigned then decide (x < y) else decide (sint w x < sint w y)
  if (if mx then less a b else less b a) then b else a

/-- VMIN and VMAX (R151). -/
def vMinMax (f : FmtA) (mx : Bool) : State → Act :=
  elementwise f 2 false 2 fun c _ x =>
    if isInt f.fmt then (minMaxInt (tagWidth f.fmt) (f.sub % 2 == 1) mx (element x 0) (element x 1), 0)
    else fMinMax (fmtOf f.fmt) c mx (element x 0) (element x 1)

/-- VMIN (R151). -/
def execVmin (q : Seq) (f : FmtA) (s : State) : Out :=
  wordIssue (.vmin q f) q (vregsA f 2) (vMinMax f false) s

/-- VMAX (R151). -/
def execVmax (q : Seq) (f : FmtA) (s : State) : Out :=
  wordIssue (.vmax q f) q (vregsA f 2) (vMinMax f true) s

/-- VDIV (R149). -/
def execVdiv (q : Seq) (f : FmtA) (s : State) : Out :=
  wordIssue (.vdiv q f) q (vregsA f 2) (elementwise f 2 true 14 fun c d x =>
    fDiv (fmtOf f.fmt) c d (element x 0) (element x 1)) s

/-- VABS and VNEG: floats change the sign bit only (R150, R151). -/
def vSign (f : FmtA) (neg : Bool) : State → Act :=
  let w := tagWidth f.fmt
  elementwise f 1 false 2 fun _ _ x =>
    let a := element x 0
    if isInt f.fmt then intRes w (f.sub % 2 == 1) (if neg then -sint w a else (sint w a).natAbs)
    else (if neg then a ^^^ 2 ^ (w - 1) else a % 2 ^ (w - 1), 0)

/-- VABS (R151). -/
def execVabs (q : Seq) (f : FmtA) (s : State) : Out :=
  wordIssue (.vabs q f) q (vregsA f 1) (vSign f false) s

/-- VNEG (R151). -/
def execVneg (q : Seq) (f : FmtA) (s : State) : Out :=
  wordIssue (.vneg q f) q (vregsA f 1) (vSign f true) s

/-- A one-operand function (R152). -/
def vFn (f : FmtA) (lat : Nat) (fn : Fn1) : State → Act :=
  elementwise f 1 true lat fun c d x => fFn1 (fmtOf f.fmt) c d fn (element x 0)

/-- VSQRT (R152). -/
def execVsqrt (q : Seq) (f : FmtA) (s : State) : Out :=
  wordIssue (.vsqrt q f) q (vregsA f 1) (vFn f 14 .sqrt) s

/-- VRSQ (R152). -/
def execVrsq (q : Seq) (f : FmtA) (s : State) : Out :=
  wordIssue (.vrsq q f) q (vregsA f 1) (vFn f 10 .rsq) s

/-- VRCP (R152). -/
def execVrcp (q : Seq) (f : FmtA) (s : State) : Out :=
  wordIssue (.vrcp q f) q (vregsA f 1) (vFn f 10 .rcp) s

/-- VEXP2 (R152). -/
def execVexp2 (q : Seq) (f : FmtA) (s : State) : Out :=
  wordIssue (.vexp2 q f) q (vregsA f 1) (vFn f 10 .exp2) s

/-- VLOG2 (R152). -/
def execVlog2 (q : Seq) (f : FmtA) (s : State) : Out :=
  wordIssue (.vlog2 q f) q (vregsA f 1) (vFn f 10 .log2) s

/-! ### Compare, select, bits -/

/-- A mask from a test of each lane. -/
def maskFrom (p : Nat → Bool) : BitVec 256 :=
  BitVec.ofNat 256 ((List.range 256).foldr (fun l n => 2 * n + (p l).toNat) 0)

/-- The mask that acts on the lanes of a result: for a scaled tag, each group by the bit of its first lane (R36, R145). -/
def effMask (m : BitVec 256) (tag : Nat) : BitVec 256 := if isScaled tag then maskFrom fun l => m.getLsbD (l / 8 * 8) else m

/-- VCMP.cc writes one bit a lane; disabled lanes write 0 (R153). -/
def execVcmp (q : Seq) (f : FmtA) (s : State) : Out :=
  wordIssue (.vcmp q f) q [.k f.mask, .k f.dst, .v f.oa, .v f.ob]
    (fun s =>
      let c := fctl (s.sl.ctlr 0) f.rnd
      let m := s.sl.kreg f.mask
      let a := s.sl.vreg f.oa
      let b := s.sl.vreg f.ob
      let rows := (List.range 256).map fun l =>
        if m.getLsbD l then
          let x := a.lanes.getD l 0
          let y := b.lanes.getD l 0
          if f.fmt = 8 then (condHolds f.sub x y, 0) else fCmp c f.sub x.toNat y.toNat
        else (false, 0)
      let fl := rows.foldl (fun n r => n ||| r.2) 0
      vchecks s [⟨f.oa, f.fmt, 0⟩, ⟨f.ob, f.fmt, 1⟩] 0 0 none [f.oa, f.ob] m []
        (.go { st := s.setSl (s.sl.raise fl), lat := 2,
               writes := [.k f.dst (maskFrom fun l => (rows.getD l (false, 0)).1)] })) s

/-- VSEL chooses lane by lane, or group by group for a scaled tag; with FMT = BITS it checks no tag (R154). -/
def execVsel (q : Seq) (f : FmtA) (s : State) : Out :=
  wordIssue (.vsel q f) q [.k f.mask, .k f.oc, .v f.dst, .v f.oa, .v f.ob]
    (fun s =>
      let m := effMask (s.sl.kreg f.mask) f.fmt
      let c := effMask (s.sl.kreg f.oc) f.fmt
      let a := s.sl.vreg f.oa
      let b := s.sl.vreg f.ob
      let new := (List.range 256).map fun l => if c.getLsbD l then a.lanes.getD l 0 else b.lanes.getD l 0
      let raw := f.fmt == 0
      vchecks s (if raw then [] else [⟨f.oa, f.fmt, 0⟩, ⟨f.ob, f.fmt, 1⟩]) f.mask f.dst (if raw then none else some f.fmt)
        [f.oa, f.ob] m [] (vres s f.dst (mergeV (s.sl.vreg f.dst) f.fmt m new) 0 none 2)) s

/-- A raw-bits word of two sources (R155). -/
def vBits (f : FmtA) (op : Lane → Lane → Lane) (s : State) : Act :=
  let m := effMask (s.sl.kreg f.mask) f.fmt
  let new := List.zipWith op (s.sl.vreg f.oa).lanes (s.sl.vreg f.ob).lanes
  vchecks s [] 0 0 none [f.oa, f.ob] m [] (vres s f.dst (mergeV (s.sl.vreg f.dst) f.fmt m new) 0 none 2)

/-- VAND (R155). -/
def execVand (q : Seq) (f : FmtA) (s : State) : Out :=
  wordIssue (.vand q f) q (vregsA f 2) (vBits f (· &&& ·)) s

/-- VOR (R155). -/
def execVor (q : Seq) (f : FmtA) (s : State) : Out :=
  wordIssue (.vor q f) q (vregsA f 2) (vBits f (· ||| ·)) s

/-- VXOR (R155). -/
def execVxor (q : Seq) (f : FmtA) (s : State) : Out :=
  wordIssue (.vxor q f) q (vregsA f 2) (vBits f (· ^^^ ·)) s

/-- A shift of each element by the low bits of the matching element (R155). -/
def vShiftBits (f : FmtA) (op : Nat → Nat → Nat → Nat) : State → Act :=
  let w := tagWidth f.fmt
  elementwise f 2 false 2 fun _ _ x => (op w (element x 0) (element x 1 % w), 0)

/-- VSHL (R155). -/
def execVshl (q : Seq) (f : FmtA) (s : State) : Out :=
  wordIssue (.vshl q f) q (vregsA f 2) (vShiftBits f fun w a n => a * 2 ^ n % 2 ^ w) s

/-- VSHR (R155). -/
def execVshr (q : Seq) (f : FmtA) (s : State) : Out :=
  wordIssue (.vshr q f) q (vregsA f 2) (vShiftBits f fun _ a n => a / 2 ^ n) s

/-- VSAR (R155). -/
def execVsar (q : Seq) (f : FmtA) (s : State) : Out :=
  wordIssue (.vsar q f) q (vregsA f 2)
    (vShiftBits f fun w a n => (sint w a / 2 ^ n % (2 ^ w : Nat)).toNat) s

/-! ### Conversions (R156–R158) -/

/-- The tags VCVT converts among without scales (R156). -/
def plainCvt : List Nat := [1, 2, 3, 4, 5, 6, 8, 9]

/-- The pairs of R156. -/
def cvtPair (src dst : Nat) : Bool :=
  (plainCvt.contains src && plainCvt.contains dst && src != dst) || (src == 1 && decide (0x14 ≤ dst))
    || (decide (0x14 ≤ src) && dst == 1)

/-- Elements of 4 bits in a scaled tag. -/
def fourBit (tag : Nat) : Bool := tag == 0x16 || tag == 0x17

/-- Source registers of a conversion to a scaled format (R158). -/
def cvtRegs (f : FmtA) : List Nat :=
  if isScaled f.fmt then (List.range (if fourBit f.fmt then 6 else 3)).map (f.oa + ·) else [f.oa]

/-- The faults of VCVT at decode that come after WRONG_ENGINE (R146, R157, R158). -/
def cvtDecode (i : Instr) (f : FmtA) (_ : State) : Option (Nat × Word) :=
  let src := f.oc % 32
  let dst := f.fmt
  let part := f.sub % 8
  let keep := f.sub / 8 % 2 == 1
  let ill := some (0x01, BitVec.ofNat 64 ((encodeWord i).getD 0 / 2 ^ 32))
  if !cvtPair src dst then some (0x05, BitVec.ofNat 64 (src + dst * 256))
  else if isScaled dst then
    if part ≠ 0 ∨ keep ∨ 63 < f.oa + (cvtRegs f).length - 1 then ill else none
  else if isScaled src then
    if (if fourBit src then 6 else 3) ≤ part ∨ keep then ill else none
  else
    let a := 32 / tagWidth src
    let b := 32 / tagWidth dst
    if (max a b / min a b) ≤ part ∨ (keep ∧ b ≤ a) then ill else none

/-- A conversion inside each lane (R157), with one draw under RSN for each element that it produces (R49). -/
def cvtPlain (f : FmtA) (s : State) : Act :=
  let src := f.oc % 32
  let c := fctl (s.sl.ctlr 0) f.rnd
  let p := f.sub % 8
  let keep := f.sub / 8 % 2 == 1
  let a := 32 / tagWidth src
  let b := 32 / tagWidth f.fmt
  let m := s.sl.kreg f.mask
  let old := s.sl.vreg f.dst
  let rows := (List.range 256).map fun l =>
    let g := s.sl.genList.getD l 0
    if m.getLsbD l then
      let es := elems (tagWidth src) ((s.sl.vreg f.oa).lanes.getD l 0)
      let use := if b < a then (es.drop (p * b)).take b else es
      let (r, fl, g') := elemPass c true (fun d x => cvtElem src f.fmt c d (element x 0)) (use.map fun x => [x]) g
      let base := if keep then elems (tagWidth f.fmt) (old.lanes.getD l 0) else List.replicate b 0
      let out := if a < b then base.take (p * a) ++ r ++ base.drop (p * a + a) else r
      (packLane (tagWidth f.fmt) out, fl, g')
    else ((0 : Lane), 0, g)
  let fl := rows.foldl (fun n r => n ||| r.2.1) 0
  vchecks s (⟨f.oa, src, 0⟩ :: (if keep then [⟨f.dst, f.fmt, 3⟩] else [])) f.mask f.dst (some f.fmt)
    (f.oa :: (if keep then [f.dst] else [])) m []
    (vres s f.dst (mergeV old f.fmt m (rows.map (·.1))) fl
      (if c.rm == 4 then some (rows.map (·.2.2)) else none) 4)

/-- Bytes of a group of a scaled register as eight lanes (R36). -/
def groupLanes (bytes : List Nat) : List Lane :=
  (List.range 8).map fun k => BitVec.ofNat 32 (packElems 8 ((bytes.drop (4 * k)).take 4))

/-- The 32 bytes of group `g` of a register (R36). -/
def groupBytes (v : VReg) (g : Nat) : List Nat :=
  (List.range 8).flatMap fun k => elems 8 (v.lanes.getD (8 * g + k) 0)

/-- Codes of a block packed into bytes, two 4-bit codes to a byte. -/
def codeBytes (tag : Nat) (codes : List Nat) : List Nat :=
  if fourBit tag then (List.range 12).map fun n => element codes (2 * n) + 16 * element codes (2 * n + 1) else codes

/-- The codes of a block from its bytes. -/
def byteCodes (tag : Nat) (bytes : List Nat) : List Nat :=
  if fourBit tag then bytes.flatMap fun b => [b % 16, b / 16 % 16] else bytes

/-- F32 to a scaled format: group `g` from its source registers, coded block by block with lane 8g's generator (R158). -/
def cvtGroup (f : FmtA) (c : FCtl) (src : List VReg) (g gen : Nat) : List Nat × Nat × Nat :=
  let val (b j : Nat) : FVal × Nat :=
    fmtF32.input c (((src.getD (3 * b + j / 8) {}).lanes.getD (8 * g + j % 8) 0).toNat)
  let block (b gen : Nat) : BlockCode × Nat :=
    let xs := (List.range 24).map (val b)
    (codeBlock f.fmt c (f.sub / 16 % 2 == 1) (xs.map (·.1)) (fun _ => 0) [gen], xs.foldl (fun n x => n ||| x.2) 0)
  let (b0, f0) := block 0 gen
  if fourBit f.fmt then
    let (b1, f1) := block 1 (b0.gens.headD 0)
    (codeBytes f.fmt b0.codes ++ codeBytes f.fmt b1.codes ++ [b0.scale, b1.scale], b0.flags ||| b1.flags ||| f0 ||| f1, b1.gens.headD 0)
  else (codeBytes f.fmt b0.codes ++ [b0.scale], b0.flags ||| f0, b0.gens.headD 0)

/-- F32 to a scaled format (R158). -/
def cvtToScaled (f : FmtA) (s : State) : Act :=
  let c := fctl (s.sl.ctlr 0) f.rnd
  let m := effMask (s.sl.kreg f.mask) f.fmt
  let regs := cvtRegs f
  let src := regs.map s.sl.vreg
  let gens := s.sl.genList
  let rows := (List.range 32).map fun g =>
    let gen := gens.getD (8 * g) 0
    if m.getLsbD (8 * g) then
      let r := cvtGroup f c src g gen
      (groupLanes r.1, r.2.1, r.2.2)
    else (List.replicate 8 (0 : Lane), 0, gen)
  let fl := rows.foldl (fun n r => n ||| r.2.1) 0
  let gens' := (List.range 256).map fun l => if l % 8 = 0 then (rows.getD (l / 8) ([], 0, 0)).2.2 else gens.getD l 0
  vchecks s (regs.map fun r => ⟨r, 1, 0⟩) f.mask f.dst (some f.fmt) regs m []
    (vres s f.dst (mergeV (s.sl.vreg f.dst) f.fmt m (rows.flatMap (·.1))) fl (if c.rm == 4 then some gens' else none) 8)

/-- The values of one part of group `g` of a scaled register, one for each of its eight lanes, with the flags of their decoding (R158). -/
def cvtPart (tag p : Nat) (v : VReg) (g : Nat) : List FVal × Nat :=
  let bytes := groupBytes v g
  let h := if fourBit tag then p / 3 else 0
  let data := if fourBit tag then (bytes.drop (12 * h)).take 12 else bytes.take 24
  let (vals, fl) := decBlock tag (byteCodes tag data) (element bytes (24 + h))
  ((vals.drop (8 * (p % 3))).take 8, fl)

/-- A scaled format to F32, lane by lane (R158): a value that F32 holds is exact. DESIGN CHOICE (log 131): one that F32 does not hold overflows
under R47 with its flags, and FTZ and CNAN act on the result as R44 says. -/
def cvtFromScaled (f : FmtA) (s : State) : Act :=
  let src := f.oc % 32
  let c := fctl (s.sl.ctlr 0) f.rnd
  let m := s.sl.kreg f.mask
  let rows := (List.range 32).flatMap fun g =>
    let part := cvtPart src (f.sub % 8) (s.sl.vreg f.oa) g
    (List.range 8).map fun n =>
      let gen := s.sl.genList.getD (8 * g + n) 0
      if m.getLsbD (8 * g + n) then
        let gen := genStep c gen
        let (b, fl) := encodeVal fmtF32 c (drawOf gen) (part.1.getD n (.fin false 0 0))
        (b, fl ||| part.2, gen)
      else (0, 0, gen)
  vchecks s [⟨f.oa, src, 0⟩] f.mask f.dst (some 1) [f.oa] m []
    (vres s f.dst (mergeV (s.sl.vreg f.dst) 1 m (rows.map fun r => BitVec.ofNat 32 r.1)) (rows.foldl (fun n r => n ||| r.2.1) 0)
      (if c.rm == 4 then some (rows.map (·.2.2)) else none) 8)

/-- VCVT (R156–R158). -/
def execVcvt (q : Seq) (f : FmtA) (s : State) : Out :=
  wordIssue (.vcvt q f) q (.k f.mask :: .v f.dst :: (cvtRegs f).map Reg.v)
    (if isScaled f.fmt then cvtToScaled f else if isScaled (f.oc % 32) then cvtFromScaled f else cvtPlain f) s
    (dec := cvtDecode (.vcvt q f) f)

/-! ### Moves -/

/-- VPERM: a scaled source, or one with a tag outside R40, does not fit it (R41, R161); the lanes it reads are consumed. -/
def execVperm (q : Seq) (f : FmtA) (s : State) : Out :=
  wordIssue (.vperm q f) q (vregsA f 2)
    (fun s =>
      let m := s.sl.kreg f.mask
      let a := s.sl.vreg f.oa
      let idx (l : Nat) : Nat := ((s.sl.vreg f.ob).lanes.getD l 0).toNat % 256
      let em := effMask m a.tag
      let new := (List.range 256).map fun l => a.lanes.getD (idx l) 0
      let mark := (List.range 256).findSome? fun l =>
        if em.getLsbD l then ((s.sl.vreg f.ob).marks.get? l).orElse fun _ => a.marks.get? (idx l) else none
      if isScaled a.tag || !Use.legalTags.contains a.tag then .fault 0x04 (mismatchInfo 0 a.tag f.oa 0)
      else vchecks s [⟨f.ob, 8, 1⟩] f.mask f.dst (some a.tag) [] m []
        (match mark with
          | some x => .fault 0x0D (BitVec.ofNat 64 x)
          | none => vres s f.dst (mergeV (s.sl.vreg f.dst) a.tag m new) 0 none 8)) s

/-- A vector moved under a mask, with its tag and marks (R42, R162, R230). -/
def moveV (s : State) (f : FmtA) (v : VReg) (st : State) (lat : Nat) : Act :=
  match tagFault s.sl [] f.mask f.dst (some v.tag) with
  | some i => .fault 0x04 i
  | none => vres st f.dst (mergeV (s.sl.vreg f.dst) v.tag (s.sl.kreg f.mask) v.lanes v.marks) 0 none lat

/-- A stream port after VMOV takes its oldest vector: when the last one of an ended copy is taken the port is unbound (R294). -/
def StreamPort.take (p : StreamPort) : StreamPort :=
  { p with held := p.held.drop 1, bound := p.bound && p.last != some 1, last := (p.last.map (· - 1)).filter (0 < ·) }

/-- VMOV from a register, or from a stream port when a vector has arrived there (R162, R294). -/
def execVmov (q : Seq) (f : FmtA) (s : State) : Out :=
  wordIssue (.vmov q f) q ([.k f.mask, .v f.dst] ++ (if f.sub % 2 = 1 then [] else [.v f.oa]))
    (fun s =>
      if f.sub % 2 = 1 then
        let p := s.sl.ports.getD f.oa {}
        match p.held.head? with
        | none => .wait
        | some v => moveV s f v (s.setSl { s.sl with ports := s.sl.ports.put f.oa p.take }) 2
      else moveV s f (s.sl.vreg f.oa) s 2) s

/-- VBCAST (R162). -/
def execVbcast (q : Seq) (f : FmtA) (s : State) : Out :=
  wordIssue (.vbcast q f) q [.k f.mask, .v f.dst, .s f.oa]
    (fun s =>
      let w := tagWidth f.fmt
      let lane := packLane w (List.replicate (32 / w) ((s.sv f.oa).toNat % 2 ^ w))
      vchecks s [] f.mask f.dst (some f.fmt) [] 0 [f.oa]
        (vres s f.dst (mergeV (s.sl.vreg f.dst) f.fmt (s.sl.kreg f.mask) (List.replicate 256 lane)) 0 none 2)) s

/-- VEXT reads one element; its lane is consumed (R162). -/
def execVext (q : Seq) (f : FmtA) (s : State) : Out :=
  wordIssue (.vext q f) q [.s f.dst, .v f.oa, .s f.ob]
    (fun s =>
      let w := tagWidth f.fmt
      let n := (s.sv f.ob).toNat
      let l := n / (32 / w)
      let e := element (elems w ((s.sl.vreg f.oa).lanes.getD l 0)) (n % (32 / w))
      consuming s [f.ob] (
        if 256 * (32 / w) ≤ n then resS s f.dst 0 4
        else match (s.sl.vreg f.oa).marks.get? l with
          | some x => .fault 0x0D (BitVec.ofNat 64 x)
          | none => resS s f.dst (if f.sub % 2 = 1 then BitVec.ofInt 64 (sint w e) else BitVec.ofNat 64 e) 4)) s

/-- VIDX (R162). -/
def execVidx (q : Seq) (f : FmtA) (s : State) : Out :=
  wordIssue (.vidx q f) q [.k f.mask, .v f.dst, .s f.oa]
    (fun s =>
      let new := (List.range 256).map fun l => BitVec.ofNat 32 (l + (s.sv f.oa).toNat)
      vchecks s [] f.mask f.dst (some 8) [] 0 [f.oa]
        (vres s f.dst (mergeV (s.sl.vreg f.dst) 8 (s.sl.kreg f.mask) new) 0 none 2)) s

/-! ### Masks (R166) -/

/-- A mask result (R166). -/
def kres (s : State) (dst : Nat) (m : BitVec 256) : Act := .go { st := s, writes := [.k dst m] }

/-- KAND (R166). -/
def execKand (q : Seq) (f : FmtA) (s : State) : Out :=
  wordIssue (.kand q f) q [.k f.dst, .k f.oa, .k f.ob] (fun s => kres s f.dst (s.sl.kreg f.oa &&& s.sl.kreg f.ob)) s

/-- KOR (R166). -/
def execKor (q : Seq) (f : FmtA) (s : State) : Out :=
  wordIssue (.kor q f) q [.k f.dst, .k f.oa, .k f.ob] (fun s => kres s f.dst (s.sl.kreg f.oa ||| s.sl.kreg f.ob)) s

/-- KXOR (R166). -/
def execKxor (q : Seq) (f : FmtA) (s : State) : Out :=
  wordIssue (.kxor q f) q [.k f.dst, .k f.oa, .k f.ob] (fun s => kres s f.dst (s.sl.kreg f.oa ^^^ s.sl.kreg f.ob)) s

/-- KNOT (R166). -/
def execKnot (q : Seq) (f : FmtA) (s : State) : Out :=
  wordIssue (.knot q f) q [.k f.dst, .k f.oa] (fun s => kres s f.dst (~~~(s.sl.kreg f.oa))) s

/-- KPOPC (R166). -/
def execKpopc (q : Seq) (f : FmtA) (s : State) : Out :=
  wordIssue (.kpopc q f) q [.s f.dst, .k f.oa]
    (fun s => resS s f.dst (BitVec.ofNat 64 ((List.range 256).countP fun l => (s.sl.kreg f.oa).getLsbD l)) 2) s

end Sys2Proof.Machine
end

