-- ==== Sys2Proof/Machine/Across.lean ====
section
/-! DEFINITION. Vector words that move data across lanes and columns: reductions and scans (R159, R160), systolic shifts
(R163–R165), and conditional streams (R167–R172; the shared ring itself is in Ring.lean). -/

namespace Sys2Proof.Machine

/-! ### Exact sums (R159, R160) -/

/-- A running exact float sum: the first NaN, the infinities seen, the sum in units of the format's least subnormal, and whether
every element so far was −0, or +0. -/
structure SumAcc where
  nan : Option FVal := none
  pinf : Bool := false
  ninf : Bool := false
  sum : Int := 0
  count : Nat := 0
  allNeg : Bool := true
  allPos : Bool := true

/-- One more element. -/
def SumAcc.add (F : FFmt) (a : SumAcc) (v : FVal) : SumAcc :=
  { nan := a.nan.orElse fun _ => if v.isNan then some v else none,
    pinf := a.pinf || v == .inf false, ninf := a.ninf || v == .inf true,
    sum := a.sum + v.scaled F.qmin, count := a.count + 1,
    allNeg := a.allNeg && v.isZero && v.sign, allPos := a.allPos && v.isZero && !v.sign }

/-- The sum rounded once, with its flags: infinities of both signs set NV beside a NaN element too (R56, R159). -/
def SumAcc.out (F : FFmt) (c : FCtl) (draw : Nat) (a : SumAcc) : Nat × Nat :=
  match a.nan with
  | some v => withFlags (if a.pinf && a.ninf then NV else 0) (encodeVal F c draw v)
  | none =>
    if a.pinf && a.ninf then invalidNan F
    else if a.pinf then (F.infBits, 0)
    else if a.ninf then (F.signBit true + F.infBits, 0)
    else
      let neg0 := if a.allPos then false else if a.allNeg then true else c.rm == 3
      encodeVal F c draw (.ofSum a.sum F.qmin neg0)

/-- The elements of the enabled lanes of a register with their element numbers, ascending (R159). -/
def enabledElems (w : Nat) (m : BitVec 256) (v : VReg) : List (Nat × Nat) :=
  (List.range 256).flatMap fun l =>
    if m.getLsbD l then (elems w (v.lanes.getD l 0)).zipIdx.map fun x => (l * (32 / w) + x.2, x.1) else []

/-- The empty result of a minimum or a maximum (R159). -/
def emptyMinMax (fmt : Nat) (unsigned mx : Bool) : Nat :=
  let w := tagWidth fmt
  if isInt fmt then
    if unsigned then (if mx then 0 else 2 ^ w - 1) else (if mx then 2 ^ (w - 1) else 2 ^ (w - 1) - 1)
  else (fmtOf fmt).signBit mx + (fmtOf fmt).infBits

/-- The value of an element for a minimum or maximum: FTZ on input, NaNs quiet. -/
def inVal (F : FFmt) (c : FCtl) (b : Nat) : FVal := (F.input c b).1

/-- The bits of such a value. -/
def valBits (F : FFmt) (c : FCtl) (v : FVal) : Nat := (encodeVal F { c with ftz := false } 0 v).1

/-- The minimum or maximum of a list of elements (R151, R159). -/
def foldMinMax (fmt : Nat) (c : FCtl) (unsigned mx : Bool) (l : List Nat) : Nat :=
  match l with
  | [] => emptyMinMax fmt unsigned mx
  | a :: t =>
    if isInt fmt then t.foldl (minMaxInt (tagWidth fmt) unsigned mx) a
    else
      let F := fmtOf fmt
      valBits F c (t.foldl (fun m b => minMaxVal mx m (inVal F c b)) (inVal F c a))

/-- Flags of flushing the inputs of a float word (R44). -/
def flushFlags (fmt : Nat) (c : FCtl) (l : List Nat) : Nat :=
  if isInt fmt then 0 else l.foldl (fun n b => n ||| ((fmtOf fmt).input c b).2) 0

/-- A reduction's result goes to a vector or to a scalar (R159). -/
def redResult (s : State) (f : FmtA) (bits flags : Nat) (signed : Bool) (gens : Option (List Nat)) : Act :=
  let w := tagWidth f.fmt
  let m := s.sl.kreg f.mask
  let sc := f.sub % 2 == 1
  let sl := s.sl.raise flags
  let sl := match gens with | some g => sl.setGens g | none => sl
  let st := s.setSl sl
  vchecks s [⟨f.oa, f.fmt, 0⟩] (if sc then 0 else f.mask) f.dst (if sc then none else some f.fmt) [f.oa] m []
    (if sc then .go { st := st, lat := 12, writes :=
        [.s f.dst { val := if signed then BitVec.ofInt 64 (sint w bits) else BitVec.ofNat 64 bits }] }
     else .go { st := st, lat := 12, writes :=
        [.v f.dst (mergeV (s.sl.vreg f.dst) f.fmt m (List.replicate 256 (packLane w (List.replicate (32 / w) bits))))] })

def redRegs (f : FmtA) : List Reg := [.k f.mask, .v f.oa, if f.sub % 2 = 1 then .s f.dst else .v f.dst]

/-- VREDSUM: one draw of lane 0's generator under RSN (R159). -/
def execVredsum (q : Seq) (f : FmtA) (s : State) : Out :=
  wordIssue (.vredsum q f) q (redRegs f)
    (fun s =>
      let w := tagWidth f.fmt
      let es := (enabledElems w (s.sl.kreg f.mask) (s.sl.vreg f.oa)).map (·.2)
      if isInt f.fmt then
        let (b, fl) := intRes w (f.sub / 2 % 2 == 1) (es.foldl (fun i a => i + sint w a) 0)
        redResult s f b fl true none
      else
        let c := fctl (s.sl.ctlr 0) f.rnd
        let F := fmtOf f.fmt
        let g := genStep c (s.sl.genList.getD 0 0)
        let (b, fl) := (es.foldl (fun a x => a.add F (inVal F c x)) ({} : SumAcc)).out F c (drawOf g)
        redResult s f b (fl ||| flushFlags f.fmt c es) false (if c.rm = 4 then some (s.sl.genList.set 0 g) else none)) s

/-- VREDMIN and VREDMAX with their index form (R159). -/
def redMinMax (f : FmtA) (mx : Bool) (s : State) : Act :=
  let w := tagWidth f.fmt
  let c := fctl (s.sl.ctlr 0) f.rnd
  let us := f.sub / 8 % 2 == 1
  let es := enabledElems w (s.sl.kreg f.mask) (s.sl.vreg f.oa)
  let r := foldMinMax f.fmt c us mx (es.map (·.2))
  let fl := flushFlags f.fmt c (es.map (·.2))
  if f.sub / 4 % 2 = 1 then
    let F := fmtOf f.fmt
    let same (b : Nat) : Bool := (if isInt f.fmt then b else valBits F c (inVal F c b)) == r
    let idx := match es.find? fun x => same x.2 with
      | some x => BitVec.ofNat 64 x.1
      | none => BitVec.allOnes 64
    vchecks s [⟨f.oa, f.fmt, 0⟩] 0 0 none [f.oa] (s.sl.kreg f.mask) []
      (.go { st := s.setSl (s.sl.raise fl), lat := 12, writes := [.s f.dst { val := idx }] })
  else redResult s f r fl (isInt f.fmt && !us) none

/-- VREDMIN (R159). -/
def execVredmin (q : Seq) (f : FmtA) (s : State) : Out :=
  wordIssue (.vredmin q f) q (redRegs f) (redMinMax f false) s

/-- VREDMAX (R159). -/
def execVredmax (q : Seq) (f : FmtA) (s : State) : Out :=
  wordIssue (.vredmax q f) q (redRegs f) (redMinMax f true) s

/-- A scan: what each element contributes to a running value, and what an element writes (R160). -/
structure ScanOps (α : Type) where
  start : α
  step : α → Nat → α
  out : Nat → α → Nat × Nat
  draws : Bool

/-- The outputs of a scan over the elements of one lane. -/
def scanLane {α : Type} (o : ScanOps α) (c : FCtl) (excl : Bool) : List Nat → α → Nat → List Nat × Nat × α × Nat
  | [], a, g => ([], 0, a, g)
  | x :: t, a, g =>
    let g := if o.draws then genStep c g else g
    let a' := o.step a x
    let (b, fl) := o.out (drawOf g) (if excl then a else a')
    let (r, fl', a'', g') := scanLane o c excl t a' g
    (b :: r, fl ||| fl', a'', g')

/-- The outputs of a scan over the lanes from `l` on. -/
def scanFrom {α : Type} (o : ScanOps α) (c : FCtl) (excl : Bool) (w : Nat) (m : BitVec 256) :
    List (Lane × Nat) → Nat → α → List (Lane × Nat × Nat)
  | [], _, _ => []
  | (x, g) :: t, l, a =>
    if m.getLsbD l then
      let (r, fl, a', g') := scanLane o c excl (elems w x) a g
      (packLane w r, fl, g') :: scanFrom o c excl w m t (l + 1) a'
    else (0, 0, g) :: scanFrom o c excl w m t (l + 1) a

/-- The result of a scan (R160). -/
def scanResult {α : Type} (o : ScanOps α) (f : FmtA) (c : FCtl) (s : State) : Act :=
  let w := tagWidth f.fmt
  let m := s.sl.kreg f.mask
  let rows := scanFrom o c (f.sub % 2 == 1) w m ((s.sl.vreg f.oa).lanes.zip s.sl.genList) 0 o.start
  let fl := rows.foldl (fun n r => n ||| r.2.1) 0
  let es := (enabledElems w m (s.sl.vreg f.oa)).map (·.2)
  vchecks s [⟨f.oa, f.fmt, 0⟩] f.mask f.dst (some f.fmt) [f.oa] m []
    (vres s f.dst (mergeV (s.sl.vreg f.dst) f.fmt m (rows.map (·.1))) (fl ||| flushFlags f.fmt c es)
      (if o.draws && c.rm == 4 then some (rows.map (·.2.2)) else none) 16)

/-- VSCAN (R160). -/
def execVscan (q : Seq) (f : FmtA) (s : State) : Out :=
  wordIssue (.vscan q f) q (vregsA f 1)
    (fun s =>
      let w := tagWidth f.fmt
      let c := fctl (s.sl.ctlr 0) f.rnd
      let F := fmtOf f.fmt
      let us := f.sub / 8 % 2 == 1
      if f.sub / 2 % 4 = 0 then
        if isInt f.fmt then
          scanResult { start := (0 : Int), step := fun a x => a + sint w x, out := fun _ a => intRes w false a, draws := false }
            f c s
        else
          scanResult { start := ({} : SumAcc), step := fun a x => a.add F (inVal F c x), out := fun d a => a.out F c d,
                       draws := true } f c s
      else
        let mx := f.sub / 2 % 4 == 2
        scanResult
          { start := (none : Option Nat),
            step := fun a x => match a with
              | none => some (foldMinMax f.fmt c us mx [x])
              | some y => some (foldMinMax f.fmt c us mx [y, x]),
            out := fun _ a => (a.getD (emptyMinMax f.fmt us mx), 0), draws := false } f c s) s

/-! ### Systolic shifts (R163–R165) -/

/-- The partner of a slot in a neighbouring column: a group of the same gang launch in the slot of that number, or one that held
it when it stopped and has not been placed again since (R165). -/
def shiftPartner (s : State) (k : Stream) (col : Option Nat) : Option Group :=
  match s.groupOf k.sk, col with
  | some (_, g), some c =>
    if g.gang && g.lid.isSome then
      ((s.groups.find? fun r =>
        r.2.gang && r.2.lid == g.lid && r.2.col == c && r.2.slot == k.slot
          && ((s.slotAt (slotKey c k.slot)).gid == some r.1 || (r.2.saved.isSome && r.2.state != .placed)))).map (·.2)
    else none
  | _, _ => none

/-- A group is on its way out of its slot, or out of it (R165). -/
def paused (g : Group) : Bool := g.state == .preempting || (g.saved.isSome && g.state != .placed)

/-- Entries that count against a latch's two places (R164). -/
def Latch.full (l : Latch) (cyc : Nat) : Bool := decide (2 ≤ l.held.length + (l.leaving.filter fun t => decide (cyc < t)).length)

/-- The pending receive of a slot's latch: a shift in flight that waits for an entry from its side (R164). -/
def pendingRecv (s : State) (col slot side : Nat) : Option Flight :=
  s.flights.find? fun f => f.at_.col == col && f.at_.slot == slot &&
    (match f.pend with | .recv d _ _ => d == side | _ => false)

/-- A vector enters a latch: a receive that waits for it takes it, else it is held, available from cycle `t` (R164). -/
def State.latchSend (s : State) (col slot side : Nat) (v : VReg) (t : Nat) : State :=
  let sl := s.slotAt (slotKey col slot)
  match pendingRecv s col slot side with
  | some f =>
    match f.pend with
    | .recv _ dst m =>
      let f' := { f with pend := .none,
                         writes := [.v dst (mergeV (sl.vreg dst) v.tag m v.lanes v.marks)] }
      (s.setFlight f').due (t - 1) 600 (.wordComplete f.id)
    | _ => s
  | none =>
    let l := sl.latches.getD side {}
    s.setSlot (slotKey col slot) { sl with latches := sl.latches.put side { l with held := l.held ++ [(t, v)] } }

/-- The send part of a column shift; `none` while the partner is away or its latch is full (R164, R165). -/
def shiftSend (s : State) (dir : Nat) (v : VReg) : Option State :=
  let k := s.cur
  let to_ := neighbour k.col (dir + 1)
  match shiftPartner s k to_, to_ with
  | some g, some c =>
    if paused g then none
    else if (((s.slotAt (slotKey c k.slot)).latches.getD (dir ^^^ 1) {}).full s.cyc) then none
    else some (s.latchSend c k.slot (dir ^^^ 1) v (s.cyc + 2))
  | _, _ => some s

/-- The receive part of a column shift whose send has been made (R164, R165). -/
def shiftRecv (f : FmtA) (dir : Nat) (tag : Nat) (s : State) : Done :=
  let k := s.cur
  let side := dir ^^^ 1
  let m := s.sl.kreg f.mask
  let old := s.sl.vreg f.dst
  match shiftPartner s k (neighbour k.col (side + 1)) with
  | none => { st := s, lat := 2, writes := [.v f.dst (mergeV old tag m (List.replicate 256 0))] }
  | some _ =>
    let l := s.sl.latches.getD side {}
    match l.held with
    | (t, v) :: rest =>
      let fr := max (s.cyc + 2) t
      let l := { l with held := rest, leaving := fr :: l.leaving.filter fun t => decide (s.cyc < t) }
      { st := s.setSl { s.sl with latches := s.sl.latches.put side l }, lat := fr - s.cyc,
        writes := [.v f.dst (mergeV old v.tag m v.lanes v.marks)] }
    | [] => { st := s, lat := 2, busy := [.v f.dst], pend := .recv side f.dst m }

/-- VSHIFT (R163, R164). -/
def execVshift (q : Seq) (f : FmtA) (s : State) : Out :=
  wordIssue (.vshift q f) q (vregsA f 1)
    (fun s =>
      let v := s.sl.vreg f.oa
      if f.sub % 8 < 4 then
        match tagFault s.sl [] f.mask f.dst (some v.tag) with
        | some i => .fault 0x04 i
        | none => match shiftSend s (f.sub % 8) v with
          | none => .wait
          | some s => .go (shiftRecv f (f.sub % 8) v.tag s)
      else
        let d := if f.sub % 8 = 4 then 240 else 16
        let new : VReg := { tag := v.tag, lanes := (List.range 256).map (fun l => v.lanes.getD ((l + d) % 256) 0),
                            marks := (List.range 256).filterMap fun l => (v.marks.get? ((l + d) % 256)).map fun x => (l, x) }
        moveV s f new s 1) s

/-! ### Conditional streams (R167–R170) -/

def Slot.cstream (sl : Slot) (n : Nat) : CStream := sl.cstreams.getD n {}

/-- A stream is in shared mode (R170). -/
def sharedStream (s : State) (n : Nat) : Bool := bitsAt (s.sl.ctlr (0x100 + n)) 34 34 == 1

/-- The enabled lanes of a register, ascending (R168). -/
def pushRecords (s : State) (f : FmtA) : List Lane :=
  (List.range 256).filterMap fun l =>
    if (s.sl.kreg f.mask).getLsbD l then some ((s.sl.vreg f.oa).lanes.getD l 0) else none

/-- A shared push or pop issues: it holds engine X until its port performs it, at most 22 cycles later when it can (R172, R173). -/
def sharedIssue (s : State) (busy : List Reg) (args : List Nat) (n : Nat) : Act :=
  let (d, s) := s.freeNat
  .go { st := s.due (s.cyc + 1 + d % 22) (555 + s.cur.slot) (.csSharedRetry s.cur.col s.cur.slot), lat := 24, busy := busy,
        pend := .port (bitsAt (s.sl.ctlr (0x100 + n)) 33 0) args, hold := true }

/-- CSPUSH (R168, R172); its shared form takes an entry of each queue (R301), and is a write that a fence holds (R309). -/
def execCspush (q : Seq) (f : FmtA) (s : State) : Out :=
  wordIssue (.cspush q f) q [.k f.mask, .v f.oa]
    (fun s =>
      let n := f.sub % 4
      let recs := pushRecords s f
      let cs := s.sl.cstream n
      let m := s.sl.kreg f.mask
      if sharedStream s n && (queuesFull s || s.relPending s.cur) then .wait else
      match tagFault s.sl [⟨f.oa, f.fmt, 0⟩] 0 0 none with
      | some i => .fault 0x04 i
      | none =>
        if sharedStream s n then
          match laneMark s.sl m [f.oa] with
          | some i => .fault 0x0D i
          | none => sharedIssue s [] (f.fmt :: recs.map BitVec.toNat) n
        else if !cs.recs.isEmpty && cs.tag != f.fmt then .fault 0x04 (mismatchInfo f.fmt cs.tag 0 3)
        else match laneMark s.sl m [f.oa] with
          | some i => .fault 0x0D i
          | none =>
            if 1024 < cs.recs.length + recs.length then .wait
            else
              let cs := if recs.isEmpty then cs else { tag := f.fmt, recs := cs.recs ++ recs }
              .go { st := s.setSl { s.sl with cstreams := s.sl.cstreams.put n cs }, lat := 2 }) s

/-- The registers a pop writes when it takes `t` records (R169). -/
def popWrites (f : FmtA) (recs : List Lane) : List Write :=
  [.v f.dst { tag := f.fmt, lanes := recs ++ List.replicate (256 - recs.length) 0 }]
    ++ (if f.ob = 0 then [] else [.k f.ob (maskFrom fun l => decide (l < recs.length))])
    ++ (if f.sub / 8 % 2 = 1 then [.cf true] else [])

/-- How many records a pop takes of `h` (R169). -/
def popCountOf (f : FmtA) (h : Nat) : Option Nat := if 256 ≤ h then some 256 else if f.sub / 4 % 2 = 1 then some h else none

/-- CSPOP (R169, R172); its shared form takes an entry of each queue (R301). -/
def execCspop (q : Seq) (f : FmtA) (s : State) : Out :=
  let try_ := f.sub / 8 % 2 == 1
  wordIssue (.cspop q f) q ([.v f.dst, .k f.ob] ++ (if try_ then [.cf] else []))
    (fun s =>
      let n := f.sub % 4
      let cs := s.sl.cstream n
      if sharedStream s n then
        if queuesFull s then .wait else sharedIssue s (.v f.dst :: .k f.ob :: (if try_ then [.cf] else [])) [f.fmt] n
      else match popCountOf f cs.recs.length with
        | none => if try_ then .go { st := s, lat := 2, writes := [.cf false] } else .wait
        | some t =>
          if cs.recs.length ≠ 0 ∧ cs.tag ≠ f.fmt then .fault 0x04 (mismatchInfo f.fmt cs.tag 0 0)
          else .go { st := s.setSl { s.sl with cstreams := s.sl.cstreams.put n { cs with recs := cs.recs.drop t } },
                     lat := 2, writes := popWrites f (cs.recs.take t) }) s

end Sys2Proof.Machine
end

