-- ==== Sys2Proof/Machine/Deliver.lean ====
section
/-! DEFINITION. What the device delivers to groups from outside their words: engine faults (R368) and purges on consumed poison
(R471). -/

namespace Sys2Proof.Machine

/-- A group occupies a slot in these states (R361). -/
def GState.resident : GState → Bool
  | .placed | .running | .stalled | .atSafe | .preempting | .faulted => true
  | _ => false

def State.setGroup (s : State) (g : Nat) (v : Group) : State := { s with groups := s.groups.put g v }

/-- The slot key of a resident group. -/
def State.slotOfGroup (s : State) (g : Nat) : Option Nat :=
  (s.groups.get? g).bind fun v => if v.state.resident then some (slotKey v.col v.slot) else none

/-- An engine fault is put down for the group that issued the command (R368); it stays with a saved group, and goes with one that
is gone. -/
def State.engineFault (s : State) (g : Nat) (f : EngineFault) : State :=
  match s.groups.get? g with
  | none => s
  | some v =>
    if v.state.resident then
      let sk := slotKey v.col v.slot
      let sl := s.slotAt sk
      s.setSlot sk { sl with engFaults := sl.engFaults ++ [f] }
    else match v.saved with
      | some r => s.setGroup g { v with saved := some { r with slot := { r.slot with engFaults := r.slot.engFaults ++ [f] } } }
      | none => s

/-- A command, chain, record or code fetch of a group consumes poison: event 0x10, and a purge of its tag at the end of the cycle
(R284, R471). -/
def State.consumedBy (s : State) (g : Nat) (info : Word) : State :=
  match s.groups.get? g with
  | none => s
  | some v =>
    ((s.noteBad v.ctx info).health { code := 0x10, ctx := v.ctx, tag := v.reqtag, loc := s.colLoc v.col, info := info }).due s.cyc 950
      (.purge (v.ctx * 2 ^ 32 + v.reqtag)) 1

/-- The word that an engine comes to next is known: no selector waits for a condition. -/
def State.nextKnown (s : State) (k : Stream) : Bool :=
  !(s.flights.any fun f => (s.engAt k.ek).heldBy == some f.id && f.selLate)

/-- The engine faults that wait are delivered at the end of a cycle to groups that run, one to each (R368). DEDUCED (log 148): one for an engine
whose next word is not known yet waits until it is. -/
def State.deliverFaults (s : State) : State :=
  (s.slots.filter fun r => !r.2.engFaults.isEmpty && r.2.stop.isNone).foldl (fun s r =>
    match (s.slotAt r.1).engFaults, s.groupOf r.1 with
    | f :: rest, some (_, v) =>
      let k : Stream := ⟨r.1 / 5, r.1 % 5, f.eng⟩
      if (v.state = .running ∨ v.state = .stalled) ∧ s.nextKnown k then
        (s.setSlot r.1 { s.slotAt r.1 with engFaults := rest }).groupFault k f.code f.info false (f.src * 2 + 1)
      else s
    | _, _ => s) s

end Sys2Proof.Machine
end

