-- ==== Sys2Proof/Machine/Atomic.lean ====
section
/-! DEFINITION. The operations that a tower port performs itself: atomics and reductions (R317, R318) and sum slots (R321,
R322). -/

namespace Sys2Proof.Machine

/-- The control of a float operation at a port: CTL bits 0 FTZ, 1 CNAN, 2 SATF (R318). -/
def portCtl (ctl : Nat) : FCtl := { rm := 0, ftz := ctl.testBit 0, cnan := ctl.testBit 1 }

/-- A finite result that overflowed becomes the largest finite value under SATF (R318). -/
def satf (ctl : Nat) (ops : List Nat) (r : Nat) : Nat :=
  let inf (x : Nat) : Bool := x % 2 ^ 31 == 0x7F800000
  if ctl.testBit 2 && inf r && !(ops.any inf) then r - 1 else r

/-- The new value of an operation code of R317 other than CAS, on `n` bits. -/
def portOp (code ctl n old b : Nat) : Nat :=
  let m := 2 ^ n
  match code with
  | 0 => b
  | 2 => (old + b) % m
  | 3 => old &&& b
  | 4 => old ||| b
  | 5 => old ^^^ b
  | 6 => if sint n b < sint n old then b else old
  | 7 => if sint n old < sint n b then b else old
  | 8 => if b < old then b else old
  | 9 => if old < b then b else old
  | 10 => satf ctl [old, b] (fAdd fmtF32 (portCtl ctl) 0 false old b).1
  | 11 => (fMinMax fmtF32 (portCtl ctl) false old b).1
  | 12 => (fMinMax fmtF32 (portCtl ctl) true old b).1
  | _ => old

/-- A contribution to a sum slot, an F32 bit pattern (R321, R322). -/
def SumSlot.contribute (c : SumSlot) (ctl b : Nat) : SumSlot :=
  match (fmtF32.input (portCtl ctl) b).1 with
  | .nan _ _ => { c with nan := true }
  | .inf s => if s then { c with ninf := true } else { c with pinf := true }
  | .fin s n e =>
    if c.ovr then c
    else
      let x := (FVal.fin s n e).scaled (-149)
      let y := c.sum + x
      if y < -(2 ^ 319) ∨ 2 ^ 319 - 1 < y then { c with ovr := true } else { c with sum := y }

/-- The value SEAL writes (R322). -/
def SumSlot.seal (c : SumSlot) (ctl : Nat) : Nat :=
  let sat := ctl.testBit 2
  let neg := decide (c.sum < 0)
  let big (s : Bool) : Nat := (if s then 2 ^ 31 else 0) + (if sat then 0x7F7FFFFF else 0x7F800000)
  if c.nan || (c.pinf && c.ninf) then 0x7FC00000
  else if c.pinf then 0x7F800000
  else if c.ninf then 0xFF800000
  else if c.ovr then big neg
  else
    let r := (encodeVal fmtF32 {} 0 (.ofSum c.sum (-149) false)).1
    if r % 2 ^ 31 = 0x7F800000 then big neg
    else if ctl.testBit 0 && fmtF32.isSub r then (if neg then 2 ^ 31 else 0)
    else r

end Sys2Proof.Machine
end

