-- ==== Sys2Proof/Machine/Digest.lean ====
section
/-! DEFINITION. SHA-512, which the signature of an audited group (R477) and the attestation report (R495) use: the algorithm of
FIPS 180-4, which the spec names and does not restate. -/

namespace Sys2Proof.Machine

/-- Constants 0 to 19. -/
def shaK0 : List Nat :=
  [0x428A2F98D728AE22, 0x7137449123EF65CD, 0xB5C0FBCFEC4D3B2F, 0xE9B5DBA58189DBBC,
   0x3956C25BF348B538, 0x59F111F1B605D019, 0x923F82A4AF194F9B, 0xAB1C5ED5DA6D8118,
   0xD807AA98A3030242, 0x12835B0145706FBE, 0x243185BE4EE4B28C, 0x550C7DC3D5FFB4E2,
   0x72BE5D74F27B896F, 0x80DEB1FE3B1696B1, 0x9BDC06A725C71235, 0xC19BF174CF692694,
   0xE49B69C19EF14AD2, 0xEFBE4786384F25E3, 0x0FC19DC68B8CD5B5, 0x240CA1CC77AC9C65]

/-- Constants 20 to 39. -/
def shaK1 : List Nat :=
  [0x2DE92C6F592B0275, 0x4A7484AA6EA6E483, 0x5CB0A9DCBD41FBD4, 0x76F988DA831153B5,
   0x983E5152EE66DFAB, 0xA831C66D2DB43210, 0xB00327C898FB213F, 0xBF597FC7BEEF0EE4,
   0xC6E00BF33DA88FC2, 0xD5A79147930AA725, 0x06CA6351E003826F, 0x142929670A0E6E70,
   0x27B70A8546D22FFC, 0x2E1B21385C26C926, 0x4D2C6DFC5AC42AED, 0x53380D139D95B3DF,
   0x650A73548BAF63DE, 0x766A0ABB3C77B2A8, 0x81C2C92E47EDAEE6, 0x92722C851482353B]

/-- Constants 40 to 59. -/
def shaK2 : List Nat :=
  [0xA2BFE8A14CF10364, 0xA81A664BBC423001, 0xC24B8B70D0F89791, 0xC76C51A30654BE30,
   0xD192E819D6EF5218, 0xD69906245565A910, 0xF40E35855771202A, 0x106AA07032BBD1B8,
   0x19A4C116B8D2D0C8, 0x1E376C085141AB53, 0x2748774CDF8EEB99, 0x34B0BCB5E19B48A8,
   0x391C0CB3C5C95A63, 0x4ED8AA4AE3418ACB, 0x5B9CCA4F7763E373, 0x682E6FF3D6B2B8A3,
   0x748F82EE5DEFB2FC, 0x78A5636F43172F60, 0x84C87814A1F0AB72, 0x8CC702081A6439EC]

/-- Constants 60 to 79. -/
def shaK3 : List Nat :=
  [0x90BEFFFA23631E28, 0xA4506CEBDE82BDE9, 0xBEF9A3F7B2C67915, 0xC67178F2E372532B,
   0xCA273ECEEA26619C, 0xD186B8C721C0C207, 0xEADA7DD6CDE0EB1E, 0xF57D4F7FEE6ED178,
   0x06F067AA72176FBA, 0x0A637DC5A2C898A6, 0x113F9804BEF90DAE, 0x1B710B35131C471B,
   0x28DB77F523047D84, 0x32CAAB7B40C72493, 0x3C9EBE0A15C9BEBC, 0x431D67C49C100D4C,
   0x4CC5D4BECB3E42B6, 0x597F299CFC657E2A, 0x5FCB6FAB3AD6FAEC, 0x6C44198C4A475817]

/-- The round constants. -/
def shaK : List Nat := shaK0 ++ shaK1 ++ shaK2 ++ shaK3

/-- The initial hash value. -/
def shaInit : List (BitVec 64) :=
  [0x6A09E667F3BCC908, 0xBB67AE8584CAA73B, 0x3C6EF372FE94F82B, 0xA54FF53A5F1D36F1,
   0x510E527FADE682D1, 0x9B05688C2B3E6C1F, 0x1F83D9ABFB41BD6B, 0x5BE0CD19137E2179]

/-- A rotation to the right. -/
def shaRot (x : BitVec 64) (n : Nat) : BitVec 64 := x.rotateRight n

/-- The message schedule, newest word first, extended by `n` words. -/
def shaSchedule : Nat → List (BitVec 64) → List (BitVec 64)
  | 0, w => w
  | n + 1, w =>
    let a := w.getD 14 0
    let b := w.getD 1 0
    let s0 := shaRot a 1 ^^^ shaRot a 8 ^^^ (a >>> 7)
    let s1 := shaRot b 19 ^^^ shaRot b 61 ^^^ (b >>> 6)
    shaSchedule n ((w.getD 15 0 + s0 + w.getD 6 0 + s1) :: w)

/-- One round on the eight working variables. -/
def shaRound (v : List (BitVec 64)) (k : Nat) (w : BitVec 64) : List (BitVec 64) :=
  let x (i : Nat) : BitVec 64 := v.getD i 0
  let s1 := shaRot (x 4) 14 ^^^ shaRot (x 4) 18 ^^^ shaRot (x 4) 41
  let ch := (x 4 &&& x 5) ^^^ (~~~(x 4) &&& x 6)
  let t1 := x 7 + s1 + ch + BitVec.ofNat 64 k + w
  let s0 := shaRot (x 0) 28 ^^^ shaRot (x 0) 34 ^^^ shaRot (x 0) 39
  let maj := (x 0 &&& x 1) ^^^ (x 0 &&& x 2) ^^^ (x 1 &&& x 2)
  [t1 + s0 + maj, x 0, x 1, x 2, x 3 + t1, x 4, x 5, x 6]

/-- Words of 8 bytes, the most significant byte first, newest word first. -/
def shaWords : List Nat → List (BitVec 64) → List (BitVec 64)
  | a :: b :: c :: d :: e :: f :: g :: h :: t, w =>
    shaWords t (BitVec.ofNat 64 ([a, b, c, d, e, f, g, h].foldl (fun n x => 256 * n + x % 256) 0) :: w)
  | _, w => w

/-- A hash value after one block of 128 bytes. -/
def shaBlock (h : List (BitVec 64)) (block : List Nat) : List (BitVec 64) :=
  let w := (shaSchedule 64 (shaWords block [])).reverse
  let v := (shaK.zip w).foldl (fun v kw => shaRound v kw.1 kw.2) h
  (h.zip v).map fun x => x.1 + x.2

/-- A message with its padding: a set bit, zeros, and its length in bits in the last 16 bytes. -/
def shaPad (m : List Nat) : List Nat :=
  let z := (239 - m.length % 128) % 128
  m ++ [0x80] ++ List.replicate z 0 ++ (List.range 16).map fun i => 8 * m.length / 256 ^ (15 - i) % 256

/-- The hash of `n` blocks. -/
def shaBlocks : Nat → List Nat → List (BitVec 64) → List (BitVec 64)
  | 0, _, h => h
  | n + 1, m, h => shaBlocks n (m.drop 128) (shaBlock h (m.take 128))

/-- The 64 bytes of the digest of a message. -/
def sha512 (m : List Nat) : List Nat :=
  let p := shaPad m
  (shaBlocks (p.length / 128) p shaInit).flatMap fun x => (List.range 8).map fun i => x.toNat / 256 ^ (7 - i) % 256

/-! ### The signature of an audited group (R477) -/

/-- What one write to an aligned 8-byte word adds to the signature: `l` holds the bytes written by their place in the word. -/
def signWord (addr : Nat) (l : List (Nat × Nat)) : Nat :=
  let byte (i : Nat) : Nat := (((l.find? fun b => b.1 == i).map fun b => b.2).getD 0) % 256
  let mask := l.foldl (fun m b => m ||| 2 ^ b.1) 0
  let msg := (List.range 8).map (fun i => addr / 256 ^ i % 256) ++ (List.range 8).map byte ++ [mask]
  ((sha512 msg).take 16).foldr (fun b n => b + 256 * n) 0

namespace State

/-- Bytes that a write of an audited group puts at program addresses join its signature, one value for each aligned word (R477). -/
def sign (s : State) (g : Option Nat) (l : List (Nat × Nat)) : State :=
  match g.bind fun g => (s.groups.get? g).bind fun v => v.audit.map fun a => (g, v, a) with
  | none => s
  | some (g, v, a) =>
    let words := distinct (l.map fun b => b.1 / 8)
    let sum := words.foldl (fun n w => n + signWord (8 * w) ((l.filter fun b => b.1 / 8 == w).map fun b => (b.1 % 8, b.2))) a.sig
    { s with groups := s.groups.put g { v with audit := some { a with sig := sum % 2 ^ 128 } } }

/-- The local address of a tower byte of a stream's own column, as the signature takes it (R477). -/
def signAddr (s : State) (k : Stream) (key : Nat) : Nat :=
  let w := (s.window k k.col).getD ⟨0, 0⟩
  2 ^ 63 + (key - towerBase) / 2 ^ 22 % 16 * 2 ^ 22 + (key % 2 ^ 22 - w.base)

end State

end Sys2Proof.Machine
end

