-- ==== Sys2Proof/Machine/Port.lean ====
section
/-! DEFINITION. The tower ports: banks and their row operations (R212–R219), the refresh sequencers (R222–R225), the way of loads
and stores to their ports (R301–R308), and what a write does there (R229–R231, R320). -/

namespace Sys2Proof.Machine

/-! ### Banks -/

def State.bankAt (s : State) (tower bank : Nat) : Bank := (s.towerAt tower).banks.getD bank {}

def State.setBank (s : State) (tower bank : Nat) (b : Bank) : State :=
  let t := s.towerAt tower
  s.setTower tower { t with banks := t.banks.put bank b }

/-- A tower whose banks matter from now on: its sequencer is put on the agenda, and a refresh that it is at now takes its bank (R213, R224). -/
def State.touch (s : State) (tower : Nat) : State :=
  let t := s.towerAt tower
  if t.seqOn then s
  else
    let es := s.epochs tower
    let (i, c) := nextRefresh es s.cyc
    let j := if i = 0 then 8319 else i - 1
    let at_ := lastPass es s.cyc j
    let s := s.setTower tower { t with seqOn := true, seqIdx := i }
    if at_ = s.cyc ∧ 0 < at_ then
      (s.setTower tower { t with seqOn := true, seqIdx := j }).due s.cyc 25 (.backgroundRefresh tower)
    else
      let s := s.due c 25 (.backgroundRefresh tower)
      if 0 < at_ ∧ s.cyc < at_ + 8 then
        (s.setBank tower (j % 16) { s.bankAt tower (j % 16) with
          ops := [{ kind := .refresh, row := 1024 + j / 16, start := at_, stop := at_ + 8 }], freeAt := at_ + 8 }).due
          (at_ + 7) 120 (.rowOperationEnd tower (j % 16))
      else s

/-- A row lies in a valid window of a context in a column; every row does for the firmware context (R215). -/
def State.rowInCtx (s : State) (col row : Nat) (ctx : Option Nat) : Bool :=
  match ctx with
  | none => true
  | some c => (List.range 4).any fun n =>
      let w := s.twin col n
      twinFor w c && decide (bitsAt w 8 0 ≤ row ∧ row < bitsAt w 25 16)

/-- The cycle from which a bank takes a row operation: after the operations before it and after the loads that it has taken on (R213, R216). -/
def Bank.opFrom (b : Bank) (cyc : Nat) : Nat := max (max cyc b.freeAt) b.loadEnd

/-- A row operation takes its place at a bank (R213). -/
def State.placeOp (s : State) (tower bank : Nat) (k : RowOpKind) (row len : Nat) (by_ : Option Nat := none) : State :=
  let b := s.bankAt tower bank
  let st := b.opFrom s.cyc
  let now := match k with | .open_ => some row | .close => none | .refresh => b.now
  (s.setBank tower bank { b with ops := b.ops ++ [⟨k, row, st, st + len, by_⟩], freeAt := st + len, now := now }).due
    (st + len - 1) 120 (.rowOperationEnd tower bank)

/-- The length of an Open at a bank as it stands (R213). -/
def openLength (b : Bank) : Nat := if b.now.isSome then 14 else 10

/-- A word in flight that waits for a row operation which a forced refresh puts off by 8 cycles goes on later: a load of the row that is opened, or the
word that made the operation (R225). -/
def shiftFlight (tower bank : Nat) (o : RowOp) (s : State) (f : Flight) : State :=
  let hit (p : Piece) : Bool := !p.done && decide (s.cyc < p.at_ ∧ keyTower p.key = tower ∧ keyBank p.key = bank ∧ keyRow p.key = o.row)
  if o.kind = .open_ ∧ f.pieces.any hit then
    let ps := f.pieces.map fun p => if hit p then { p with at_ := p.at_ + 8 } else p
    let prio := match f.pend with | .port _ _ => 100 + sourceRank f.at_ tower | _ => 30
    (distinct (ps.map Piece.at_)).foldl (fun s t => s.due t prio (.loadPerformed f.id)) (s.setFlight { f with pieces := ps })
  else if o.by_ = some f.id then
    let t := o.stop + 7 + (if f.at_.col = tower / 16 then 0 else 6)
    { s with agenda := s.agenda.map fun d => if d.ev == .wordComplete f.id then { d with at_ := max d.at_ t } else d }
  else s

/-- A forced refresh takes its bank after an operation in progress and ahead of every other (R225). -/
def State.forceOp (s : State) (tower bank row : Nat) : State :=
  let b := s.bankAt tower bank
  let st := b.ops.foldl (fun n o => if o.start < s.cyc then max n o.stop else n) s.cyc
  let before := b.ops.filter fun o => decide (o.stop ≤ st)
  let after := b.ops.filter fun o => decide (st < o.stop)
  let moved := after.map fun o => { o with start := o.start + 8, stop := o.stop + 8 }
  let b := { b with ops := before ++ { kind := .refresh, row := row, start := st, stop := st + 8 } :: moved,
                    freeAt := if after.isEmpty then max b.freeAt (st + 8) else b.freeAt + 8 }
  let s := (s.setBank tower bank b).due (st + 7) 120 (.rowOperationEnd tower bank)
  after.foldl (fun s o => s.flights.foldl (shiftFlight tower bank o) (s.due (o.stop + 7) 120 (.rowOperationEnd tower bank))) s

/-- What a request gets: lateness for a load, start and extra latency for a row operation. -/
structure Served where
  req : PortReq
  late : Nat
  extra : Nat := 0

/-- The cycles for which refreshes, in progress or queued at the bank before it, keep an access that uses no row from its bank (R216, R217, R326). -/
def Bank.refreshLeft (b : Bank) (cyc : Nat) : Nat :=
  b.ops.foldl (fun n o => if o.kind = .refresh then n + (o.stop - max cyc o.start) else n) 0

/-- A request is served in the cycle in which it was made (R213–R217). A load's lateness is the sum of the cycles until its bank is free of
row operations and of one for each load ahead of it; loads of earlier cycles that wait for the same row operation do not add to it
(R217, R219). An access that uses no row waits for a refresh and for loads of its cycle only (R326). -/
def serveReq (s : State) (r : PortReq) : State × Served :=
  let b := s.bankAt r.tower r.bank
  match r.kind with
  | .load | .plain =>
    let s := if r.kind = .plain ∨ b.seen = some r.row ∨ b.now = some r.row then s
      else s.placeOp r.tower r.bank .open_ r.row (openLength b)
    let b := s.bankAt r.tower r.bank
    let free := max s.cyc b.nextLoad
    let late := (if r.kind = .plain then b.refreshLeft s.cyc else b.freeAt - s.cyc) + (free - s.cyc)
    (s.setBank r.tower r.bank { b with nextLoad := free + 1, loadEnd := max b.loadEnd (s.cyc + late) }, ⟨r, late, 0⟩)
  | .op k =>
    let st := b.opFrom s.cyc
    match k with
    | .open_ =>
      if b.now = some r.row then (s, ⟨r, 0, 0⟩)
      else (s.placeOp r.tower r.bank .open_ r.row (openLength b) r.id, ⟨r, st - s.cyc, openLength b - 10⟩)
    | .close =>
      if b.now.all fun x => s.rowInCtx (r.tower / 16) x r.ctx then
        (s.placeOp r.tower r.bank .close r.row 4 r.id, ⟨r, st - s.cyc, 0⟩)
      else (s, ⟨r, 0, 0⟩)
    | .refresh =>
      if r.step = 1 then (s.forceOp r.tower r.bank (2048 + r.row), ⟨r, 0, 0⟩)
      else (s.placeOp r.tower r.bank .refresh (if r.id.isNone then 1024 + r.row else r.row) 8 r.id, ⟨r, st - s.cyc, 0⟩)

/-- Insertion of a request by step, then source rank (R216). -/
def insertReq (r : PortReq) : List PortReq → List PortReq
  | [] => [r]
  | h :: t => if r.step < h.step ∨ (r.step = h.step ∧ r.rank < h.rank) then r :: h :: t else h :: insertReq r t

/-- Requests served one after another. Port operations of a cycle on one 64-bit word share one service of the bank (R319, R330). -/
def serveAll : List PortReq → State → List Served → State × List Served
  | [], s, out => (s, out)
  | r :: t, s, out =>
    match out.find? fun x => r.word.isSome && x.req.word == r.word && x.req.kind == r.kind with
    | some x => serveAll t s (out ++ [{ x with req := r }])
    | none =>
      let (s, x) := serveReq s r
      serveAll t s (out ++ [x])

/-- The LD or VLD latency of the tower that a piece reads (R221, R303): an element of an HLD and a template word have that of an LD, a word of an MLD that of a
VLD with start cell 0. -/
def Flight.pieceLat (f : Flight) (p : Piece) : Nat :=
  match f.pend with
  | .elemS _ _ _ _ | .elemV _ _ _ | .handle _ => if keyTower p.key / 16 = f.at_.col then (if keyTower p.key % 16 = 0 then 6 else 10) else 16
  | .tile _ => 6
  | _ => f.lat

/-- The flight of a served request takes its times: the pieces of a load their cycle at the port, a row operation its end
(R217, R221, R303). -/
def settleFlight (s : State) (f : Flight) (l : List Served) : State :=
  match f.pend with
  | .rows =>
    let end_ := l.foldl (fun m x => max m (x.late + x.extra)) 0
    (s.setFlight { f with pend := .none }).due (s.cyc + f.lat - 1 + end_) 600 (.wordComplete f.id)
  | _ =>
    let late (p : Piece) : Nat := l.foldl (fun m x =>
      if x.req.tower = keyTower p.key ∧ x.req.bank = keyBank p.key ∧ (x.req.row = keyRow p.key ∨ x.req.kind = .plain)
      then max m x.late else m) 0
    let ps := f.pieces.map fun p => { p with at_ := s.cyc + f.pieceLat p - 3 + late p }
    let prio := match f.pend with
      | .port _ _ => 100 + sourceRank f.at_ (((f.pieces.head?).map fun p => keyTower p.key).getD 0)
      | _ => 30
    (distinct (ps.map Piece.at_)).foldl (fun s t => s.due t prio (.loadPerformed f.id)) (s.setFlight { f with pieces := ps })

/-- The banks at the end of a cycle: its requests in the order of R216, after which loads see the rows they leave (R214). -/
def State.servePorts (s : State) : State :=
  let rs := s.reqs.foldl (fun l r => insertReq r l) []
  let (s, out) := serveAll rs { s with reqs := [] } []
  let s := (distinct (out.filterMap fun x => x.req.id)).foldl (fun s id =>
    match s.flight id with
    | some f => settleFlight s f (out.filter fun x => x.req.id == some id)
    | none => s) s
  rs.foldl (fun s r =>
    let b := s.bankAt r.tower r.bank
    s.setBank r.tower r.bank { b with seen := b.now }) s

/-- The requests a word makes for the rows of its pieces, one for each bank row (R214). -/
def pieceReqs (k : Stream) (id : Nat) (kind : ReqKind) (ctx : Option Nat) (keys : List Nat)
    (word : Option Nat := none) : List PortReq :=
  let tags := distinct (keys.map fun x => x / 8192 * 16 + keyBank x)
  tags.map fun t =>
    let key := t / 16 * 8192 + t % 16 * 512
    let step := match kind with | .op _ => 4 | _ => 2
    ⟨some id, step, sourceRank k (keyTower key), keyTower key, keyBank key, keyRow key, kind, ctx, word⟩

/-- The requests are put down, and their towers' sequencers run. -/
def State.request (s : State) (l : List PortReq) : State :=
  let s := (distinct (l.map PortReq.tower)).foldl State.touch s
  { s with reqs := s.reqs ++ l }

/-! ### Row events -/

/-- ROW_OPERATION_END: the buffer, and the restored row, as the operation leaves them (R213, R222, R233). -/
def execRowOperationEnd (tower bank : Nat) (s : State) : Out :=
  let b := s.bankAt tower bank
  let phys := (s.towerAt tower).physRow bank
  match b.ops with
  | [] => .next s
  | o :: rest =>
    if s.cyc + 1 < o.stop then .next s
    else
      let b := { b with ops := rest }
      let left := match b.buf with | some r => b.restored.put (phys r) (s.cyc + 1) | none => b.restored
      .next (s.setBank tower bank (match o.kind with
        | .open_ => { b with buf := some o.row, restored := left.put (phys o.row) (s.cyc + 1) }
        | .close => { b with buf := none, restored := left }
        | .refresh => { b with restored := b.restored.put (phys o.row) (s.cyc + 1) }))

/-- A row lies in a window that a slot of its column holds (R226). -/
def State.rowHeld (s : State) (col row : Nat) : Bool :=
  (List.range 4).any fun n =>
    let sl := s.slotAt (slotKey col n)
    let w := s.twin col (bitsAt (sl.ctlr 0x120) 33 32)
    sl.hold && decide (bitsAt w 8 0 ≤ row ∧ row < bitsAt w 25 16)

/-- The row that a physical row of a bank holds is open in the program row buffer (R222, R224). -/
def State.rowOpen (s : State) (tower bank phys : Nat) : Bool :=
  ((s.towerAt tower).logicalRow bank phys).any fun r => (s.bankAt tower bank).buf == some r

/-- Of the rows of a bank that are not open and to which the sequencer does not come before their age reaches the threshold, the oldest is looked at then,
at the earliest in cycle `t` (R223, R225). -/
def State.planForced (s : State) (tower bank t : Nat) (but : Option Nat := none) : State :=
  let es := s.epochs tower
  let known := (s.bankAt tower bank).restored
  let rows := (List.range 520).filterMap fun r =>
    let x := known.getD r (passRestored es s.cyc (r * 16 + bank))
    if but == some r || s.rowOpen tower bank r || decide (nextPass es s.cyc (r * 16 + bank) ≤ max t (x + s.forceAge tower)) then none else some (x, r)
  match rows with
  | [] => s
  | r :: l =>
    let o := l.foldl (fun a x => if x.1 < a.1 then x else a) r
    if s.agenda.any fun d => d.ev == Instr.forcedRefresh tower bank o.2 then s
    else s.due (max t (o.1 + s.forceAge tower)) 24 (.forcedRefresh tower bank o.2)

/-- A LIMIT holds from the next cycle on: the sequencers of the pier stay at their rows and take the new period, and under a lower limit rows that are too
old are forced (R223, R224). Log 141. -/
def State.newLimit (s : State) (pier limit : Nat) : State :=
  let old := s.refLimit (pier * 1024)
  let s := { s with refLog := (pier, s.cyc + 1, limit) :: s.refLog }
  (List.range' (pier * 1024) 1024).foldl (fun s tower =>
    if (s.towerAt tower).seqOn = false ∧ old ≤ limit then s
    else
      let s := if (s.towerAt tower).seqOn then s else s.touch tower
      let (i, c) := nextRefresh (s.epochs tower) s.cyc
      let s := { s with agenda := s.agenda.filter fun d => d.ev != Instr.backgroundRefresh tower }
      let s := (s.setTower tower { s.towerAt tower with seqIdx := i }).due c 25 (.backgroundRefresh tower)
      if old ≤ limit then s else (List.range 16).foldl (fun s bank => s.planForced tower bank (s.cyc + 1)) s) s

/-- The LIMITs that firmware has written in this cycle (R223). -/
def State.noteLimits (s : State) : State :=
  (List.range 4).foldl (fun s pier =>
    let last := ((s.refLog.find? fun r => r.1 == pier).map fun r => r.2.2).getD (bitsAt (ctlReset 0x125) 15 0)
    let limit := s.refLimit (pier * 1024)
    if limit = last then s else s.newLimit pier limit) s

/-- BACKGROUND_REFRESH: the sequencer comes to its row, which it skips when it is open or held; a skipped row keeps its age and
will be forced when that reaches the threshold (R224–R226). -/
def execBackgroundRefresh (tower : Nat) (s : State) : Out :=
  let t := s.towerAt tower
  let bank := t.seqIdx % 16
  let row := t.seqIdx / 16
  let b := s.bankAt tower bank
  let (i, c) := nextRefresh (s.epochs tower) s.cyc
  let s := (s.setTower tower { t with seqOn := true, seqIdx := i }).due c 25 (.backgroundRefresh tower)
  if s.rowOpen tower bank row then .next s
  else if (t.logicalRow bank row).any fun r => s.atDawn.rowHeld (tower / 16) r then
    let r := s.restoredAt tower bank row
    .next ((s.setBank tower bank { b with restored := b.restored.put row r }).due (r + s.forceAge tower) 24
      (.forcedRefresh tower bank row))
  else .next { s with reqs := s.reqs ++ [⟨none, 3, 0, tower, bank, row, .op .refresh, none, none⟩] }

/-- FORCED_REFRESH: a physical row old enough is restored ahead of loads, as soon as its bank has no operation in progress (R225); the
slots whose windows hold it count it, and at most one health event is posted per tower in 2^20 cycles (R470). Another row of its bank follows 8 cycles
later at the earliest (R223). -/
def execForcedRefresh (tower bank row : Nat) (s : State) : Out :=
  let b := s.bankAt tower bank
  let age := s.cyc - s.restoredAt tower bank row
  if s.rowOpen tower bank row ∨ age < s.forceAge tower then .next (s.planForced tower bank (s.cyc + 1) (some row))
  else if b.ops.any (fun o => decide (o.start < s.cyc ∧ s.cyc < o.stop)) ∨ s.reqs.any (fun r => r.step == 1 && r.tower == tower && r.bank == bank) then
    .next (s.due (s.cyc + 1) 24 (.forcedRefresh tower bank row))
  else
    let col := tower / 16
    let s := (List.range 4).foldl (fun s n =>
      let sk := slotKey col n
      let sl := s.slotAt sk
      let w := s.twin col (bitsAt (sl.ctlr 0x120) 33 32)
      if sl.gid.isSome && ((s.towerAt tower).logicalRow bank row).any fun r => decide (bitsAt w 8 0 ≤ r ∧ r < bitsAt w 25 16) then
        s.setSlot sk (sl.setCtl 0x51 (setBits (sl.ctlr 0x51) 47 40 (min 255 (bitsAt (sl.ctlr 0x51) 47 40 + 1))))
      else s) s
    let t := s.towerAt tower
    let n := t.forced + 1
    let s := s.setTower tower { t with forced := n, forcedAt := if t.forced = 0 ∨ t.forcedAt + 2 ^ 20 ≤ s.cyc then s.cyc else t.forcedAt }
    let s := if t.forced = 0 ∨ t.forcedAt + 2 ^ 20 ≤ s.cyc then
        s.health { code := 0x0D, loc := s.cellLoc tower, info := BitVec.ofNat 64 n } else s
    let s := (s.touch tower).planForced tower bank (s.cyc + 8) (some row)
    .next { s with reqs := s.reqs ++ [⟨none, 1, 0, tower, bank, row, .op .refresh, none, none⟩] }

/-! ### Write queues (R231) -/

/-- The port's write queue has no room for a new line (R231). -/
def State.lineBlocked (s : State) (key : Nat) : Bool :=
  let t := s.towerAt (keyTower key)
  !t.queue.contains (key / 64) && decide (32 ≤ t.queue.length)

/-- A line joins its port's write queue, which drains from the next cycle on (R231). -/
def State.queueLine (s : State) (key : Nat) : State :=
  let n := keyTower key
  let t := s.towerAt n
  if t.queue.contains (key / 64) then s
  else
    let s := s.setTower n { t with queue := t.queue ++ [key / 64] }
    if t.queue.isEmpty then s.due (s.cyc + 1) 400 (.writeQueueDrain n) else s

/-! ### Errors of tower words (R228, R229, R233) -/

/-- A corrected word goes back through the write queue of its port, or waits for room there (R228). -/
def State.writeBack (s : State) (w : Nat) : State :=
  let n := keyTower w
  let t := s.towerAt n
  if s.lineBlocked w then s.setTower n { t with backs := State.insertKey t.backs w }
  else ({ s with bitErrs := s.bitErrs.del w }.setTower n { t with backs := t.backs.filter (· != w) }).queueLine w

/-- A read of a tower word finds its error, if it has one. A single-bit error is corrected and the word written back, an uncorrectable one poisons the
word; each is a health event; and the row's first uncorrectable or fourth corrected error asks for a row-sparing copy (R228, R229, R233, R470). -/
def State.checkWord (s : State) (w : Nat) : State :=
  match s.bitErrs.get? w with
  | none => s
  | some e =>
    let bad := e == 2
    let tower := keyTower w
    let t := s.towerAt tower
    let bank := keyBank w
    let row := keyRow w
    let k := bank * 1024 + t.spares.getD (bank * 512 + row) row
    let old := t.errs.getD k 0
    let cause := if bad then (if old < 256 then some 0 else none) else if old % 256 = 3 then some 1 else none
    let new := if bad then old % 256 + 256 else if old % 256 < 4 then old + 1 else old
    let s := if bad then { s with bitErrs := s.bitErrs.del w, poison := State.insertKey s.poison w } else s.writeBack w
    let t := s.towerAt tower
    let s := s.setTower tower { t with errs := t.errs.put k new, spareReqs := t.spareReqs ++ (cause.map fun c => SpareReq.mk bank row c).toList }
    let s := s.health { code := if bad then 0x02 else 0x01, loc := s.towerLoc tower bank row, info := BitVec.ofNat 64 ((w - towerBase) % 2 ^ 22) }
    if cause.isSome then s.due s.cyc 860 (.rowSpareCopyVerify tower true) 1 else s

/-- The words that a read of bytes covers are checked. -/
def State.checkRead (s : State) (key n : Nat) : State :=
  (s.bitErrs.filter fun e => decide (key < e.1 + 8 ∧ e.1 < key + n)).foldl (fun s e => s.checkWord e.1) s

/-- The words that hold any of some bytes are checked. -/
def State.checkKeys (s : State) (keys : List Nat) : State :=
  (s.bitErrs.filter fun e => keys.any fun k => decide (k / 8 * 8 = e.1)).foldl (fun s e => s.checkWord e.1) s

/-- A word with an error that is written in part: the port reads it when its line drains, unless the line has come to hold the whole word (R231). A newer
write takes the place of a correction that waits (R228). -/
def State.partWrite (s : State) (w mask : Nat) : State :=
  if (s.bitErrs.get? w).isNone then s
  else
    let t := s.towerAt (keyTower w)
    let m := t.partly.getD w 0 ||| mask
    let s := s.setTower (keyTower w) { t with partly := if m = 255 then t.partly.del w else t.partly.put w m, backs := t.backs.filter (· != w) }
    if m = 255 then { s with bitErrs := s.bitErrs.del w } else s

/-! ### Writes at a port -/

/-- Bytes written to memory with the poison they leave: marked data poisons each word, all 8 bytes of a word clear it, fewer
leave it (R229, R230). -/
def State.writeMarked (s : State) (key : Nat) (bytes : List Nat) (marked : Bool) : State :=
  let s := { s with mem := Memory.writeBytes s.mem key (bytes.map (BitVec.ofNat 8)) }
  let first := key / 8
  let last := (key + bytes.length - 1) / 8
  if bytes.isEmpty then s
  else (List.range (last - first + 1)).foldl (fun s n =>
    let w := 8 * (first + n)
    if marked then s.setPoison w true
    else if key ≤ w ∧ w + 8 ≤ key + bytes.length then s.setPoison w false
    else s.partWrite w (((List.range 8).filter fun i => decide (key ≤ w + i ∧ w + i < key + bytes.length)).foldl (fun m i => m + 2 ^ i) 0)) s

/-- The global tower address of a key, by physical column. -/
def keyAddr (key : Nat) : Nat := key - towerBase

/-- One piece of a store takes effect at its port (R231, R320, R322). -/
def State.applyPiece (s : State) (op : StoreOp) (p : WPiece) : State :=
  match op with
  | .write =>
    let n := p.bytes.length - 1
    let old := (Memory.read s.mem (p.key + n)).toNat
    let b := p.bytes.getD n 0
    if p.nib = 1 then s.writeMarked p.key (p.bytes.take n ++ [b % 16 + old / 16 * 16]) p.marked
    else if p.nib = 2 then s.writeMarked p.key (p.bytes.take n ++ [b % 16 * 16 + old % 16]) p.marked
    else s.writeMarked p.key p.bytes p.marked
  | .nibble hi =>
    let old := (Memory.read s.mem p.key).toNat
    let v := p.bytes.headD 0 % 16
    s.writeMarked p.key [if hi then old % 16 + v * 16 else old / 16 * 16 + v] p.marked
  | .red code ctl size b =>
    let s := s.checkRead p.key size
    if s.poisoned p.key then
      s.health { code := 0x13, loc := s.towerLoc (keyTower p.key) (keyBank p.key) (keyRow p.key),
                 info := BitVec.ofNat 64 (keyAddr p.key) }
    else s.store p.key size (portOp code ctl (8 * size) (s.load p.key size) b)
  | .redx tower slot ctl b =>
    let t := s.towerAt tower
    s.setTower tower { t with sums := t.sums.put slot ((t.sums.getD slot {}).contribute ctl b) }
  | .mark => s

/-! ### Loads at their ports (R303, R304, R307) -/

/-- Two pieces share a 64-bit word. -/
def sameWord (a alen b blen : Nat) : Bool := decide (a / 8 ≤ (b + blen - 1) / 8 ∧ b / 8 ≤ (a + alen - 1) / 8)

/-- An entry of a store queue touches the word of a piece. -/
def PortWrite.touches (e : PortWrite) (key size : Nat) : Bool :=
  e.pieces.any fun p => sameWord p.key (max 1 p.bytes.length) key size

/-- An entry of a store queue writes the tower of a key. -/
def PortWrite.inTower (e : PortWrite) (key : Nat) : Bool := e.pieces.any fun p => keyTower p.key == keyTower key

/-- A barrier word. -/
def isBarrierWord : Instr → Bool
  | .binit _ _ | .arrive _ _ | .arrdrop _ _ | .bexpect _ _ | .btest _ _ | .bwait _ _ => true
  | _ => false

/-- An ATOM or a SEAL, which count as a load and as a write (R307), a shared push or pop, which is both at the port of its descriptor (R172), or a barrier
word, which counts as both too (R333). -/
def isAtomic (i : Instr) : Bool :=
  isBarrierWord i || match i with
  | .atom _ _ | .seal _ _ | .cspush _ _ | .cspop _ _ => true
  | _ => false

/-- The entry is a reduction. -/
def PortWrite.isRed (e : PortWrite) : Bool := match e.op with | .red _ _ _ _ | .redx _ _ _ _ => true | _ => false

/-- A contribution of a stream's slot that was accepted before an access has not read its elements (R458). -/
def State.collReads (s : State) (k : Stream) (id : Nat) : Bool :=
  s.colls.any fun x => x.reading && x.at_.sk == k.sk && x.gid == (s.slotAt k.sk).gid && decide (x.first ≤ id)

/-- A piece may be performed: no contribution of its slot has still to read what it may change, no earlier MARK, reduction to its word or, for a port operation, write to its word (for an ATOM or a SEAL, to its tower) of
its own stream is still on its way, no earlier store to its word waits for its data, and every earlier load of the stream at its tower has been performed (R304, R307, R308). -/
def State.mayPerform (s : State) (f : Flight) (p : Piece) : Bool :=
  let port := match f.pend with | .port _ _ => true | _ => false
  !s.collReads f.at_ f.id && !(s.stores.any fun e => e.by_ == f.at_ && decide (e.id < f.id) &&
      (e.op == .mark || ((e.isRed || port || !e.ready) && e.touches p.key p.size) || (isAtomic f.ins && e.inTower p.key)
        || (match e.op, f.ins with
            | .redx t n _ _, .seal _ g => t == keyTower p.key && n == g.aux
            | _, _ => false)))
  && !(s.flights.any fun g => g.at_ == f.at_ && decide (g.id < f.id) &&
      g.pieces.any fun r => !r.done && keyTower r.key == keyTower p.key)

/-- The state as a load of a stream sees memory: with the stream's own earlier plain stores that touch its word applied
(R304). -/
def State.withOwnStores (s : State) (f : Flight) (p : Piece) : State :=
  (s.stores.filter fun e => e.by_ == f.at_ && decide (e.id < f.id) && !e.isRed && e.touches p.key p.size).foldl
    (fun s e => e.pieces.foldl (fun s w => s.applyPiece e.op w) s) s

/-- A piece is performed: its value and its mark (R230, R304). -/
def State.perform (s : State) (f : Flight) (p : Piece) : Piece :=
  let v := s.withOwnStores f p
  { p with done := true, got := v.load p.key p.size,
           mark := if v.poisoned p.key then some (p.prog / 8 * 8) else none }

/-- A vector of 4-byte pieces with its marks. -/
def vectorOf (tag : Nat) (ps : List Piece) : VReg :=
  { tag := tag, lanes := (List.range 256).map fun l => BitVec.ofNat 32 (((ps.find? fun p => p.lane == l).map Piece.got).getD 0),
    marks := (List.range 256).filterMap fun l => ((ps.find? fun p => p.lane == l).bind Piece.mark).map fun m => (l, m) }

/-- What a load writes once every piece has been performed (R217, R238, R240). -/
def loadWrites (s : State) (f : Flight) : List Write :=
  match f.pend with
  | .loadS reg sx =>
    let v := f.pieces.foldr (fun p n => p.got + 2 ^ (8 * p.size) * n) 0
    [.s reg { val := if sx = 0 then BitVec.ofNat 64 v else BitVec.ofInt 64 (sint sx v),
              mark := f.pieces.findSome? Piece.mark }]
  | .loadQ n tag => [.q n 4 (.v (vectorOf tag f.pieces))]
  | .loadV n tag m =>
    let v := vectorOf tag f.pieces
    [.v n (mergeV ((s.slotAt f.at_.sk).vreg n) tag m v.lanes v.marks)]
  | .elemS reg w nib sx =>
    let v := (f.pieces.foldl (fun n p => n + p.got * 256 ^ (p.lane / 2 ^ 20)) 0) / 16 ^ nib % 2 ^ w
    [.s reg { val := if sx then BitVec.ofInt 64 (sint w v) else BitVec.ofNat 64 v, mark := f.pieces.findSome? Piece.mark }]
  | .elemV n tag w =>
    let per := 32 / w
    let elem (p : Piece) : Nat := p.lane % 2 ^ 20 / 2
    let part (p : Piece) : Nat :=
      p.got * 256 ^ (p.lane / 2 ^ 20) / 16 ^ (p.lane % 2) % 2 ^ w * 2 ^ (w * (elem p % per))
    let lane (l : Nat) : Nat := f.pieces.foldl (fun n p => if elem p / per = l then n + part p else n) 0
    [.q n 4 (.v { tag := tag, lanes := (List.range 256).map fun l => BitVec.ofNat 32 (lane l),
                  marks := (List.range 256).filterMap fun l =>
                    (f.pieces.findSome? fun p => if elem p / per = l then p.mark else none).map fun m => (l, m) })]
  | _ => []

/-- The writes of a stream before word `id` that have not reached their ports (R309, R323). -/
def State.writesBefore (s : State) (k : Stream) (id : Nat) : Bool :=
  (s.stores.any fun e => e.by_ == k && decide (e.id < id) && e.op != .mark) ||
  (s.flights.any fun f => f.at_ == k && decide (f.id < id) &&
    (match f.pend with | .port _ _ => f.pieces.any (fun p => !p.done) || f.pieces.isEmpty | _ => false))

/-- Fences of a stream whose last earlier write has reached its port in this cycle complete (R309). -/
def State.wakeFences (s : State) (k : Stream) : State :=
  (s.flights.filter fun f => f.at_ == k && (match f.pend with | .fence _ _ => true | _ => false)).foldl (fun s f =>
    match f.pend with
    | .fence _ d =>
      if s.writesBefore k f.id || s.agenda.any (fun x => x.ev == .wordComplete f.id) then s
      else s.due (s.cyc + d) 600 (.wordComplete f.id)
    | _ => s) s

/-- MARKs of a stream whose earlier loads have been performed and earlier writes have reached their ports leave the queues
(R308). -/
def State.settleMarks (s : State) : State :=
  { s with stores := s.stores.filter fun m => !(m.op == .mark
      && !(s.stores.any fun e => e.by_ == m.by_ && decide (e.id < m.id))
      && !(s.flights.any fun f => f.at_ == m.by_ && decide (f.id < m.id) && f.pieces.any fun p => !p.done)) }

/-! ### Stores on their way (R303) -/

/-- The head of a store queue may leave (R303); a contribution of its slot that has its elements to read keeps it (R458). -/
def State.mayLeave (s : State) (e : PortWrite) : Bool :=
  e.op != .mark && e.ready && !s.collReads e.by_ e.id && !(e.pieces.any fun p => s.lineBlocked p.key)
  && !(s.flights.any fun f => f.at_ == e.by_ && decide (f.id < e.id) &&
      f.pieces.any fun p => !p.done && e.touches p.key p.size)

/-- The bytes that an entry writes, by the addresses of the signature; nibbles that it does not write are zero (R477). -/
def signBytes (s : State) (e : PortWrite) : List (Nat × Nat) :=
  match e.op with
  | .write => e.pieces.flatMap fun p => p.bytes.zipIdx.map fun b =>
      (s.signAddr e.by_ (p.key + b.2),
       if b.2 + 1 < p.bytes.length then b.1 else if p.nib = 1 then b.1 % 16 else if p.nib = 2 then b.1 % 16 * 16 else b.1)
  | .nibble hi => e.pieces.map fun p => (s.signAddr e.by_ p.key, p.bytes.headD 0 % 16 * (if hi then 16 else 1))
  | _ => []

/-- An entry leaves its queue in the cycle after this one; its writes reach their ports 2, 4 or 7 cycles later (R303). -/
def State.leave (s : State) (e : PortWrite) : State :=
  let gid := if e.by_.fw then none else (s.slotAt e.by_.sk).gid
  let s := if ((gid.bind fun g => s.groups.get? g).bind Group.audit).isSome then s.sign gid (signBytes s e) else s
  let s := { s with stores := s.stores.map fun x => if x.id == e.id then { x with sent := some (s.cyc + 1) } else x }
  (distinct (e.pieces.map WPiece.dist)).foldl (fun s d =>
    s.due (s.cyc + 1 + d) (200 + sourceRank e.by_ (((e.pieces.find? fun p => p.dist == d).map fun p => keyTower p.key).getD 0))
      (.storeReachPort e.id d)) s

/-- The first entry of each stream that has not left, in program order. -/
def storeHeads : List PortWrite → List Stream → List PortWrite
  | [], _ => []
  | e :: t, seen =>
    if e.sent.isSome ∨ seen.contains e.by_ then storeHeads t seen else e :: storeHeads t (e.by_ :: seen)

/-- The store queues at the end of a cycle: satisfied MARKs go, then each queue's head leaves if it may (R303, R308). -/
def State.drainStores (s : State) : State :=
  if s.stores.isEmpty then s
  else
    let s := s.settleMarks
    (storeHeads s.stores []).foldl (fun s e => if s.mayLeave e then s.leave e else s) s

/-- What a piece of an HST leaves of a byte that was taken from its tile: the bytes and nibbles that it writes, and the mark of their word (R229, R231,
R258). -/
def WPiece.over (p : WPiece) (k : Nat) (old : Nat × Bool) : Nat × Bool :=
  let n := p.bytes.length
  let w := k / 8 * 8
  let b := p.bytes.getD (k - p.key) 0
  let val := if k < p.key ∨ p.key + n ≤ k then old.1
    else if p.nib = 1 ∧ k + 1 = p.key + n then b % 16 + old.1 / 16 * 16
    else if p.nib = 2 ∧ k + 1 = p.key + n then b % 16 * 16 + old.1 % 16
    else b
  (val, if w < p.key + n ∧ p.key < w + 8 ∧ p.marked then true else if p.key ≤ w ∧ w + 8 ≤ p.key + n ∧ p.nib = 0 then false else old.2)

/-- The writes of an HST that saw a tile as OLD are carried when the tile is MOVING: they join the bytes taken from it (R254,
R256). -/
def State.carry (s : State) (e : PortWrite) (ps : List WPiece) : State :=
  if e.uses.isEmpty then s
  else { s with jobs := s.jobs.map fun j =>
      if j.moving && e.uses.any (fun u => u.1 == j.ctx * 4096 + j.entry && u.2 != 0) then
        { j with snap := j.snap.map fun x => (x.1, ps.foldl (fun v p => p.over x.1 v) x.2) }
      else j }

/-- A tile that became MOVING in this cycle is read with every write that has reached its region in it (R254, R255). -/
def State.resnap (s : State) : State :=
  if s.jobs.isEmpty then s
  else { s with jobs := s.jobs.map fun j =>
      if j.moving && j.since == s.cyc then
        { j with snap := j.snap.map fun x => (x.1, (Memory.read s.mem x.1).toNat, s.poisoned x.1),
                 scales := j.scales.map fun x => (x.1, s.hbmMeta.getD x.1 []) }
      else j }

/-- STORE_REACH_PORT: the writes of an entry at one distance enter the write queues of their ports, unless an earlier write, ATOM or SEAL of
the stream to the tower is still on its way or a queue is full (R231, R303, R307); then they stand ahead of the arrivals of the next cycle. -/
def execStoreReachPort (id dist : Nat) (s : State) : Out :=
  match s.stores.find? fun e => e.id == id with
  | none => .next s
  | some e =>
    let ps := e.pieces.filter fun p => p.dist == dist
    let older := (s.stores.any fun x => x.by_ == e.by_ && decide (x.id < id) &&
        x.pieces.any fun p => ps.any fun r => keyTower p.key == keyTower r.key)
      || s.flights.any fun f => f.at_ == e.by_ && decide (f.id < id) && isAtomic f.ins &&
        f.pieces.any fun p => !p.done && ps.any fun r => keyTower p.key == keyTower r.key
    if older || ps.any (fun p => s.lineBlocked p.key) then .next (s.due (s.cyc + 1) 160 (.storeReachPort id dist))
    else
      let s := (ps.foldl (fun s p => (s.applyPiece e.op p).queueLine p.key) s).carry e ps
      let rest := e.pieces.filter fun p => p.dist != dist
      let s := if rest.isEmpty then { s with stores := s.stores.filter fun x => x.id != id }
        else { s with stores := s.stores.map fun x => if x.id == id then { x with pieces := rest } else x }
      .next (s.wakeFences e.by_)

/-- Corrected words that waited for room join the write queue of a port (R228). -/
def State.retryBacks (s : State) (tower : Nat) : State :=
  (s.towerAt tower).backs.foldl (fun s w =>
    if s.bitErrs.get? w = some 1 then s.writeBack w
    else s.setTower tower { s.towerAt tower with backs := (s.towerAt tower).backs.filter (· != w) }) s

/-- WRITE_QUEUE_DRAIN: the oldest line drains through the side path when its bank is free, or, when the queue is full, ahead of loads but not of a row
operation in progress or a forced refresh of this cycle
(R216, R231). Its bytes are already part of memory, which loads read merged (R221); words
that it holds in part are read, and their errors found (R228). -/
def execWriteQueueDrain (tower : Nat) (s : State) : Out :=
  let t := s.towerAt tower
  match t.queue with
  | [] => .next s
  | l :: rest =>
    let bank := keyBank (l * 64)
    let b := s.bankAt tower bank
    let full := decide (32 ≤ t.queue.length)
    let busy := if full then (b.ops.any fun o => decide (o.start ≤ s.cyc ∧ s.cyc < o.stop)) || s.reqs.any (fun r => r.tower == tower && r.bank == bank && r.step == 1)
      else decide (s.cyc < b.freeAt) || decide (s.cyc < b.nextLoad) || s.reqs.any (fun r => r.tower == tower && r.bank == bank)
    let s := if busy then s
      else ((t.partly.filter fun r => decide (r.1 / 64 = l)).foldl (fun s r => s.checkWord r.1)
        (s.setTower tower { t with queue := rest, partly := t.partly.filter fun r => decide (r.1 / 64 ≠ l) })).retryBacks tower
    let s := if full && !busy then
        let b := s.bankAt tower bank
        s.setBank tower bank { b with nextLoad := max b.nextLoad (s.cyc + 1) }
      else s
    .next (if (s.towerAt tower).queue.isEmpty then s else s.due (s.cyc + 1) 400 (.writeQueueDrain tower))

/-! ### The commands of channels (R271) -/

namespace State

def chanKey : Chan → Nat
  | .column c sl ch => slotKey c sl * 2 + ch
  | .pier p ch => 10 ^ 6 + p * 16 + ch

def chanAt (s : State) (c : Chan) : ChanState := s.chans.getD (chanKey c) {}
def setChan (s : State) (c : Chan) (v : ChanState) : State :=
  { s with chans := if v == {} then s.chans.del (chanKey c) else s.chans.put (chanKey c) v }

/-- The command that a channel works on: the record's on a pier channel. -/
def chanCommand (s : State) (c : Chan) : Option Command :=
  let v := s.chanAt c
  match c with
  | .column .. => v.queue.head?
  | .pier .. => v.inner

def setCommand (s : State) (c : Chan) (x : Command) : State :=
  let v := s.chanAt c
  s.setChan c (match c with
    | .column .. => { v with queue := x :: v.queue.drop 1 }
    | .pier .. => { v with inner := some x })

/-- The source of a record of a fault, or of an engine fault (R368, R433). -/
def chanSrc : Chan → Nat
  | .column _ _ ch => ch
  | .pier .. => 2

end State

/-! ### Asynchronous transfers (R25, R26, R216, R231) -/

/-- Bytes cut at 64-bit words, each with its mark. -/
def cutWords (src unit : Nat) (gid : Option Nat) (made : Nat) (l : List (Nat × Nat × Bool)) : List AsyncWrite :=
  (l.foldl (fun (r : List AsyncWrite) x =>
    match r with
    | p :: t => if p.key / 8 = x.1 / 8 ∧ p.key + p.bytes.length = x.1 then { p with bytes := p.bytes ++ [x.2.1], marked := p.marked || x.2.2 } :: t
      else ⟨src, unit, x.1, [x.2.1], x.2.2, gid, none, made⟩ :: r
    | [] => [⟨src, unit, x.1, [x.2.1], x.2.2, gid, none, made⟩]) []).reverse

/-- The writes of a unit that its pier's far-access unit takes up: they are accepted in the order in which they came there (R302, R304). -/
def State.holdFar (s : State) (pier unit : Nat) (gid : Option Nat) (l : List (Nat × Nat × Bool)) (metas : List (Nat × List Nat × Bool)) (va : Nat) : State :=
  if l.isEmpty && metas.isEmpty then s
  else
    let (d, s) := s.freeNat
    let (e, s) := s.freeNat
    let before := (s.farHeld.filter fun w => w.pier == pier).foldl (fun n w => max n w.at_) 0
    let plinth := s.cyc + d
    { s with farHeld := s.farHeld ++ [⟨pier, unit, plinth, max before (plinth + e), l, metas, gid, s.cyc, va⟩] }

/-- A transfer writes bytes: those of towers wait for their ports, far ones go to the far-access unit of the pier (R216, R302). -/
def State.asyncWrite (s : State) (src pier unit : Nat) (gid : Option Nat) (l : List (Nat × Nat × Bool)) (metas : List (Nat × List Nat × Bool) := [])
    (va : Nat := 0) : State :=
  let s := s.holdFar pier unit gid (l.filter fun x => decide (x.1 < towerBase)) metas va
  { s with async := s.async ++ cutWords src unit gid s.cyc (l.filter fun x => decide (towerBase ≤ x.1)) }

/-- The first `n` lines of a far write, as far as its unit has moved them (R271, R423). -/
def FarWrite.lines (w : FarWrite) (n : Nat) : FarWrite :=
  let l := (distinct (w.cells.map fun c => c.1 / 64)).take n
  { w with cells := w.cells.filter (fun c => l.contains (c.1 / 64)), metas := w.metas.filter fun m => l.contains (m.1 / 64) }

/-- The command that a channel's unit has run since a cycle stops at its next 64-byte line: the line that it has come to lands, and of a far write as many
lines as the unit has moved, 64 bytes a cycle (R271, R423). -/
def State.stopUnit (s : State) (unit since : Nat) : State :=
  let mine (p : AsyncWrite) : Bool := p.unit == unit && decide (since ≤ p.made)
  let at_ := (s.async.find? mine).map fun p => p.key / 64
  { s with
    async := s.async.filter fun p => !mine p || some (p.key / 64) == at_
    farHeld := s.farHeld.map fun w => if w.unit = unit ∧ since ≤ w.made then w.lines (s.cyc - w.made + 1) else w }

/-- A write that a group's commands or relayouts have made is on its way. -/
def State.writesOf (s : State) (g : Nat) : Bool := s.async.any (fun p => p.gid == some g) || s.farHeld.any fun w => w.gid == some g

/-- A unit's tower writes have not all reached their ports. -/
def State.asyncBusy (s : State) (unit : Nat) : Bool := s.async.any fun p => p.unit == unit

/-- The column whose channel unit a unit belongs to (R271): none for a pier channel or a relayout engine. -/
def unitColumn (unit : Nat) : Option Nat := if unit < 10 ^ 6 then some (unit / 10) else none

/-- Writes in order, as far as each owner's bytes of a cycle reach; after the first that does not fit, its owner has no more (R25, R26, R271). -/
def underCap (cap : Nat) (owner : AsyncWrite → Option Nat) (l : List AsyncWrite) : List AsyncWrite :=
  (l.foldl (fun (r : List AsyncWrite × Map Nat) p =>
    match owner p with
    | none => (p :: r.1, r.2)
    | some k =>
      let n := r.2.getD k 0 + p.bytes.length
      if n ≤ cap then (p :: r.1, r.2.put k n) else (r.1, r.2.put k cap)) ([], [])).1.reverse

/-- The first of every list, then the second of every list, and so on, up to `n` rounds. -/
def inRounds {α : Type} : Nat → List (List α) → List α
  | 0, _ => []
  | n + 1, l => l.filterMap List.head? ++ inRounds n (l.map fun x => x.drop 1)

/-- The writes of the fill spines taken evenly from the ports that are being filled, the first port changing with each cycle (R26); a port takes at most
64 words in a cycle. -/
def State.spineTurn (s : State) (l : List AsyncWrite) : List AsyncWrite :=
  let fill := l.filter fun p => p.src == 0
  let ports := distinct (fill.map fun p => keyTower p.key)
  let n := s.cyc % max 1 ports.length
  l.filter (fun p => p.src != 0) ++ inRounds 64 ((ports.drop n ++ ports.take n).map fun t => fill.filter fun p => keyTower p.key == t)

/-- The writes that their units can move in a cycle: 64 bytes a channel, 128 a column's channels in turn, and for a pier's fill spines 64 bytes a column and
2,926 in all, divided evenly among the ports (R26, R271). -/
def State.asyncReady (s : State) : List AsyncWrite :=
  let units := distinct (s.async.map fun p => p.unit)
  let n := s.cyc % max 1 units.length
  let l := (units.drop n ++ units.take n).flatMap fun u => s.async.filter fun p => p.unit == u
  let l := underCap 64 (fun p => if p.src = 3 then none else some p.unit) l
  let l := underCap 128 (fun p => unitColumn p.unit) l
  let spine (k : Nat) (p : AsyncWrite) : Option Nat := if p.src = 0 then some (keyTower p.key / (16 * k)) else none
  underCap 2926 (spine 64) (underCap 64 (spine 1) (s.spineTurn l))

/-- An earlier write of the same unit to the same 64-bit word still waits (R277). -/
def State.asyncBehind (s : State) (p : AsyncWrite) : Bool :=
  (s.async.takeWhile (· != p)).any fun o => o.unit == p.unit && o.key / 8 == p.key / 8

/-- The operation of an AATOM on `n` bytes whose old value is `old` (R295). -/
def Command.atomNew (c : Command) (n old : Nat) : Nat :=
  let m := 2 ^ (8 * n)
  if c.size % 16 = 1 then (if old = c.len % m then c.src % m else old) else portOp (c.size % 16) 0 (8 * n) old (c.src % m)

/-- A port takes an entry: bytes are written; an AATOM reads its old value, writes the new one and is complete after a time left open, or finds poison, which its
channel then consumes (R231, R284, R295). -/
def State.takeAsync (s : State) (p : AsyncWrite) : State :=
  let s := { s with async := s.async.erase p }
  match p.atom with
  | none => (s.writeMarked p.key p.bytes p.marked).queueLine p.key
  | some x =>
    match s.chanCommand x with
    | none => s
    | some c =>
      let n := p.bytes.length
      if s.poisoned p.key then s.due (s.cyc + 1) 45 (.channelCommandStart x)
      else
        let old := s.load p.key n
        let s := (s.writeMarked p.key ((leBytes n (c.atomNew n old)).map BitVec.toNat) false).queueLine p.key
        let (d, s) := s.freeNat
        (s.setCommand x { c with aux := old }).due (s.cyc + 1 + d) 560 (.commandComplete x)

/-- The words that one port takes of these in a cycle: up to 64 bytes, the sources in turn from the one after the last that began, each in its own order
while the write queue has room; a word waits behind an earlier one of its unit to the same word (R277). DESIGN CHOICE (log 142): a source keeps the port
for the rest of its 64 bytes. -/
def State.serveTower (ready : List AsyncWrite) (s : State) (tower : Nat) : State :=
  let t := s.towerAt tower
  let turn := (List.range 4).flatMap fun i => ready.filter fun p => keyTower p.key == tower && p.src == (t.asyncLast + i) % 4
  let r := turn.foldl (fun (r : State × Nat × List (Nat × Option Nat)) p =>
    let (s, n, stopped) := r
    if stopped.contains (p.src, none) || decide (n < p.bytes.length) || s.lineBlocked p.key then (s, n, (p.src, none) :: stopped)
    else if stopped.contains (p.src, some p.unit) || s.asyncBehind p then (s, n, (p.src, some p.unit) :: stopped)
    else (s.takeAsync p, n - p.bytes.length, stopped)) (s, 64, [])
  match turn with
  | [] => s
  | p :: _ => r.1.setTower tower { r.1.towerAt tower with asyncLast := (p.src + 1) % 4 }

/-- The asynchronous transfers of a cycle, after everything else at the ports (R216). -/
def State.serveAsync (s : State) : State :=
  let ready := s.asyncReady
  (distinct (ready.map fun p => keyTower p.key)).foldl (State.serveTower ready) s

/-! ### Far writes on their way (R302, R304) -/

/-- A far write is accepted: its bytes, and the metadata of its accesses (R38, R304). -/
def State.acceptWrite (s : State) (w : FarWrite) : State :=
  w.metas.foldl (fun s m =>
    let s := { s with hbmMeta := s.hbmMeta.put m.1 m.2.1, hbmCheck := s.hbmCheck.del m.1 }
    if m.2.2 then (List.range 8).foldl (fun s i => s.setPoison (m.1 + 8 * i) true) s else s) (s.rightRun w.gid.isNone w.cells)

/-- A byte lies in host memory (R426). -/
def hostKey (k : Nat) : Bool := decide (2 ^ 51 ≤ k ∧ k < towerBase)

/-- A held write goes to host memory. -/
def FarWrite.toHost (w : FarWrite) : Bool := w.cells.any fun c => hostKey c.1

/-- Host memory can be reached: the link is Up or Degraded (R446). -/
def State.hostUp (s : State) : Bool := s.link.state == 2 || s.link.state == 3

/-- The link carries what the device has sent: it is Up or Degraded, or drains (R444). -/
def State.linkSends (s : State) : Bool := s.hostUp || s.link.state == 4

/-- Interrupts whose earlier writes to host memory are all there are sent as link messages, in order, while the link carries them (R447). -/
def State.sendIrqs (s : State) : State :=
  if s.irqWaits.isEmpty || !s.linkSends then s
  else
    let go := s.irqWaits.takeWhile fun x => !x.2.any s.farHeld.contains
    { s with irqs := s.irqs ++ go.map Prod.fst, irqWaits := s.irqWaits.drop go.length }

/-- An interrupt is raised: it goes behind every write to host memory that has reached the link unit (R447). -/
def State.raiseIrq (s : State) (v : Nat) : State :=
  { s with irqWaits := s.irqWaits ++ [(v, s.farHeld.filter fun (w : FarWrite) => w.toHost && decide (w.plinth ≤ s.cyc))] }.sendIrqs

/-- The far writes whose cycle has come are accepted, each pier's in order; those to host memory wait while the link cannot carry them, and those already sent
complete while it drains (R304, R444, R446). -/
def State.acceptFar (s : State) : State :=
  let (now, later) := s.farHeld.partition fun w => decide (w.at_ ≤ s.cyc) && (s.linkSends || !w.toHost)
  (now.foldl State.acceptWrite { s with farHeld := later }).sendIrqs

/-- A held write has passed to the plinth fabric port or link unit, and lies in no HBM of this package (R302). -/
def FarWrite.atPlinth (w : FarWrite) (s : State) : Bool := decide (w.plinth ≤ s.cyc) && w.cells.all fun c => c.1 / 2 ^ 42 != s.pkg

/-- A far write has reached a scope (R302). -/
def FarWrite.reached (w : FarWrite) (s : State) (scope : Nat) : Bool :=
  decide (scope ≤ 1) || (w.atPlinth s && (scope == 2 || (scope == 3 && w.cells.all fun c => decide (2 ^ 51 ≤ c.1))))

/-- Every write that a unit has made since a cycle has reached a scope; scope 5 stands for its region (R255, R302). -/
def State.unitReached (s : State) (unit scope : Nat) (since : Nat := 0) : Bool :=
  !s.asyncBusy unit && s.farHeld.all fun w => w.unit != unit || decide (w.made < since) || w.reached s scope

/-- Memory as a unit of a pier reads it: with the held writes of its pier, those at the plinth, and its own tower writes that wait for their ports
(R277, R304). -/
def State.viewOf (s : State) (pier unit : Nat) : State :=
  let s := s.farHeld.foldl (fun t w => if w.pier == pier || w.atPlinth s then t.acceptWrite w else t) s
  (s.async.filter fun p => p.unit == unit && p.atom.isNone).foldl (fun t p => t.writeMarked p.key p.bytes p.marked) s

/-- A far read-modify-write at these bytes would pass writes that are held before it (R304). -/
def State.farBefore (s : State) (pier : Nat) (keys : List Nat) : Bool :=
  s.farHeld.any fun w => (w.pier == pier || w.atPlinth s) && w.cells.any fun c => keys.contains c.1

end Sys2Proof.Machine
end

