-- ==== Sys2Proof/Machine/Tower.lean ====
section
/-! DEFINITION. The tower words: loads and stores (R237–R240), row operations (R241) and hold (R242). -/

namespace Sys2Proof.Machine

/-- The key of the first byte of an access when its `n` bytes lie in the window, or the TRAPINFO of TOWER_BOUNDS with the first
byte that fails (R211, R237). -/
def towerRange (s : State) (a : TAddr) (n : Nat) : Except Word Nat :=
  match s.window s.cur a.col with
  | none => .error (BitVec.ofNat 64 a.prog)
  | some w =>
    if a.off + n ≤ w.size then .ok (towerKey a.col a.cell (w.base + a.off))
    else .error (BitVec.ofNat 64 (progAddr a.pcol a.cell (max a.off w.size)))

/-- The latency of a load (R221): start cell 0 of the own column, another cell of it, a neighbour column. -/
def loadLatency (s : State) (a : TAddr) : Nat :=
  if a.col = s.cur.col then (if a.cell = 0 then 6 else 10) else 16

/-- How long a write takes to its port from the cell its data leaves (R303). -/
def storeDist (s : State) (col fromCell cell : Nat) : Nat :=
  if col = s.cur.col then (if cell = fromCell then 2 else 4) else 7

/-- The slot of the current stream is in strict row mode (R210, R516). -/
def strictMode (s : State) : Bool := !s.cur.fw && bitsAt (s.sl.ctlr 0x120) 63 63 == 1

/-- The row of a key is closed for a load issued now (R214). -/
def State.rowClosed (s : State) (key : Nat) : Bool := (s.bankAt (keyTower key) (keyBank key)).seen != some (keyRow key)

/-- The owner of a stream's row operations: the context whose windows it reaches, or none for firmware (R215, R516). -/
def opCtx (s : State) : Option Nat := if s.cur.fw then none else some (s.winCtx s.cur)

/-- A load over pieces: ROW_CLOSED in strict mode, else it takes its place at its banks (R214, R215). -/
def loadGo (s : State) (ps : List Piece) (lat : Nat) (busy : List Reg) (pend : Pend) (hold : Bool := false)
    (word : Option Nat := none) : Act :=
  match (if strictMode s then ps.find? fun p => s.rowClosed p.key else none) with
  | some p => .fault 0x08 (BitVec.ofNat 64 p.prog)
  | none => .go { st := s.request (pieceReqs s.cur s.nextId .load (opCtx s) (ps.map Piece.key) word), lat := lat, busy := busy,
                  pend := pend, pieces := ps, hold := hold }

/-- A quad serves accesses to its towers: On or Blocked (R491). -/
def State.quadServes (s : State) (col : Nat) : Bool := decide ((s.quadAt (quadOf col)).state ≤ 1)

/-- A byte of a tower lies in a window that is being moved (R377). -/
def State.moving (s : State) (key : Nat) : Bool :=
  let col := keyTower key / 16
  let inside (w : Word) : Bool := decide ((windowOf w).base ≤ key % 2 ^ 22 ∧ key % 2 ^ 22 < (windowOf w).base + (windowOf w).size)
  s.moves.any fun v => v.begun &&
    ((v.src == col && inside (s.twin col v.swin)) || (v.dest == col && inside (s.twin col v.dwin)))

/-- A tower byte serves accesses from outside its column, and no move holds it (R377, R491). -/
def State.keyServed (s : State) (key : Nat) : Bool := s.quadServes (keyTower key / 16) && !s.moving key

/-- A byte of a column's tower serves the word being executed (R377, R491). -/
def State.served (s : State) (col key : Nat) : Bool := (col == s.cur.col || s.quadServes col) && !s.moving key

/-- A synchronous tower word: the address of R237, then its own act; `g` is its global bit. -/
def withTower (s : State) (f : FmtC) (g : Bool) (n : Nat) (k : TAddr → Nat → Act) : Act :=
  match s.towerAddr (s.effAddr f) g f.col with
  | .error i => .fault 0x09 i
  | .ok a =>
    match towerRange s a n with
    | .error i => .fault 0x09 i
    | .ok key => if s.served a.col key then k a key else .wait

/-- Global bit of the words of R236. -/
def globalBit (f : FmtC) : Bool := f.sub / 2 % 2 == 1

/-- A store enters its engine's store queue (R301, R303). -/
def storeGo (s : State) (op : StoreOp) (ps : List WPiece) : Done :=
  { st := { s with stores := s.stores ++ [{ id := s.nextId, by_ := s.cur, op := op, pieces := ps }] } }

/-- LD (R238). -/
def execLd (q : Seq) (f : FmtC) (s : State) : Out :=
  wordIssue (.ld q f) q [.s f.data, .s f.base]
    (fun s =>
      let n := 2 ^ f.sz
      if 16 ≤ s.loadCount s.cur then .wait
      else consuming s [f.base] (withTower s f (globalBit f) n fun a key =>
        if a.off % n ≠ 0 then .fault 0x0B (BitVec.ofNat 64 a.prog)
        else loadGo s [⟨0, key, a.prog, n, 0, false, 0, none⟩] (loadLatency s a) [.s f.data]
          (.loadS f.data (if f.sub % 2 = 1 then 8 * n else 0)))) s

/-- The little-endian bytes of a word's low `n` bytes. -/
def wordBytesOf (w : Word) (n : Nat) : List Nat := (leBytes n w.toNat).map BitVec.toNat

/-- ST (R238). -/
def execSt (q : Seq) (f : FmtC) (s : State) : Out :=
  wordIssue (.st q f) q [.s f.data, .s f.base]
    (fun s =>
      let n := 2 ^ f.sz
      if 16 ≤ s.storeCount s.cur then .wait
      else consuming s [f.base] (withTower s f (globalBit f) n fun a key =>
        if a.off % n ≠ 0 then .fault 0x0B (BitVec.ofNat 64 a.prog)
        else .go (storeGo s .write [⟨storeDist s a.col 0 a.cell, key, wordBytesOf (s.sv f.data) n,
          (s.e.sreg f.data).mark.isSome, 0⟩]))) s

/-- NST (R239). -/
def execNst (q : Seq) (f : FmtC) (s : State) : Out :=
  wordIssue (.nst q f) q [.s f.data, .s f.base]
    (fun s =>
      if 16 ≤ s.storeCount s.cur then .wait
      else consuming s [f.base] (withTower s f (globalBit f) 1 fun a key =>
        .go (storeGo s (.nibble (f.sub % 2 == 1)) [⟨storeDist s a.col 0 a.cell, key, [(s.sv f.data).toNat % 16],
          (s.e.sreg f.data).mark.isSome, 0⟩]))) s

/-- Where lane `l` of a vector access lies: cell and offset (R240). -/
def laneAt (a : TAddr) (l : Nat) : Nat × Nat :=
  let k := a.cell + l / 16
  (k % 16, a.off + 64 * (k / 16) + 4 * (l % 16))

/-- The lanes of a vector access with their addresses, or the TRAPINFO of the first byte that fails (R211, R240). -/
def laneRange (s : State) (a : TAddr) : Except Word (List (Nat × TAddr × Nat)) :=
  (List.range 256).foldr (fun l r =>
    let (c, o) := laneAt a l
    let x : TAddr := { a with cell := c, off := o }
    match towerRange s x 4 with
    | .error i => .error i
    | .ok key => r.map fun t => (l, x, key) :: t) (.ok [])

/-- The address of a vector word and its lanes. -/
def withLanes (s : State) (f : FmtC) (k : TAddr → List (Nat × TAddr × Nat) → Act) : Act :=
  match s.towerAddr (s.effAddr f) (globalBit f) f.col with
  | .error i => .fault 0x09 i
  | .ok a =>
    match laneRange s a with
    | .error i => .fault 0x09 i
    | .ok l => if a.off % 64 ≠ 0 then .fault 0x0B (BitVec.ofNat 64 a.prog)
      else if l.all fun x => s.served a.col x.2.2 then k a l else .wait

/-- VLD (R240). -/
def execVld (q : Seq) (f : FmtC) (s : State) : Out :=
  wordIssue (.vld q f) q [.s f.base]
    (fun s =>
      if f.data < 4 ∨ s.sl.writerOf f.data ≠ engCode s.cur.eng then misuse f.data true
      else if 16 ≤ s.loadCount s.cur ∨ !(s.sl.queue f.data).hasRoom f.data s.cyc then .wait
      else consuming s [f.base] (withLanes s f fun a l =>
        let ps := l.map fun x => (⟨x.1, x.2.2, x.2.1.prog, 4, 0, false, 0, none⟩ : Piece)
        match loadGo s ps (loadLatency s a) [] (.loadQ f.data f.fmt) with
        | .go d => .go { d with st := d.st.setSl (d.st.sl.reserveQueue f.data) }
        | x => x)) s

/-- The writes of a VST, two lanes to a 64-bit word (R240). -/
def vectorWrites (s : State) (v : VReg) (l : List (Nat × TAddr × Nat)) : List WPiece :=
  (l.filter fun x => x.1 % 2 == 0).map fun x =>
    let lane (n : Nat) : List Nat := (leBytes 4 (v.lanes.getD n 0).toNat).map BitVec.toNat
    ⟨storeDist s x.2.1.col (x.1 / 16) x.2.1.cell, x.2.2, lane x.1 ++ lane (x.1 + 1),
     (v.marks.get? x.1).isSome || (v.marks.get? (x.1 + 1)).isSome, 0⟩

/-- VST (R240). -/
def execVst (q : Seq) (f : FmtC) (s : State) : Out :=
  wordIssue (.vst q f) q [.s f.base]
    (fun s =>
      if f.data < 4 ∨ s.sl.readerOf f.data ≠ engCode s.cur.eng then misuse f.data false
      else if 16 ≤ s.storeCount s.cur then .wait
      else match (s.sl.queue f.data).front s.cyc with
        | some (.v v) =>
          if f.fmt ≠ 0 ∧ v.tag ≠ f.fmt then .fault 0x04 (mismatchInfo f.fmt v.tag f.data 0)
          else consuming s [f.base] (withLanes s f fun _ l =>
            let s' := s.setSl (s.sl.setQueue f.data ((s.sl.queue f.data).dropFront s.cyc))
            .go (storeGo s' .write (vectorWrites s v l)))
        | _ => .wait) s

/-- A row operation word: one bank of the named cell, or of every tower of the column (R241); it waits while the quad of another column serves no access
(R491). -/
def rowWord (i : Instr) (q : Seq) (f : FmtC) (k : RowOpKind) (lat : Nat) (s : State) : Out :=
  wordIssue i q [.s f.base]
    (fun s => consuming s [f.base] (
      match s.towerAddr (s.effAddr f) (globalBit f) f.col with
      | .error x => .fault 0x09 x
      | .ok a =>
        let a := if f.sub / 4 % 2 = 1 then { a with cell := 0 } else a
        match towerRange s a 1 with
        | .error x => .fault 0x09 x
        | .ok key =>
          let keys := if f.sub / 4 % 2 = 1 then (List.range 16).map fun c => key + c * 2 ^ 22 else [key]
          let s := if a.col = s.cur.col then s else s.auditAway s.cur.sk ((i.form.map Form.opc).getD 0)
          if a.col ≠ s.cur.col ∧ s.quadServes a.col = false then .wait
          else
            .go { st := s.request (pieceReqs s.cur s.nextId (.op k) (opCtx s) keys),
                  lat := if a.col = s.cur.col then lat else lat + 6, pend := .rows })) s

/-- ACT opens a row (R241). -/
def execAct (q : Seq) (f : FmtC) (s : State) : Out := rowWord (.act q f) q f .open_ 10 s

/-- PRE closes a bank (R241). -/
def execPre (q : Seq) (f : FmtC) (s : State) : Out := rowWord (.pre q f) q f .close 4 s

/-- REF restores a row (R241). -/
def execRef (q : Seq) (f : FmtC) (s : State) : Out := rowWord (.ref q f) q f .refresh 8 s

/-- The sequencers of a column's towers run on from now. -/
def State.touchColumn (s : State) (col : Nat) : State :=
  (List.range 16).foldl (fun s c => s.touch (col * 16 + c)) s

/-- REFHOLD holds the slot's window and reads LEFT (R226, R242). -/
def execRefhold (q : Seq) (f : FmtF) (s : State) : Out :=
  wordIssue (.refhold q f) q [.s f.dst]
    (fun s =>
      let left := BitVec.ofNat 64 (s.windowLeft s.cur.col (windowOf (s.twin s.cur.col (bitsAt (s.sl.ctlr 0x120) 33 32))))
      let s := s.touchColumn s.cur.col
      resS (s.setSl { s.sl with hold := true }) f.dst left) s

/-- REFREL ends the slot's hold (R226, R242). -/
def execRefrel (q : Seq) (f : FmtF) (s : State) : Out :=
  wordIssue (.refrel q f) q [] (fun s => .go { st := s.setSl { s.sl with hold := false } }) s

end Sys2Proof.Machine
end

