-- ==== Sys2Proof/Machine/Order.lean ====
section
/-! DEFINITION. Loads performed at their ports (R303), atomics, reductions and seals (R315–R324), fences and MARK (R308, R309). -/

namespace Sys2Proof.Machine

/-- A tower write made at a port itself joins its write queue at once (R315). -/
def State.portStore (s : State) (key n v : Nat) : State :=
  (s.writeMarked key ((leBytes n v).map BitVec.toNat) false).queueLine key

/-- An ATOM is performed (R319): the state and what the word writes. -/
def atomPort (s : State) (p : Piece) (data : Nat) (args : List Nat) : State × List Write :=
  let code := args.getD 0 0
  let ctl := args.getD 1 0
  let b := args.getD 2 0
  let cmp := args.getD 3 0
  let old := s.load p.key p.size
  let bad := s.poisoned p.key
  let hit := !bad && old == cmp
  let new := if bad then none else if code = 1 then (if hit then some b else none)
    else some (portOp code ctl (8 * p.size) old b)
  let s := match new with | some v => s.portStore p.key p.size v | none => s
  (s, .s data { val := BitVec.ofNat 64 old, mark := if bad then some (p.prog / 8 * 8) else none } ::
    (if code = 1 then [.cf hit] else []))

/-- A SEAL is performed (R322). -/
def sealPort (s : State) (p : Piece) (data : Nat) (args : List Nat) : State × List Write :=
  let n := args.getD 0 0
  let t := s.towerAt (keyTower p.key)
  let y := (t.sums.getD n {}).seal (args.getD 1 0)
  let s := s.setTower (keyTower p.key) { t with sums := t.sums.del n }
  (s.portStore p.key p.size y, [.s data { val := BitVec.ofNat 64 y }])

/-- The operation of a port word other than a barrier word. -/
def portEffect (s : State) (f : Flight) : State × List Write :=
  match f.ins, f.pend, f.pieces with
  | .atom _ g, .port _ args, p :: _ => atomPort s p g.data args
  | .seal _ g, .port _ args, p :: _ => sealPort s p g.data args
  | _, _, _ => (s, [])

/-- The last piece of a word has been performed: its result, and its completion 4 cycles later for an ATOM or a SEAL, and for a load at the end of its
latency and its lateness, 2 cycles later at the earliest (R217, R303, R325). -/
def finishLoad (s : State) (f : Flight) : State :=
  let at_ := max (s.cyc + 2) (f.issued + f.lat - 1 + f.late)
  match f.pend with
  | .port _ _ =>
    let (s, ws) := portEffect s f
    ((s.setFlight { f with writes := ws }).due (s.cyc + 4) 600 (.wordComplete f.id)).wakeFences f.at_
  | .tile _ => (s.setFlight f).due at_ 600 (.wordComplete f.id)
  | .handle _ => (s.setFlight f).due at_ 610 (.wordComplete f.id)
  | _ => (s.setFlight { f with writes := loadWrites s f }).due at_ 600 (.wordComplete f.id)

/-- The pieces from this lane on are the bitmap words of an HLD (R263). -/
def bitmapLane : Nat := 2 ^ 40

/-- The bytes of an element of width `w` from byte `b` of a region, cut at 64-bit words: byte number within the element, byte of the region, length. -/
def cutElem (w b : Nat) : List (Nat × Nat × Nat) :=
  let n := max 1 (w / 8)
  if b % 8 + n ≤ 8 then [(0, b, n)] else [(0, b, 8 - b % 8), (8 - b % 8, b + (8 - b % 8), n - (8 - b % 8))]

namespace Spot

/-- Cell and program offset of a column-stripe address (R200). -/
def cell (a : Nat) : Nat := a / 64 % 16
def off (a : Nat) : Nat := 64 * (a / 1024) + a % 64

def key (x : Spot) (a : Nat) : Nat := towerKey x.col (cell a) (x.win + off a)
def prog (x : Spot) (a : Nat) : Nat := progAddr x.pcol (cell a) (off a)

/-- The bits that are set in a number below 2^64. -/
def ones (v : Nat) : Nat := (List.range 64).countP fun i => v.testBit i

/-- The pieces of an element as the bitmap words that have been read place it, to be read now where they are not those that have been read, with a piece of
no bytes that gives the mark of those words (R248, R249, R257, R263). -/
def place (s : State) (f : Flight) (x : Spot) : List Piece :=
  let words := (List.range (x.e / 64 + 1)).map fun i => f.pieces.find? fun p => decide (bitmapLane ≤ p.lane) && p.key == x.key (x.start + 8 * i)
  let got (i : Nat) : Nat := (((words[i]?).bind id).map Piece.got).getD 0
  let rank := (List.range (x.e / 64)).foldl (fun n i => n + ones (got i)) 0 + ones (got (x.e / 64) % 2 ^ (x.e % 64))
  let b := x.body + rank * x.w / 8
  let lane := x.no * 2 + if x.w = 4 then rank % 2 else 0
  let read (c : Nat × Nat × Nat) : Piece :=
    match f.pieces.find? fun p => decide (p.lane < bitmapLane) && p.key == x.key c.2.1 && p.size == c.2.2 with
    | some p => { p with lane := lane + 2 ^ 20 * c.1 }
    | none => ⟨lane + 2 ^ 20 * c.1, x.key c.2.1, x.prog c.2.1, c.2.2, s.cyc, false, 0, none⟩
  (if (got (x.e / 64)).testBit (x.e % 64) then (cutElem x.w b).map read else [])
    ++ [⟨lane, x.key x.start, x.prog x.start, 0, s.cyc, true, 0, words.findSome? fun p => p.bind Piece.mark⟩]

end Spot

/-- An HLD whose bitmap words have been read takes its elements from where they place them (R263). -/
def settleSpots (s : State) (f : Flight) : Flight :=
  if f.spots.isEmpty then f
  else
    let ps := f.spots.flatMap (Spot.place s f)
    let pend := match f.pend, ps with
      | .elemS reg w _ sx, p :: _ => .elemS reg w (p.lane % 2) sx
      | p, _ => p
    { f with pieces := ps, pend := pend, spots := [] }

/-- A piece whose cycle has come. -/
def Piece.isDue (p : Piece) (cyc : Nat) : Bool := !p.done && decide (p.at_ ≤ cyc)

/-- A piece performed in this cycle if it may be, else put off by a cycle (R303, R304, R307). -/
def performNow (s : State) (f : Flight) (p : Piece) : Piece :=
  if p.isDue s.cyc = true then (if s.mayPerform f p then s.perform f p else { p with at_ := s.cyc + 1 }) else p

/-- What the pieces read that are performed in this cycle is checked (R228, R229). -/
def State.checkDue (s : State) (f : Flight) : State :=
  f.pieces.foldl (fun t p => if p.isDue s.cyc && s.mayPerform f p then t.checkRead p.key p.size else t) s

/-- The lateness of a word with the pieces that are performed in this cycle (R217, R303); an element that waits at the place its bitmap gave it adds a cycle. -/
def State.lateNow (s : State) (f : Flight) : Nat :=
  let now := f.pieces.filter fun p => p.isDue s.cyc && s.mayPerform f p
  if f.pieces.any fun p => p.size == 0 then f.late + 1
  else now.foldl (fun n p => max n (s.cyc - (f.issued + f.pieceLat p - 3))) f.late

/-- LOAD_PERFORMED: the pieces of a word whose cycle has come are performed, or wait a cycle behind earlier accesses (R303, R304,
R307). A barrier word joins the update of its barrier's cycle (R330). -/
def execLoadPerformed (id : Nat) (s : State) : Out :=
  match s.flight id with
  | none => .next s
  | some f =>
    let held : Bool := f.pieces.any fun p => p.isDue s.cyc && !s.mayPerform f p
    if isBarrierWord f.ins then
      if held then
        let later := s.setFlight { f with pieces := f.pieces.map fun p => { p with at_ := s.cyc + 1 } }
        .next (later.due (s.cyc + 1) (100 + engCode f.at_.eng) (.loadPerformed id))
      else .next (match f.pieces with
        | p :: _ => s.due s.cyc 150 (.barrierUpdate p.key)
        | [] => s)
    else
      let g := { f with pieces := f.pieces.map (performNow s f), late := s.lateNow f }
      let t := (s.checkDue f).setFlight g
      let t := if held then t.due (s.cyc + 1) (match f.pend with
          | .port _ _ => 100 + sourceRank f.at_ (((f.pieces.head?).map fun p => keyTower p.key).getD 0)
          | _ => 30) (.loadPerformed id) else t
      if !g.pieces.all Piece.done then .next t
      else
        let h := settleSpots t g
        let u := t.checkDue h
        let h := { h with pieces := h.pieces.map (performNow t h) }
        .next (if h.pieces.all Piece.done then finishLoad u h else (u.setFlight h).due (s.cyc + 1) 30 (.loadPerformed id))

/-! ### Words -/

/-- The order field of a word (R316): it releases, it acquires. -/
def ordRel (f : FmtC) : Bool := f.fmt / 2 % 2 == 1
def ordAcq (f : FmtC) : Bool := f.fmt % 2 == 1

/-- A release keeps a word not ready while an earlier write of its stream has not reached its port (R323). -/
def relWaits (s : State) (f : FmtC) : Bool := ordRel f && s.writesBefore s.cur s.nextId

/-- ATOM (R319). -/
def execAtom (q : Seq) (f : FmtC) (s : State) : Out :=
  let code := f.sub % 16
  wordIssue (.atom q f) q ([.s f.data, .s f.base, .s f.aux] ++ (if code = 1 then [.cf] else []))
    (fun s =>
      let n := 2 ^ f.sz
      if queuesFull s || relWaits s f then .wait
      else consuming s ([f.base, f.aux] ++ (if code = 1 then [f.data] else []))
        (withTower s f (f.sub / 16 % 2 == 1) n fun a key =>
          if a.off % n ≠ 0 then .fault 0x0B (BitVec.ofNat 64 a.prog)
          else loadGo s [⟨0, key, a.prog, n, 0, false, 0, none⟩] (loadLatency s a)
            (.s f.data :: (if code = 1 then [.cf] else []))
            (.port key [code, f.mask, (s.sv f.aux).toNat % 2 ^ (8 * n), (s.sv f.data).toNat % 2 ^ (8 * n)]) (ordAcq f) (some (key / 8)))) s

/-- The sum slot of a word lies in the window that its address uses (R322, R516). -/
def slotWindow (s : State) (col slot : Nat) : Bool :=
  s.cur.fw || (if col = s.cur.col then bitsAt (s.sl.ctlr 0x120) 33 32 == slot / 16
    else s.lowestWin col (s.ctxOf s.cur) == some (slot / 16))

/-- RED (R320, R322). -/
def execRed (q : Seq) (f : FmtC) (s : State) : Out :=
  let code := f.sub % 16
  wordIssue (.red q f) q [.s f.data, .s f.base]
    (fun s =>
      let n := 2 ^ f.sz
      if 16 ≤ s.storeCount s.cur ∨ relWaits s f then .wait
      else consuming s [f.base, f.data] (withTower s f (f.sub / 16 % 2 == 1) n fun a key =>
        if code = 13 ∧ !slotWindow s a.col f.aux then .fault 0x09 (BitVec.ofNat 64 a.prog)
        else if a.off % n ≠ 0 then .fault 0x0B (BitVec.ofNat 64 a.prog)
        else
          let b := (s.sv f.data).toNat % 2 ^ (8 * n)
          let op := if code = 13 then StoreOp.redx (keyTower key) f.aux f.mask b else .red code f.mask n b
          .go (storeGo s op [⟨storeDist s a.col 0 a.cell, key, List.replicate n 0, false, 0⟩]))) s

/-- SEAL (R322). -/
def execSeal (q : Seq) (f : FmtC) (s : State) : Out :=
  wordIssue (.seal q f) q [.s f.data, .s f.base]
    (fun s =>
      if queuesFull s || relWaits s f then .wait
      else consuming s [f.base] (withTower s f (f.sub / 16 % 2 == 1) 4 fun a key =>
        if !slotWindow s a.col f.aux then .fault 0x09 (BitVec.ofNat 64 a.prog)
        else if a.off % 4 ≠ 0 then .fault 0x0B (BitVec.ofNat 64 a.prog)
        else .go { st := s.request (pieceReqs s.cur s.nextId .plain none [key] (some (key / 8))), lat := loadLatency s a, busy := [.s f.data],
                   pend := .port key [f.aux, f.mask], pieces := [⟨0, key, a.prog, 4, 0, false, 0, none⟩], hold := ordAcq f })) s

/-- A load of the stream, an ATOM, a SEAL or a shared pop that has not completed (R309). -/
def loadsPending (s : State) (k : Stream) : Bool :=
  s.flights.any fun f => f.at_ == k && (match f.pend with
    | .loadS _ _ | .loadQ _ _ | .loadV _ _ _ | .elemS _ _ _ _ | .elemV _ _ _ | .port _ _ | .bwait _ _ | .tile _ => true
    | _ => false)

/-- The sequencing delay of an SC fence: 0, 2 and 6 cycles for COL, PIER and DEV; a delay the spec leaves variable for DOM and
SYS (R309). -/
def fenceDelay (s : State) (kind scope : Nat) : Nat × State :=
  if kind ≠ 3 then (0, s)
  else match scope with
    | 0 => (0, s)
    | 1 => (2, s)
    | 2 => (6, s)
    | _ => s.freeNat

/-- FENCE (R309, R313). -/
def execFence (q : Seq) (f : FmtF) (s : State) : Out :=
  let kind := f.sub % 4
  wordIssue (.fence q f) q []
    (fun s =>
      if kind ≠ 1 ∧ loadsPending s s.cur then .wait
      else
        let late := decide (kind ≠ 0) && s.writesBefore s.cur s.nextId
        let (d, s) := fenceDelay s kind (f.sub / 4)
        if late then .go { st := s, lat := d + 1, pend := .fence kind d, hold := kind == 3 }
        else .go { st := s, lat := d + 1, hold := kind == 3 && decide (0 < d) }) s

/-- MARK takes an entry of both queues (R308, R314). -/
def execMark (q : Seq) (f : FmtF) (s : State) : Out :=
  wordIssue (.mark q f) q []
    (fun s => if queuesFull s then .wait else .go (storeGo s .mark [])) s

/-- CTLWR (R139): the write takes effect at the end of the cycle; one of COLLGO waits for its engine's earlier writes and for room (R458). -/
def execCtlwr (q : Seq) (f : FmtF) (s : State) : Out :=
  wordIssue (.ctlwr q f) q [.s f.oa]
    (fun s => consuming s (if f.sub = 0 then [f.oa] else []) (
      match s.ctlDenied f.csel true with
      | some (c, i) => .fault c i
      | none =>
        let v := s.ctlNew f
        match s.ctlBad s.cur f.csel v with
        | some i => .fault 0x02 i
        | none =>
          if s.ctlMisuse s.cur f.csel v then .fault 0x14 (BitVec.ofNat 64 (16 + f.csel * 2 ^ 16))
          else if f.csel = 0x17A ∧ (64 ≤ s.collFlight + (s.agenda.countP fun d => match d.ev with | .collgo _ _ _ => true | _ => false) ∨ s.writesBefore s.cur s.nextId) then .wait
          else .go { st := s.ctlSchedule s.cur f.csel v })) s

end Sys2Proof.Machine
end

