-- ==== Sys2Proof/Machine/Barrier.lean ====
section
/-! DEFINITION. Barriers (R326–R340, R517): the barrier word, the update of one cycle at its port, and the barrier words. -/

namespace Sys2Proof.Machine

/-- The fields of a barrier word (R327), with the bits that must be zero and its poison. -/
structure BWord where
  expected : Nat
  arrived : Nat
  drop : Nat
  phase : Nat
  pending : Nat
  junk : Bool
  poison : Bool

/-- The barrier word at a key (R327). -/
def State.bword (s : State) (key : Nat) : BWord :=
  let a := s.load key 8
  let b := s.load (key + 8) 8
  ⟨a % 2 ^ 16, a / 2 ^ 16 % 2 ^ 16, a / 2 ^ 32 % 2 ^ 16, a / 2 ^ 48 % 2, b % 2 ^ 48, a / 2 ^ 49 != 0 || b / 2 ^ 48 != 0,
   s.poisoned key || s.poisoned (key + 8)⟩

/-- A malformed barrier word (R328). -/
def BWord.malformed (w : BWord) : Bool := w.junk || decide (w.expected < w.arrived) || decide (w.expected < w.drop)

def BWord.word0 (w : BWord) : Nat := w.expected + w.arrived * 2 ^ 16 + w.drop * 2 ^ 32 + w.phase * 2 ^ 48

/-- What one operation does to a barrier word. -/
inductive BOp where
  | init (n : Nat)
  | expect (parity n : Nat)
  | arrive (parity bytes : Nat) (drop : Bool)
  | read (parity : Nat)

/-- How an operation ends: well, with poison consumed, or in an overrun. -/
inductive BEnd where
  | ok
  | poison
  | overrun
  deriving DecidableEq

/-- One operation of the update of a cycle (R330). -/
def BWord.apply (w : BWord) : BOp → BWord × BEnd
  | .init n => ({ expected := n, arrived := 0, drop := 0, phase := 0, pending := 0, junk := false, poison := false }, .ok)
  | .expect p n =>
    if w.poison then (w, .poison)
    else if w.malformed ∨ w.expected = 0 ∨ p ≠ w.phase then (w, .overrun)
    else ({ w with pending := (w.pending + n) % 2 ^ 48 }, .ok)
  | .arrive p b d =>
    if w.poison then (w, .poison)
    else if w.malformed ∨ w.expected = 0 ∨ p ≠ w.phase ∨ w.arrived = w.expected then (w, .overrun)
    else ({ w with arrived := w.arrived + 1, pending := (w.pending + 2 ^ 48 - b % 2 ^ 48) % 2 ^ 48,
                   drop := w.drop + d.toNat }, .ok)
  | .read _ => if w.poison then (w, .poison) else if w.malformed then (w, .overrun) else (w, .ok)

/-- The end of the cycle: a phase completes (R330). -/
def BWord.close (w : BWord) : BWord × Bool :=
  if !w.poison && !w.malformed && w.expected != 0 && w.arrived == w.expected && w.pending == 0 then
    ({ w with phase := 1 - w.phase, expected := w.expected - w.drop, arrived := 0, drop := 0 }, true)
  else (w, false)

/-- An operation at a barrier word with its place in the order of R330. -/
structure BReq where
  place : Nat
  op : BOp
  flight : Option Flight := none
  arr : Option ArrivalRec := none

/-- The operation that a barrier word in flight asks for (R338). -/
def flightBOp (f : Flight) : BOp :=
  let a := match f.pend with | .port _ l | .bwait _ l => l | _ => []
  match f.ins with
  | .binit _ _ => .init (a.getD 0 0)
  | .bexpect _ _ => .expect (a.getD 0 0) (a.getD 1 0)
  | .arrive _ _ => .arrive (a.getD 0 0) 0 false
  | .arrdrop _ _ => .arrive (a.getD 0 0) 0 true
  | _ => .read (a.getD 0 0)

/-- The place of a stream among the operations of a cycle (R330). -/
def streamPlace (k : Stream) : Nat := k.col * 1000 + k.slot * 3 + engCode k.eng

/-- Insertion by place. -/
def insertBReq (r : BReq) : List BReq → List BReq
  | [] => [r]
  | h :: t => if r.place < h.place then r :: h :: t else h :: insertBReq r t

/-- The operations that reach a barrier word in this cycle, in the order of R330. -/
def barrierReqs (s : State) (key : Nat) : List BReq :=
  let words := (s.flights.filter fun f => isBarrierWord f.ins && f.pieces.any fun p => p.key == key && p.isDue s.cyc).map
    fun f => ({ place := streamPlace f.at_, op := flightBOp f, flight := some f } : BReq)
  let arrs := (s.arrivals.filter fun a => a.key == key && a.reached).map fun a =>
    ({ place := if a.remote then 10 ^ 9 else a.col * 1000 + 100 + a.order, op := .arrive a.parity a.bytes false,
       arr := some a } : BReq)
  (words ++ arrs).foldl (fun l r => insertBReq r l) []

/-- TRAPINFO of BARRIER_OVERRUN (R332). -/
def overrunInfo (prog parity : Nat) : Word := BitVec.ofNat 64 (prog + parity * 2 ^ 40)

/-- What becomes of an arrival that was not counted: an engine fault of its group, or event 0x26 of its context when a relayout's
issuer is gone; poison is consumed by the channel, or by the collectives engine (`src` 5), whose overruns reach no group (R284, R332, R471). Of a firmware command it stops the firmware context (R142, log 109). -/
def State.arrivalRefused (s : State) (a : ArrivalRec) (e : BEnd) : State :=
  match e with
  | .ok => s
  | .overrun =>
    let f : EngineFault := ⟨a.eng, a.src, 0x0E, overrunInfo a.prog a.parity⟩
    match a.gid with
    | some g =>
      if a.src = 3 ∧ ((s.groups.get? g).map fun v => v.state.resident) ≠ some true then
        s.health { code := 0x26, ctx := a.ctx, info := 0x0E }
      else s.engineFault g f
    | none => if a.remote ∨ a.src = 5 then s else s.stopFirmware ⟨a.col, 4, a.eng⟩ 0x0E
  | .poison =>
    match a.gid with
    | some g => s.consumedBy g (BitVec.ofNat 64 a.prog)
    | none =>
      if a.src = 5 then
        (s.health { code := 0x12, ctx := a.ctx, info := BitVec.ofNat 64 a.prog }).due s.cyc 850 .teardown (a.ctx + 65536)
      else if a.remote then s else s.stopFirmware ⟨a.col, 4, a.eng⟩ 0x0D

/-- A barrier word has been performed: its result and its completion, 4 cycles on, or its fault at completion (R332, R338,
R340). A BWAIT whose phase is current waits (R333). -/
def settleBarrier (s : State) (f : Flight) (e : BEnd) (w : BWord) (key : Nat) : State :=
  let args := match f.pend with | .port _ l | .bwait _ l => l | _ => []
  let parity := args.getD 0 0
  let prog := (f.pieces.head?.map Piece.prog).getD 0
  let again := match f.pend with | .bwait _ _ => true | _ => false
  let late := if again then f.late else s.cyc - (f.issued + f.lat - 3)
  let at_ := if again then s.cyc + 5 else s.cyc + 4
  let f : Flight := { f with late := late, pieces := f.pieces.map fun p => { p with done := true } }
  let done (f : Flight) : State := ((s.setFlight f).due at_ 600 (.wordComplete f.id)).wakeFences f.at_
  match e with
  | .poison => done { f with fault := some (0x0D, BitVec.ofNat 64 prog) }
  | .overrun => done { f with fault := some (0x0E, overrunInfo prog parity) }
  | .ok =>
    let out (n : Nat) : Write := .s n { val := BitVec.ofNat 64 w.word0 }
    match f.ins with
    | .arrive _ g | .arrdrop _ g => done { f with writes := [out g.data] }
    | .btest _ g => done { f with writes := [out g.data, .cf (w.phase != parity)] }
    | .bwait _ g =>
      if w.phase ≠ parity then done { f with writes := [out g.data], pend := .port key args }
      else s.setFlight { f with pend := .bwait key args }
    | _ => done f

/-- Operations applied one after another. -/
def applyBOps : List BReq → BWord → List (BReq × BEnd) → BWord × List (BReq × BEnd)
  | [], w, out => (w, out)
  | r :: t, w, out =>
    let (w, e) := w.apply r.op
    applyBOps t w (out ++ [(r, e)])

/-- BARRIER_UPDATE: every operation that reaches a barrier word in this cycle, as one update (R330). -/
def execBarrierUpdate (key : Nat) (s : State) : Out :=
  let rs := barrierReqs s key
  if rs.isEmpty then .next s
  else
    let s := s.checkRead key 16
    let w0 := s.bword key
    let (w1, out) := applyBOps rs w0 []
    let (w2, completed) := w1.close
    let changed := out.any fun x => x.2 == .ok && (match x.1.op with | .read _ => false | _ => true)
    let s := { s with arrivals := s.arrivals.filter fun a => !(a.key == key && a.reached) }
    let s := if changed || completed then
        (((s.store key 8 w2.word0).store (key + 8) 8 w2.pending).queueLine key)
      else s
    let s := if rs.any (fun r => match r.op with | .init _ => true | _ => false) then
        (s.setPoison key false).setPoison (key + 8) false else s
    let s := out.foldl (fun s x =>
      match x.1.flight, x.1.arr with
      | some f, _ => settleBarrier s f x.2 w2 key
      | none, some a => s.arrivalRefused a x.2
      | none, none => s) s
    .next (if completed then
        (s.flights.filter fun f => match f.pend with | .bwait k _ => k == key | _ => false).foldl
          (fun s f => settleBarrier s f .ok w2 key) s
      else s)

/-- The place of an arrival at step 2 of a port: after the words of the cycle, by issuing column and then by channel, with another package last
(R330, R517). DEDUCED (log 149). -/
def arrivalRank (a : ArrivalRec) : Nat := if a.remote then 10 ^ 9 else 1000 + a.col * 1000 + a.order

/-- The arrivals of this cycle that have not been looked at yet and go to another word of an arrival's bank ahead of it (R330, R517). -/
def State.arrivalsAhead (s : State) (a : ArrivalRec) (tower bank : Nat) : List ArrivalRec :=
  s.arrivals.filter fun r => r.id != a.id && !r.served && keyTower r.key == tower && keyBank r.key == bank && r.key != a.key
    && decide (arrivalRank r < arrivalRank a)
    && s.agenda.any fun d => decide (d.at_ ≤ s.cyc) && d.arg == r.id && (match d.ev with | .barrierArrivalReach _ => true | _ => false)

/-- The cycles for which the bank of an arrival is taken by a refresh, by loads that came before, and by those of this cycle that go ahead of it (R217, R517).
Operations on its own word share its service (R330). -/
def State.arrivalLate (s : State) (a : ArrivalRec) (tower bank : Nat) : Nat :=
  let b := s.bankAt tower bank
  let ahead := s.reqs.filter fun r => r.tower == tower && r.bank == bank && r.step == 2 && decide (r.rank ≤ arrivalRank a)
    && r.word != some (a.key / 8)
  let words := (distinct ((ahead.filterMap fun r => r.word) ++ (s.arrivalsAhead a tower bank).map fun r => r.key / 8)).length
    + ahead.countP fun r => r.word.isNone
  b.refreshLeft s.cyc + (b.nextLoad - s.cyc) + words + if s.reqs.any fun r => r.tower == tower && r.bank == bank && r.step == 1 then 8 else 0

/-- BARRIER_ARRIVAL_REACH: an arrival comes to the port of its barrier word, takes the bank in its place, and joins the update of the cycle in which it has
it (R330, R517). `State.subject` is its number; an arrival with no number comes from another package (R330). -/
def execBarrierArrivalReach (a : Arrival) (s : State) : Out :=
  let known := s.arrivals.find? fun r => r.id == s.subject && !r.reached && (r.remote == false || r.key == a.addr)
  let new : ArrivalRec := { id := s.subject, key := a.addr, prog := keyAddr a.addr, parity := a.parity, bytes := a.bytes, remote := true }
  let r := known.getD new
  let put (s : State) (r : ArrivalRec) : State :=
    { s with arrivals := if known.isSome then s.arrivals.map fun x => if x.id == r.id then r else x else s.arrivals ++ [r] }
  let tower := keyTower r.key
  let bank := keyBank r.key
  if !s.keyServed r.key then .next (s.due (s.cyc + 1) 140 (.barrierArrivalReach a) s.subject)
  else if r.served then .next ((put s { r with reached := true }).due s.cyc 150 (.barrierUpdate r.key))
  else
    let late := s.arrivalLate r tower bank
    let req : PortReq := ⟨none, 2, arrivalRank r, tower, bank, keyRow r.key, .plain, none, some (r.key / 8)⟩
    let s := s.request [req]
    .next (if late = 0 then (put s { r with served := true, reached := true }).due s.cyc 150 (.barrierUpdate r.key)
      else (put s { r with served := true }).due (s.cyc + late) 140 (.barrierArrivalReach a) s.subject)

/-- An arrival leaves its issuer; it reaches its port within 4, 40 or 180 cycles, the very cycle being left open; a relayout's issuer is its pier's engine
(R517). -/
def State.sendArrival (s : State) (a : ArrivalRec) : State :=
  let col := keyTower a.key / 16
  let bound := if col = a.col ∧ a.src ≠ 3 then 4 else if col / 64 = a.col / 64 then 40 else 180
  let (d, s) := s.freeNat
  let a := { a with id := s.nextId }
  { (s.due (s.cyc + 1 + d % bound) 140 (.barrierArrivalReach ⟨a.key, a.parity, 1, a.bytes⟩) a.id) with
    nextId := s.nextId + 1, arrivals := s.arrivals ++ [a] }

/-! ### Words (R337–R339) -/

/-- A barrier word: `marks` are the registers whose marks it consumes, `ill` its operand check. -/
def barrierWord (i : Instr) (q : Seq) (f : FmtC) (marks : List Nat) (busy : List Reg) (ill : State → Bool)
    (args : State → List Nat) (s : State) : Out :=
  wordIssue i q (busy ++ [.s f.base, .s f.aux, .s f.data])
    (fun s =>
      if queuesFull s || relWaits s f then .wait
      else consuming s marks (
        if ill s then .fault 0x01 (BitVec.ofNat 64 ((encodeWord i).getD 0 / 2 ^ 32))
        else withTower s f (f.sub / 16 % 2 == 1) 16 fun a key =>
          if a.off % 16 ≠ 0 then .fault 0x0B (BitVec.ofNat 64 a.prog)
          else .go { st := s.request (pieceReqs s.cur s.nextId .plain none [key] (some (key / 8))), lat := loadLatency s a, busy := busy,
                     pend := .port key (args s), pieces := [⟨0, key, a.prog, 16, never, false, 0, none⟩], hold := true })) s

/-- The parity a word carries. -/
def parityOf (f : FmtC) (s : State) : Nat := (s.sv f.aux).toNat % 2

/-- BINIT (R338). -/
def execBinit (q : Seq) (f : FmtC) (s : State) : Out :=
  barrierWord (.binit q f) q f [f.base, f.aux] []
    (fun s => (s.sv f.aux).toNat == 0 || decide (65535 < (s.sv f.aux).toNat)) (fun s => [(s.sv f.aux).toNat]) s

/-- ARRIVE (R338). -/
def execArrive (q : Seq) (f : FmtC) (s : State) : Out :=
  barrierWord (.arrive q f) q f [f.base, f.aux] [.s f.data] (fun _ => false) (fun s => [parityOf f s]) s

/-- ARRDROP (R338). -/
def execArrdrop (q : Seq) (f : FmtC) (s : State) : Out :=
  barrierWord (.arrdrop q f) q f [f.base, f.aux] [.s f.data] (fun _ => false) (fun s => [parityOf f s]) s

/-- BEXPECT (R338). -/
def execBexpect (q : Seq) (f : FmtC) (s : State) : Out :=
  barrierWord (.bexpect q f) q f [f.base, f.aux, f.data] [] (fun s => decide (2 ^ 41 ≤ (s.sv f.data).toNat))
    (fun s => [parityOf f s, (s.sv f.data).toNat]) s

/-- BTEST (R338). -/
def execBtest (q : Seq) (f : FmtC) (s : State) : Out :=
  barrierWord (.btest q f) q f [f.base, f.aux] [.s f.data, .cf] (fun _ => false) (fun s => [parityOf f s]) s

/-- BWAIT (R338). -/
def execBwait (q : Seq) (f : FmtC) (s : State) : Out :=
  barrierWord (.bwait q f) q f [f.base, f.aux] [.s f.data] (fun _ => false) (fun s => [parityOf f s]) s

end Sys2Proof.Machine
end

