-- ==== Sys2Proof/Machine/Page.lean ====
section
/-! DEFINITION. Translation, page faults and quarantine (R426–R439). -/

namespace Sys2Proof.Machine

/-! ### Memories that can be reached (R446, R452) -/

namespace State

/-- A port carries flits (R452). -/
def portUp (s : State) (p : Nat) : Bool := (s.portAt p).state == 2 || (s.portAt p).state == 3

/-- The port that a flit for a destination leaves by now (R452). -/
def routePort (s : State) (dst : Nat) : Option Nat :=
  let r := s.routes.getD dst 0xFF
  if r / 256 = 0 then none
  else if s.portUp (r % 16) then some (r % 16)
  else if s.portUp (r / 16 % 16) then some (r / 16 % 16) else none

/-- An access to a physical address need not wait: host memory's while the link is not Up or Degraded, and another package's while no port of its route can
carry it (R446, R452). -/
def reachable (s : State) (pa : Nat) : Bool :=
  if pa < 2 ^ 51 then pa / 2 ^ 42 == s.pkg || (s.routePort (pa / 2 ^ 42)).isSome else s.hostUp

end State

/-! ### Page tables (R427, R428) -/

def pteAddr (e : Nat) : Nat := e / 4096 % 2 ^ 40 * 4096
def pteLeaf (e : Nat) : Bool := e.testBit 1
def pteSize (e : Nat) : Nat := e / 4 % 4

/-- The bytes of a leaf's page (R428). -/
def pageBytes : Nat → Nat
  | 0 => 2 ^ 16
  | 1 => 2 ^ 21
  | _ => 2 ^ 30

/-- A valid entry that breaks R428 at its level. A non-leaf entry whose table address names no byte counts as malformed. -/
def pteMalformed (level e : Nat) : Bool :=
  let n := pageBytes (pteSize e)
  let a := pteAddr e
  e / 2 ^ 60 != 0 || e / 2 ^ 7 % 32 != 0 || e.testBit 5 ||
  (if pteLeaf e then
    level == 0 || (level == 1 && pteSize e != 2) || (level == 2 && decide (2 ≤ pteSize e)) || a % n != 0 || !farNamed a
  else level == 2 || e.testBit 6 || e.testBit 4 || pteSize e != 0 || !farNamed a)

/-- The bits of a virtual address above the page that an entry of a level covers, and its index in the level's table (R427). -/
def pteTag (level va : Nat) : Nat := va / 2 ^ (40 - 12 * level)

/-- The physical page of local HBM that a physical address lies in (R426). -/
def State.localPage (s : State) (pa : Nat) : Option Nat :=
  if pa < 2 ^ 51 ∧ pa / 2 ^ 42 = s.pkg then some (pa % 2 ^ 42 / 65536) else none

/-- The byte of the quarantine map for a page (R436). -/
def State.quarKey (s : State) (page : Nat) : Nat := bitsAt (s.devr 0x166) 51 12 * 4096 + page / 4

/-- A page's state in the quarantine map (R436). -/
def State.quarState (s : State) (page : Nat) : Nat :=
  (Memory.read s.mem (s.quarKey page)).toNat / 2 ^ (2 * (page % 4)) % 4

/-- The state of the page at a physical address; 0 outside local HBM. -/
def State.quarAt (s : State) (pa : Nat) : Nat := ((s.localPage pa).map s.quarState).getD 0

/-- A page takes a state in the map (R436). -/
def State.setQuar (s : State) (page q : Nat) : State :=
  let k := s.quarKey page
  let b := (Memory.read s.mem k).toNat
  let sh := 2 ^ (2 * (page % 4))
  s.farStore k 1 (b - b / sh % 4 * sh + q * sh)

/-! ### Walks (R429, R431) -/

/-- How a walk ends: at a leaf, in a fault, at a poisoned entry, or before a table that cannot be reached. -/
inductive WalkEnd where
  | leaf (pa quar : Nat)
  | away (addr : Nat)
  | fault (level reason : Nat)
  | poison (addr : Nat)

/-- The pier of a cache: caches 0–3 are the piers', cache 4 + c is that of column c (R429). -/
def cachePier (cache : Nat) : Nat := if cache < 4 then cache else (cache - 4) / 64

/-- A cached leaf maps a virtual page; any of the entries of one 2 MiB or 1 GiB page does (R428). -/
def TEntry.mapsPage (c : TEntry) (vpage : Nat) : Bool :=
  pteLeaf c.entry && c.tag == (let va := vpage * 65536; pteTag c.level va)
  || (pteLeaf c.entry && c.level == 2 && pteSize c.entry == 1 && c.tag / 32 == vpage / 32)
  || (pteLeaf c.entry && c.level == 1 && c.tag / 4 == vpage / 2 ^ 14)

/-- The page tables as a walker of a pier reads them: strong reads at DEV scope see the writes held in the pier's far-access unit and those at the
plinth (R302, R304, R427). -/
def State.tableView (s : State) (pier : Nat) : State := if s.farHeld.isEmpty then s else s.viewOf pier (10 ^ 9)

/-- An entry of the tables for an access through a cache: a copy that its own cache or its pier's still holds, older or not, or the table's (R429). Any entry
of a 2 MiB or 1 GiB page serves for the others (R428). -/
def State.pte (s : State) (cache ctx level va table : Nat) : TEntry × State :=
  let key := table + 8 * (pteTag level va % 4096)
  let e := (s.tableView (cachePier cache)).load key 8
  let pa := pteAddr e + va % pageBytes (pteSize e)
  let new : TEntry := ⟨cache, ctx, level, pteTag level va, e, pa / 65536, s.quarAt pa⟩
  let held := s.pages.cache.filter fun c => (c.cache == cache || c.cache == cachePier cache) && c.ctx == ctx && c.level == level
    && (c.tag == pteTag level va || c.mapsPage (va / 65536))
  if held.isEmpty then (new, s)
  else
    let (d, s) := s.freeNat
    ((held ++ [new]).getD (d % (held.length + 1)) new, s)

/-- The walk of an address from a level on; `n` levels remain. The entries it used are gathered (R427, R428, R431). -/
def State.walkFrom (s : State) (cache ctx va kind : Nat) : Nat → Nat → List TEntry → WalkEnd × List TEntry × State
  | 0, _, l => (.fault 2 1, l, s)
  | n + 1, table, l =>
    let level := 2 - n
    let key := table + 8 * (pteTag level va % 4096)
    if !s.reachable key then (.away key, l, s)
    else if (s.tableView (cachePier cache)).poisoned key then (.poison key, l, s)
    else
      let (c, s) := s.pte cache ctx level va table
      let e := c.entry
      if !e.testBit 0 then (.fault level 0, l, s)
      else if pteMalformed level e then (.fault level 1, l, s)
      else if pteLeaf e then
        let l := c :: l
        if (kind = 1 ∨ kind = 2) ∧ !e.testBit 4 then (.fault level 2, l, s)
        else if (kind = 1 ∨ kind = 2) ∧ e.testBit 6 then (.fault level 3, l, s)
        else
          let pa := pteAddr e + va % pageBytes (pteSize e)
          (.leaf pa (if c.page = pa / 65536 then c.quar else s.quarAt pa), l, s)
      else s.walkFrom cache ctx va kind n (pteAddr e) (c :: l)

/-- Entries join a cache; an older copy of one goes. -/
def cachePut (held : List TEntry) (cache : Nat) (l : List TEntry) : List TEntry :=
  l.foldl (fun c e => (c.filter fun x =>
    !(x.cache == cache && x.ctx == e.ctx && x.level == e.level && x.tag == e.tag)) ++ [{ e with cache := cache }]) held

/-- A walk for a context through a cache (R427–R431); a walk that stops at an invalid or malformed entry leaves nothing in a cache. The entries used are kept in
the cache, and in its pier's but for those that came out of the column's own. -/
def State.walkPage (s : State) (cache ctx va kind : Nat) : WalkEnd × State :=
  let (e, l, s) := s.walkFrom cache ctx va kind 3 (s.ctxAt ctx).ptroot []
  match e with
  | .fault _ 0 | .fault _ 1 | .poison _ | .away _ => (e, s)
  | _ => (e, { s with pages := { s.pages with
      cache := cachePut (cachePut s.pages.cache (cachePier cache) (l.filter fun c => !s.pages.cache.contains c)) cache l } })

/-- The leaves that a context's page tables hold from a table on, `n` levels deep: the address of each page and its bytes (R427, R428). -/
def State.leafPages (s : State) : Nat → Nat → Nat → List (Nat × Nat)
  | 0, _, _ => []
  | n + 1, level, table =>
    (distinct ((s.mem.filter fun c => decide (table ≤ c.1 ∧ c.1 < table + 32768)).map fun c => c.1 / 8)).flatMap fun k =>
      let e := s.load (8 * k) 8
      if !e.testBit 0 || pteMalformed level e then []
      else if pteLeaf e then [(pteAddr e, pageBytes (pteSize e))]
      else s.leafPages n (level + 1) (pteAddr e)

/-- The physical pages of a context. -/
def State.ctxPages (s : State) (c : Nat) : List (Nat × Nat) := s.leafPages 3 0 (s.ctxAt c).ptroot

/-! ### Fault records (R432, R433) -/

/-- The lowest free record number (R432). -/
def Pages.freeId (p : Pages) : Option Nat := (List.range 512).find? fun n => !(p.open_.any fun r => r.id == n)

/-- A record is opened with the lowest free number, and its writing comes up (R432, R433). -/
def State.openRecord (s : State) (r : PageRecord) : Option (Nat × State) :=
  s.pages.freeId.map fun id =>
    let n := s.pages.opened + 1
    let (d, s) := s.freeNat
    (id, { (s.due (s.cyc + 1 + d) 10 .faultRecordWrite) with
      pages := { s.pages with opened := n, open_ := s.pages.open_ ++ [{ r with id := id, seqno := n }] } })

/-- Record numbers have come free: pages that wait to be reported take numbers (R432, R437). -/
def State.idFreed (s : State) : State :=
  s.pages.residues.foldl (fun s r => match s.openRecord r with
    | some (_, s) => s
    | none => { s with pages := { s.pages with residues := s.pages.residues ++ [r] } })
    { s with pages := { s.pages with residues := [] } }

/-- A fault attaches to the open record of its context and page, or opens one (R432). -/
def State.attach (s : State) (r : PageRecord) : Option (Nat × State) :=
  match s.pages.open_.find? fun x => x.ctx == r.ctx && x.vpage == r.vpage && x.reason != 4 with
  | some x =>
    let x' := { x with who := x.who ++ r.who.filter fun w => !x.who.contains w }
    some (x.id, { s with pages := { s.pages with open_ := s.pages.open_.map fun y => if y.id == x.id then x' else y } })
  | none => s.openRecord r

/-- An access whose translation has faulted waits in a record, or in its walker for one (R432). -/
def State.attached (s : State) (who : Requester) : Bool :=
  s.pages.open_.any (fun r => r.who.contains who) || s.pages.fresh.any (fun r => r.who.contains who) || s.pages.held.any fun r => r.who.contains who

/-- Every record and walker with an access in it changes its list of accesses. -/
def State.mapWho (s : State) (f : List Requester → List Requester) : State :=
  let g (r : PageRecord) : PageRecord := { r with who := f r.who }
  { s with pages := { s.pages with open_ := s.pages.open_.map g, fresh := s.pages.fresh.map g, held := s.pages.held.map g } }

/-- A requester no longer waits in any record or walker. -/
def State.detach (s : State) (who : Requester) : State := s.mapWho fun l => l.filter (· != who)

/-- A requester is gone: it waits nowhere, and a refusal that it has not met is forgotten. -/
def State.forget (s : State) (who : Requester) : State :=
  { s.detach who with denied := s.denied.filter fun d => d.1 != who }

/-- An access faults: its fault reaches the record table at the end of the cycle (R432). -/
def State.pageFault (s : State) (r : PageRecord) : State :=
  if (s.pages.fresh ++ s.pages.held).any fun x => x.ctx == r.ctx && x.vpage == r.vpage && x.who == r.who then s
  else { s with pages := { s.pages with fresh := s.pages.fresh ++ [r] } }

/-- A channel whose access waits in a record is told so (R282). -/
def State.noteAttached (s : State) (id : Nat) : Requester → State
  | .chan x => s.due (s.cyc + 1) 47 (.translationFault x id)
  | _ => s

/-- The faults that reach the record table in a cycle, and those that walkers still hold, are taken in ascending pier number, then in walker number: the
walkers of a pier take their work in the order in which it comes. A fault for which no number is free stays in its walker (R432). -/
def State.takeFaults (s : State) : State :=
  let l := s.pages.held ++ s.pages.fresh
  if l.isEmpty then s
  else
    let l := ([0, 1, 2, 3].flatMap fun p => l.filter fun r => r.pier == p).filter fun r => !r.who.isEmpty
    l.foldl (fun s r => match s.attach r with
      | some (id, s) => r.who.foldl (fun s w => s.noteAttached id w) s
      | none => { s with pages := { s.pages with held := s.pages.held ++ [r] } })
      { s with pages := { s.pages with held := [], fresh := [] } }

/-- What a far access gets: its physical address, a refusal with PERMISSION, a wait for a record or in a walker for one, or a wait after which it tries
again (R432, R434, R436). -/
inductive Tr where
  | ok (pa : Nat)
  | refused
  | waits
  | full
  deriving DecidableEq, Repr



/-- An access that has a physical address: one to host memory waits while the link cannot carry it, and is refused LINKTO × 2^20 cycles
later (R446). A channel's wait is ended by its own event. One to another package waits while no port of its route can carry it (R452). -/
def State.reach (s : State) (va pa : Nat) (who : Requester) : Tr × State :=
  let done (s : State) : State := { s with hostWaits := s.hostWaits.filter fun w => w.1 != who }
  if s.reachable pa then (.ok pa, if s.hostWaits.isEmpty then s else done s)
  else if pa < 2 ^ 51 then (.full, s)
  else
    let limit := bitsAt (s.devr 0x172) 31 16 * 2 ^ 20
    match s.hostWaits.find? fun w => w.1 == who with
    | some (_, t, _) => if t + limit ≤ s.cyc then (.refused, { done s with refCode := 0x13 }) else (.full, s)
    | none =>
      let s := { s with hostWaits := s.hostWaits ++ [(who, s.cyc, va)] }
      (.full, match who with
        | .chan x => s.due (s.cyc + limit) 44 (.hostAccessTimeout x)
        | _ => s)

/-- What the kind of a refused access adds to its TRAPINFO: PAGE_FAULT names it, PERMISSION does not (R116). -/
def State.refKind (s : State) (kind : Nat) : Nat := if s.refCode = 0x12 then kind * 2 ^ 52 else 0

/-- The access that the page handler has refused is refused now, with the code that its outcome gives (R434). -/
def State.deniedNow (s : State) (va : Nat) (who : Requester) : Option State :=
  (s.denied.find? fun d => d.1 == who && d.2.1 == va / 65536).map fun d =>
    { s with denied := s.denied.filter (· != d), refCode := d.2.2 }

/-- An access that no cached leaf serves finds all 8 walkers of its pier holding faults for which no record number is free (R429, R432). -/
def State.noWalker (s : State) (cache ctx va : Nat) : Bool :=
  decide (8 ≤ (s.pages.held.filter fun r => r.pier == cachePier cache).length)
    && !s.pages.cache.any fun c => (c.cache == cache || c.cache == cachePier cache) && c.ctx == ctx && c.mapsPage (va / 65536)

/-- The translation of a virtual address for a context through a cache (R429–R436); `refCode` becomes the code of a refusal. A poisoned table entry tears the
context down (R471). A page may reach past the end of an HBM: a byte that no memory holds is no address (R426, R428). -/
def State.translate (s : State) (cache ctx va kind src : Nat) (who : Requester) : Tr × State :=
  match (if s.denied.isEmpty then none else s.deniedNow va who) with
  | some s => (.refused, s)
  | none =>
  if s.noWalker cache ctx va then (.full, s) else
  match s.walkPage cache ctx va kind with
  | (.leaf pa q, s) =>
    if !farNamed pa then (.ok pa, { s with hole := some pa })
    else if q = 0 then s.reach va pa who else (.refused, { s with refCode := 0x13 })
  | (.away a, s) => s.reach va a who
  | (.poison a, s) =>
    (.refused, ({ s with refCode := 0x13 }.health { code := 0x12, ctx := ctx, info := BitVec.ofNat 64 (2 ^ 63 + a) }).due s.cyc 850 .teardown (ctx + 65536))
  | (.fault level reason, s) =>
    (.waits, s.pageFault { id := 0, ctx := ctx, vpage := va / 65536, pier := cachePier cache, src := src, level := level, kind := kind,
                           reason := reason, who := [who] })

/-- FAULT_RECORD_WRITE: the oldest record not written goes into the ring, if it has room and can be reached (R433, R446). -/
def execFaultRecordWrite (s : State) : Out :=
  match s.pages.open_.filter (fun r => !r.written) with
  | [] => .next s
  | a :: t =>
    let r := t.foldl (fun a b => if b.seqno < a.seqno then b else a) a
    let ring := s.devr 0x160
    let p := s.devr 0x161
    let size := 2 ^ (bitsAt ring 3 0 + 6)
    let head := bitsAt p 31 0
    if size ≤ (head + 2 ^ 32 - bitsAt p 63 32) % 2 ^ 32 ∨ s.reachable (bitsAt ring 51 12 * 4096) = false then
      .next (s.due (s.cyc + 1) 10 .faultRecordWrite)
    else
      let s := s.storeWords (bitsAt ring 51 12 * 4096 + 32 * (head % size))
        [r.seqno, r.vpage * 2 ^ 16 + r.ctx, r.pier * 2 ^ 24 + r.src * 2 ^ 16 + r.level * 2 ^ 8 + r.kind * 16 + r.reason, r.id]
      let s := s.setDev 0x161 (setBits p 31 0 (head + 1))
      let s := { s with pages := { s.pages with
        open_ := s.pages.open_.map fun x => if x.id == r.id then { x with written := true } else x } }
      let v := s.devr 0x167
      .next (if bitsAt v 16 16 = 1 then s.raiseIrq (bitsAt v 15 0) else s)

/-- PAGE_WALK: a walker of a pier walks the tables for an access of a context; `col` below 256 is the column whose cache asks (R429). -/
def execPageWalk (pier col : Nat) (w : Walk) (s : State) : Out :=
  let src := if w.kind = 3 then 4 else if col < 256 then 0 else 1
  .next (s.translate (if col < 256 then 4 + col else pier) w.ctx (w.vpage * 65536) w.kind src .walk).2

/-! ### Invalidation (R430) -/

/-- A cached leaf maps a physical page. -/
def TEntry.mapsPhys (c : TEntry) (pa : Nat) : Bool :=
  let n := pageBytes (pteSize c.entry)
  pteLeaf c.entry && decide (pteAddr c.entry ≤ pa ∧ pa < pteAddr c.entry + n)

/-- An accepted invalidation removes entries. It will wait for the writes on their way to a page that a removed leaf maps, and for the relayout tiles that hold
such a page. -/
def State.invalidate (s : State) (gone : TEntry → Bool) : State :=
  if s.pages.invBusy then s
  else
    let covers (pa : Nat) : Bool := s.pages.cache.any fun c => gone c && c.mapsPhys pa
    let (d, s) := s.freeNat
    { (s.due (s.cyc + 1 + d) 20 .invalidationComplete) with
      pages := { s.pages with
        invBusy := true
        invWrites := s.farHeld.filter fun w => w.cells.any fun x => covers x.1
        invTiles := (s.jobs.filter fun j => j.moving && j.pages.any fun p => covers (p.2 * 65536)).map fun j => (j.ctx, j.entry, j.since)
        cache := s.pages.cache.filter fun c => !gone c } }

/-- An access translated through an entry that the invalidation removed is still on its way: a write that has not reached DEV, or a tile in conversion. -/
def State.invalidating (s : State) : Bool :=
  s.pages.invWrites.any (fun w => s.farHeld.contains w && !w.reached s 2)
    || s.pages.invTiles.any fun t => s.jobs.any fun j => j.moving && (j.ctx, j.entry, j.since) == t

/-- PGINV mode 1: the leaf entries of a context for a page (R430). -/
def execPginvPage (ctx vpage : Nat) (s : State) : Out :=
  .next (s.invalidate fun c => c.ctx == ctx && c.mapsPage vpage)

/-- PGINV mode 2: every entry of the context `State.subject` (R430). -/
def execPginvContext (s : State) : Out := .next (s.invalidate fun c => c.ctx == s.subject)

/-- PGINV mode 3: every entry (R430). -/
def execPginvAll (s : State) : Out := .next (s.invalidate fun _ => true)

/-- INVALIDATION_COMPLETE: INVBUSY clears once nothing translated through a removed entry is on its way (R430). -/
def execInvalidationComplete (s : State) : Out :=
  .next (if s.invalidating then s.due (s.cyc + 1) 20 .invalidationComplete
    else { s with pages := { s.pages with invBusy := false, invWrites := [], invTiles := [] } })

/-! ### Quarantine (R436, R437) -/

/-- Physical pages of local HBM. -/
def localPages : Nat := 7812500

/-- A page in service goes into quarantine, and the cached leaves that map it go (R436, R437). -/
def State.quarantinePage (s : State) (page : Nat) : State :=
  let s := s.setQuar page 1
  { s with pages := { s.pages with cache := s.pages.cache.filter fun c => !c.mapsPhys (s.pkg * 2 ^ 42 + page * 65536) } }

/-- A QCMD on a page that must stand in a state; any other case sets QERR (R436, R439). -/
def qcmd (page want : Nat) (act : State → State) (s : State) : State :=
  if s.pages.scrubbing.isSome then s
  else if localPages ≤ page ∨ s.quarState page ≠ want then { s with pages := { s.pages with qerr := true, qerrNow := true } }
  else act s

/-- QCMD QUARANTINE (R436). -/
def execQuarantine (page : Nat) (s : State) : Out := .next (qcmd page 0 (fun s => s.quarantinePage page) s)

/-- QCMD SCRUB: the scrub of a page takes a time that the spec leaves open (R436). -/
def execScrub (page : Nat) (s : State) : Out :=
  .next (qcmd page 1 (fun s =>
    let s := s.setQuar page 2
    let (d, s) := s.freeNat
    { (s.due (s.cyc + 1 + d) 20 .scrubComplete) with pages := { s.pages with scrubbing := some page } }) s)

/-- Every 64-byte access of a page written with zeros and a fresh check (R436). -/
def State.zeroPage (s : State) (page : Nat) : State :=
  let a := s.pkg * 2 ^ 42 + page * 65536
  let out (k : Nat) : Bool := decide (k < a ∨ a + 65536 ≤ k)
  { s with mem := s.mem.filter fun c => out c.1, poison := s.poison.filter out, hbmMeta := s.hbmMeta.filter fun c => out c.1,
           hbmCheck := s.hbmCheck.filter fun c => out c.1 }

/-- SCRUB_COMPLETE: the zeros have reached DEV, and the page is scrubbed (R436). -/
def execScrubComplete (s : State) : Out :=
  match s.pages.scrubbing with
  | none => .next s
  | some p =>
    let s := (s.zeroPage p).setQuar p 3
    .next { s with pages := { s.pages with scrubbing := none } }

/-- QCMD RELEASE: the page serves accesses again (R436). -/
def execRelease (page : Nat) (s : State) : Out := .next (qcmd page 3 (fun s => s.setQuar page 0) s)

/-- A page that a teardown leaves behind: quarantined in local HBM, reported with REASON 4 elsewhere (R437). -/
def State.residue (s : State) (ctx pa src : Nat) : State :=
  match s.localPage pa with
  | some p => if s.quarState p = 0 then s.quarantinePage p else s
  | none =>
    let r : PageRecord := { id := 0, ctx := ctx, vpage := pa / 65536, src := src, kind := 1, reason := 4 }
    match s.openRecord r with
    | some (_, s) => s
    | none => { s with pages := { s.pages with residues := s.pages.residues ++ [r] } }

/-! ### Far accesses of an engine -/

/-- A far access at a physical address: a quarantined page is refused (R436). -/
def State.farPhys (s : State) (pa : Nat) (who : Requester) : Tr × State :=
  if !farNamed pa then (.ok pa, { s with hole := some pa })
  else if s.quarAt pa ≠ 0 then (.refused, { s with refCode := 0x13 })
  else s.reach pa pa who

/-- The physical address of a far byte for a stream: firmware addresses are physical (R516), a group's are translated; a quarantined page is refused to
both (R436). -/
def State.farAddr (s : State) (k : Stream) (ctx va kind src : Nat) (who : Requester) : Tr × State :=
  if k.fw then s.farPhys va who else s.translate (4 + k.col) ctx va kind src who

end Sys2Proof.Machine
end

