-- ==== Sys2Proof/Machine/Tile.lean ====
section
/-! DEFINITION. Tile registers and the accumulator store (R174–R178), the fold of a product (R55–R57, R179–R181), its passes
(R185) and its record (R191). Their bytes lie in the one memory, in spaces of their own. -/

namespace Sys2Proof.Machine

/-! ### Where the bytes lie -/

/-- The key of byte 0 of the tile registers and of the accumulator stores. -/
def tileBase : Nat := 2 ^ 54
def accBase : Nat := 2 ^ 55

/-- The key of image byte `y` of course `c` of a tile register (R176). -/
def tileKey (col m c y : Nat) : Nat := tileBase + ((col * 16 + m) * 4 + c) * 2 ^ 15 + y

/-- The key of element `e` of a granule (R177). -/
def accKey (col g e : Nat) : Nat := accBase + (col * 32768 + g % 32768) * 256 + 4 * e

/-- A line of a tile register among the poisoned lines of its column (R178). -/
def lineNo (m i : Nat) : Nat := m * 256 + i

/-- Shape and tag in an MSHAPE value (R175). -/
def shapeDim (w : Word) : Nat := bitsAt w 15 8
def shapeTag (w : Word) : Nat := bitsAt w 4 0

/-- The elements of a course's slice, and the scale bytes of a line in a course (R174). -/
def sliceOf (tag : Nat) : Nat := 768 / tagWidth tag
def scaleBytes (tag : Nat) : Nat := if isScaled tag then sliceOf tag / 24 else 0

/-- Image bytes of a course: S of R176. -/
def imageBytes (tag dim : Nat) : Nat := dim * (96 + scaleBytes tag)

/-- Granules in a row of N output columns (R177). -/
def granulesOf (n : Nat) : Nat := (n + 63) / 64

namespace State

def shapeAt (s : State) (col m : Nat) : Word := (s.colAt col).ctlr (0x040 + m)
def foldstat (s : State) (col : Nat) : Word := (s.colAt col).ctlr 0x110

/-- An accumulator element. -/
def accAt (s : State) (col g e : Nat) : Nat := s.load (accKey col g e) 4

/-- A granule is poisoned (R178). -/
def accPoisoned (s : State) (col g : Nat) : Bool := (s.colAt col).accBad.contains (g % 32768)

/-- Bytes in a range of keys become zero. -/
def zeroRange (s : State) (a n : Nat) : State := { s with mem := s.mem.filter fun c => decide (c.1 < a ∨ a + n ≤ c.1) }

/-- Granules become zero, unpoisoned, with record 0 (R178, R200, R201). -/
def clearGranule (s : State) (col g : Nat) : State :=
  let g := g % 32768
  let s := s.zeroRange (accKey col g 0) 256
  let c := s.colAt col
  s.setCol col { c with accBad := c.accBad.filter (· != g), recs := c.recs.del g }

/-- The whole matrix state of a column as MFREE.clr leaves it (R202, R417). -/
def clearMatrix (s : State) (col : Nat) : State :=
  let s := (s.zeroRange (tileKey col 0 0 0) (64 * 2 ^ 15)).zeroRange (accKey col 0 0) (2 ^ 23)
  let c := s.colAt col
  s.setCol col { c with tileBad := [], accBad := [], recs := [], written := [],
                        ctl := (List.range 16).foldl (fun m n => m.del (0x040 + n)) c.ctl }

/-! ### Operands (R174, R195) -/

/-- The codes of line `i` in course `c` of a tile register. -/
def lineCodes (s : State) (col m tag i c : Nat) : List Nat :=
  let b := s.load (tileKey col m c (96 * i)) 96
  let w := tagWidth tag
  (List.range (sliceOf tag)).map fun x => b / 2 ^ (w * x) % 2 ^ w

/-- The values of positions `lo` to `lo + n - 1` of line `i` in course `c`, which lie in whole blocks, with the flags of decoding
them (R34, R35, R55, R195). -/
def lineVals (s : State) (col m tag dim i c lo n : Nat) : List FVal × Nat :=
  let codes := s.lineCodes col m tag i c
  if isScaled tag then
    let nb := scaleBytes tag
    let bs := (List.range' (lo / 24) (n / 24)).map fun b =>
      decBlock tag ((codes.drop (24 * b)).take 24) (Memory.read s.mem (tileKey col m c (96 * dim + nb * i + b))).toNat
    (bs.flatMap fun b => b.1, bs.foldl (fun n b => n ||| b.2) 0)
  else (((codes.drop lo).take n).map (fmtOf tag).dec, 0)

/-- The integers of line `i` in course `c` of an I8 register. -/
def lineInts (s : State) (col m i c : Nat) : List Int := (s.lineCodes col m 9 i c).map (sint 8)

end State

/-- An operand of a product: column and register that hold it, tag and lines (R193, R198). -/
structure MOperand where
  col : Nat
  reg : Nat
  tag : Nat
  dim : Nat

/-- F4 and Q4X against an 8-bit B: the mixed rows of R195. -/
def mixedPair (a b : Nat) : Bool := (a == 6 || a == 0x16 || a == 0x17) && (b == 4 || b == 0x14)

/-- The implemented pairs (R195). -/
def pairOk (a b : Nat) : Bool :=
  let f8 (t : Nat) : Bool := t == 4 || t == 5 || t == 0x14 || t == 0x15
  let f4 (t : Nat) : Bool := t == 6 || t == 0x16
  (a == 2 && b == 2) || (a == 3 && b == 3) || (f8 a && f8 b) || (f4 a && f4 b) || (a == 0x17 && b == 0x17)
    || mixedPair a b || (a == 9 && b == 9)

/-- The partial sums p[0..3] of every output element in row order, with their flags (R55–R57, R179, R195). -/
def partials (s : State) (a b : MOperand) (half : Nat) : List (List Nat) × Nat :=
  let courses := List.range 4
  if a.tag = 9 then
    let rows := (List.range a.dim).map fun i => courses.map fun c => s.lineInts a.col a.reg i c
    let cols := (List.range b.dim).map fun j => courses.map fun c => s.lineInts b.col b.reg j c
    (rows.flatMap fun x => cols.map fun y => List.zipWith (fun p q => (dotInt p q % (2 ^ 32 : Nat)).toNat) x y, 0)
  else
    let n := sliceOf b.tag
    let lo := if mixedPair a.tag b.tag then n * half else 0
    let rows := (List.range a.dim).map fun i => courses.map fun c => s.lineVals a.col a.reg a.tag a.dim i c lo n
    let cols := (List.range b.dim).map fun j => courses.map fun c => s.lineVals b.col b.reg b.tag b.dim j c 0 n
    let fl (l : List (List (List FVal × Nat))) : Nat := l.foldl (fun n x => x.foldl (fun n y => n ||| y.2) n) 0
    let ps := rows.flatMap fun x => cols.map fun y => List.zipWith (fun p q => dotFloat p.1 q.1) x y
    (ps.map fun p => p.map (·.1), ps.foldl (fun n p => p.foldl (fun n x => n ||| x.2) n) (fl rows ||| fl cols))

/-! ### The fold (R179, R180) -/

/-- One addition of the fold: F32 under RNE with the canonical NaN, or I32 with wrap. -/
def foldAdd (i32 : Bool) (a b : Nat) : Nat × Nat :=
  if i32 then ((a + b) % 2 ^ 32, 0) else fAdd fmtF32 { cnan := true } 0 false a b

/-- Fold(C, p, L), with its flags (R180), as the first `n` passes that write granules leave it: the late courses come one a pass (R185). -/
def fold (i32 : Bool) (c : Nat) (p : List Nat) (late : Nat) (n : Nat := 5) : Nat × Nat :=
  let early := (List.range 4).filter fun x => !late.testBit x
  let after := (List.range 4).filter fun x => late.testBit x
  let add (r : Nat × Nat) (v : Nat) : Nat × Nat := withFlags r.2 (foldAdd i32 r.1 v)
  let d := match early with
    | [] => (c, 0)
    | x :: t =>
      let r := t.foldl (fun r y => add r (p.getD y 0)) (p.getD x 0, 0)
      withFlags r.2 (foldAdd i32 c r.1)
  (after.take (if early.isEmpty then n else n - 1)).foldl (fun r y => add r (p.getD y 0)) d

/-! ### Courses in and out (R181–R185, R191) -/

/-- The courses that FOLDSTAT marks out: U (R181, R182). -/
def foldOut (v : Word) : Nat := bitsAt v 15 12 ||| bitsAt v 11 8 ||| bitsAt v 7 4
def foldJdeg (v : Word) : Nat := bitsAt v 18 16
def foldBypbad (v : Word) : Bool := bitsAt v 19 19 == 1

/-- A policy raises FOLD_UNAVAILABLE (R181). -/
def foldUnavailable (v : Word) (policy : Nat) (pinned : Bool) : Bool :=
  if policy = 2 && !pinned then foldOut v != 0 || foldJdeg v != 0
  else foldOut v == 15 || (foldJdeg v != 0 && foldBypbad v)

/-- The passes before the late courses: true for a substitute (R185). -/
def earlyPasses (u late : Nat) : List Nat → Bool → List Bool
  | [], pending => if pending then [false] else []
  | c :: t, pending =>
    if late.testBit c then earlyPasses u late t pending
    else if u.testBit c then (if pending then [false] else []) ++ true :: earlyPasses u late t false
    else earlyPasses u late t true

/-- The passes of a product of P batches (R185): late passes write granules, and so does the last of the others. -/
def passPlan (u late jdeg p : Nat) : List MPass :=
  let pre := earlyPasses u late [0, 1, 2, 3] false
  let post := ((List.range 4).filter fun c => late.testBit c).map fun c => u.testBit c
  let pass (sub writes : Bool) : MPass :=
    { step := (if sub then 2 else 1) * (if jdeg = 0 then 1 else 4), writes := writes, bypass := jdeg != 0, hi := p }
  (pre.zipIdx.map fun x => pass x.1 (x.2 + 1 == pre.length)) ++ post.map fun x => pass x true

/-- Passes that follow one another with no gap from cycle `t` (R185). -/
def MPass.schedule : List MPass → Nat → List MPass
  | [], _ => []
  | x :: l, t => { x with start := t } :: schedule l (t + x.step * (x.hi - x.lo))

/-- The occupancy O: the cycles of all passes (R185). -/
def occupancy (l : List MPass) : Nat := l.foldl (fun n x => n + x.step * (x.hi - x.lo)) 0

/-- FOLDREC of an issue (R191). -/
def foldRecord (v : Word) (late passes seqno : Nat) (pinned : Bool) : Nat :=
  let u := foldOut v
  let any (x : Nat) (b : Nat) : Nat := if u &&& x = 0 then 0 else 2 ^ b
  (15 - u) + passes * 16 + late * 256 + u * 4096 + any (bitsAt v 7 4) 16 + any (bitsAt v 11 8) 17 + any (bitsAt v 15 12) 18
    + (if foldJdeg v = 0 then 0 else 2 ^ 19) + (if pinned then 2 ^ 21 else 0) + seqno % 256 * 2 ^ 24

/-- A granule record after a product merges its own (R178). -/
def mergeRecord (old new : Nat) : Nat :=
  (old &&& new) % 16 + max (old / 16 % 16) (new / 16 % 16) * 16 + ((old ||| new) / 256 % 2 ^ 16) * 256 + new / 2 ^ 24 * 2 ^ 24

/-- A column enters Retiring (R88, R470). -/
def State.retireColumn (s : State) (col cause : Nat) : State :=
  let c := s.colAt col
  if c.state ≠ 0 then s
  else (s.setCol col { c with state := 3 }).health { code := 0x08, loc := s.colLoc col, info := BitVec.ofNat 64 cause }

/-! ### The time of a product (R186) -/

namespace Product

/-- Batches of the product: P. -/
def batches (p : Product) : Nat := p.m * granulesOf p.n

/-- The granule of a batch. -/
def granule (p : Product) (k : Nat) : Nat := (p.acc + k) % 32768

/-- The batch that writes a granule, if one does. -/
def batchOf (p : Product) (g : Nat) : Option Nat :=
  let k := (g + 32768 - p.acc % 32768) % 32768
  if k < p.batches then some k else none

/-- MMAQ's two cycles over the neighbour links (R194). -/
def extra (p : Product) : Nat := if p.kind = 1 then 2 else 0

/-- The cycle in which batch `k` of a pass reaches the latch or its granule (R186, R194). -/
def reach (p : Product) (x : MPass) (k : Nat) : Nat := x.start + x.step * (k + 1 - x.lo) + 10 + p.extra

/-- The cycles in which the writing passes reach the granule of batch `k` (R186). -/
def reaches (p : Product) (k : Nat) : List Nat :=
  (p.passes.filter fun x => x.writes && decide (x.lo ≤ k ∧ k < x.hi)).map fun x => p.reach x k

/-- The cycle from which the arrays are free of the product (R186). -/
def free (p : Product) : Nat :=
  match p.cut with
  | some t => t + 1
  | none => ((p.passes.getLast?).map fun x => x.start + x.step * (x.hi - x.lo)).getD 0

/-- The cycle at whose end its granules are complete (R186, R194). -/
def endAt (p : Product) : Nat := p.cut.getD (p.free + 10 + p.extra)

/-- The first and the last access to the granule of a batch. -/
def firstAccess (p : Product) (k : Nat) : Nat := (p.reaches k).headD p.free
def lastAccess (p : Product) (k : Nat) : Nat := min p.endAt ((p.reaches k).getLast?.getD p.endAt)

end Product

/-! ### The writing of granules (R178–R180, R186) -/

/-- The elements of one granule of a product's result after `n` of its writes, with their flags (R179, R180, R204). -/
def granuleElems (s : State) (col : Nat) (p : Product) (k : Nat) (n : Nat := 5) : List (Nat × Nat) :=
  let g := granulesOf p.n
  let j0 := 64 * (k % g)
  (List.range (min 64 (p.n - j0))).map fun e =>
    let c := if p.z then 0 else s.accAt col (p.granule k) e
    let (d, fl) := fold p.i32 c (p.sums.getD (k / g * p.n + j0 + e) []) p.late n
    match p.perturb with
    | some (pg, pe, v) => if pg = p.granule k ∧ pe = e then ((foldAdd p.i32 d v).1, fl) else (d, fl)
    | none => (d, fl)

/-- A granule is written, with its record and its poison (R178, R198); `xs` are its elements and their flags. -/
def writeGranule (s : State) (col : Nat) (p : Product) (k : Nat) (xs : List (Nat × Nat)) : State × Nat :=
  let g := p.granule k
  let w := granulesOf p.n
  let bad := (!p.z && s.accPoisoned col g) || p.badA.contains (k / w)
    || p.badB.any fun j => j / 64 == k % w
  let s := xs.zipIdx.foldl (fun s x => s.store (accKey col g x.2) 4 x.1.1) s
  let c := s.colAt col
  let c := { c with accBad := c.accBad.filter (· != g) ++ (if bad then [g] else []), written := State.insertKey c.written g,
                    recs := c.recs.put g (if p.z then p.record else mergeRecord (c.recs.getD g 0) p.record) }
  (s.setCol col c, xs.foldl (fun n x => n ||| x.2) 0)

/-- A batch that stays without its last writes leaves its granule poisoned (R188, R190). -/
def poisonGranule (s : State) (col g : Nat) : State :=
  let c := s.colAt col
  s.setCol col { c with accBad := c.accBad.filter (· != g) ++ [g], written := State.insertKey c.written g }


/-- A batch reaches its granule for the last time (R178, R186), or is given up with the writes it has had (R188, R190). -/
def settleBatch (s : State) (col : Nat) (p : Product) (k : Nat) : State × Nat :=
  match p.lost.find? fun x => x.1 == k with
  | none => writeGranule s col p k (granuleElems s col p k)
  | some (_, 0) => (poisonGranule s col (p.granule k), 0)
  | some (_, n) =>
    let r := writeGranule s col p k (granuleElems s col p k n)
    (poisonGranule r.1 col (p.granule k), r.2)

/-- The batches of a product that reach their granules for the last time before cycle `t` (R186). -/
def settleProduct (s : State) (col t : Nat) (p : Product) : State :=
  let now := (List.range' p.done (p.batches - p.done)).takeWhile fun k => decide (p.lastAccess k < t)
  if now.isEmpty then s
  else
    let (s, fl) := now.foldl (fun r k =>
      let (s, fl) := settleBatch r.1 col p k
      (s, r.2 ||| fl)) (s, p.flags)
    let c := s.colAt col
    s.setCol col { c with products := c.products.map fun x =>
      if x.id == p.id then { x with flags := fl, done := p.done + now.length } else x }

/-- A granule of a column is poisoned at the start of cycle `t`: as it stands, or by a write that an unfinished product has made by then, of which later
writes of the same product follow (R178, R186). -/
def State.poisonedBy (s : State) (col t g : Nat) : Bool :=
  (s.colAt col).products.foldl (fun bad p =>
    match p.batchOf g with
    | none => bad
    | some k =>
      let w := granulesOf p.n
      if k < p.done || !(p.reaches k).any (fun u => decide (u < t)) then bad
      else (!p.z && bad) || p.badA.contains (k / w) || p.badB.any fun j => j / 64 == k % w) (s.accPoisoned col g)

/-- The granules of a column as they are at the start of cycle `t` (R186): every batch that is due by then, in the order of issue. -/
def State.settleProducts (s : State) (col t : Nat) : State :=
  (s.colAt col).products.foldl (fun s p => settleProduct s col t p) s

end Sys2Proof.Machine
end

