-- ==== Sys2Proof/Machine/Drain.lean ====
section
/-! DEFINITION. Conversion of accumulator rows for MMAC and MDRAIN (R199, R200), one granule a cycle, and where MDRAIN's bytes
go. -/

namespace Sys2Proof.Machine

/-! ### One row -/

/-- The codes of a row with its scale bytes, its flags, and the generators after its draws; generator `k` is element `k`'s
(R199, R200). With `unit0` a block of zeros takes scale 127 (R199). -/
def codeRow (i32 : Bool) (tag : Nat) (c : FCtl) (outl unit0 : Bool) (row gs : List Nat) : List Nat × List Nat × Nat × List Nat :=
  if isScaled tag then
    let ins := row.map (fmtF32.input c)
    let n := (row.length + 23) / 24
    (List.range n).foldl (fun r b =>
      let x := (ins.drop (24 * b)).take 24
      let x := x.map (·.1) ++ List.replicate (24 - x.length) (.fin false 0 0)
      let k := codeBlock tag c outl x (fun i => 24 * b + i) r.2.2.2
      let scale := if unit0 && x.all FVal.isZero then 127 else k.scale
      (r.1 ++ k.codes, r.2.1 ++ [scale], r.2.2.1 ||| k.flags, k.gens)) ([], [], ins.foldl (fun n x => n ||| x.2) 0, gs)
  else
    row.zipIdx.foldl (fun r x =>
      let gs := genAt c r.2.2.2 x.2
      let v := cvtElem (if i32 then 8 else 1) tag c (drawOf (gs.getD x.2 0)) x.1
      (r.1 ++ [v.1], [], r.2.2.1 ||| v.2, gs)) ([], [], 0, gs)

namespace Convert

/-- The granules of the whole conversion. -/
def total (v : Convert) : Nat := v.rows.length * v.g

/-- One granule is handled with the generators of its cycle: the elements of the row's earlier granules keep the draws they took
(R199, R200). -/
def advance (v : Convert) (gens : List Nat) : Convert × List Nat :=
  let gi := v.step % v.g
  let pre := if gi = 0 then [] else v.pre
  let gs := pre ++ gens.drop (64 * gi)
  let (codes, scales, fl, gs') := codeRow v.i32 v.tag (fctl (BitVec.ofNat 64 v.mode) 0) v.outl v.unit0 (v.rows.getD (v.step / v.g) []) gs
  let last := gi + 1 == v.g
  let hi := if last then 256 else 64 * (gi + 1)
  let v := { v with step := v.step + 1, pre := gs.take (64 * (gi + 1)) }
  (if last then { v with out := v.out ++ [(codes, scales)], flags := v.flags ||| fl } else v,
   gens.take (64 * gi) ++ (gs'.take hi).drop (64 * gi) ++ gens.drop hi)

end Convert

/-! ### Where a drained row lies (R176, R200) -/

/-- Bytes cut at 64-byte lines from address `a`; `n` bounds the cuts. -/
def chunk64 : Nat → Nat → List Nat → List (Nat × List Nat)
  | 0, _, _ => []
  | n + 1, a, l => if l.isEmpty then [] else (a, l.take (64 - a % 64)) :: chunk64 n (a + (64 - a % 64)) (l.drop (64 - a % 64))

/-- The bytes of codes of width `w`. -/
def packBytes (w : Nat) (codes : List Nat) : List Nat :=
  (leBytes ((codes.length * w + 7) / 8) (packElems w codes)).map BitVec.toNat

/-- Bytes for a tower of the column: cell, offset, and whether only the low nibble of the last one is written. -/
structure CellBytes where
  cell : Nat
  off : Nat
  bytes : List Nat
  half : Bool := false

/-- Bytes at a column-stripe address (R200); the byte `lone` is written by its low nibble only. -/
def stripeBytes (a : Nat) (bytes : List Nat) (lone : Option Nat := none) : List CellBytes :=
  let cut (x : List Nat) (a : Nat) : List CellBytes := (chunk64 (x.length + 1) a x).map fun r =>
    ⟨r.1 / 64 % 16, 64 * (r.1 / 1024) + r.1 % 64, r.2, false⟩
  match lone with
  | none => cut bytes a
  | some n => cut (bytes.take n) a
      ++ [⟨(a + n) / 64 % 16, 64 * ((a + n) / 1024) + (a + n) % 64, [bytes.getD n 0], true⟩] ++ cut (bytes.drop (n + 1)) (a + n + 1)

/-- Bytes at image byte `y` of course `c` (R176). -/
def imageCells (a0 c y : Nat) (bytes : List Nat) : List CellBytes :=
  (chunk64 (bytes.length + 1) y bytes).map fun r => ⟨4 * c + r.1 / 64 % 4, a0 + 64 * (r.1 / 256) + r.1 % 64, r.2, false⟩

/-- The bytes of converted rows in the order in which they are written (R200). -/
def drainBytes (a0 rs nr n tag : Nat) (image : Bool) (rows : List (List Nat × List Nat)) : List CellBytes :=
  let w := tagWidth tag
  rows.zipIdx.flatMap fun r =>
    let codes := r.1.1
    let scales := r.1.2
    if image then
      let slice := sliceOf tag
      let nb := scaleBytes tag
      let full := codes ++ List.replicate (4 * slice - codes.length) 0
      let sc := scales ++ List.replicate (4 * nb - scales.length) 127
      (List.range 4).flatMap fun c =>
        imageCells a0 c (96 * r.2) (packBytes w ((full.drop (c * slice)).take slice))
          ++ imageCells a0 c (96 * nr + nb * r.2) ((sc.drop (c * nb)).take nb)
    else
      let data := packBytes w (codes.take n)
      stripeBytes (a0 + r.2 * rs) (data ++ scales) (if n * w % 8 = 0 then none else some (data.length - 1))

/-- The granule records, 4 bytes each (R200). -/
def recordBytes (a : Nat) (recs : List Nat) : List CellBytes :=
  stripeBytes a (recs.flatMap fun r => (leBytes 4 r).map BitVec.toNat)

/-- The writes as pieces of a store, or the TRAPINFO of the first byte outside the allotment (R200, R211). -/
def drainPieces (s : State) (l : List CellBytes) : Except Word (List WPiece) :=
  let pc := s.progCol s.cur s.cur.col
  l.foldr (fun b r =>
    let bad := BitVec.ofNat 64 (progAddr pc b.cell (b.off % 2 ^ 22))
    if 2 ^ 22 ≤ b.off then .error bad
    else match towerRange s ⟨s.cur.col, b.cell, b.off, pc⟩ b.bytes.length with
      | .error i => .error i
      | .ok key => r.map fun t => (⟨storeDist s s.cur.col 0 b.cell, key, b.bytes, false, b.half.toNat⟩ : WPiece) :: t) (.ok [])

/-- The store's data are there (R200). -/
def fillStore (s : State) (id : Nat) (l : List CellBytes) : State :=
  { s with stores := s.stores.map fun e =>
      if e.id == id then
        { e with ready := true, pieces := List.zipWith (fun (p : WPiece) (b : CellBytes) => { p with bytes := b.bytes }) e.pieces l }
      else e }

end Sys2Proof.Machine
end

