-- ==== Sys2Proof/Machine/Sequence.lean ====
section
/-! DEFINITION. Words that sequence an engine and move data between engines: the loop sequencer (R128–R131), mailboxes (R134),
queue registers (R135), stamps and the cycle counter (R136, R137), traps and the return from them (R140, R141). -/

namespace Sys2Proof.Machine

/-- Level `n` of the loop sequencer, if open. -/
def Engine.level? (e : Engine) (n : Nat) : Option Level := e.levels.find? fun l => l.lvl == n

/-- LPS opens a level (R128). -/
def execLps (q : Seq) (f : FmtB) (s : State) : Out :=
  wordIssue (.lps q f) q [.s f.oa]
    (fun s =>
      let e := s.e
      let cnt := (s.sv f.oa).toInt + (imm f).toInt
      consuming s [f.oa] (
        if (e.level? f.dst).isSome ∨ cnt < 1 ∨ 2 ^ 32 - 1 < cnt then .fault 0x15 (BitVec.ofNat 64 f.dst)
        else .go { st := s.setE { e with
          levels := { lvl := f.dst, head := e.idx + 1 + f.sub, count := cnt.toNat } :: e.levels } })) s

/-- A level with a register designated: its stride is replaced, or it is added as long as fewer than four are (R129). -/
def Level.designate (l : Level) (r : Nat) (st : Int) : Option Level :=
  if l.desig.any (fun d => d.1 == r) then
    some { l with desig := l.desig.map fun d => if d.1 == r then (r, st) else d }
  else if 4 ≤ l.desig.length then none
  else some { l with desig := l.desig ++ [(r, st)] }

/-- LPST gives a register a stride at an open level (R129). With an ENDLOOP of that level it strides the register at once, and waits for a word
that still has to write it (R119, R130). -/
def execLpst (q : Seq) (f : FmtB) (s : State) : Out :=
  wordIssue (.lpst q f) q (if q.sel == .endloop && s.e.levels.head?.any (fun l => l.lvl == f.oa) then [.s f.dst] else [])
    (fun s =>
      match (s.e.level? f.oa).bind fun l => l.designate f.dst (imm f).toInt with
      | none => .fault 0x15 (BitVec.ofNat 64 f.oa)
      | some l => .go { st := s.setE { s.e with levels := s.e.levels.map fun x => if x.lvl == f.oa then l else x } }) s

/-- LCRD reads the iteration or the count of a level; a closed level gives 0 (R131). -/
def execLcrd (q : Seq) (f : FmtF) (s : State) : Out :=
  wordIssue (.lcrd q f) q [.s f.dst]
    (fun s => resS s f.dst (match s.e.level? f.oa with
      | some l => BitVec.ofNat 64 (if f.sub = 1 then l.count else l.iter)
      | none => 0)) s

/-- MBRD reads a mailbox; `.clr` clears it at the end of the cycle, before a message that lands (R134). -/
def execMbrd (q : Seq) (f : FmtF) (s : State) : Out :=
  wordIssue (.mbrd q f) q [.s f.dst]
    (fun s => resS (if f.sub = 1 then s.setSl { s.sl with mbClear := f.oa :: s.sl.mbClear } else s) f.dst (s.sl.mb f.oa)) s

/-- The misuse that QPUT and QGET check (R135, R96). -/
def queueMisused (s : State) (n : Nat) (vec wr : Bool) : Bool :=
  let e := engCode s.cur.eng
  (vec && decide (n < 4)) || (!vec && decide (4 ≤ n)) || (vec && e != 1)
    || (if wr then s.sl.writerOf n != e else s.sl.readerOf n != e)

/-- QPUT writes the tail of a queue register (R135); marks and tag go with the value. -/
def execQput (q : Seq) (f : FmtA) (s : State) : Out :=
  let vec := f.sub % 2 == 1
  let try_ := decide (2 ≤ f.sub)
  wordIssue (.qput q f) q ((if vec then .v f.oa else .s f.oa) :: (if try_ then [.cf] else []))
    (fun s =>
      if queueMisused s f.dst vec true then misuse f.dst true
      else if !(s.sl.queue f.dst).hasRoom f.dst s.cyc then
        if try_ then .go { st := s, writes := [.cf false] } else .wait
      else
        let v := if vec then QVal.v (s.sl.vreg f.oa) else .s (s.e.sreg f.oa)
        .go { st := s.setSl (s.sl.reserveQueue f.dst),
              writes := .q f.dst (if vec then 3 else 2) v :: (if try_ then [.cf true] else []) }) s

/-- QGET takes the head of a queue register (R135). -/
def execQget (q : Seq) (f : FmtA) (s : State) : Out :=
  let vec := f.sub % 2 == 1
  let try_ := decide (2 ≤ f.sub)
  wordIssue (.qget q f) q ((if vec then .v f.dst else .s f.dst) :: (if try_ then [.cf] else []))
    (fun s =>
      if queueMisused s f.oa vec false then misuse f.oa false
      else match (s.sl.queue f.oa).front s.cyc with
        | none => if try_ then .go { st := s, writes := [.cf false] } else .wait
        | some v =>
          let w := match v with | .s r => Write.s f.dst r | .v r => .v f.dst r
          .go { st := s.setSl (s.sl.setQueue f.oa ((s.sl.queue f.oa).dropFront s.cyc)),
                writes := w :: (if try_ then [.cf true] else []) }) s

/-- SBASE sets the slot's STAMPBASE at the end of the cycle (R136). DESIGN CHOICE (log 135): of a firmware word this is the copy of the firmware
context itself, which RDCYC reads too, not that of the slot in FWSLOT. -/
def execSbase (q : Seq) (f : FmtB) (s : State) : Out :=
  wordIssue (.sbase q f) q [.s f.oa]
    (fun s =>
      let v := s.sv f.oa + imm f
      let v := if f.sub = 0 then BitVec.ofNat 64 s.cyc + v else v
      consuming s [f.oa] (.go { st := { s with ctlq := s.ctlq ++ [⟨s.cur, s.cur.slot, 0x021, v⟩] } })) s

/-- RDCYC (R137); of a firmware word the STAMPBASE is that of log 135. -/
def execRdcyc (q : Seq) (f : FmtF) (s : State) : Out :=
  wordIssue (.rdcyc q f) q [.s f.dst]
    (fun s =>
      let c := BitVec.ofNat 64 s.cyc
      resS s f.dst (if f.sub = 1 then c - s.sl.ctlr 0x021 else c)) s

/-! ### What decode finds (R82) -/

/-- What a stream's fetch gives. -/
inductive Fetch where
  | none
  | fault (code : Nat) (info : Word)
  | word (i : Instr)

/-- What can be seen to be illegal from a word and its section's header (R62, R128). -/
def illegalHere (e : Engine) (i : Instr) : Bool :=
  match i.form with
  | none => true
  | some w =>
    let t := w.seq.tgt
    (match w.seq.sel with
      | .j | .jc | .jnc | .call => decide (e.hdr.tcnt ≤ t)
      | _ => false)
    || (e.idx + 1 == e.hdr.len && (match w.seq.sel with
      | .exit | .done | .j | .ji | .jm | .ret => false
      | _ => true))
    || (match i with
      | .lps _ f => decide (e.hdr.len ≤ e.idx + 1 + f.sub)
      | _ => false)

/-- The checks of R82 steps 1 to 3 on a decoded word, in their order. -/
def decodeHere (k : Stream) (e : Engine) (w : Nat) : Fetch :=
  let ill := Fetch.fault 0x01 (BitVec.ofNat 64 (w / 2 ^ 32))
  match rawDecode w with
  | none => ill
  | some i =>
    match i.form with
    | none => ill
    | some fm =>
      if fm.illegal || e.badSel || illegalHere e i then ill
      else if fm.reserved ≠ 0 then .fault 0x02 (BitVec.ofNat 64 (lowBit fm.reserved))
      else if !fm.engines.contains k.eng then .fault 0x03 (BitVec.ofNat 64 fm.opc)
      else .word i

/-! ### Traps and returns -/

/-- A TRAP or BREAK word. When its FL condition holds it raises its fault; the group stands at the word, and its selector acts
on resumption (R113, R140). -/
def trapWord (i : Instr) (q : Seq) (f : FmtF) (code : Nat) (s : State) : Out :=
  wordIssue i q [] (fun _ => .fault code (BitVec.ofNat 64 f.imm16)) s

/-- TRAP (R140). -/
def execTrap (q : Seq) (f : FmtF) (s : State) : Out := trapWord (.trap q f) q f 0x17 s

/-- BREAK (R140). -/
def execBrk (q : Seq) (f : FmtF) (s : State) : Out := trapWord (.brk q f) q f 0x18 s

/-- The selector cannot act: CALL or RET with the stack full or empty, ENDLOOP with no open level, JI or JM out of range
(R141). -/
def selBlocked (s : State) (k : Stream) (q : Seq) : Bool :=
  let e := s.engAt k.ek
  match q.sel with
  | .ret => e.rets.isEmpty
  | .call => decide (4 ≤ e.rets.length)
  | .endloop => e.levels.isEmpty
  | .ji | .jm => decide (e.hdr.len ≤ s.selValue k q)
  | _ => false

/-- The engine goes on after a word under that word's selector (R140, R141): `skip` lets a selector that cannot act count as
NEXT; at the last word the section then retires as by EXIT. A JI or JM out of range that is not skipped raises ILLEGAL_ENCODING before the
engine's next word. DESIGN CHOICE (log 136): the register or the mailbox is read in the cycle of the ERET, and a selector that decode calls
illegal acts as its fields say, with a target table's missing entry read as 0. -/
def State.resumeSelector (s : State) (k : Stream) (skip : Bool) : State :=
  let w := s.wordAt k
  let e : Engine := { s.engAt k.ek with badSel := false }
  match Seq.unpack (w / 2 ^ 80) with
  | none => s
  | some q =>
    if selBlocked s k q then
      if skip then
        if e.idx + 1 = e.hdr.len then (s.setEng k.ek (e.advance { q with sel := .exit } e.cf 0)).checkRetire k
        else s.setEng k.ek { e with idx := e.idx + 1, safeHere := q.sel == .safe }
      else s.setEng k.ek { e with badSel := true }
    else
      let l := e.loopStrides q
      let e := (e.advance q e.cf (s.selValue k q)).stride l
      (s.setEng k.ek { e with safeHere := q.sel == .safe }).checkRetire k

/-- An engine of a slot resumes: STAMPBASE has moved, a held stamp is fixed anew, with its entry of a pin list, and the engines may issue from cycle `u`. -/
def State.restartEngines (s : State) (sk u : Nat) : State :=
  [0, 1, 2].foldl (fun s n =>
    let e := s.engAt (sk * 3 + n)
    s.setEng (sk * 3 + n) { e with
      sec := if e.sec == .faulted then .running else e.sec, issueFrom := max u e.issueFrom, target := none, leased := none,
      wait := 0, blocked := 0, pin := none }) s

/-- The groups that the stop of a group in a quad operation stopped with it run on from cycle `u`, their STAMPBASE moved (R106). -/
def State.resumePartners (s : State) (g u : Nat) : State :=
  (s.slots.filter fun r => r.2.stoppedBy == some g).foldl (fun s r =>
    let o := s.slotAt r.1
    let moved := BitVec.ofNat 64 (u - o.stop.getD u)
    (s.setSlot r.1 { (o.setCtl 0x021 (o.ctlr 0x021 + moved)) with stop := none, stoppedBy := none }).restartEngines r.1 u) s

/-- The group of a slot runs on (R141, R106): its engines may issue from cycle `u`; the word the trap record names is skipped or
its selector acts, as `how` says. The groups that a fault in a quad operation stopped with it run on too (R106). -/
def State.resumeOne (s : State) (sk u : Nat) (how : Option Bool) : State :=
  let col := sk / 5
  let slot := sk % 5
  let sl := s.slotAt sk
  let eng := engOf (bitsAt (sl.ctlr 0x60) 7 6)
  let k : Stream := ⟨col, slot, eng⟩
  let moved := BitVec.ofNat 64 (u - sl.stop.getD u)
  let s := s.setSlot sk { (sl.setCtl 0x021 (sl.ctlr 0x021 + moved)) with stop := none, wdogCount := 0, quadWith := [], resumed := none }
  let s := s.restartEngines sk u
  let s := match sl.gid with | some g => s.resumePartners g u | none => s
  let s := [Eng.a, .x, .d].foldl (fun (s : State) e =>
    let o : Stream := ⟨col, slot, e⟩
    if (s.engAt o.ek).sec == .waiting || (o == k && how.isNone && bitsAt (sl.ctlr 0x60) 8 8 == 1) then s.reachHeader o (u - 1) else s) s
  match how with
  | none => s
  | some skip => s.resumeSelector k skip

/-- A slot that faulted with slot `sk` in a quad operation has not had its ERET yet (R106). -/
def State.mateWaits (s : State) (sk m : Nat) : Bool :=
  (s.slotAt m).stop.isSome && (s.slotAt m).resumed.isNone && (s.slotAt m).quadWith.contains sk

/-- The group of a slot resumes in cycle `u` (R141); the groups that faulted together in one quad operation resume in one cycle, when the last of
them may (R106). DEDUCED (log 137). -/
def State.resumeGroup (s : State) (col slot u : Nat) (how : Option Bool) : State :=
  let sk := slotKey col slot
  let s := match s.groupOf sk with
    | some (g, v) => { s with groups := s.groups.put g { v with state := .running } }
    | none => s
  let mates := (s.slotAt sk).quadWith
  if mates.any (s.mateWaits sk) then s.setSlot sk { s.slotAt sk with resumed := some how }
  else
    mates.foldl (fun s m => match (s.slotAt m).resumed with
      | some h => if (s.slotAt m).stop.isSome then s.resumeOne m u h else s
      | none => s) (s.resumeOne sk u how)

/-- A group has ended and will not resume. -/
def State.groupGone (s : State) (g : Nat) : Bool :=
  match s.groups.get? g with
  | none => true
  | some v => v.state == .purged || v.state == .retired

/-- A group that waits for the ERET of the groups it faulted with resumes when none of them is there any more; one that was stopped with a group that has
ended runs on (R106). -/
def State.quadTick (s : State) : State :=
  let s := (s.slots.filterMap fun r => r.2.stoppedBy.filter s.groupGone).foldl (fun s g => s.resumePartners g s.cyc) s
  (s.slots.filter fun r => r.2.resumed.isSome && !(r.2.quadWith.any (s.mateWaits r.1))).foldl (fun s r =>
    match (s.slotAt r.1).resumed with
    | some h => s.resumeOne r.1 (s.cyc + 3) h
    | none => s) s

/-- How ERET resumes the recorded word (R113, R141): `none`, the word issues again; `some skip`, its selector acts. -/
def eretHow (s : State) (col slot : Nat) (skip : Bool) : Option Bool :=
  let sl := s.slotAt (slotKey col slot)
  let t := sl.ctlr 0x60
  let code := bitsAt t 5 0
  if bitsAt (sl.ctlr 0x136) 0 0 = 1 ∨ bitsAt t 8 8 = 1 ∨ code = 0x1A then none
  else if code = 0x17 ∨ code = 0x18 ∨ (s.engAt (slotKey col slot * 3 + bitsAt t 7 6)).badSel then some skip
  else if skip then some true else none

/-- ERET resumes the Faulted group of FWSLOT; its engines may issue from the third cycle on (R141). -/
def execEret (q : Seq) (f : FmtF) (s : State) : Out :=
  wordIssue (.eret q f) q [.cf]
    (fun s =>
      let k := s.cur
      if !k.fw then .fault 0x19 0x2F
      else
        let slot := s.ctlSlot k
        let sk := slotKey k.col slot
        match s.groupOf sk with
        | some (_, g) =>
          if g.state = .faulted then
            .go { st := s.resumeGroup k.col slot (s.cyc + 3) (eretHow s k.col slot (f.sub == 1)), writes := [.cf true] }
          else .go { st := s, writes := [.cf false] }
        | none => .go { st := s, writes := [.cf false] }) s

end Sys2Proof.Machine
end

