-- ==== Sys2Proof/Machine/Fold.lean ====
section
/-! DEFINITION. The matrix words (R193–R206), stamped issue (R103–R105), the matrix lease (R112, R202, R417) and the joint between
two columns (R188–R190). -/

namespace Sys2Proof.Machine

/-! ### The lease (R112, R202, R417) -/

/-- A stream holds the fixed target of a QUAD = 1 command that counts: its slot holds the lease and has not stopped (R105, R106). -/
def State.heldQuad (s : State) (k : Stream) : Bool :=
  (s.engAt k.ek).target.isSome && s.holdsLease k && (s.slotAt k.sk).stop.isNone &&
  (match rawDecode (s.wordAt k) with | some (.mmaq _ _) => true | _ => false)

/-- The quad counts of a quad return to 0; commands that hold a target are counted again (R105). -/
def State.recountQuad (s : State) (col : Nat) : State :=
  (quadCols (quadOf col)).foldl (fun s c =>
    let held := (List.range 4).filter fun n => s.heldQuad ⟨c, n, .x⟩
    let s := held.zipIdx.foldl (fun s h =>
      let k : Stream := ⟨c, h.1, .x⟩
      s.setEng k.ek { s.engAt k.ek with quadNo := h.2 }) s
    let x := s.colAt c
    s.setCol c { x with quadCount := held.length, quadReset := false }) s

/-- The quad counts of a column's quad are to return to 0 at the end of this cycle (R105). -/
def State.resetQuad (s : State) (col : Nat) : State := s.setCol col { s.colAt col with quadReset := true }

/-- The quad counts that events of the cycle reset return to 0 (R105). -/
def State.resetQuads (s : State) : State := (s.cols.filter fun r => r.2.quadReset).foldl (fun s r => s.recountQuad r.1) s

/-- Words that write matrix state. -/
def writesMatrix : Instr → Bool
  | .mld _ _ | .mma _ _ | .mmaq _ _ | .mmac _ _ | .mzero _ _ => true
  | _ => false

/-- The matrix state of a column is cleared for another context; words of groups that are gone, which would still write it, no longer do (R417). -/
def State.clearForeign (s : State) (col : Nat) : State :=
  let gone := (s.flights.filter fun f => f.at_.col == col && writesMatrix f.ins).map Flight.id
  let c := s.colAt col
  let s := if gone.isEmpty then s
    else { s with flights := s.flights.filter fun f => !gone.contains f.id }.setCol col { c with
      products := [], converts := c.converts.filter (fun v => !gone.contains v.id), bypassAsk := none,
      arrayFree := if c.arrayFree = never then s.cyc + 1 else c.arrayFree }
  s.clearMatrix col

/-- The lease passes to a slot: another context's matrix state is cleared first, and MATCTX names the context (R112, R417). -/
def State.grantLease (s : State) (col slot : Nat) : State :=
  let ctx := s.ctxOf ⟨col, slot, .x⟩
  let old := ((s.colAt col).ctlr 0x113).toNat
  let s := if old ≠ 0 ∧ old ≠ ctx then s.clearForeign col else s
  let c := s.colAt col
  let c := c.setCtl 0x113 (BitVec.ofNat 64 ctx)
  let c := { c with lease := some slot, written := [], leaseWait := c.leaseWait.filter fun w => w.1 != slot }
  (s.setCol col c).resetQuad col

/-- The latency of an MLEASE from its grant (R206, R417). -/
def State.leaseLatency (s : State) (col slot : Nat) : Nat :=
  let old := ((s.colAt col).ctlr 0x113).toNat
  if old ≠ 0 ∧ old ≠ s.ctxOf ⟨col, slot, .x⟩ then 4481 else 1

/-- The lease is released; the slots that wait for it are looked at in this cycle (R112). -/
def State.releaseLease (s : State) (col : Nat) : State :=
  let c := s.colAt col
  let s := (s.setCol col { c with lease := none }).resetQuad col
  if c.leaseWait.isEmpty then s else s.due s.cyc 760 (.leaseGrant col)

/-- The matrix state of a column's lease holder as a save takes it: all tile registers, and the granules it has written (R112,
R374). -/
def State.captureMatrix (s : State) (col : Nat) : MatrixSave :=
  let c := s.colAt col
  let part (a n : Nat) : List Host.Cell := (s.mem.filter fun x => decide (a ≤ x.1 ∧ x.1 < a + n)).map fun x => (x.1 - a, x.2)
  let a0 := accKey col 0 0
  { tiles := part (tileKey col 0 0 0) (64 * 2 ^ 15), accs := c.written.flatMap fun g => (part (accKey col g 0) 256).map fun x =>
      (accKey col g 0 - a0 + x.1, x.2),
    grans := c.written, mshape := c.ctl.filter fun r => decide (0x040 ≤ r.1 ∧ r.1 ≤ 0x04F), foldrec := c.ctlr 0x030,
    tileBad := c.tileBad, accBad := c.accBad.filter fun g => c.written.contains g,
    recs := c.recs.filter fun r => c.written.contains r.1 }

/-- Saved matrix state is put back when the lease is taken again (R112, R363). -/
def State.restoreMatrix (s : State) (col : Nat) (m : MatrixSave) : State :=
  let put (s : State) (a : Nat) (l : List Host.Cell) : State := { s with mem := l.foldl (fun t x => Memory.write t (a + x.1) x.2) s.mem }
  let s := put (s.zeroRange (tileKey col 0 0 0) (64 * 2 ^ 15)) (tileKey col 0 0 0) m.tiles
  let s := put (m.grans.foldl (fun s g => s.zeroRange (accKey col g 0) 256) s) (accKey col 0 0) m.accs
  let c := s.colAt col
  let shapes := (List.range 16).foldl (fun (l : Map Word) n => l.del (0x040 + n)) c.ctl
  let out (n : Nat) : Bool := !m.grans.contains n
  s.setCol col { c with
    ctl := (m.mshape.foldl (fun (l : Map Word) r => l.put r.1 r.2) shapes).put 0x030 m.foldrec, tileBad := m.tileBad,
    accBad := c.accBad.filter out ++ m.accBad, written := m.grans,
    recs := m.recs.foldl (fun (l : Map Nat) r => l.put r.1 r.2) (c.recs.filter fun r => out r.1) }

/-- The lease that a slot's restored group waits for is there: its matrix state is put back, and X may issue after a cycle, or after
the clear of another context's state (R112, R206, R417). -/
def State.repayLease (s : State) (col slot lat : Nat) : State :=
  let sk := slotKey col slot
  match (s.slotAt sk).owed with
  | none => s
  | some m =>
    let s := s.restoreMatrix col m
    let k : Stream := ⟨col, slot, .x⟩
    (s.setSlot sk { s.slotAt sk with owed := none }).setEng k.ek { s.engAt k.ek with issueFrom := max (s.engAt k.ek).issueFrom (s.cyc + lat) }

/-- LEASE_GRANT: a free lease passes to the waiting slot with the lowest priority number, then the lowest slot (R112); its MLEASE
completes (R206), or its group takes up its matrix state. -/
def execLeaseGrant (col : Nat) (s : State) : Out :=
  let c := s.colAt col
  match c.lease, c.leaseWait with
  | none, w :: t =>
    let best := t.foldl (fun b x => if x.2 < b.2 ∨ (x.2 = b.2 ∧ x.1 < b.1) then x else b) w
    let lat := s.leaseLatency col best.1
    let s := (s.grantLease col best.1).repayLease col best.1 lat
    .next ((s.flights.filter fun f => f.at_ == ⟨col, best.1, .x⟩ && f.pend == .lease).foldl (fun s f =>
      (s.setFlight { f with writes := [.cf true] }).due (s.cyc + lat) 600 (.wordComplete f.id)) s)
  | _, _ => .next s

/-- A matrix instruction (R112). -/
def isMatrixWord : Instr → Bool
  | .mld _ _ | .mma _ _ | .mmaq _ _ | .mmac _ _ | .mdrain _ _ | .mzero _ _ | .mperturb _ _ => true
  | _ => false

/-- MATRIX_LEASE at decode: whether the slot held the lease at the start of the first cycle in which the word was the next of its stream (R205). -/
def leaseDec (s : State) : Option (Nat × Word) :=
  if s.e.leased.getD (s.atDawn.holdsLease s.cur) then none else some (0x1B, s.atDawn.leaseInfo s.cur)

/-- A word that checks the lease at decode (R205). -/
def leaseChecked : Instr → Bool
  | .mfree _ _ | .mfold _ _ => true
  | i => isMatrixWord i

/-- A stream's next word checks the lease at decode: whether its slot holds it is noted in the word's first cycle (R205). -/
def State.noteLease (s : State) (k : Stream) : State :=
  let e := s.engAt k.ek
  if e.leased.isSome || !s.canIssue k then s
  else match rawDecode (s.wordAt k) with
    | some i => if leaseChecked i then s.setEng k.ek { e with leased := some (s.holdsLease k) } else s
    | none => s

/-- The region of the group of the current stream. -/
def regionOf (s : State) : Region := ((s.groupOf s.cur.sk).map fun g => g.2.region).getD {}

/-- MLEASE (R112, R202). A lease that has been freed in this cycle belongs to the slots that wait for it. -/
def execMlease (q : Seq) (f : FmtF) (s : State) : Out :=
  wordIssue (.mlease q f) q [.cf]
    (fun s =>
      let k := s.cur
      let c := s.colAt k.col
      if !(regionOf s).matrix then .fault 0x1B (s.leaseInfo k)
      else match if c.leaseWait.isEmpty then c.lease else c.lease.or (some 4) with
        | none =>
          let lat := s.leaseLatency k.col k.slot
          .go { st := s.grantLease k.col k.slot, lat := lat, writes := [.cf true], hold := lat != 1 }
        | some n =>
          if n = k.slot then .go { st := s, writes := [.cf true] }
          else if f.sub % 2 = 1 then .go { st := s, writes := [.cf false] }
          else .go { st := s.setCol k.col { c with leaseWait := c.leaseWait ++ [(k.slot, (regionOf s).prio)] }, lat := 2,
                     busy := [.cf], pend := .lease, hold := true }) s

/-- The matrix instructions of a slot that have not completed. -/
def State.matrixFlights (s : State) (col slot : Nat) : List Nat :=
  (s.flights.filter fun f => f.at_.col == col && f.at_.slot == slot && isMatrixWord f.ins).map Flight.id

/-- MFREE (R202): it holds X until the matrix work that the slot issued earlier is done, clears what `.clr` names, and releases the
lease when it completes. -/
def execMfree (q : Seq) (f : FmtF) (s : State) : Out :=
  wordIssue (.mfree q f) q []
    (fun s =>
      let k := s.cur
      match s.matrixFlights k.col k.slot with
      | [] => if f.sub % 2 = 1 then .go { st := s.clearMatrix k.col, lat := 4480, hold := true } else .go { st := s.releaseLease k.col }
      | l => .go { st := s.due s.cyc 605 (.wordComplete s.nextId), lat := 2, pend := .matrix l, hold := true }) s leaseDec

/-- MFOLD reads the fold state (R203). -/
def execMfold (q : Seq) (f : FmtF) (s : State) : Out :=
  wordIssue (.mfold q f) q [.s f.dst, .s f.oa, .cf]
    (fun s =>
      let v := BitVec.ofNat 64 (State.foldAvail (s.foldstat s.cur.col) + (s.foldstat s.cur.col).toNat / 16 * 16)
      let u := foldOut v
      let p := (s.sv f.oa).toNat
      let out := match f.sub with
        | 0 => BitVec.ofNat 64 (occupancy (passPlan u u (foldJdeg v) p))
        | 1 => BitVec.ofNat 64 (occupancy (passPlan u 0 (foldJdeg v) p))
        | 2 => if foldUnavailable v 2 false then BitVec.allOnes 64 else BitVec.ofNat 64 (occupancy (passPlan u 0 (foldJdeg v) p))
        | _ => v
      consuming s (if f.sub = 3 then [] else [f.oa])
        (.go { st := s, writes := [.s f.dst { val := out }, .cf (u == 0 && foldJdeg v == 0)] })) s leaseDec

/-- MPERTURB arms the slot (R204). -/
def execMperturb (q : Seq) (f : FmtD) (s : State) : Out :=
  wordIssue (.mperturb q f) q [.s f.ma]
    (fun s => consuming s [f.ma] (
      if !(regionOf s).debug then .fault 0x19 0x089
      else if (s.replayOf s.cur).isSome then .go { st := s }
      else
        let v := s.sv f.ma
        .go { st := s.setSl { s.sl with perturb := some (f.acc % 32768, bitsAt v 5 0, bitsAt v 63 32) } })) s leaseDec

/-! ### Tile loads and clearing (R197, R201) -/

/-- A word in flight from an earlier cycle still has to write a tile register (R187). -/
def State.tileAwaits (s : State) (col m : Nat) : Bool :=
  s.flights.any fun f => f.at_.col == col && decide (f.issued < s.cyc) && (match f.ins with
    | .mld _ g => g.data == m
    | .mmac _ g => g.md == m
    | .mzero _ g => g.sub % 2 == 1 && g.md == m
    | _ => false)

/-- An earlier product of the quad still has to read a tile register (R187, R193). -/
def State.tileRead (s : State) (col m : Nat) : Bool :=
  (quadCols (quadOf col)).any fun c => (s.colAt c).products.any fun p => p.reads.contains (col * 16 + m) && decide (s.cyc < p.free)

/-- TRAPINFO of ILLEGAL_ENCODING by an operand value: the word's bits [95:32] (R116). -/
def illegalInfo (i : Instr) : Word := BitVec.ofNat 64 ((encodeWord i).getD 0 / 2 ^ 32)

/-- The pieces of an MLD: the 64-bit words of the four course images (R176); the lane holds course and image byte. -/
def tilePieces (s : State) (w : Window) (a0 n : Nat) : List Piece :=
  let pc := s.progCol s.cur s.cur.col
  (List.range 4).flatMap fun c => (List.range ((n + 7) / 8)).map fun x =>
    let y := 8 * x
    let cell := 4 * c + y / 64 % 4
    let off := a0 + 64 * (y / 256) + y % 64
    ⟨c * 2 ^ 15 + y, towerKey s.cur.col cell (w.base + off), progAddr pc cell off, min 8 (n - y), 0, false, 0, none⟩

/-- MLD loads a tile register (R197). -/
def execMld (q : Seq) (f : FmtC) (s : State) : Out :=
  wordIssue (.mld q f) q [.s f.base, .s f.aux]
    (fun s =>
      let k := s.cur
      if 16 ≤ s.loadCount k ∨ s.tileRead k.col f.data then .wait
      else consuming s [f.base, f.aux] (
        let a0 := (s.effAddr f).toNat
        let dim := (s.sv f.aux).toNat
        let pc := s.progCol k k.col
        if dim < 1 ∨ 192 < dim then .fault 0x01 (illegalInfo (.mld q f))
        else if a0 % 64 ≠ 0 then .fault 0x0B (BitVec.ofNat 64 (progAddr pc 0 (a0 % 2 ^ 22)))
        else
          let n := imageBytes f.fmt dim
          let len := 64 * ((n + 255) / 256)
          match s.window k k.col with
          | none => .fault 0x09 (BitVec.ofNat 64 (progAddr pc 0 (a0 % 2 ^ 22)))
          | some w =>
            if w.size < a0 + len then .fault 0x09 (BitVec.ofNat 64 (progAddr pc 0 (max a0 w.size % 2 ^ 22)))
            else
              let shape := BitVec.ofNat 64 (dim * 256 + f.fmt)
              let s' := { s with ctlq := s.ctlq ++ [⟨k, k.slot, 0x040 + f.data, shape⟩] }
              match loadGo s' (tilePieces s w a0 n) ((n + 255) / 256 + 8) [] (.tile [f.data, f.fmt, dim]) with
              | .fault c i => .fault c i
              | a => a)) s leaseDec

/-- The pieces of an MLD are written into the tile register, and the lines that read poison are poisoned (R178, R197). -/
def State.finishTile (s : State) (f : Flight) (m tag dim : Nat) : State :=
  let col := f.at_.col
  let s := f.pieces.foldl (fun s p => s.store (tileKey col m (p.lane / 2 ^ 15) (p.lane % 2 ^ 15)) p.size p.got) s
  let lineOf (y : Nat) : Nat := if y < 96 * dim then y / 96 else (y - 96 * dim) / scaleBytes tag
  let bad := (f.pieces.filter fun p => p.mark.isSome).flatMap fun p =>
    (List.range p.size).map fun b => lineNo m (lineOf (p.lane % 2 ^ 15 + b))
  let c := s.colAt col
  s.setCol col { c with tileBad := (c.tileBad.filter fun l => decide (l / 256 ≠ m ∨ dim ≤ l % 256)) ++ distinct bad }

/-- Granules that an MZERO in flight clears (R187). -/
def Flight.zeroes (f : Flight) (g : Nat) : Bool :=
  match f.ins, f.pend with
  | .mzero _ z, .matrix [n] => z.sub % 2 == 0 && decide ((g + 32768 - z.acc % 32768) % 32768 < n)
  | _, _ => false

/-- A product that still has to write a granule, or an MZERO (R187). -/
def State.granuleAwaits (s : State) (col g : Nat) : Bool :=
  (s.colAt col).products.any (fun p => (p.batchOf g).isSome) || s.flights.any fun f => f.at_.col == col && f.zeroes g

/-- MZERO clears granules or a tile register (R201). -/
def execMzero (q : Seq) (f : FmtD) (s : State) : Out :=
  let tile := f.sub % 2 == 1
  wordIssue (.mzero q f) q (if tile then [] else [.s f.ma])
    (fun s =>
      let k := s.cur
      if tile then
        if s.tileRead k.col f.md ∨ s.tileAwaits k.col f.md then .wait
        else .go { st := s.due (s.cyc + 23) 600 (.wordComplete s.nextId), lat := 24, pend := .matrix [] }
      else consuming s [f.ma] (
        let n := (s.sv f.ma).toNat
        if n < 1 ∨ 32768 < n then .fault 0x01 (illegalInfo (.mzero q f))
        else if (List.range n).any fun x => s.granuleAwaits k.col (f.acc + x) then .wait
        else .go { st := s.due (s.cyc + (n + 7) / 8 + 1) 600 (.wordComplete s.nextId), lat := (n + 7) / 8 + 2,
                   pend := .matrix [n] })) s leaseDec

/-! ### Products (R193, R194, R198) -/

/-- The columns whose registers MA and MB a word reads (R193). -/
def operandCols (k : Stream) (quad : Bool) : Nat × Nat :=
  if quad then
    let c := quadCols (quadOf k.col)
    (c.getD (2 * (quadPos k.col / 2)) 0, c.getD (quadPos k.col % 2) 0)
  else (k.col, k.col)

/-- Tag and lines of MA, MB and MD as a stamped command captures them at its cycle h (R193, R198). -/
def captureShapes (s : State) (k : Stream) (f : FmtD) (quad : Bool) : List (Nat × Nat) :=
  let c := operandCols k quad
  let sh (col m : Nat) : Nat × Nat := (shapeTag (s.shapeAt col m), shapeDim (s.shapeAt col m))
  [sh c.1 f.ma, sh c.2 f.mb, sh k.col f.md]

/-- The shapes a command uses: those captured at h, or the present ones when this is h. DEDUCED (log 112): an operand register that is empty at h takes the shape
of the tile that an MLD brings before the command issues, as the runs of R500 and R504 have it. -/
def shapesOf (s : State) (k : Stream) (f : FmtD) (quad : Bool) : List (Nat × Nat) :=
  let e := s.engAt k.ek
  let now := captureShapes s k f quad
  if e.target.isSome then
    e.shapes.zipIdx.map fun x => if x.1.1 = 0 ∧ x.2 < 2 then now.getD x.2 x.1 else x.1
  else now

/-- The target cycle of a stamped command (R103). -/
def stampTarget (s : State) (k : Stream) (f : FmtD) : Nat :=
  ((s.engAt k.ek).target).getD (((s.slotAt k.sk).ctlr 0x021).toNat + f.stamp)

/-- The stamped commands: kind 0 MMA, 1 MMAQ, 2 MMAC, with their fields. -/
def stampedOf : Instr → Option (Nat × FmtD)
  | .mma _ f => some (0, f)
  | .mmaq _ f => some (1, f)
  | .mmac _ f => some (2, f)
  | _ => none

/-- FOLDPIN of a slot imposes orders (R192). -/
def pinnedSlot (s : State) (k : Stream) : Bool := bitsAt ((s.slotAt k.sk).ctlr 0x111) 0 0 == 1

/-- The operands of a product. -/
def mOperands (s : State) (k : Stream) (f : FmtD) (quad : Bool) : MOperand × MOperand :=
  let c := operandCols k quad
  let sh := shapesOf s k f quad
  (⟨c.1, f.ma, (sh.getD 0 (0, 0)).1, (sh.getD 0 (0, 0)).2⟩, ⟨c.2, f.mb, (sh.getD 1 (0, 0)).1, (sh.getD 1 (0, 0)).2⟩)

/-- A register of a product has a tag outside R40, which a restored group can hold: FORMAT_MISMATCH with its position (R41, R43). -/
def tagMismatch (s : State) (k : Stream) (kind : Nat) (f : FmtD) : Option (Nat × Word) :=
  let (a, b) := mOperands s k f (kind == 1)
  let td := ((shapesOf s k f (kind == 1)).getD 2 (0, 0)).1
  let bad (t : Nat) : Bool := !Use.legalTags.contains t
  if bad a.tag then some (0x04, mismatchInfo a.tag a.tag f.ma 0)
  else if bad b.tag then some (0x04, mismatchInfo b.tag b.tag f.mb 1)
  else if kind = 2 ∧ bad td then some (0x04, mismatchInfo td td f.md 2)
  else none

/-- A command that waits for its target has an operand register that is still empty (log 112). -/
def awaitsTile (s : State) (k : Stream) (f : FmtD) (a b : MOperand) : Bool :=
  (a.tag == 0 || b.tag == 0) && decide (s.cyc < stampTarget s k f)

/-- UNIMPLEMENTED_COMBINATION of a product, after MATRIX_LEASE (R195, R198, R199, R205); a tag outside R40 is found at issue. -/
def productDec (kind : Nat) (f : FmtD) (s : State) : Option (Nat × Word) :=
  match leaseDec s with
  | some x => some x
  | none =>
    let (a, b) := mOperands s s.cur f (kind == 1)
    let td := ((shapesOf s s.cur f (kind == 1)).getD 2 (0, 0)).1
    if (tagMismatch s s.cur kind f).isSome || awaitsTile s s.cur f a b then none
    else if !pairOk a.tag b.tag || (f.sub / 2 % 2 == 1 && !mixedPair a.tag b.tag) then
      some (0x05, BitVec.ofNat 64 (a.tag + b.tag * 256))
    else if kind = 2 ∧ (td = 0 ∨ (a.tag = 9 ∧ td ≠ 9)) then
      some (0x05, BitVec.ofNat 64 ((if a.tag = 9 then 8 else 1) + td * 256))
    else none

/-- The product that a command would start now, without its operands' values. -/
def planProduct (s : State) (k : Stream) (kind : Nat) (f : FmtD) (id : Nat) : Product :=
  let (a, b) := mOperands s k f (kind == 1)
  let v := s.foldstat k.col
  let u := foldOut v
  let pinned := pinnedSlot s k
  let late := if pinned then (((s.engAt k.ek).pin.map fun x => x.2.2).getD 0) else if f.fold = 0 then u else 0
  let ps := passPlan u late (foldJdeg v) (a.dim * granulesOf b.dim)
  let seqno := ((s.slotAt k.sk).ctlr 0x112).toNat
  { id := id, slot := k.slot, kind := kind, acc := f.acc % 32768, m := a.dim, n := b.dim, z := f.sub % 2 == 1, i32 := a.tag == 9,
    late := late, record := foldRecord v late ps.length seqno pinned, reads := [a.col * 16 + a.reg, b.col * 16 + b.reg],
    passes := MPass.schedule ps s.cyc, after := s.cyc, md := f.md, mdTag := ((shapesOf s k f (kind == 1)).getD 2 (0, 0)).1, outl := f.sub / 4 % 2 == 1,
    mode := ((s.slotAt k.sk).ctlr 0).toNat }

/-- Every issue condition of a product but its stamp, tokens and scoreboard is met (R103, R187). -/
def productReady (s : State) (k : Stream) (kind : Nat) (f : FmtD) : Bool :=
  let c := s.colAt k.col
  let cols := operandCols k (kind == 1)
  let p := planProduct s k kind f s.nextId
  let grans := List.range p.batches
  decide (c.arrayFree ≤ s.cyc) && !s.tileAwaits cols.1 f.ma && !s.tileAwaits cols.2 f.mb
    && (kind != 2 || !s.tileRead k.col f.md)
    && (!pinnedSlot s k || ((s.engAt k.ek).pin.isSome && decide ((s.engAt k.ek).pinAt ≤ s.cyc)))
    && !grans.any (fun n =>
        c.products.any (fun o => match o.batchOf (p.granule n) with
          | some m => decide (p.firstAccess n ≤ o.lastAccess m)
          | none => false)
        || c.drains.any (fun d => d.1 == p.granule n && decide (p.firstAccess n ≤ d.2))
        || s.flights.any fun x => x.at_.col == k.col && x.zeroes (p.granule n))

/-! #### Quad operations (R104, R105) -/

/-- The stream of a column that holds its lease with an MMAQ of a quad count, by its fields and target. -/
def quadHolder (s : State) (col no : Nat) : Option (Stream × FmtD × Nat) :=
  match (s.colAt col).lease with
  | none => none
  | some n =>
    let k : Stream := ⟨col, n, .x⟩
    let e := s.engAt k.ek
    match e.target, rawDecode (s.wordAt k) with
    | some t, some (.mmaq _ f) => if e.quadNo = no then some (k, f, t) else none
    | _, _ => none

/-- The MMAQ that a column's lease holder has issued in this cycle: it belongs to the operation whose other commands issue in this
cycle with it (R104). -/
def quadIssued (s : State) (col target : Nat) : Option (Stream × FmtD × Nat) :=
  s.flights.findSome? fun x => match x.ins with
    | .mmaq _ f => if x.issued = s.cyc ∧ x.at_.col = col then some (x.at_, f, target) else none
    | _ => none

/-- The count of a command: its own, or the one it takes now (R105). -/
def quadNumber (s : State) (k : Stream) : Nat :=
  let e := s.engAt k.ek
  if e.target.isSome then e.quadNo else (s.colAt k.col).quadCount

/-- The commands of the quad operation of a stream's MMAQ, by position; its own stands in its place (R104). -/
def quadWords (s : State) (k : Stream) (f : FmtD) : List (Option (Stream × FmtD × Nat)) :=
  (quadCols (quadOf k.col)).map fun c =>
    if c = k.col then some (k, f, stampTarget s k f)
    else (quadIssued s c (stampTarget s k f)).or (quadHolder s c (quadNumber s k))

/-- The FL condition, the scoreboard, the pops and the fences let a product issue, and its arrays and operands are there (R63, R64, R103, R107, R119,
R309). -/
def productGoes (s : State) (k : Stream) (i : Instr) (q : Seq) (kind : Nat) (f : FmtD) : Bool :=
  s.canIssue k && !s.blockedOn k (seqRegs (s.engAt k.ek) q) && s.popsMet k q && !s.fenceHolds k i q && productReady s k kind f

/-- A partner can issue in this cycle, or has done so (R104). -/
def partnerReady (s : State) (k : Stream) (f : FmtD) : Bool :=
  s.issued.contains k ||
  match rawDecode (s.wordAt k) with
    | some i => ((i.form).map fun w => productGoes s k i w.seq 1 f).getD false
    | none => false

/-- The positions of a quad whose command is not ready, as a mask (R104). -/
def quadNotReady (s : State) (k : Stream) (f : FmtD) : Nat :=
  (quadWords s k f).zipIdx.foldl (fun m x =>
    match x.1 with
    | none => m + 2 ^ x.2
    | some (k', f', _) => if k' == k || partnerReady s k' f' then m else m + 2 ^ x.2) 0

/-- The four commands have their targets, and these or other fields that must agree differ; the smallest target (R104, R194). -/
def quadClash (s : State) (k : Stream) (f : FmtD) : Option Nat :=
  let l := (quadWords s k f).filterMap id
  if l.length < 4 then none
  else if l.any fun x => x.2.2 != stampTarget s k f || x.2.1.slip != f.slip || x.2.1.ma != f.ma || x.2.1.mb != f.mb
      || x.2.1.fold != f.fold then some (l.foldl (fun m x => min m x.2.2) (stampTarget s k f))
  else none

/-- Poison that MMAC finds: the first granule of its result that a poisoned C or a poisoned operand line would poison (R178,
R199). -/
def mmacPoison (s : State) (k : Stream) (p : Product) (a b : MOperand) : Option Nat :=
  let bad (o : MOperand) (i : Nat) : Bool := (s.colAt o.col).tileBad.contains (lineNo o.reg i)
  let g := granulesOf p.n
  let s := s.settleProducts k.col s.cyc
  ((List.range p.batches).find? fun n =>
    (!p.z && s.poisonedBy k.col s.cyc (p.granule n)) || bad a (n / g)
      || (List.range' (64 * (n % g)) 64).any fun j => decide (j < p.n) && bad b j).map p.granule

/-- The faults of a product that R205 lists before the pin list: shapes, for MMAC poison, and the fold state. -/
def productFault (s : State) (k : Stream) (kind : Nat) (f : FmtD) : Option (Nat × Word) :=
  let (a, b) := mOperands s k f (kind == 1)
  let p := planProduct s k kind f s.nextId
  let v := s.foldstat k.col
  if (tagMismatch s k kind f).isSome then tagMismatch s k kind f
  else if a.dim < 1 ∨ 96 < a.dim then some (0x04, mismatchInfo a.tag a.tag f.ma 0)
  else if b.dim < 1 then some (0x04, mismatchInfo b.tag b.tag f.mb 1)
  else match if kind = 2 then mmacPoison s k p a b else none with
    | some g => some (0x0D, BitVec.ofNat 64 (g * 256))
    | none => if foldUnavailable v f.fold (pinnedSlot s k) then some (0x0F, BitVec.ofNat 64 (State.foldAvail v)) else none

/-- The fault that a partner's command raises in this cycle in place of issuing, one of its decode among them (R82, R104, R106, R205). -/
def partnerFault (s : State) (k : Stream) (f : FmtD) : Option (Nat × Word) :=
  if s.issued.contains k || !s.canIssue k then none
  else match decodeHere k (s.engAt k.ek) (s.wordAt k) with
    | .none => none
    | .fault c x => some (c, x)
    | .word i => match i.form with
      | none => none
      | some w =>
        if (productDec 1 f { s with cur := k }).isSome then productDec 1 f { s with cur := k }
        else if !productGoes s k i w.seq 1 f then none
        else match s.selFault k w.seq with
          | some x => some x
          | none => match productFault s k 1 f with
            | some x => some x
            | none => ((s.atDawn.slotAt k.sk).overCeiling (pushList w.seq k.eng) s.cyc).map fun n =>
                (0x07, BitVec.ofNat 64 (n + 16 * (s.slotAt k.sk).ceiling n))

/-- TRAPINFO of SCHEDULE_MISS (R116); `mask` names the quad's columns that are not ready. -/
def missInfo (k : Stream) (f : FmtD) (mask : Nat) : Word :=
  let low := ((quadCols (quadOf k.col)).zipIdx.filterMap fun x => if mask.testBit x.2 then some x.1 else none)
  BitVec.ofNat 64 (f.stamp % 2 ^ 20 + mask * 2 ^ 32 + (if low.isEmpty then 0 else low.foldl min 255) * 2 ^ 40)

/-- A quad operation ends in SCHEDULE_MISS in every column that holds a command of it (R104, R105); a command that has a fault which R205 lists
earlier raises that one, and the others then stop without a fault (R106). A pinned product never raises SCHEDULE_MISS (R192). -/
def State.quadMiss (s : State) (k : Stream) (f : FmtD) (mask : Nat) : State :=
  let l := ((quadWords s k f).filterMap id).filter fun x => !pinnedSlot s x.1
  let own := l.filterMap fun x => ((productDec 1 x.2.1 { s with cur := x.1 }).or (productFault s x.1 1 x.2.1)).map fun c => (x.1, c)
  let hit := if own.isEmpty then l.map fun x => (x.1, (0x06, missInfo x.1 x.2.1 mask)) else own
  let s := hit.foldl (fun s x =>
    let t := s.takeFault x.1 x.2.1 x.2.2
    { t with issued := t.issued ++ [x.1] }) s
  if own.isEmpty then s.resetQuad k.col else s

/-- A slot's group has stopped in this cycle, by a fault or to be saved, while its command of a quad operation held its target (R106). -/
def State.quadStops (s : State) (sk : Nat) : Bool :=
  let k : Stream := ⟨sk / 5, sk % 5, .x⟩
  let sl := s.slotAt sk
  sl.stop == some s.cyc && sl.stoppedBy.isNone && !k.fw && (s.engAt k.ek).target.isSome && s.holdsLease k
    && (match s.groupOf sk with | some (_, g) => (g.state == .faulted || g.state == .preempting) && g.stoppedAt == s.cyc | none => false)
    && (match rawDecode (s.wordAt k) with | some (.mmaq _ _) => true | _ => false)

/-- The four groups of a quad operation stop in one cycle (R106): where one has stopped, the others that hold a command of the operation stop without a
fault of their own until it resumes, and those that have faulted with it will resume with it. A stopped command fixes its target again. -/
def State.stopQuads (s : State) : State :=
  let stopped := (s.slots.filter fun r => s.quadStops r.1).map (·.1)
  let faulted := stopped.filter fun sk => (s.groupOf sk).any fun g => g.2.state == .faulted
  let s := stopped.foldl (fun s sk =>
    let k : Stream := ⟨sk / 5, sk % 5, .x⟩
    (quadCols (quadOf k.col)).foldl (fun s c =>
      match if c = k.col then none else quadHolder s c (s.engAt k.ek).quadNo with
      | none => s
      | some (o, _, _) =>
        let sl := s.slotAt o.sk
        if faulted.contains sk && faulted.contains o.sk then s.setSlot o.sk { sl with quadWith := sl.quadWith ++ [sk] }
        else if sl.stop.isSome then s
        else s.setSlot o.sk { sl with stop := some s.cyc, stoppedBy := (s.slotAt sk).gid }) s) s
  (s.slots.filter fun r => r.2.stop == some s.cyc).foldl (fun s r =>
    let k : Stream := ⟨r.1 / 5, r.1 % 5, .x⟩
    if (s.engAt k.ek).target.isSome then s.setEng k.ek { s.engAt k.ek with target := none } else s) s

/-! #### Issue -/

/-- The other column of the pair that shares a bypass (R18). -/
def bypassPartner (col : Nat) : Nat := if col % 2 = 0 then col + 1 else col - 1

/-- The entry in its log slot for an audited group's product of MSEQ value `n`; the slot has room for 65,520 (R476, R478). -/
def State.logEntry (s : State) (sk n : Nat) : Option Nat :=
  if 65520 ≤ n then none
  else (((s.groupOf sk).bind fun g => g.2.audit).filter fun a => a.replayOf.isNone).map fun a =>
    bitsAt (s.devr 0x185) 51 18 * 2 ^ 18 + 2 ^ 18 * a.logSlot + 64 + 4 * n

/-- The record of an audited product goes into its log entry (R476). -/
def State.logRecord (s : State) (at_ : Option Nat) (record : Nat) : State :=
  match at_ with
  | some a => s.farStore a 4 (record % 2 ^ 32)
  | none => s

/-- The end of the passes of a column that have a start (R185). -/
def Column.lastPass (c : Column) : Nat :=
  c.products.foldl (fun n p => p.passes.foldl (fun n x => if x.start = never then n else max n (x.start + x.step * (x.hi - x.lo))) n) 0

/-- A product has a pass that has no start yet. -/
def Product.unstarted (p : Product) : Bool := p.cut.isNone && p.passes.any fun x => x.start == never

/-- A column whose next pass could begin asks for the bypass (R189). -/
def State.askBypass (s : State) (col : Nat) : State :=
  let c := s.colAt col
  if c.bypassAsk.isNone && c.products.any Product.unstarted && decide (c.lastPass ≤ s.cyc) then s.setCol col { c with bypassAsk := some s.cyc }
  else s

/-- The first of the passes that have no start gets one. -/
def MPass.begin (t : Nat) : List MPass → List MPass
  | [] => []
  | x :: l => if x.start = never then { x with start := t } :: l else x :: begin t l

/-- The next pass of a column takes the bypass and holds it for the whole pass (R189). -/
def State.startPass (s : State) (col : Nat) : State :=
  let c := s.colAt col
  match c.products.find? Product.unstarted with
  | none => s
  | some p =>
    let p := { p with passes := MPass.begin (max s.cyc p.after) p.passes }
    let l := c.products.map fun x => if x.id == p.id then p else x
    let c := { c with products := l, bypassAsk := none }
    let t := c.lastPass
    let s := s.setCol col { c with bypassTo := t, arrayFree := if l.any Product.unstarted then never else t }
    let s := s.due t 140 (.bypassGrant col)
    if p.unstarted then s else s.due p.endAt 600 (.wordComplete p.id)

/-- The bypass of a pair of columns, when it is free, goes to the pass that asked first, on a tie to the lower column (R189). -/
def State.grantBypass (s : State) (col : Nat) : State :=
  let lo := min col (bypassPartner col)
  let hi := max col (bypassPartner col)
  let s := (s.askBypass lo).askBypass hi
  if (s.colAt lo).bypassTo ≤ s.cyc ∧ (s.colAt hi).bypassTo ≤ s.cyc then
    match (s.colAt lo).bypassAsk, (s.colAt hi).bypassAsk with
    | none, none => s
    | some _, none => s.startPass lo
    | none, some _ => s.startPass hi
    | some a, some b => s.startPass (if b < a then hi else lo)
  else s

/-- A product starts (R185–R187, R191, R198): its partial sums are formed from the operands as they stand and the array is taken; where a bed joint is
degraded each of its passes takes the bypass first (R188, R189). -/
def startProduct (s : State) (k : Stream) (p : Product) (a b : MOperand) (half : Nat) : State :=
  let bad (o : MOperand) (n : Nat) : List Nat := (List.range n).filter fun i => (s.colAt o.col).tileBad.contains (lineNo o.reg i)
  let (sums, fl) := partials s a b half
  let sl := s.slotAt k.sk
  let pt := sl.perturb.filter fun x => (p.batchOf x.1).isSome
  let p := { p with sums := sums, flags := fl, badA := bad a p.m, badB := bad b p.n, perturb := pt,
                    logAt := s.logEntry k.sk (sl.ctlr 0x112).toNat }
  let jdeg := foldJdeg (s.foldstat k.col) != 0
  let p := if jdeg then { p with passes := p.passes.map fun x => { x with start := never } } else p
  let s := s.logRecord p.logAt p.record
  let s := s.setSlot k.sk { (sl.setCtl 0x112 (BitVec.ofNat 64 (((sl.ctlr 0x112).toNat + 1) % 2 ^ 32))) with perturb := none }
  let c := s.colAt k.col
  let c := c.setCtl 0x030 (BitVec.ofNat 64 p.record)
  let s := s.setCol k.col { c with products := c.products ++ [p], arrayFree := p.free }
  if jdeg then s.due s.cyc 140 (.bypassGrant k.col) else s.due p.endAt 600 (.wordComplete p.id)

/-- A partner of a quad operation raises, or has raised, a fault of its own in this cycle, and this command none (R106). -/
def partnerFaults (s : State) (k : Stream) (f : FmtD) : Bool :=
  (partnerFault s k f).isNone && (quadWords s k f).any fun x => match x with
    | some (o, g, _) => o != k && ((partnerFault s o g).isSome || (s.slotAt o.sk).stop == some s.cyc)
    | none => false

/-- The latency of a product to the readers of its result, its granules or for MMAC its MD, where nothing delays it (R194, R206). -/
def Product.latency (p : Product) : Nat :=
  occupancy p.passes + (match p.kind with | 0 => 11 | 1 => 13 | _ => p.batches + 20)

/-- What a product does at issue, its own checks in the order of R205. -/
def productAct (kind : Nat) (f : FmtD) (s : State) : Act :=
  let k := s.cur
  let t := stampTarget s k f
  let pinned := pinnedSlot s k
  if s.cyc < t ∨ (kind = 1 ∧ partnerFaults s k f) ∨ !productReady s k kind f ∨ (kind = 1 ∧ quadNotReady s k f ≠ 0) then .wait
  else
    let (a, b) := mOperands s k f (kind == 1)
    let p := planProduct s k kind f s.nextId
    match productFault s k kind f with
    | some (c, i) => .fault c i
    | none =>
      match (if pinned then (s.engAt k.ek).pin.filter fun x => x.1 != 0 else none) with
      | some (c, va, _) => .fault c (BitVec.ofNat 64 va)
      | none =>
        if t < s.cyc && f.slip == 0 && !pinned then .fault 0x06 (missInfo k f 0)
        else .go { st := slipped (startProduct s k p a b (f.sub / 2 % 2)) k t pinned, lat := p.latency, pend := .matrix [] }
where
  /-- MSLIP counts how late the command issued (R103); a pinned product does not change it (R192). -/
  slipped (s : State) (k : Stream) (t : Nat) (pinned : Bool) : State :=
    let s := s.setEng k.ek { s.engAt k.ek with pin := none }
    if pinned then s
    else
      let sl := s.slotAt k.sk
      s.setSlot k.sk { sl with slipNow := sl.slipNow + (s.cyc - t) }

/-- A stamped command (R103, R104): where it is late and may not slip, or the commands of a quad disagree, SCHEDULE_MISS is
raised, after the faults that R205 lists before it. -/
def stampedWord (i : Instr) (q : Seq) (kind : Nat) (f : FmtD) (s : State) : Out :=
  let k := s.cur
  let live := s.canIssue k && s.e.flHolds q && (productDec kind f s).isNone
  let clash := if kind = 1 then quadClash s k f else none
  if live && clash.any fun t => decide (t ≤ s.cyc) then .next (if pinnedSlot s k then s else s.quadMiss k f 0)
  else
    match wordIssue i q [] (productAct kind f) s (productDec kind f) with
    | .next t =>
      if t.issued.contains k then .next t
      else if live && f.slip == 0 && !pinnedSlot s k && decide (stampTarget s k f ≤ s.cyc) && clash.isNone
          && !(kind == 1 && partnerFaults s k f) then
        if kind = 1 then
          let own := if productGoes s k i q 1 f then 0 else 2 ^ quadPos k.col
          .next (s.quadMiss k f (quadNotReady s k f ||| own))
        else match productFault s k kind f with
          | some (c, i) => faultNow s c i
          | none => faultNow s 0x06 (missInfo k f 0)
      else .next t
    | r => r

/-- MMA (R198). -/
def execMma (q : Seq) (f : FmtD) (s : State) : Out := stampedWord (.mma q f) q 0 f s

/-- MMAQ (R193, R194). -/
def execMmaq (q : Seq) (f : FmtD) (s : State) : Out := stampedWord (.mmaq q f) q 1 f s

/-- MMAC (R199). -/
def execMmac (q : Seq) (f : FmtD) (s : State) : Out := stampedWord (.mmac q f) q 2 f s

/-- SCHEDULE_MISS: the stamped command that engine X of a slot stands at is late and may not slip (R103). -/
def execScheduleMiss (col slot : Nat) (s : State) : Out :=
  let k : Stream := ⟨col, slot, .x⟩
  match (s.engAt k.ek).target, (rawDecode (s.wordAt k)).bind stampedOf with
  | some t, some (kind, f) =>
    if s.canIssue k && f.slip == 0 && !pinnedSlot s k && decide (t ≤ s.cyc) then
      if kind = 1 then .next (s.quadMiss k f (quadNotReady s k f))
      else
        let (c, info) := (productFault s k kind f).getD (0x06, missInfo k f 0)
        .next { s.takeFault k c info with issued := s.issued ++ [k] }
    else .next s
  | _, _ => .next s

/-- The stamped commands that have become the next word of their stream fix their target and capture their shapes (R103, R105,
R193). -/
def State.fixTarget (s : State) (k : Stream) : State :=
  let e := s.engAt k.ek
  if e.target.isSome || !s.canIssue k then s
  else match rawDecode (s.wordAt k) with
    | some i =>
      match stampedOf i, i.form with
      | some (kind, f), some w =>
        if !e.flHolds w.seq then s
        else
          let quad := kind == 1 && s.holdsLease k
          let c := s.colAt k.col
          let s' := s.setEng k.ek { e with target := some (stampTarget s k f), shapes := captureShapes s k f (kind == 1),
                                           quadNo := if quad then c.quadCount else 0 }
          if quad then s'.setCol k.col { c with quadCount := c.quadCount + 1 } else s'
      | _, _ => s
    | none => s

/-- A pinned product's entry of the pin list is read: `pin` holds a fault code or 0, the address, and LATE, and is there after a time that the
spec leaves open (R192). A page fault waits in its record; a page that is refused, or quarantined, raises PAGE_FAULT (R434, R436). -/
def State.readPin (s : State) (k : Stream) : State :=
  let e := s.engAt k.ek
  if !pinnedSlot s k || e.pin.isSome || e.target.isNone || !(e.target.any fun t => decide (t ≤ s.cyc)) then s
  else
    let sl := s.slotAt k.sk
    let va := bitsAt (sl.ctlr 0x111) 51 6 * 64 + 4 * (sl.ctlr 0x112).toNat
    if s.attached (.pin k.col) then s
    else match (if (s.replayOf k).isSome then s.farPhys va (.pin k.col) else s.translate (4 + k.col) (s.ctxOf k) va 0 5 (.pin k.col)) with
      | (.ok pa, s) =>
        let (d, s) := s.freeNat
        s.setEng k.ek { e with pin := some (0, va, s.load pa 4 / 256 % 16), pinAt := s.cyc + d }
      | (.refused, s) => s.setEng k.ek { e with pin := some (0x12, va, 0), pinAt := s.cyc }
      | (_, s) => s

/-! ### MDRAIN (R200) -/

/-- UNIMPLEMENTED_COMBINATION of MDRAIN (R200, R205). -/
def drainDec (f : FmtD) (s : State) : Option (Nat × Word) :=
  match leaseDec s with
  | some x => some x
  | none =>
    let tag := f.md % 32
    let i32 := f.sub % 2 == 1
    let ok := if i32 then [8, 9, 1, 2, 3, 4, 5, 6].contains tag else tag != 0 && tag != 0x0A
    let tile := [2, 3, 4, 5, 6, 9, 0x14, 0x15, 0x16, 0x17].contains tag
    if !ok || (f.sub / 8 % 2 == 1 && !tile) then some (0x05, BitVec.ofNat 64 ((if i32 then 8 else 1) + tag * 256)) else none

/-- MDRAIN (R200). -/
def execMdrain (q : Seq) (f : FmtD) (s : State) : Out :=
  wordIssue (.mdrain q f) q [.s f.ma, .s f.mb]
    (fun s =>
      let k := s.cur
      let a0 := (s.sv f.ma).toNat
      let v := s.sv f.mb
      let nr := bitsAt v 7 0
      let n := bitsAt v 15 8
      let rs := bitsAt v 31 16
      let image := f.sub / 8 % 2 == 1
      let tag := f.md % 32
      let g := granulesOf n
      let grans := (List.range (nr * g)).map fun x => (f.acc + x) % 32768
      let c := s.colAt k.col
      if 16 ≤ s.storeCount k ∨ s.cyc < c.drainFree ∨ grans.any (s.granuleAwaits k.col) then .wait
      else consuming s [f.ma, f.mb] (
        if bitsAt v 63 32 ≠ 0 ∨ nr < 1 ∨ 96 < nr ∨ n < 1 ∨ 192 < n then .fault 0x01 (illegalInfo (.mdrain q f))
        else if a0 % 64 ≠ 0 ∨ (!image ∧ rs % 64 ≠ 0) then .fault 0x0B (BitVec.ofNat 64 (a0 % 2 ^ 52))
        else
          let scales := if isScaled tag then (n + 23) / 24 else 0
          let blank := (List.range nr).map fun _ => (List.replicate n 0, List.replicate scales 0)
          let recs := grans.map fun x => c.recs.getD x 0
          let tail := if f.frec = 1 then recordBytes (a0 + nr * rs) recs else []
          match drainPieces s (drainBytes a0 rs nr n tag image blank ++ tail) with
          | .error i => .fault 0x09 i
          | .ok ps =>
            match grans.find? (s.accPoisoned k.col) with
            | some x => .fault 0x0D (BitVec.ofNat 64 (x * 256))
            | none =>
              let rows := (List.range nr).map fun r => (List.range n).map fun j =>
                s.accAt k.col (f.acc + r * g + j / 64) (j % 64)
              let cv : Convert := { id := s.nextId, slot := k.slot, i32 := f.sub % 2 == 1, tag := tag, outl := f.sub / 2 % 2 == 1,
                                    mode := (s.sl.ctlr 0).toNat, width := n, rows := rows, g := g }
              let s := { s with stores := s.stores ++ [(⟨s.nextId, k, .write, ps, none, false, []⟩ : PortWrite)] }
              let now := (c.drains.filter fun (d : Nat × Nat) => decide (s.cyc ≤ d.2))
                ++ grans.zipIdx.map fun (x : Nat × Nat) => (x.1, s.cyc + x.2)
              let c := { c with drainFree := s.cyc + nr * g, converts := c.converts ++ [cv], drains := now }
              let s := s.setCol k.col c
              let s := if f.sub / 4 % 2 = 1 then grans.foldl (fun s x => s.clearGranule k.col x) s else s
              .go { st := s.due s.cyc 590 (.wordComplete s.nextId), lat := nr * g + 10, pend := .matrix [] })) s (drainDec f)

end Sys2Proof.Machine
end

