-- ==== Sys2Proof/Machine/Handle.lean ====
section
/-! DEFINITION. Handles (ch. 9): descriptors (R246, R247), where elements lie (R248), the handle words (R261–R270) and relayout
(R252–R260). -/

namespace Sys2Proof.Machine

/-! ### Descriptors -/

/-- A layout of a region: tag, space (0 tower, 1 far), base, tile, element width, extents and strides (R246–R248). -/
structure Lay where
  tag : Nat
  space : Nat
  base : Nat
  th : Nat
  tw : Nat
  w : Nat
  d0 : Nat
  d1 : Nat
  d2 : Nat
  d3 : Nat
  s1 : Nat := 0
  s2 : Nat := 0
  s3 : Nat := 0
  deriving DecidableEq, Repr

/-- A descriptor (R246): its present layout (the new one while converting), the old one, and the other fields. -/
structure Desc where
  lay : Lay
  fmt : Nat
  ndim : Nat
  ro : Bool
  state : Nat
  otw : Nat := 0
  oth : Nat := 0
  ospace : Nat := 0
  olayout : Nat := 0
  obase : Nat := 0
  map : Nat := 0
  done : Nat := 0
  deriving DecidableEq, Repr

def ceilDiv (a b : Nat) : Nat := (a + b - 1) / b

namespace Lay

/-- Tiles of a slice, bytes of a tile and of a bitmap slot (R247). -/
def tilesAcross (l : Lay) : Nat := ceilDiv l.d0 l.tw
def tilesDown (l : Lay) : Nat := ceilDiv l.d1 l.th
def nt (l : Lay) : Nat := l.tilesDown * l.tilesAcross
def tb (l : Lay) : Nat := l.th * l.tw * l.w / 8
def bitmapBytes (l : Lay) : Nat := 8 * ceilDiv (l.th * l.tw) 64
def z (l : Lay) : Nat := l.bitmapBytes + 64 * ceilDiv l.tb 64

/-- The least S1, S2 and S3 given the smaller strides (R247). -/
def min1 (l : Lay) : Nat :=
  match l.tag with
  | 0 => 4 * ceilDiv (l.d0 * l.w) 32
  | 1 => 4 * ceilDiv (l.d1 * l.w) 32
  | 3 => 64 * ceilDiv (l.d0 * l.w) 512
  | 5 => 192 * ceilDiv l.d0 (if l.w = 4 then 384 else 192)
  | _ => 0
def min2 (l : Lay) : Nat :=
  match l.tag with
  | 0 | 5 => l.d1 * l.s1
  | 1 => l.d0 * l.s1
  | 2 => l.nt * l.tb
  | 3 => ceilDiv l.d1 16 * l.s1
  | _ => l.nt * l.z
def min3 (l : Lay) : Nat := l.d2 * l.s2

/-- The dense strides of a tensor of `ndim + 1` dimensions (R250). -/
def dense (l : Lay) (ndim : Nat) : Lay :=
  let l := { l with s1 := if 1 ≤ ndim then l.min1 else 0 }
  let l := { l with s2 := if 2 ≤ ndim then l.min2 else 0 }
  { l with s3 := if 3 ≤ ndim then l.min3 else 0 }

/-- The bytes from the region base to the end of its last byte; for CELLSTRIPE, in each cell. -/
def span (l : Lay) : Nat :=
  let hi := (l.d3 - 1) * l.s3 + (l.d2 - 1) * l.s2
  match l.tag with
  | 1 => hi + (l.d0 - 1) * l.s1 + ceilDiv (l.d1 * l.w) 8
  | 2 => hi + l.nt * l.tb
  | 3 => hi + (ceilDiv l.d1 16 - 1) * l.s1 + ceilDiv (l.d0 * l.w) 8
  | 4 => hi + l.nt * l.z
  | _ => hi + (l.d1 - 1) * l.s1 + ceilDiv (l.d0 * l.w) 8

end Lay

/-- The descriptor in eight words (R246). -/
def Desc.ofWords (x : List Nat) : Desc :=
  let a := x.getD 0 0
  let lo (n : Nat) : Nat := x.getD n 0 % 2 ^ 32
  let hi (n : Nat) : Nat := x.getD n 0 / 2 ^ 32
  let fmt := a / 2 ^ 12 % 32
  { lay := { tag := a / 2 ^ 5 % 8, space := a / 16 % 2, base := x.getD 1 0 % 2 ^ 52, th := a / 2 ^ 20 % 256, tw := a / 2 ^ 28 % 256,
             w := tagWidth fmt % 33, d0 := lo 4, d1 := hi 4, d2 := lo 5, d3 := hi 5, s1 := lo 6, s2 := hi 6, s3 := lo 7 },
    fmt := fmt, ndim := a / 2 ^ 17 % 4, ro := a.testBit 3, state := a % 8, otw := a / 2 ^ 44 % 256, oth := a / 2 ^ 36 % 256,
    ospace := a / 2 ^ 11 % 2, olayout := a / 2 ^ 8 % 8, obase := x.getD 2 0 % 2 ^ 52, map := x.getD 3 0 % 2 ^ 34, done := hi 7 }

/-- The eight words of a descriptor (R246). -/
def Desc.words (d : Desc) : List Nat :=
  let l := d.lay
  [d.state + 8 * d.ro.toNat + 16 * l.space + 2 ^ 5 * l.tag + 2 ^ 8 * d.olayout + 2 ^ 11 * d.ospace + 2 ^ 12 * d.fmt + 2 ^ 17 * d.ndim
      + 2 ^ 20 * l.th + 2 ^ 28 * l.tw + 2 ^ 36 * d.oth + 2 ^ 44 * d.otw,
   l.base, d.obase, d.map, l.d0 + 2 ^ 32 * l.d1, l.d2 + 2 ^ 32 * l.d3, l.s1 + 2 ^ 32 * l.s2, l.s3 + 2 ^ 32 * d.done]

/-- The lowest non-zero bit, within its word, of what a template must leave zero (R246, R262). -/
def templateReserved (x : List Nat) : Option Nat :=
  let masks := [maskOf 63 36 + maskOf 19 19 + maskOf 11 8 + maskOf 2 0, maskOf 63 52, maskOf 63 0, maskOf 63 0, 0, 0, 0, maskOf 63 32]
  (x.zip masks).findSome? fun r => (List.range 64).find? fun b => r.1.testBit b && r.2.testBit b

/-- The tags a descriptor may have: those of R40 other than S8. -/
def Desc.legalTag (fmt : Nat) : Bool := [0, 1, 2, 3, 4, 5, 6, 8, 9, 0x14, 0x15, 0x16, 0x17].contains fmt

/-- A rule of R247 other than the window rule is broken. -/
def Desc.illegal (d : Desc) : Bool :=
  let l := d.lay
  let dims := [l.d0, l.d1, l.d2, l.d3]
  let strides := [0, l.s1, l.s2, l.s3]
  let mins := [0, l.min1, l.min2, l.min3]
  decide (5 < l.tag) || !Desc.legalTag d.fmt || (isScaled d.fmt != (l.tag == 5))
  || (l.tag == 3 && l.space == 1) || (l.tag == 5 && l.space == 0)
  || (List.range 4).any (fun k =>
      let n := dims.getD k 0
      if k ≤ d.ndim then n == 0 || decide (2 ^ 31 < n) else n != 1 || strides.getD k 0 != 0)
  || l.th == 0 || l.tw == 0 || l.tw * l.w % 32 != 0 || decide (16384 < l.tb) || l.base % 64 != 0
  || (List.range 4).any (fun k => decide (1 ≤ k ∧ k ≤ d.ndim ∧ strides.getD k 0 < mins.getD k 0))
  || ((l.tag == 2 || l.tag == 4) && l.s1 != 0)
  || ((l.tag == 3 || l.tag == 5) && l.s1 % 64 != 0)
  || (l.tag == 3 && l.base / 2 ^ 22 % 16 != 0)

/-- The old layout of a converting entry: the strides are still its own (R265). -/
def Desc.old (d : Desc) : Lay := { d.lay with tag := d.olayout, space := d.ospace, base := d.obase, th := d.oth, tw := d.otw }

/-- The layout that the present fields give: with dense strides while converting (R265). -/
def Desc.new (d : Desc) : Lay := if d.state = 2 then d.lay.dense d.ndim else d.lay

/-- The number of conversion tiles, and the tile of an element (R252). -/
def Desc.tiles (d : Desc) : Nat := d.lay.d3 * d.lay.d2 * d.lay.nt
def Desc.tileOf (d : Desc) (c : List Nat) : Nat :=
  let l := d.lay
  ((c.getD 3 0 * l.d2 + c.getD 2 0) * l.tilesDown + c.getD 1 0 / l.th) * l.tilesAcross + c.getD 0 0 / l.tw

/-- The address of an entry's descriptor in its context's table (R244, R407). -/
def State.entryAddr (s : State) (ctx e : Nat) : Nat := (s.ctxAt ctx).handles + 64 * e

/-- The descriptor of an entry; there is none for firmware, whose context 0 has no table. -/
def State.entryWords (s : State) (ctx e : Nat) : List Nat :=
  if ctx = 0 ∨ 4096 ≤ e then List.replicate 8 0 else (List.range 8).map fun n => s.load (s.entryAddr ctx e + 8 * n) 8
def State.entry (s : State) (ctx e : Nat) : Desc := Desc.ofWords (s.entryWords ctx e)
def State.setEntry (s : State) (ctx e : Nat) (d : List Nat) : State := s.storeWords (s.entryAddr ctx e) d

/-- The entry that a handle register of a stream's slot is bound to (R245). -/
def State.boundEntry (s : State) (k : Stream) (h : Nat) : Option Nat := if k.fw then none else (s.slotAt k.sk).hregs.get? h

/-- TRAPINFO of HANDLE_INVALID (R261). -/
def handleInfo (s : State) (k : Stream) (h : Nat) : Word :=
  BitVec.ofNat 64 (h + 256 * ((s.boundEntry k h).map fun e => (s.entry (s.ctxOf k) e).state).getD 0)

/-! ### Where elements lie (R248) -/

/-- Where a byte of a region lies: a cell and offset of the column that the base names, or a far address. -/
inductive HLoc where
  | tower (cell off : Nat)
  | far (a : Nat)
  deriving DecidableEq, Repr

namespace Lay

/-- The column number of a tower region's base (R248). -/
def col (l : Lay) : Nat := l.base / 2 ^ 26 % 256

/-- Where byte `b` of a region lies; `cell` is the cell of a CELLSTRIPE line (R248). -/
def loc (l : Lay) (cell b : Nat) : HLoc :=
  if l.space = 1 then .far (l.base + b)
  else if l.tag = 3 then .tower cell (l.base % 2 ^ 22 + b)
  else
    let a := l.base % 2 ^ 26 + b
    .tower (a / 64 % 16) (64 * (a / 1024) + a % 64)

/-- The start of an element's tile or slot and its number within the tile, for TILE and BITMAP. -/
def slot (l : Lay) (c : List Nat) : Nat × Nat :=
  let hi := c.getD 3 0 * l.s3 + c.getD 2 0 * l.s2
  let t := c.getD 1 0 / l.th * l.tilesAcross + c.getD 0 0 / l.tw
  (hi + t * (if l.tag = 4 then l.z else l.tb), c.getD 1 0 % l.th * l.tw + c.getD 0 0 % l.tw)

/-- Cell, byte and nibble of an element; for BITMAP, `r` is the number of present elements of the tile below it. -/
def place (l : Lay) (c : List Nat) (r : Nat) : Nat × Nat × Nat :=
  let hi := c.getD 3 0 * l.s3 + c.getD 2 0 * l.s2
  let c0 := c.getD 0 0
  let c1 := c.getD 1 0
  match l.tag with
  | 1 => (0, hi + c0 * l.s1 + c1 * l.w / 8, c1 % 2)
  | 2 => (0, (l.slot c).1 + (l.slot c).2 * l.w / 8, (l.slot c).2 % 2)
  | 3 => (c1 % 16, hi + c1 / 16 * l.s1 + c0 * l.w / 8, c0 % 2)
  | 4 => (0, (l.slot c).1 + l.bitmapBytes + r * l.w / 8, r % 2)
  | _ => (0, hi + c1 * l.s1 + c0 * l.w / 8, c0 % 2)

/-- The bit and the rank of an element under a reader of the region's bytes (R248): present, and how many are present below. -/
def present (l : Lay) (rd : HLoc → Nat) (c : List Nat) : Bool × Nat :=
  let (b, e) := l.slot c
  let byte (n : Nat) : Nat := rd (l.loc 0 (b + n))
  let ones (x : Nat) : Nat := ((List.range 8).filter fun i => x.testBit i).length
  let low := (List.range (e / 8)).foldl (fun n i => n + ones (byte i)) 0
  ((byte (e / 8)).testBit (e % 8), low + ones (byte (e / 8) % 2 ^ (e % 8)))

/-- The bytes of an element, cut at 64-bit words: byte number within the element, byte of the region, length. -/
def cuts (l : Lay) (b : Nat) : List (Nat × Nat × Nat) := cutElem l.w b

end Lay

/-! ### Tiles (R252, R256) -/

def State.jobOf (s : State) (ctx e : Nat) : Option Job := s.jobs.find? fun j => j.ctx == ctx && j.entry == e
def State.setJob (s : State) (j : Job) : State :=
  { s with jobs := s.jobs.map fun x => if x.ctx == j.ctx && x.entry == j.entry then j else x }

/-- The state of a conversion tile: 0 OLD, 1 MOVING, 2 NEW; an entry that is not converting is NEW throughout. -/
def State.tileState (s : State) (ctx e : Nat) (d : Desc) (m : Nat) : Nat :=
  if d.state ≠ 2 ∨ m < d.done then 2
  else if m = d.done ∧ (s.jobOf ctx e).any Job.moving then 1
  else 0

/-- The layout that serves an element, its tile where it is OLD, and whether the word waits (R256). -/
structure Serve where
  lay : Lay
  old : Option Nat
  wait : Bool

def serve (s : State) (ctx e : Nat) (d : Desc) (store : Bool) (c : List Nat) : Serve :=
  let m := d.tileOf c
  match s.tileState ctx e d m with
  | 0 => if d.ospace = 1 ∨ (store = true ∧ d.olayout = 4) then ⟨d.new, none, true⟩ else ⟨d.old, some m, false⟩
  | 1 => ⟨d.new, none, true⟩
  | _ => ⟨d.new, none, false⟩

/-! ### The elements of a word -/

/-- The key and program address of `n` bytes of a tower region for the current stream, or the TRAPINFO of TOWER_BOUNDS. -/
def regionKey (s : State) (l : Lay) (x : HLoc) (n : Nat) : Except Word (TAddr × Nat) :=
  match x with
  | .far a => .error (BitVec.ofNat 64 (a % 2 ^ 34))
  | .tower cell off =>
    match s.namedCol s.cur l.col with
    | none => .error (BitVec.ofNat 64 (progAddr l.col cell off))
    | some c =>
      let a : TAddr := ⟨c, cell, off, l.col⟩
      if nearColumn s.cur.col c then (towerRange s a n).map fun k => (a, k)
      else .error (BitVec.ofNat 64 a.prog)

/-- A byte of a tower region as the current stream reads it; 0 where it may not. -/
def regionByte (s : State) (l : Lay) (x : HLoc) : Nat :=
  match regionKey s l x 1 with
  | .ok (_, k) => (Memory.read s.mem k).toNat
  | .error _ => 0

/-- What a word does with one element: its number in the word, its pieces (byte number, address, key, length), its nibble, the
words of a bitmap that place it and what finds it through them, the tile that it sees as OLD, and whether it waits. -/
structure ElemAcc where
  no : Nat
  parts : List (Nat × TAddr × Nat × Nat) := []
  nib : Nat := 0
  bits : List (TAddr × Nat) := []
  spot : Option Spot := none
  old : Option Nat := none
  wait : Bool := false

/-- The bitmap words that place an element: the one with its own bit and all below (R248, R263). -/
def bitmapWords (s : State) (l : Lay) (c : List Nat) : Except Word (List (TAddr × Nat)) :=
  let (b, e) := l.slot c
  (List.range (e / 64 + 1)).mapM fun i => regionKey s l (l.loc 0 (b + 8 * i)) 8

/-- How an element is found through its tile's bitmap, whose first word lies at an address. -/
def spotOf (l : Lay) (no : Nat) (c : List Nat) (at_ : TAddr × Nat) : Spot :=
  let (b, e) := l.slot c
  let start := l.base % 2 ^ 26 + b
  { no := no, w := l.w, e := e, pcol := l.col, col := at_.1.col, win := at_.2 - towerKey at_.1.col at_.1.cell at_.1.off, start := start,
    body := start + l.bitmapBytes }

/-- One element of a word, or the TRAPINFO of its TOWER_BOUNDS (R248, R263, R264). -/
def elemAcc (s : State) (ctx e : Nat) (d : Desc) (store : Bool) (no : Nat) (c : List Nat) : Except Word ElemAcc := do
  let v := serve s ctx e d store c
  let l := v.lay
  let (here, r) := if l.tag = 4 then l.present (regionByte s l) c else (true, 0)
  let bits ← if l.tag = 4 then bitmapWords s l c else pure []
  let (cell, b, n) := l.place c r
  let parts ← if here then (l.cuts b).mapM fun (x : Nat × Nat × Nat) => do
      let (a, k) ← regionKey s l (l.loc cell x.2.1) x.2.2
      pure (x.1, a, k, x.2.2)
    else pure []
  pure { no := no, parts := parts, nib := if l.w = 4 then n else 0, bits := bits, spot := (bits.head?).map (spotOf l no c), old := v.old,
         wait := v.wait }

/-- The elements that a word names, with their numbers: one, or those of 256 lanes below DIM0 (R263). -/
def wordElems (d : Desc) (vec : Bool) (c : List Nat) : List (Nat × List Nat) :=
  if vec then
    (List.range (256 * (32 / d.lay.w))).filterMap fun k =>
      if c.getD 0 0 + k < d.lay.d0 then some (k, (c.getD 0 0 + k) :: c.drop 1) else none
  else [(0, c)]

/-- The handle uses of a word: the entry, with each tile that it saw as OLD (R250, R259). -/
def elemUses (ctx e : Nat) (l : List ElemAcc) : List (Nat × Nat) :=
  let id := ctx * 4096 + e
  match distinct (l.filterMap ElemAcc.old) with
  | [] => [(id, 0)]
  | t => t.map fun m => (id, m + 1)

/-- The coordinates of a word, and the first that is out of its extent (R263). -/
def coords (s : State) (f : FmtG) : List Nat := [f.c0, f.c1, f.c2, f.c3].map fun r => (s.sv r).toNat
def coordBad (d : Desc) (c : List Nat) : Option Nat :=
  (List.range 4).find? fun k => decide ([d.lay.d0, d.lay.d1, d.lay.d2, d.lay.d3].getD k 0 ≤ c.getD k 0)

/-- A word through a handle register whose entry may serve it: bound, neither Free nor Closed, in tower space (R263, R264). -/
def withHandle (s : State) (h : Nat) (act : Nat → Nat → Desc → Act) : Act :=
  let bad := Act.fault 0x10 (handleInfo s s.cur h)
  match s.boundEntry s.cur h with
  | none => bad
  | some e =>
    let ctx := s.ctxOf s.cur
    let d := s.entry ctx e
    if d.state = 0 ∨ d.state = 4 ∨ d.lay.space = 1 then bad else act ctx e d

/-- The checks of coordinates and columns, strict rows and tiles, that HLD and HST share. -/
def withElems (s : State) (f : FmtG) (ctx e : Nat) (d : Desc) (vec store : Bool) (act : List ElemAcc → Act) : Act :=
  let c := coords s f
  match s.markOf [f.c0, f.c1, f.c2, f.c3] with
  | some m => .fault 0x0D m
  | none =>
    match coordBad d c with
    | some k => .fault 0x11 (BitVec.ofNat 64 (f.h + 16 * k))
    | none =>
      match (wordElems d vec c).mapM fun (x : Nat × List Nat) => elemAcc s ctx e d store x.1 x.2 with
      | .error i => .fault 0x09 i
      | .ok l =>
        let closed := if strictMode s && !store then l.findSome? fun x =>
            ((x.parts.map fun p => (p.2.1, p.2.2.1)) ++ x.bits).find? fun p => s.rowClosed p.2
          else none
        match closed with
        | some p => .fault 0x08 (BitVec.ofNat 64 p.1.prog)
        | none =>
          let open_ := l.all fun x => x.parts.all fun p => s.served p.2.1.col p.2.2.1
          if !open_ || l.any ElemAcc.wait then .wait else act l

/-! ### HLD and HST -/

/-- The latency of an HLD (R270). -/
def hldLatency (s : State) (l : List ElemAcc) : Nat :=
  let at_ := l.flatMap fun x => (x.parts.map fun p => (p.2.1, p.2.2.1)) ++ x.bits
  let t := at_.foldl (fun n p => max n (loadLatency s p.1)) 0
  let blocks := distinct (at_.map fun p => p.2 / 64)
  let most := (distinct (blocks.map fun b => keyTower (b * 64))).foldl
    (fun n w => max n ((blocks.filter fun b => keyTower (b * 64) == w).length)) 1
  t + 2 + (most - 1) + if l.any fun x => !x.bits.isEmpty then 4 else 0

/-- The pieces of an HLD: the elements' bytes, and the bitmap words that place them, each once. -/
def hldPieces (l : List ElemAcc) : List Piece :=
  (l.flatMap fun x =>
    x.parts.map fun p => (⟨x.no * 2 + x.nib + 2 ^ 20 * p.1, p.2.2.1, p.2.1.prog, p.2.2.2, 0, false, 0, none⟩ : Piece))
  ++ (l.flatMap fun x => x.bits).foldl (fun ps p =>
      if ps.any fun (q : Piece) => q.key == p.2 then ps else ps ++ [⟨bitmapLane, p.2, p.1.prog, 8, 0, false, 0, none⟩]) []

/-- HLD (R263). -/
def execHld (q : Seq) (f : FmtG) (s : State) : Out :=
  let vec := f.sub / 2 % 2 == 1
  wordIssue (.hld q f) q ([.s f.c0, .s f.c1, .s f.c2, .s f.c3, .h f.h] ++ if vec then [] else [.s f.data])
    (fun s => withHandle s f.h fun ctx e d =>
      if vec = true ∧ (f.data < 4 ∨ s.sl.writerOf f.data ≠ engCode s.cur.eng) then misuse f.data true
      else if 16 ≤ s.loadCount s.cur ∨ (vec = true ∧ !(s.sl.queue f.data).hasRoom f.data s.cyc) then .wait
      else withElems s f ctx e d vec false fun l =>
        let pend := if vec then Pend.elemV f.data d.fmt d.lay.w
          else .elemS f.data d.lay.w ((l.head?.map ElemAcc.nib).getD 0) (f.sub % 2 == 1)
        match loadGo s (hldPieces l) (hldLatency s l) (if vec then [] else [.s f.data]) pend with
        | .go g => .go { g with st := if vec then g.st.setSl (g.st.sl.reserveQueue f.data) else g.st, uses := elemUses ctx e l,
                                spots := l.filterMap ElemAcc.spot }
        | x => x) s

/-- A byte to be stored: key, bits, which nibbles (1 low, 2 high, 3 both), distance, and mark. -/
structure HByte where
  key : Nat
  val : Nat
  half : Nat
  dist : Nat
  marked : Bool

/-- The bytes of one stored element. -/
def elemBytes (s : State) (w from_ v : Nat) (marked : Bool) (x : ElemAcc) : List HByte :=
  x.parts.flatMap fun p => (List.range p.2.2.2).map fun i =>
    { key := p.2.2.1 + i, val := v / 256 ^ (p.1 + i) % 256, half := if w = 4 then x.nib + 1 else 3,
      dist := storeDist s p.2.1.col from_ p.2.1.cell, marked := marked }

/-- Two nibbles of one byte become a byte. -/
def joinNibbles : List HByte → List HByte
  | a :: b :: t =>
    if a.key = b.key ∧ a.half = 1 ∧ b.half = 2 then
      { a with val := a.val % 16 + 16 * (b.val % 16), half := 3, marked := a.marked || b.marked } :: joinNibbles t
    else a :: joinNibbles (b :: t)
  | l => l

/-- Bytes joined into writes, each within a 64-bit word (R230, R231). -/
def hstPieces (l : List HByte) : List WPiece :=
  l.foldl (fun out b =>
    let one : WPiece := ⟨b.dist, b.key, [b.val], b.marked, if b.half = 3 then 0 else b.half⟩
    match out.getLast? with
    | some p =>
      if p.nib = 0 ∧ b.half ≠ 2 ∧ b.key = p.key + p.bytes.length ∧ b.key / 8 = p.key / 8 ∧ b.dist = p.dist then
        out.dropLast ++ [{ p with bytes := p.bytes ++ [b.val], marked := p.marked || b.marked, nib := if b.half = 1 then 1 else 0 }]
      else out ++ [one]
    | none => [one]) []

/-- TRAPINFO of HST's PERMISSION: the address of the element, or of the bitmap byte with its present bit (R264). -/
def hstPermission (s : State) (ctx e : Nat) (d : Desc) (c : List Nat) : Word :=
  let l := (serve s ctx e d true c).lay
  let (cell, b, _) := if l.tag = 4 then (0, (l.slot c).1 + (l.slot c).2 / 8, 0) else l.place c 0
  match l.loc cell b with
  | .tower cell off => BitVec.ofNat 64 (progAddr l.col cell off)
  | .far a => BitVec.ofNat 64 a

/-- The stores of an HST; the values are given by element number. -/
def hstGo (s : State) (ctx e : Nat) (d : Desc) (vec : Bool) (val : Nat → Nat × Bool) (l : List ElemAcc) (st : State) : Act :=
  let w := d.lay.w
  let per := 32 / w
  let bytes := joinNibbles (l.flatMap fun x =>
    let (v, m) := val x.no
    elemBytes s w (if vec then x.no / per / 16 else 0) v m x)
  .go { st := { st with stores := st.stores ++
    [{ id := st.nextId, by_ := st.cur, op := .write, pieces := hstPieces bytes, uses := elemUses ctx e l }] } }

/-- HST (R264). -/
def execHst (q : Seq) (f : FmtG) (s : State) : Out :=
  let vec := f.sub / 2 % 2 == 1
  wordIssue (.hst q f) q ([.s f.c0, .s f.c1, .s f.c2, .s f.c3, .h f.h] ++ if vec then [] else [.s f.data])
    (fun s => withHandle s f.h fun ctx e d =>
      if d.ro = true ∨ d.lay.tag = 4 then .fault 0x13 (hstPermission s ctx e d (coords s f))
      else if vec then
        if f.data < 4 ∨ s.sl.readerOf f.data ≠ engCode s.cur.eng then misuse f.data false
        else if 16 ≤ s.storeCount s.cur then .wait
        else match (s.sl.queue f.data).front s.cyc with
          | some (.v v) =>
            if v.tag ≠ 0 ∧ v.tag ≠ d.fmt then .fault 0x04 (mismatchInfo d.fmt v.tag f.data 0)
            else withElems s f ctx e d true true fun l =>
              let per := 32 / d.lay.w
              hstGo s ctx e d true (fun k =>
                (element (elems d.lay.w (v.lanes.getD (k / per) 0)) (k % per), (v.marks.get? (k / per)).isSome)) l
                (s.setSl (s.sl.setQueue f.data ((s.sl.queue f.data).dropFront s.cyc)))
          | _ => .wait
      else if 16 ≤ s.storeCount s.cur then .wait
      else withElems s f ctx e d false true fun l =>
        hstGo s ctx e d false (fun _ => ((s.sv f.data).toNat % 2 ^ d.lay.w, (s.e.sreg f.data).mark.isSome)) l s) s

/-! ### HDEF, RELAY, HWAIT, HQUERY, HCLOSE -/

/-- HDEF (R262). -/
def execHdef (q : Seq) (f : FmtG) (s : State) : Out :=
  if f.sub % 2 = 1 then
    wordIssue (.hdef q f) q [.s f.c0, .h f.h]
      (fun s => consuming s [f.c0] (
        let e := (s.sv f.c0).toNat
        let st := (s.entry (s.ctxOf s.cur) e).state
        if 4096 ≤ e ∨ st = 0 ∨ st = 4 then .fault 0x10 (handleInfo s s.cur f.h)
        else .go { st := s, lat := 2, writes := [.h f.h (some e)] })) s
  else
    wordIssue (.hdef q f) q [.s f.data, .s f.c0, .h f.h]
      (fun s =>
        let a := s.sv f.data
        if 16 ≤ s.loadCount s.cur then .wait
        else consuming s [f.data, f.c0] (
          if a.toNat % 64 ≠ 0 then .fault 0x0B (BitVec.ofNat 64 (a.toNat % 2 ^ 52))
          else match s.towerAddr a true 0 with
            | .error i => .fault 0x09 i
            | .ok x =>
              match towerRange s x 64 with
              | .error i => .fault 0x09 i
              | .ok key => if !s.served x.col key then .wait else loadGo s ((List.range 8).map fun n => ⟨n, key + 8 * n, x.prog + 8 * n, 8, 0, false, 0, none⟩)
                  (loadLatency s x + 4) [] (.handle [(s.sv f.c0).toNat]) true)) s

/-- A handle word without a memory access holds its engine and acts at its completion, `lat` cycles on (R251). -/
def handleGo (s : State) (lat : Nat) (args : List Nat) : Act :=
  .go { st := s.due (s.cyc + lat - 1) 610 (.wordComplete s.nextId), lat := lat, pend := .handle args, hold := true }

/-- RELAY (R265): its operands and the first mark among them. -/
def execRelay (q : Seq) (f : FmtG) (s : State) : Out :=
  let bar := f.sub % 2 == 1
  let rs := [f.data, f.c0, f.c1] ++ if bar then [f.c2] else []
  wordIssue (.relay q f) q (rs.map Reg.s ++ [.h f.h])
    (fun s => handleGo s 4 (((s.markOf rs).map fun m => m.toNat + 1).getD 0 :: rs.map fun r => (s.sv r).toNat)) s

/-- HWAIT (R266). -/
def execHwait (q : Seq) (f : FmtG) (s : State) : Out :=
  let try_ := f.sub % 2 == 1
  wordIssue (.hwait q f) q ([.s f.data, .h f.h] ++ if try_ then [.cf] else [])
    (fun s =>
      match s.boundEntry s.cur f.h with
      | none => .fault 0x10 (handleInfo s s.cur f.h)
      | some e =>
        let st := (s.entry (s.ctxOf s.cur) e).state
        let busy := decide (st = 2 ∨ st = 4)
        if try_ then
          .go { st := s, writes := if busy then [.cf false] else [.cf true, .s f.data { val := BitVec.ofNat 64 st }] }
        else if busy then .wait
        else resS s f.data (BitVec.ofNat 64 st)) s

/-- HQUERY; a Free entry reads as zero (R267). -/
def execHquery (q : Seq) (f : FmtG) (s : State) : Out :=
  wordIssue (.hquery q f) q [.s f.data, .h f.h]
    (fun s =>
      match s.boundEntry s.cur f.h with
      | none => .fault 0x10 (handleInfo s s.cur f.h)
      | some e =>
        let free := decide ((s.entry (s.ctxOf s.cur) e).state = 0)
        resS s f.data (BitVec.ofNat 64 (if free then 0 else (s.entryWords (s.ctxOf s.cur) e).getD (f.sub % 8) 0)) 4) s

/-- HCLOSE (R268): close and seal act at completion, unbind never faults. -/
def execHclose (q : Seq) (f : FmtG) (s : State) : Out :=
  wordIssue (.hclose q f) q [.h f.h]
    (fun s =>
      if f.sub % 4 = 2 then .go { st := s, lat := 2, writes := [.h f.h none] }
      else handleGo s 2 []) s

/-! ### What handle words do at completion (R251) -/

/-- The window of a context in a column: the lowest-numbered (R211). -/
def State.ctxWindow (s : State) (ctx col : Nat) : Option Window := (s.lowestWin col ctx).map fun n => windowOf (s.twin col n)

/-- `n` bytes from an offset lie in the window of a context in the column of a number, in a pier if one is given. -/
def State.inWindow (s : State) (ctx pcol off n : Nat) (pier : Option Nat) : Bool :=
  match s.physCol ctx pcol with
  | none => false
  | some c =>
    (match pier with | some p => c / 64 == p | none => true) &&
    (match s.ctxWindow ctx c with | some w => decide (off + n ≤ w.size) | none => false)

/-- The window rule of R247 for a region; far regions are not checked. -/
def State.regionFits (s : State) (ctx : Nat) (l : Lay) (pier : Option Nat) : Bool :=
  if l.space = 1 then true
  else if 2 ^ 34 ≤ l.base then false
  else if l.tag = 3 then s.inWindow ctx l.col (l.base % 2 ^ 22) l.span pier
  else s.inWindow ctx l.col 0 (64 * ((l.base % 2 ^ 26 + l.span - 1) / 1024) + 64) pier

/-- How a handle word ends: a fault with its TRAPINFO, or a state. -/
abbrev HEnd := Except (Nat × Word) State

def bindH (s : State) (k : Stream) (h : Nat) (e : Option Nat) : State := s.applyWrite k (.h h e)

/-- HDEF's template becomes the entry (R262). -/
def hdefEnd (s : State) (f : Flight) (g : FmtG) (e : Nat) : HEnd :=
  let k := f.at_
  let ctx := s.ctxOf k
  let x := f.pieces.map Piece.got
  let bad : HEnd := .error (0x10, handleInfo s k g.h)
  match f.pieces.findSome? Piece.mark with
  | some m => .error (0x0D, BitVec.ofNat 64 m)
  | none =>
    if k.fw ∨ 4096 ≤ e ∨ (s.entry ctx e).state ≠ 0 then bad
    else match templateReserved x with
      | some b => .error (0x02, BitVec.ofNat 64 b)
      | none =>
        let d := Desc.ofWords x
        if d.illegal || !s.regionFits ctx d.lay none then bad
        else .ok (bindH (s.setEntry ctx e { d with state := if d.ro then 3 else 1 }.words) k g.h (some e))

/-- The context column by which a converting entry's engine is found: that of its new region, of its old one, or, when both are far, of its map (R253).
DESIGN CHOICE (log 172). -/
def Desc.homeCol (d : Desc) : Nat :=
  if d.lay.space = 0 then d.lay.col else if d.ospace = 0 then d.old.col else d.map / 2 ^ 26 % 256

/-- The jobs of a context go to the relayout engines of the piers whose towers their regions touch now (R253). -/
def State.homeJobs (s : State) (ctx : Nat) : State :=
  { s with jobs := s.jobs.map fun j =>
      if j.ctx ≠ ctx then j
      else match s.physCol ctx (s.entry ctx j.entry).homeCol with
        | some c => { j with pier := c / 64 }
        | none => j }

/-- The next turn of a pier's relayout engine: the first of its jobs that can go on (R253). -/
def State.relayTurn (s : State) (pier : Nat) : State :=
  let mine := s.jobs.filter fun j => j.pier == pier
  let busy := mine.any fun j => j.moving || s.agenda.any fun d => d.ev == .relayoutTileMoving j.ctx j.entry
  match if busy then none else mine.find? fun j =>
      let d := s.entry j.ctx j.entry
      !j.stuck && (s.ctxAt j.ctx).state == 1 && decide (d.done < d.tiles) with
  | none => s
  | some j =>
    let (d, s) := s.freeNat
    s.due (s.cyc + 1 + d) 580 (.relayoutTileMoving j.ctx j.entry)

/-- Every pier's relayout engine looks for its next turn. -/
def State.relayTurns (s : State) : State := (List.range 4).foldl State.relayTurn s

/-- RELAY turns the entry to Converting, and its job starts (R250, R253, R265). -/
def relayEnd (s : State) (f : Flight) (g : FmtG) (mark : Nat) (a : List Nat) : HEnd :=
  let k := f.at_
  let ctx := s.ctxOf k
  let bad : HEnd := .error (0x10, handleInfo s k g.h)
  match s.boundEntry k g.h with
  | none => bad
  | some e =>
    let d := s.entry ctx e
    let pier := k.col / 64
    let base := a.getD 0 0
    let lw := a.getD 1 0
    let map := a.getD 2 0
    let bar := a[3]?
    let l := { d.lay with tag := lw % 8, space := lw / 8 % 2, base := base, th := lw / 256 % 256, tw := lw / 2 ^ 16 % 256 }
    let n := { d with lay := l.dense d.ndim }
    let off (x m : Nat) : Bool := x % m != 0
    let tower (x : Nat) : Word := BitVec.ofNat 64 (x % 2 ^ 34)
    let inside (x len : Nat) : Bool := decide (x < 2 ^ 34) && s.inWindow ctx (x / 2 ^ 26) (x % 2 ^ 22) len (some pier)
    if d.state ≠ 1 ∧ d.state ≠ 3 then bad
    else if mark ≠ 0 then .error (0x0D, BitVec.ofNat 64 (mark - 1))
    else if lw / 2 ^ 24 ≠ 0 ∨ lw / 16 % 16 ≠ 0 ∨ [n.lay.s1, n.lay.s2, n.lay.s3].any (fun x => decide (2 ^ 32 ≤ x)) then bad
    else if { n with lay := { n.lay with base := base / 64 * 64 } }.illegal || decide (2 ^ 52 ≤ base) then bad
    else if off base 64 then .error (0x0B, BitVec.ofNat 64 (base % 2 ^ 52))
    else if off map 8 then .error (0x0B, BitVec.ofNat 64 (map % 2 ^ 52))
    else if (bar.map fun b => off b 16) = some true then .error (0x0B, BitVec.ofNat 64 (bar.getD 0 % 2 ^ 52))
    else if !s.regionFits ctx n.lay (some pier) then .error (0x09, tower base)
    else if !inside map (ceilDiv n.tiles 4) then .error (0x09, tower map)
    else if (bar.map fun b => inside b 16) = some false then .error (0x09, tower (bar.getD 0))
    else if d.lay.space = 0 ∧ (s.physCol ctx d.lay.col).map (· / 64) ≠ some pier then .error (0x09, tower d.lay.base)
    else
      let new := { d with state := 2, olayout := d.lay.tag, ospace := d.lay.space, obase := d.lay.base, oth := d.lay.th,
                          otw := d.lay.tw, map := map, done := 0,
                          lay := { l with s1 := d.lay.s1, s2 := d.lay.s2, s3 := d.lay.s3 } }
      let s := s.setEntry ctx e new.words
      let parity (b : Nat) : Nat :=
        ((s.physCol ctx (b / 2 ^ 26)).bind fun c => (s.ctxWindow ctx c).map fun w =>
          (s.bword (towerKey c (b / 2 ^ 22 % 16) (w.base + b % 2 ^ 22))).phase).getD 0
      let j : Job := { ctx := ctx, entry := e, pier := pier, gid := (s.groupOf k.sk).map (·.1), at_ := k,
                       barrier := bar.map fun b => (b, parity b) }
      .ok ({ s with jobs := s.jobs ++ [j] }.relayTurn pier)

/-- HCLOSE closes or seals the entry (R250, R268). -/
def hcloseEnd (s : State) (f : Flight) (g : FmtG) : HEnd :=
  let k := f.at_
  let ctx := s.ctxOf k
  let bad : HEnd := .error (0x10, handleInfo s k g.h)
  match s.boundEntry k g.h with
  | none => bad
  | some e =>
    let d := s.entry ctx e
    if g.sub % 4 = 1 then
      if d.state = 1 then .ok (s.setEntry ctx e { d with ro := true, state := 3 }.words)
      else if d.state = 2 then .ok (s.setEntry ctx e { d with ro := true }.words)
      else bad
    else if d.state = 1 ∨ d.state = 3 then
      .ok ((bindH (s.setEntry ctx e { d with state := 4 }.words) k g.h none).due (s.cyc + 1) 605 (.handleEntryFree ctx e))
    else bad

/-- What a handle word does at its completion. -/
def handleEnd (s : State) (f : Flight) : HEnd :=
  match f.ins, f.pend with
  | .hdef _ g, .handle [e] => hdefEnd s f g e
  | .relay _ g, .handle (m :: a) => relayEnd s f g m a
  | .hclose _ g, .handle _ => hcloseEnd s f g
  | _, _ => .ok s

/-- Another handle word completes in this cycle before this one (R251). -/
def handleBefore (s : State) (f : Flight) : Bool :=
  s.agenda.any fun d => d.prio == 610 && decide (d.at_ ≤ s.cyc) &&
    match d.ev with
    | .wordComplete id => (s.flight id).any fun g => decide (streamPlace g.at_ < streamPlace f.at_)
    | _ => false

/-- A handle word completes, after those of earlier columns, slots and engines (R251). -/
def State.endHandle (s : State) (f : Flight) : State :=
  if handleBefore s f then s.due s.cyc 610 (.wordComplete f.id)
  else match handleEnd s f with
    | .ok s => s.endWord f
    | .error (c, i) => s.lateFault f c i

/-! ### Relayout (R252–R260) -/

/-- The elements of conversion tile `m` (R252). -/
def Desc.tileElems (d : Desc) (m : Nat) : List (List Nat) :=
  let l := d.lay
  let sl := m / l.nt
  let c1 := m % l.nt / l.tilesAcross * l.th
  let c0 := m % l.tilesAcross * l.tw
  (List.range (min l.th (l.d1 - c1))).flatMap fun i => (List.range (min l.tw (l.d0 - c0))).map fun j =>
    [c0 + j, c1 + i, sl % l.d2, sl / l.d2]

/-- The bytes that hold the old elements of a tile: cell and byte (R254). -/
def Desc.oldBytes (d : Desc) (m : Nat) : List HLoc :=
  let l := d.old
  let els := d.tileElems m
  if l.tag = 4 then
    let starts := distinct (els.map fun c => (l.slot c).1)
    starts.flatMap fun b => (List.range l.z).map fun i => l.loc 0 (b + i)
  else
    let at_ := els.flatMap fun c =>
      let (cell, b, _) := l.place c 0
      (List.range (max 1 (l.w / 8))).map fun i => (cell, b + i)
    (at_.foldl (fun out x => if out.head? = some x then out else x :: out) []).reverse.map fun x => l.loc x.1 x.2

/-- The whole bytes of a tile's span in its new layout, padding included (R254). -/
def Desc.newSpan (d : Desc) (m : Nat) : List HLoc :=
  let l := d.new
  let els := d.tileElems m
  let lastC (n k size ext : Nat) : Bool := decide (ext ≤ (n / k + 1) * k) && decide (0 < size)
  match els with
  | [] => []
  | first :: _ =>
    let hi := first.getD 3 0 * l.s3 + first.getD 2 0 * l.s2
    let c0 := first.getD 0 0
    let c1 := first.getD 1 0
    if l.tag = 2 then (List.range l.tb).map fun i => l.loc 0 ((l.slot first).1 + i)
    else if l.tag = 4 then (List.range l.z).map fun i => l.loc 0 ((l.slot first).1 + i)
    else if l.tag = 1 then
      let lo := ceilDiv (c1 * l.w) 8
      let top := if lastC c1 l.th 1 l.d1 then (if l.s1 = 0 then l.min1 else l.s1) else (c1 + l.th) * l.w / 8
      (List.range (min l.tw (l.d0 - c0))).flatMap fun j => (List.range' lo (top - lo)).map fun i => l.loc 0 (hi + (c0 + j) * l.s1 + i)
    else
      let lo := c0 * l.w / 8
      let top := if lastC c0 l.tw 1 l.d0 then (if l.s1 = 0 then l.min1 else l.s1) else (c0 + l.tw) * l.w / 8
      (List.range (min l.th (l.d1 - c1))).flatMap fun j =>
        let y := c1 + j
        let (cell, line) := if l.tag = 3 then (y % 16, y / 16) else (0, y)
        (List.range' lo (top - lo)).map fun i => l.loc cell (hi + line * l.s1 + i)

/-- The memory key of a byte of a region of a job: through the context's window, or through the pages held for the tile. -/
def jobKey (s : State) (j : Job) (l : Lay) (x : HLoc) : Option Nat :=
  match x with
  | .far a => (j.pages.find? fun p => p.1 == a / 65536).map fun p => p.2 * 65536 + a % 65536
  | .tower cell off =>
    (s.physCol j.ctx l.col).bind fun c => (s.ctxWindow j.ctx c).map fun w => towerKey c cell (w.base + off)

/-- Far bytes among locations, as virtual pages. -/
def farPages (l : List HLoc) : List Nat :=
  distinct (l.filterMap fun x => match x with | .far a => some (a / 65536) | _ => none)

/-- A fault of a relayout goes to the group that issued the RELAY while it is resident, else to event 0x26 (R332, R434). -/
def State.relayFault (s : State) (j : Job) (code : Nat) (info : Word) : State :=
  match j.gid with
  | some g =>
    if (s.slotOfGroup g).isSome then s.engineFault g ⟨j.at_.eng, 3, code, info⟩
    else s.health { code := 0x26, ctx := j.ctx, info := BitVec.ofNat 64 code }
  | none => s.health { code := 0x26, ctx := j.ctx, info := BitVec.ofNat 64 code }

/-- The columns of the tower regions of a job's entry and map serve accesses (R491). -/
def jobServed (s : State) (j : Job) (d : Desc) : Bool :=
  ((if d.lay.space = 0 then [d.lay.col] else []) ++ (if d.ospace = 0 then [d.old.col] else []) ++ [d.map / 2 ^ 26 % 256]).all fun c =>
    match s.physCol j.ctx c with
    | some p => s.quadServes p && !s.moves.any fun v => v.begun && (v.src == p || v.dest == p)
    | none => true

/-- The key of map byte `n` of a converting entry. -/
def mapKey (s : State) (ctx : Nat) (d : Desc) (n : Nat) : Option Nat :=
  (s.physCol ctx (d.map / 2 ^ 26)).bind fun c => (s.ctxWindow ctx c).map fun w =>
    towerKey c (d.map / 2 ^ 22 % 16) (w.base + d.map % 2 ^ 22 + n)

/-- The map entry of a tile takes a state (R252). -/
def State.setMap (s : State) (ctx : Nat) (d : Desc) (m v : Nat) : State :=
  match mapKey s ctx d (m / 4) with
  | none => s
  | some k =>
    let b := (Memory.read s.mem k).toNat
    let sh := 4 ^ (m % 4)
    s.store k 1 (b - b / sh % 4 * sh + v * sh)

/-- The whole map is written as OLD (R253). -/
def State.clearMap (s : State) (ctx : Nat) (d : Desc) : State :=
  match mapKey s ctx d 0 with
  | none => s
  | some k =>
    let n := ceilDiv d.tiles 4
    { s.zeroRange k n with poison := s.poison.filter (fun p => decide (p < k ∨ k + n < p + 8)),
                           bitErrs := s.bitErrs.filter fun p => decide (p.1 < k ∨ k + n < p.1 + 8) }

/-- The pages of a tile are translated one after another; what the first that is not resident gets (R254, R434). -/
def holdPages (s : State) (j : Job) : List (Nat × Nat) → List (Nat × Nat) → Tr × List (Nat × Nat) × State
  | [], l => (.ok 0, l, s)
  | (v, kind) :: t, l =>
    match s.translate j.pier j.ctx (v * 65536) kind 2 (.relay j.ctx j.entry) with
    | (.ok pa, s) => holdPages s j t (l ++ [(v, pa / 65536)])
    | (r, s) => (match r with | .refused => .ok (v * 65536 + 1 + kind * 2 ^ 52) | x => x, l, s)

/-- RELAYOUT_TILE_MOVING: the next tile's pages are held, and the tile becomes MOVING, unless the engine converts another tile (R253, R254). -/
def execRelayoutTileMoving (ctx entry : Nat) (s : State) : Out :=
  match s.jobOf ctx entry with
  | none => .next s
  | some j =>
    let d := s.entry ctx entry
    if (s.ctxAt ctx).state ≠ 1 ∨ d.state ≠ 2 ∨ j.moving ∨ d.tiles ≤ d.done then .next (s.relayTurn j.pier)
    else if s.jobs.any fun o => o.pier == j.pier && o.moving then .next s
    else if !jobServed s j d then .next (s.due (s.cyc + 1) 580 (.relayoutTileMoving ctx entry))
    else
      let s := if j.began then s else s.clearMap ctx d
      let j := { j with began := true }
      let old := d.oldBytes d.done
      let pages := (farPages old).map (fun v => (v, 0)) ++ (farPages (d.newSpan d.done)).map fun v => (v, 1)
      match holdPages s j pages [] with
      | (.ok 0, l, s) =>
        let j := { j with pages := l }
        let keys := old.filterMap fun x => jobKey s j d.old x
        let snap := keys.foldl (fun (m : Map (Nat × Bool)) k => m.put k ((Memory.read s.mem k).toNat, s.poisoned k)) []
        let s := (s.checkKeys keys).setMap ctx d d.done 1
        let scales := if d.lay.tag = 5 then (distinct (keys.map fun k => k / 64 * 64)).map fun k => (k, s.hbmMeta.getD k []) else []
        let (x, s) := s.freeNat
        .next ((s.setJob { j with moving := true, snap := snap, scales := scales, since := s.cyc, wrote := false }).due (s.cyc + 1 + x % 3000) 580
          (.relayoutTileNew ctx entry))
      | (.ok a, _, s) =>
        let s := (s.relayFault j 0x12 (BitVec.ofNat 64 (a - 1))).setJob { j with stuck := true }
        .next ((s.due (s.cyc + 2 ^ 20) 580 (.relayoutTileRetry ctx entry)).relayTurn j.pier)
      | (.full, _, s) => .next ((s.setJob j).due (s.cyc + 1) 580 (.relayoutTileMoving ctx entry))
      | (_, _, s) => .next ((s.setJob { j with stuck := true }).relayTurn j.pier)

/-- The bits of an old element of a MOVING tile with its mark, from the bytes taken from the tile. -/
def snapElem (s : State) (j : Job) (l : Lay) (c : List Nat) : Nat × Bool :=
  let rd (x : HLoc) : Nat × Bool := ((jobKey s j l x).bind fun k => j.snap.get? k).getD (0, false)
  let (here, r) := if l.tag = 4 then l.present (fun x => (rd x).1) c else (true, 0)
  if !here then (0, l.tag = 4 && (rd (l.loc 0 ((l.slot c).1 + (l.slot c).2 / 8))).2)
  else
    let (cell, b, n) := l.place c r
    let bytes := (List.range (max 1 (l.w / 8))).map fun i => rd (l.loc cell (b + i))
    ((bytes.foldr (fun x n => x.1 + 256 * n) 0) / 16 ^ (if l.w = 4 then n else 0) % 2 ^ l.w, bytes.any (·.2))

/-- What a tile writes: its span as zeros, then its elements (R254, R258). -/
def tileWrites (s : State) (j : Job) (d : Desc) (m : Nat) : Map (Nat × Bool) :=
  let l := d.new
  let put (w : Map (Nat × Bool)) (x : HLoc) (f : Nat → Nat) (bad : Bool) : Map (Nat × Bool) :=
    match jobKey s j l x with
    | none => w
    | some k =>
      let (b, p) := (w.get? k).getD ((Memory.read s.mem k).toNat, false)
      w.put k (f b, p || bad)
  let w := (d.newSpan m).foldl (fun w x => put w x (fun _ => 0) false) ([] : Map (Nat × Bool))
  ((d.tileElems m).foldl (fun (r : Map (Nat × Bool) × Nat) c =>
    let (v, bad) := snapElem s j d.old c
    let (w, n) := r
    let there := l.tag != 4 || v != 0
    let w := if l.tag = 4 ∧ v ≠ 0 then
        let (b, e) := l.slot c
        put w (l.loc 0 (b + e / 8)) (fun x => x ||| 2 ^ (e % 8)) bad
      else if l.tag = 4 ∧ bad then put w (l.loc 0 ((l.slot c).1 + (l.slot c).2 / 8)) id true
      else w
    let (cell, b, nb) := l.place c n
    let w := if !there then w
      else if l.w = 4 then put w (l.loc cell b) (fun x => if nb = 1 then x % 16 + 16 * v else x / 16 * 16 + v) bad
      else (List.range (l.w / 8)).foldl (fun w i => put w (l.loc cell (b + i)) (fun _ => v / 256 ^ i % 256) bad) w
    (w, if there then n + 1 else n)) (w, 0)).1

/-- Where a scaled element's block scale and its line's tag byte lie: the region bytes that start their accesses, with the place of
the byte among the six (R38, R248). -/
def scalePlaces (l : Lay) (c : List Nat) : List (Nat × Nat) :=
  let (_, b, n) := l.place c 0
  let line := b - b % 192
  let blk := ((b % 192) * 8 / l.w + n) / 24
  [(line + 64 * (blk / 6), blk % 6), (line + 128, 4)]

/-- The block scales and tag bytes of a scaled tile move with its elements: the metadata of the accesses that they go to (R38, R253). -/
def tileScales (s : State) (j : Job) (d : Desc) (m : Nat) : Map (List Nat) :=
  if d.lay.tag ≠ 5 then []
  else (d.tileElems m).foldl (fun t c =>
    ((scalePlaces d.old c).zip (scalePlaces d.new c)).foldl (fun t r =>
      match jobKey s j d.old (d.old.loc 0 r.1.1), jobKey s j d.new (d.new.loc 0 r.2.1) with
      | some a, some b =>
        let v := (j.scales.getD a []).getD r.1.2 0
        let w := t.getD b (s.hbmMeta.getD b (List.replicate 6 0))
        t.put b (w.set r.2.2 v)
      | _, _ => t) t) []

/-- The unit that a pier's relayout engine moves bytes as. -/
def relayUnit (pier : Nat) : Nat := 2 * 10 ^ 6 + pier

/-- RELAYOUT_TILE_NEW: once every HST that saw the MOVING tile as OLD has reached the old region its new bytes are written, and when they are visible at DEV
scope it becomes NEW (R254). -/
def execRelayoutTileNew (ctx entry : Nat) (s : State) : Out :=
  match s.jobOf ctx entry with
  | none => .next s
  | some j =>
    let d := s.entry ctx entry
    let id := ctx * 4096 + entry
    let m := d.done
    if !j.moving then .next s
    else if (s.stores.any fun e => e.uses.contains (id, d.done + 1)) || !jobServed s j d then
      .next (s.due (s.cyc + 1) 580 (.relayoutTileNew ctx entry))
    else if !j.wrote then
      let t := s.asyncWrite 3 j.pier (relayUnit j.pier) j.gid ((tileWrites s j d m).map fun (x : Nat × Nat × Bool) => (x.1, x.2.1, x.2.2))
        ((tileScales s j d m).map fun (x : Nat × List Nat) => (x.1, x.2, false))
      .next ((t.setJob { j with wrote := true }).due (s.cyc + 1) 580 (.relayoutTileNew ctx entry))
    else if !s.unitReached (relayUnit j.pier) 2 then .next (s.due (s.cyc + 1) 580 (.relayoutTileNew ctx entry))
    else
      let t := s.setMap ctx d m 2
      let t := t.setEntry ctx entry { d with done := m + 1 }.words
      let j := { j with moving := false, snap := [], scales := [], pages := [], wrote := false }
      let t := { t with jobs := (t.jobs.filter fun (x : Job) => !(x.ctx == ctx && x.entry == entry)) ++ [j] }
      let t := if m + 1 = d.tiles then t.due t.cyc 605 (.relayoutComplete ctx entry) else t
      .next (t.relayTurn j.pier)

/-- Words in flight and stores of an entry, those of saved groups included, that `p` names by their tile. -/
def State.usesOf (s : State) (id : Nat) (p : Nat → Bool) : Bool :=
  let hit (l : List (Nat × Nat)) : Bool := l.any fun u => u.1 == id && p u.2
  s.flights.any (fun f => hit f.uses) || s.stores.any (fun e => hit e.uses)
  || s.groups.any fun g => (g.2.saved.map fun r => r.flights.any fun f => hit f.uses).getD false

/-- The arrival that a completed relayout makes (R259, R329). -/
def relayArrival (s : State) (j : Job) : State :=
  match j.barrier with
  | none => s
  | some (prog, parity) =>
    match (s.physCol j.ctx (prog / 2 ^ 26)).bind fun c => (s.ctxWindow j.ctx c).map fun w => (c, w) with
    | some (c, w) =>
      s.sendArrival { id := 0, key := towerKey c (prog / 2 ^ 22 % 16) (w.base + prog % 2 ^ 22), prog := prog, parity := parity,
                      bytes := 0, col := j.at_.col, order := 50, gid := j.gid, eng := j.at_.eng, src := 3, ctx := j.ctx }
    | none => s.relayFault j 0x09 (BitVec.ofNat 64 prog)

/-- RELAYOUT_COMPLETE: every tile is NEW, and what saw a tile as OLD is done: the entry leaves Converting (R250, R259). -/
def execRelayoutComplete (ctx entry : Nat) (s : State) : Out :=
  match s.jobOf ctx entry with
  | none => .next s
  | some j =>
    let d := s.entry ctx entry
    if d.state ≠ 2 ∨ d.done < d.tiles then .next s
    else if s.usesOf (ctx * 4096 + entry) (· != 0) then .next (s.due (s.cyc + 1) 605 (.relayoutComplete ctx entry))
    else
      let l := d.new
      let d := { d with state := if d.ro then 3 else 1, lay := l, olayout := 0, ospace := 0, obase := 0, oth := 0, otw := 0,
                        map := 0, done := 0 }
      let s := s.setEntry ctx entry d.words
      .next (relayArrival { s with jobs := s.jobs.filter fun (x : Job) => !(x.ctx == ctx && x.entry == entry) } j)

/-- RELAYOUT_TILE_RETRY: a tile whose page was refused is tried again (R434). -/
def execRelayoutTileRetry (ctx entry : Nat) (s : State) : Out :=
  match s.jobOf ctx entry with
  | none => .next s
  | some j => .next ((s.setJob { j with stuck := false }).relayTurn j.pier)

/-- HANDLE_ENTRY_FREE: the accesses that were issued before the entry was Closed have completed (R250). -/
def execHandleEntryFree (ctx entry : Nat) (s : State) : Out :=
  if (s.entry ctx entry).state ≠ 4 then .next s
  else if s.usesOf (ctx * 4096 + entry) (fun _ => true) then .next (s.due (s.cyc + 1) 605 (.handleEntryFree ctx entry))
  else .next (s.setEntry ctx entry (List.replicate 8 0))

end Sys2Proof.Machine
end

