-- ==== Sys2Proof/Machine/Channel.lean ====
section
/-! DEFINITION. Channels (ch. 10): engine addresses (R274, R275), commands and their sectors (R276–R285, R288–R291), chains (R292,
R293), stream ports (R294) and AATOM (R295). -/

namespace Sys2Proof.Machine

/-! ### Engine addresses (R274, R275) -/

/-- An engine address: far, linear in one tower, or column-striped. -/
inductive EA where
  | far (a : Nat)
  | lin (pcol cell off : Nat)
  | str (pcol x : Nat)
  deriving DecidableEq, Repr

namespace EA

/-- The address in a 64-bit operand; `none` where a bit marked zero is set. -/
def parse (v : Nat) : Option EA :=
  if v.testBit 63 then
    if v / 2 ^ 34 % 2 ^ 28 ≠ 0 then none
    else if v.testBit 62 then some (.str (v / 2 ^ 26 % 256) (v % 2 ^ 26))
    else some (.lin (v / 2 ^ 26 % 256) (v / 2 ^ 22 % 16) (v % 2 ^ 22))
  else if v / 2 ^ 52 ≠ 0 then none
  else some (.far v)

def isFar : EA → Bool | .far _ => true | _ => false

/-- The byte `n` further on. -/
def at_ (e : EA) (n : Nat) : EA :=
  match e with
  | .far a => .far (a + n)
  | .lin c cell off => .lin c cell (off + n)
  | .str c x => .str c (x + n)

/-- The address is inside the range of its form (R290). -/
def inForm : EA → Bool
  | .far a => decide (a < 2 ^ 52)
  | .lin _ _ off => decide (off < 2 ^ 22)
  | .str _ x => decide (x < 2 ^ 26)

/-- Column number, cell and offset of a tower byte. -/
def tower : EA → Option (Nat × Nat × Nat)
  | .far _ => none
  | .lin c cell off => some (c, cell, off)
  | .str c x => some (c, x / 64 % 16, 64 * (x / 1024) + x % 64)

/-- The global program address of a tower byte, or the far address. -/
def prog (e : EA) : Nat :=
  match e, e.tower with
  | _, some (c, cell, off) => progAddr c cell off % 2 ^ 34
  | .far a, _ => a
  | _, _ => 0

end EA

/-- The physical column and the window through which a stream's commands reach a column number (R275, R516). -/
def chanWindow (s : State) (k : Stream) (pcol : Nat) : Option (Nat × Window) :=
  (s.namedCol k pcol).bind fun c => (s.window k c).map fun w => (c, w)

/-- How many bytes from the start of its form's range a tower address may reach: none where no window serves the column. -/
def eaLimit (s : State) (k : Stream) (e : EA) : Nat :=
  match e with
  | .far _ => 2 ^ 52
  | .lin c _ _ => ((chanWindow s k c).map fun w => w.2.size).getD 0
  | .str c _ => ((chanWindow s k c).map fun w => 16 * w.2.size).getD 0

def EA.pos : EA → Nat | .far a => a | .lin _ _ off => off | .str _ x => x

/-- The program address of the first byte of a tower range that fails R275. -/
def rangeBad (s : State) (k : Stream) (e : EA) (n : Nat) : Option Nat :=
  let lim := eaLimit s k e
  if e.isFar || n == 0 || decide (e.pos + n ≤ lim) then none
  else some (e.at_ (lim - e.pos)).prog

/-- The memory key of a byte: a tower byte through its window, a far byte through the pages translated for its sector. -/
def eaKey (s : State) (k : Stream) (pages : List (Nat × Nat)) (e : EA) : Option Nat :=
  match e with
  | .far a => (pages.find? fun p => p.1 == a / 65536).map fun p => p.2 * 65536 + a % 65536
  | _ => e.tower.bind fun t => (chanWindow s k t.1).bind fun w =>
      if t.2.2 < w.2.size then some (towerKey w.1 t.2.1 (w.2.base + t.2.2)) else none

def eaKeys (s : State) (k : Stream) (pages : List (Nat × Nat)) (e : EA) (n : Nat) : List Nat :=
  (List.range n).filterMap fun i => eaKey s k pages (e.at_ i)

/-- The far pages of `n` bytes from an address, each by the first byte that lies on it, with the kind of access. -/
def eaPages (e : EA) (n kind : Nat) : List (Nat × Nat) :=
  match e with
  | .far a => if n = 0 then [] else
      (List.range' (a / 65536) ((a + n - 1) / 65536 + 1 - a / 65536)).map fun p => (max a (p * 65536), kind)
  | _ => []

/-! ### Reads of channels (R39, R228) -/

namespace State

/-- Keys are read: errors of tower words are found, and HBM accesses whose check fails are reported (R39, R228, R229, R470). -/
def noteFailed (s : State) (keys : List Nat) : State :=
  let s := s.checkKeys keys
  (distinct ((keys.filter fun k => decide (k < 2 ^ 51)).map fun k => k / 64 * 64)).foldl (fun s u =>
    if s.poisoned u then s.health { code := 0x03, info := BitVec.ofNat 64 u } else s) s

end State

/-! ### What the operands of a command must be (R287–R295) -/

/-- The widths of CPYX's tiles, their slots and lines (R247, R291). -/
def cpyxLay (aux : Nat) : Lay :=
  { tag := 4, space := 0, base := 0, th := aux % 256, tw := aux / 256 % 256, w := 4 * 2 ^ (aux / 2 ^ 16 % 4), d0 := aux / 256 % 256,
    d1 := aux % 256, d2 := 1, d3 := 1 }

def isScaledTag (t : Nat) : Bool := [0x14, 0x15, 0x16, 0x17].contains t

/-- The first fault of a command's operands, with its address (R287): ILLEGAL_ENCODING 0x01, ALIGNMENT 0x0B, TOWER_BOUNDS 0x09. -/
def operandFault (s : State) (k : Stream) (c : Command) : Option (Nat × Nat) :=
  let z := 2 ^ (c.size % 4)
  let ill (b : Bool) : Option (Nat × Nat) := if b then some (1, 0) else none
  let off (a m : Nat) : Option (Nat × Nat) := if a % m ≠ 0 then some (0x0B, a % 2 ^ 52) else none
  let bad (a n : Nat) : Option (Nat × Nat) :=
    (EA.parse a).bind fun e => (rangeBad s k e n).map fun p => (0x09, p)
  let far (a : Nat) : Bool := ((EA.parse a).map EA.isFar) == some true
  let ok (a : Nat) : Bool := (EA.parse a).isSome
  let bar : List (Option (Nat × Nat)) := if c.cmpl = 1 then [off c.target 16] else []
  let barIn : List (Option (Nat × Nat)) := if c.cmpl = 1 then
      [if 2 ^ 34 ≤ c.target then some (0x09, c.target % 2 ^ 34) else bad (2 ^ 63 + c.target) 16] else []
  let l : List (Option (Nat × Nat)) :=
    match c.kind with
    | .copy => [ill (!ok c.dest || !ok c.src || decide (2 ^ 40 ≤ c.len)), off c.dest 8, off c.src 8] ++ bar
        ++ [bad c.dest c.len, bad c.src c.len] ++ barIn
    | .scaled => [ill (!ok c.dest || far c.dest || !far c.src || decide (2 ^ 40 ≤ c.len) || c.len % 1024 != 0 || !isScaledTag c.aux),
        off c.dest 8, off c.src 64] ++ bar ++ [bad c.dest c.len] ++ barIn
    | .pack => [ill (!ok c.src || far c.src || !far c.dest || decide (2 ^ 40 ≤ c.len) || c.len % 1024 != 0 || !isScaledTag c.aux),
        off c.dest 64, off c.src 8] ++ bar ++ [bad c.src c.len] ++ barIn
    | .gather => [ill (!ok c.dest || !ok c.src || !ok c.aux || decide (2 ^ 32 ≤ c.len)), off c.dest z, off c.src z, off c.aux 4] ++ bar
        ++ [bad c.dest (c.len * z), bad c.aux (c.len * 4)] ++ barIn
    | .scatter => [ill (!ok c.dest || !ok c.src || !ok c.aux || decide (2 ^ 32 ≤ c.len)), off c.dest z, off c.src z, off c.aux 4] ++ bar
        ++ [bad c.src (c.len * z), bad c.aux (c.len * 4)] ++ barIn
    | .cpyx =>
      let y := cpyxLay c.aux
      let ds := c.aux / 2 ^ 32 % 2 ^ 16
      let line := y.tw * y.w / 8
      let lines := c.len * y.th
      let n := if lines = 0 then 0 else (lines - 1) * ds + line
      let gap := match bad c.dest n with
        | none => none
        | some _ =>
          let e := (EA.parse c.dest).getD (.far 0)
          let first := eaLimit s k e - e.pos
          some (0x09, (e.at_ (if first % ds < line then first else (first / ds + 1) * ds)).prog)
      [ill (!ok c.dest || far c.dest || !ok c.src || decide (2 ^ 32 ≤ c.len) || c.aux / 2 ^ 48 != 0 || c.aux / 2 ^ 18 % 2 ^ 14 != 0
          || y.tw == 0 || y.th == 0 || y.tw * y.w % 32 != 0 || decide (16384 < y.tb) || ds % 8 != 0 || decide (ds < line)),
        off c.src 8] ++ bar ++ [gap, bad c.src (c.len * y.z)] ++ barIn
    | .stbind scl => [ill (!ok c.src || c.aux / 32 != 0 || (!scl && decide (2 ^ 40 ≤ c.len))
          || (if scl then !isScaledTag c.aux || !far c.src || c.len % 1024 != 0 else !(Desc.legalTag c.aux || c.aux == 10))),
        off c.src (if scl then 64 else 8)] ++ [if scl then none else bad c.src c.len]
    | .aatom =>
      let n := if c.size / 16 = 1 then 8 else 4
      [ill (!ok c.dest), off c.dest n, bad c.dest n]
    | .chain => [ill (!ok c.src), off c.src 64] ++ bar ++ barIn
  l.findSome? id

/-! ### The words -/

/-- The scalar registers that a word reads. -/
def chanRegs (kind : CKind) (f : FmtE) : List Nat :=
  (match kind with
    | .copy => [f.dest, f.src, f.len]
    | .scaled | .pack | .gather | .scatter | .cpyx => [f.dest, f.src, f.len, f.aux]
    | .stbind _ => [f.src, f.len, f.aux]
    | .aatom => [f.dest, f.src, f.len]
    | .chain => [f.src]) ++ if f.cmpl = 1 then [f.ctgt] else []

/-- The command that a word makes of its operands. -/
def commandOf (s : State) (kind : CKind) (f : FmtE) : Command :=
  let v (r : Nat) : Nat := (s.sv r).toNat
  { kind := kind, at_ := s.cur, gid := (s.groupOf s.cur.sk).map (·.1), order := s.nextId, dest := v f.dest, src := v f.src,
    len := v f.len, aux := v f.aux, size := f.sub, acq := f.acq == 1, rel := f.rel == 1, scope := f.scope,
    strong := f.s == 1, cmpl := if kind == .aatom ∧ f.cmpl = 0 then 3 else f.cmpl,
    target := if kind == .aatom ∧ f.cmpl = 0 then f.aux else if f.cmpl = 1 then v f.ctgt else f.ctgt }

/-- The lowest-numbered free pier channel (R272). -/
def freePier (s : State) (p : Nat) : Option Nat :=
  (List.range 16).find? fun n => (s.chans.get? (State.chanKey (.pier p n))).isNone

/-- What the command reserves has room (R287). -/
def chanRoom (s : State) (kind : CKind) (f : FmtE) : Bool :=
  let p := s.sl.ports.getD (f.ctgt % 16) {}
  match kind with
  | .chain => (freePier s (s.cur.col / 64)).isSome
  | .stbind _ => !p.bound
  | .aatom => if f.cmpl = 0 then (s.sl.queue f.aux).hasRoom f.aux s.cyc else decide (p.held.length + p.reserved < 4)
  | _ => true

/-- What the command reserves at issue (R280, R294, R295). -/
def chanReserve (s : State) (c : Command) : State :=
  let p := s.sl.ports.getD (c.target % 16) {}
  match c.kind, c.cmpl with
  | .stbind _, _ =>
    s.setSl { s.sl with ports := s.sl.ports.put (c.target % 16) { p with bound := true, tag := c.aux, acq := c.rel, last := none } }
  | .aatom, 3 => s.setSl (s.sl.reserveQueue c.target)
  | .aatom, _ => s.setSl { s.sl with ports := s.sl.ports.put (c.target % 16) { p with reserved := p.reserved + 1 } }
  | _, _ => s

/-- The command enters its channel, and starts in the next cycle if the channel is idle (R271, R292). -/
def chanEnter (s : State) (ch : Nat) (c : Command) : State :=
  if c.kind = .chain then
    let p := s.cur.col / 64
    let n := (freePier s p).getD 0
    (s.setChan (.pier p n) { queue := [c], at_ := c.src }).due (s.cyc + 1) 46 (.chainRecord p n)
  else
    let x : Chan := .column s.cur.col s.cur.slot ch
    let v := s.chanAt x
    let s' := s.setChan x { v with queue := v.queue ++ [c] }
    if v.queue.isEmpty then s'.due (s.cyc + 1) 45 (.channelCommandStart x) else s'

/-- The ports that a command's tower operands name: the towers of the bytes of a range, and every tower of the column of elements that an index places. -/
def commandPorts (s : State) (c : Command) : List Nat :=
  let z := 2 ^ (c.size % 4)
  let ops : List (Nat × Option Nat) := match c.kind with
    | .gather => [(c.dest, some (c.len * z)), (c.src, none), (c.aux, some (4 * c.len))]
    | .scatter => [(c.dest, none), (c.src, some (c.len * z)), (c.aux, some (4 * c.len))]
    | .cpyx => [(c.dest, none), (c.src, none)]
    | .aatom => [(c.dest, some 8)]
    | .stbind _ => [(c.src, some c.len)]
    | _ => [(c.dest, some c.len), (c.src, some c.len)]
  distinct (ops.flatMap fun o => match EA.parse o.1 with
    | none => []
    | some e => match (e.tower).bind fun t => chanWindow s c.at_ t.1 with
      | none => []
      | some w => match o.2 with
        | none => (List.range 16).map fun i => w.1 * 16 + i
        | some n => (List.range (min 17 (ceilDiv n 64 + 1))).filterMap fun i =>
            if n ≤ 64 * i ∧ i ≠ 0 then none else ((e.at_ (64 * i)).tower).map fun t => w.1 * 16 + t.2.1)

/-- The columns that a command's tower operands name, and whether a far operand is among them. -/
def commandReach (s : State) (c : Command) : List Nat × Bool :=
  let ops := (if c.kind = .gather ∨ c.kind = .scatter then [c.aux] else []) ++ [c.dest, c.src]
  let es := ops.filterMap EA.parse
  (es.filterMap fun e => (e.tower).bind fun t => (chanWindow s c.at_ t.1).map fun w => w.1, es.any EA.isFar)

/-- A command that reaches a tower of another column, by an operand or by its arrival, ends the audit of its group (R478). -/
def auditReach (s : State) (c : Command) (opc : Nat) : State :=
  match c.gid with
  | none => s
  | some g =>
    let arrival := if c.cmpl = 1 then ((chanWindow s c.at_ (c.target / 2 ^ 26)).map (·.1)).toList else []
    if (((s.groups.get? g).bind Group.audit).any fun a => a.replayOf.isNone) ∧ ((commandReach s c).1 ++ arrival).any (· != c.at_.col) then
      s.abandonAudit g 2 opc
    else s

/-- A word that gives a channel a command (R287, R296). -/
def chanWord (i : Instr) (q : Seq) (kind : CKind) (f : FmtE) (s : State) : Out :=
  let rs := chanRegs kind f
  wordIssue i q (rs.map Reg.s)
    (fun s =>
      let c := commandOf s kind f
      let full := kind != .chain && decide (8 ≤ (s.chanAt (.column s.cur.col s.cur.slot f.ch)).queue.length)
      if full || !chanRoom s kind f then .wait
      else consuming s rs (
        let bad := operandFault s s.cur c
        if (bad.map (·.1)) = some 1 then .fault 0x01 (illegalInfo i)
        else if c.cmpl = 3 ∧ s.sl.writerOf f.aux ≠ engCode s.cur.eng then misuse f.aux true
        else match bad with
          | some (x, a) => .fault x (BitVec.ofNat 64 a)
          | none =>
            let s := auditReach s c ((i.form.map Form.opc).getD 0)
            .go { st := chanEnter (chanReserve s c) f.ch c, fifos := if f.cmpl = 0 ∧ kind ≠ .aatom then [f.ctgt % 8] else [] })) s

/-- COPY (R288, R289). -/
def execCopy (q : Seq) (f : FmtE) (s : State) : Out :=
  chanWord (.copy q f) q (if f.sub % 2 = 0 then .copy else if f.sub / 2 % 2 = 0 then .scaled else .pack) f s

/-- CHAIN (R292). -/
def execChain (q : Seq) (f : FmtE) (s : State) : Out := chanWord (.chain q f) q .chain f s

/-- GATHER (R290). -/
def execGather (q : Seq) (f : FmtE) (s : State) : Out := chanWord (.gather q f) q .gather f s

/-- SCATTER (R290). -/
def execScatter (q : Seq) (f : FmtE) (s : State) : Out := chanWord (.scatter q f) q .scatter f s

/-- CPYX (R291). -/
def execCpyx (q : Seq) (f : FmtE) (s : State) : Out := chanWord (.cpyx q f) q .cpyx f s

/-- STBIND (R294). -/
def execStbind (q : Seq) (f : FmtE) (s : State) : Out := chanWord (.stbind q f) q (.stbind (f.sub % 2 == 1)) f s

/-- AATOM (R295). -/
def execAatom (q : Seq) (f : FmtE) (s : State) : Out := chanWord (.aatom q f) q .aatom f s

/-! ### One sector (R276, R277, R282–R284) -/

/-- Why a sector is not performed: its page faults, no record is free, an engine fault, consumed poison, or a quad that does not
serve its towers (R491). -/
inductive Stop where
  | page
  | full
  | fault (code : Nat) (info : Nat)
  | poison (info : Nat)
  | busy

/-- The far pages of a sector are translated (R276); for firmware they are physical (R516). -/
def transPages (s : State) (x : Chan) (k : Stream) : List (Nat × Nat) → List (Nat × Nat) → Except Stop (List (Nat × Nat)) × State
  | [], l => (.ok l, s)
  | (a, kind) :: t, l =>
    if l.any (fun p => p.1 == a / 65536) && kind == 0 then transPages s x k t l
    else if 2 ^ 52 ≤ a then (.error (.fault 0x13 (a % 2 ^ 52)), s)
    else match s.farAddr k (s.ctxOf k) (a / 65536 * 65536) kind (match x with | .column .. => 0 | .pier .. => 1) (.chan x) with
      | (.ok pa, s) => transPages s x k t ((a / 65536, pa / 65536) :: l)
      | (.refused, s) => (.error (.fault s.refCode (a + s.refKind kind)), s)
      | (.waits, s) => (.error .page, s)
      | (.full, s) => (.error .full, s)

/-- The towers of keys serve accesses (R377, R491). -/
def keysServed (s : State) (keys : List Nat) : Bool :=
  keys.all fun k => decide (k < towerBase) || s.keyServed k

/-- The result of a sector: the bytes that it wrote. -/
abbrev SectorEnd := Except Stop Nat × State

/-- The address of a byte as the signature takes it (R477). -/
def EA.sign (e : EA) : Nat :=
  match e, e.tower with
  | _, some (_, cell, off) => 2 ^ 63 + cell * 2 ^ 22 + off
  | .far a, none => a
  | _, none => 0

/-- The group of a command is audited, or a replay. -/
def commandAudit (s : State) (c : Command) : Option Audit := (c.gid.bind fun g => s.groups.get? g).bind Group.audit

/-- The pier whose far-access unit a channel uses (R302). -/
def chanPier : Chan → Nat
  | .column col _ _ => col / 64
  | .pier p _ => p

/-- Memory as a channel reads it (R277, R304). -/
def chanView (s : State) (x : Chan) : State := s.viewOf (chanPier x) (State.chanKey x)

/-- The source that the port order of R216 counts a transfer to: a fill spine brings bytes of the package's HBM, the lintel network those of another
column's tower of the pier, and the channel itself all others (R24–R26). -/
def transferSource (s : State) (from_ keys : List Nat) : Nat :=
  match from_.head?, keys.head? with
  | some a, some b =>
    if a / 2 ^ 42 = s.pkg then 0
    else if towerBase ≤ a ∧ keyTower a / 16 ≠ keyTower b / 16 ∧ keyTower a / 1024 = keyTower b / 1024 then 1 else 2
  | _, _ => 2

/-- Bytes with their marks, read at `from_`, are written at keys, with the metadata of scaled lines (R277, R284). For an audited group they join the
signature (R477); a replay performs no far write (R479). -/
def sectorWrite (s : State) (x : Chan) (c : Command) (from_ : List Nat) (es : List EA) (keys : List Nat) (data : List (Nat × Bool))
    (metas : List (Nat × List Nat × Bool) := []) : SectorEnd :=
  let l := (keys.zip data).map fun x => (x.1, x.2.1, x.2.2)
  let src := transferSource s from_ keys
  let va := ((es.zip keys).findSome? fun p => match p.1 with | .far a => if hostKey p.2 then some a else none | _ => none).getD 0
  match commandAudit s c with
  | none => (.ok keys.length, s.asyncWrite src (chanPier x) (State.chanKey x) c.gid l metas va)
  | some a =>
    let s := s.sign c.gid ((es.zip data).map fun x => (x.1.sign, x.2.1))
    let far := a.replayOf.isNone
    (.ok keys.length, s.asyncWrite src (chanPier x) (State.chanKey x) c.gid (if far then l else l.filter fun x => decide (towerBase ≤ x.1))
      (if far then metas else []) va)

/-- The bytes from an address on. -/
def EA.run (e : EA) (n : Nat) : List EA := (List.range n).map e.at_

/-- A sector of bytes (R288). -/
def copySector (s : State) (x : Chan) (c : Command) (src dst : EA) : SectorEnd :=
  let o := 1024 * c.sector
  let n := min 1024 (c.len - o)
  match transPages s x c.at_ (eaPages (src.at_ o) n 0 ++ eaPages (dst.at_ o) n 1) [] with
  | (.error e, s) => (.error e, s)
  | (.ok pages, s) =>
    let a := eaKeys s c.at_ pages (src.at_ o) n
    let b := eaKeys s c.at_ pages (dst.at_ o) n
    if !keysServed s (a ++ b) then (.error .busy, s)
    else
      let s := s.noteFailed a
      sectorWrite s x c a ((dst.at_ o).run n) b ((chanView s x).readRun a)

/-- Blocks of a scaled line, data bytes of a block, and the blocks of a group (R36, R289). -/
def lineBlocks (tag : Nat) : Nat := if fourBit tag then 16 else 8
def blockBytes (tag : Nat) : Nat := if fourBit tag then 12 else 24

/-- The group side of four scaled lines: bytes with their marks, a mark being the address of the poisoned word; `line` gives line `l`'s 192 bytes, `scale`
byte `i` of the six of access `a` of line `l` (R36–R39, R289). -/
def groupSide (tag : Nat) (line : Nat → List (Nat × Option Nat)) (scale : Nat → Nat → Nat → Nat × Option Nat) : List (Nat × Option Nat) :=
  let nb := lineBlocks tag
  let bb := blockBytes tag
  let block (b : Nat) : List (Nat × Option Nat) := ((line (b / nb)).drop (b % nb * bb)).take bb
  let sc (b : Nat) : Nat × Option Nat := scale (b / nb) (b % nb / 6) (b % nb % 6)
  (List.range 32).flatMap fun g =>
    if fourBit tag then block (2 * g) ++ block (2 * g + 1) ++ [sc (2 * g), sc (2 * g + 1)] ++ List.replicate 6 (0, none)
    else block g ++ [sc g] ++ List.replicate 7 (0, none)

/-- The address of the word that holds a byte, as a mark and TRAPINFO give it (R116, R230). -/
def EA.markOf (e : EA) : Nat := e.prog / 8 * 8 + if e.isFar then 2 ^ 63 else 0

/-- Four scaled lines read from far space as their group side; a tag byte that differs is an error, in a poisoned access as in any other (R39,
R289). DESIGN CHOICE (log 150). -/
def readLines (s : State) (x : Chan) (c : Command) (src : EA) : Except Stop (List (Nat × Option Nat)) × State :=
  let e := src.at_ (768 * c.sector)
  match transPages s x c.at_ (eaPages e 768 0) [] with
  | (.error e, s) => (.error e, s)
  | (.ok pages, s) =>
    let keys := eaKeys s c.at_ pages e 768
    let t := chanView s x
    let mark (i : Nat) (bad : Bool) : Option Nat := if bad then some (e.at_ i).markOf else none
    let data := (t.readRun keys).zipIdx.map fun b => (b.1.1, mark b.2 b.1.2)
    let access (l a : Nat) : Nat := keys.getD (192 * l + 64 * a) 0
    let scale (l a i : Nat) : Nat × Option Nat :=
      ((t.hbmMeta.getD (access l a) []).getD i 0, mark (192 * l + 64 * a) (t.poisoned (access l a)))
    match (List.range 4).find? fun l => (scale l 2 4).1 != c.aux with
    | some l => (.error (.fault 0x04 (c.aux + 256 * ((scale l 2 4).1 % 32))), s.noteFailed keys)
    | none => (.ok (groupSide c.aux (fun l => (data.drop (192 * l)).take 192) scale), s.noteFailed keys)

/-- A sector of a scaled COPY towards a tower (R289). -/
def scaledSector (s : State) (x : Chan) (c : Command) (src dst : EA) : SectorEnd :=
  let b := eaKeys s c.at_ [] (dst.at_ (1024 * c.sector)) 1024
  if !keysServed s b then (.error .busy, s)
  else match readLines s x c src with
    | (.error e, s) => (.error e, s)
    | (.ok data, s) =>
      sectorWrite s x c [s.pkg * 2 ^ 42] ((dst.at_ (1024 * c.sector)).run 1024) b (data.map fun d => (d.1, d.2.isSome))

/-- A sector of a packing COPY: four lines with their scales and tag bytes (R38, R289). -/
def packSector (s : State) (x : Chan) (c : Command) (src dst : EA) : SectorEnd :=
  let a := eaKeys s c.at_ [] (src.at_ (1024 * c.sector)) 1024
  let e := dst.at_ (768 * c.sector)
  match transPages s x c.at_ (eaPages e 768 1) [] with
  | (.error e, s) => (.error e, s)
  | (.ok pages, s) =>
    if !keysServed s a then (.error .busy, s)
    else
      let s := s.noteFailed a
      let g := (chanView s x).readRun a
      let keys := eaKeys s c.at_ pages e 768
      let nb := lineBlocks c.aux
      let bb := blockBytes c.aux
      let data (b : Nat) : List (Nat × Bool) :=
        (g.drop (if fourBit c.aux then 32 * (b / 2) + 12 * (b % 2) else 32 * b)).take bb
      let scale (b : Nat) : Nat × Bool := g.getD (if fourBit c.aux then 32 * (b / 2) + 24 + b % 2 else 32 * b + 24) (0, false)
      let metas := (List.range 12).filterMap fun n =>
        let (l, ac) := (n / 3, n % 3)
        let key := keys.getD (192 * l + 64 * ac) 0
        let six := (List.range 6).map fun i => if 6 * ac + i < nb then scale (l * nb + 6 * ac + i)
          else (if ac = 2 ∧ i = 4 then c.aux else 0, false)
        if 2 ^ 51 ≤ key then none else some (key, six.map (·.1), six.any (·.2))
      sectorWrite s x c a (e.run 768) keys ((List.range (4 * nb)).flatMap data) metas

/-- The address of an indexed element, or its fault (R290). -/
def indexed (s : State) (k : Stream) (base : EA) (off : Nat) : Except Stop EA :=
  let e := base.at_ off
  if !e.inForm then .error (match base with | .far a => .fault 0x13 (a + off) | _ => .fault 0x09 e.prog)
  else match rangeBad s k e 1 with
    | some p => .error (.fault 0x09 p)
    | none => .ok e

/-- A sector of GATHER or SCATTER: 128 elements (R290). -/
def indexSector (s : State) (x : Chan) (c : Command) (src dst list : EA) : SectorEnd :=
  let k := c.at_
  let z := 2 ^ (c.size % 4)
  let i0 := 128 * c.sector
  let n := min 128 (c.len - i0)
  let le := list.at_ (4 * i0)
  match transPages s x k (eaPages le (4 * n) 0) [] with
  | (.error e, s) => (.error e, s)
  | (.ok p0, s) =>
    let ik := eaKeys s k p0 le (4 * n)
    if !keysServed s ik then (.error .busy, s)
    else
      let s := s.noteFailed ik
      let raw := (chanView s x).readRun ik
      match raw.zipIdx.find? fun r => r.1.2 with
      | some r => (.error (.poison (le.at_ r.2).markOf), s)
      | none =>
        let idx (i : Nat) : Nat := (List.range 4).foldr (fun b v => (raw.getD (4 * i + b) (0, false)).1 + 256 * v) 0
        let pair (i : Nat) : Except Stop (EA × EA) :=
          if c.kind = .gather then (indexed s k src (idx i * z)).map fun e => (e, dst.at_ ((i0 + i) * z))
          else (indexed s k dst (idx i * z)).map fun e => (src.at_ ((i0 + i) * z), e)
        match (List.range n).mapM pair with
        | .error e => (.error e, s)
        | .ok l =>
          match transPages s x k (l.flatMap fun p => eaPages p.1 z 0 ++ eaPages p.2 z 1) [] with
          | (.error e, s) => (.error e, s)
          | (.ok pages, s) =>
            let moves := l.map fun p => (eaKeys s k pages p.1 z, eaKeys s k pages p.2 z)
            if !keysServed s (moves.flatMap fun m => m.1 ++ m.2) then (.error .busy, s)
            else
              let s := s.noteFailed (moves.flatMap (·.1))
              let v := chanView s x
              let data := moves.map fun m => v.readRun m.1
              let s' := ((moves.zip data).zip l).foldl (fun t m => (sectorWrite t x c m.1.1.1 (m.2.2.run z) m.1.1.2 m.1.2).2) s
              (.ok (n * z), s')

/-- A sector of CPYX: one bitmap tile becomes dense lines (R291). -/
def cpyxSector (s : State) (x : Chan) (c : Command) (src dst : EA) : SectorEnd :=
  let k := c.at_
  let y := cpyxLay c.aux
  let ds := c.aux / 2 ^ 32 % 2 ^ 16
  let from_ := src.at_ (c.sector * y.z)
  match transPages s x k (eaPages from_ y.z 0) [] with
  | (.error e, s) => (.error e, s)
  | (.ok pages, s) =>
    let sk := eaKeys s k pages from_ y.z
    let line := y.tw * y.w / 8
    let out := (List.range y.th).flatMap fun r => eaKeys s k [] (dst.at_ ((c.sector * y.th + r) * ds)) line
    if !keysServed s (sk ++ out) then (.error .busy, s)
    else
      let s := s.noteFailed sk
      let raw := (chanView s x).readRun sk
      let nbm := ceilDiv (y.th * y.tw) 8
      match (raw.take nbm).zipIdx.find? fun r => r.1.2 with
      | some r => (.error (.poison (from_.at_ r.2).markOf), s)
      | none =>
        let bit (e : Nat) : Bool := ((raw.getD (e / 8) (0, false)).1).testBit (e % 8)
        let body := raw.drop y.bitmapBytes
        let elem (r : Nat) : Nat × Bool :=
          let n := max 1 (y.w / 8)
          let bs := (body.drop (r * y.w / 8)).take n
          ((bs.foldr (fun b v => b.1 + 256 * v) 0) / 16 ^ (if y.w = 4 then r % 2 else 0) % 2 ^ y.w, bs.any (·.2))
        let els := ((List.range (y.th * y.tw)).foldl (fun (a : List (Nat × Bool) × Nat) e =>
          if bit e then (elem a.2 :: a.1, a.2 + 1) else ((0, false) :: a.1, a.2)) ([], 0)).1.reverse
        let bytes := if y.w = 4 then
            (List.range (els.length / 2)).map fun i =>
              let a := els.getD (2 * i) (0, false)
              let b := els.getD (2 * i + 1) (0, false)
              (a.1 + 16 * b.1, a.2 || b.2)
          else els.flatMap fun e => (List.range (y.w / 8)).map fun i => (e.1 / 256 ^ i % 256, e.2)
        sectorWrite s x c sk ((List.range y.th).flatMap fun r => (dst.at_ ((c.sector * y.th + r) * ds)).run line) out bytes

/-- The next sector of a command is performed. -/
def sectorRun (s : State) (x : Chan) (c : Command) : SectorEnd :=
  match EA.parse c.src, EA.parse c.dest, EA.parse c.aux with
  | some src, some dst, list =>
    match c.kind with
    | .copy => copySector s x c src dst
    | .scaled => scaledSector s x c src dst
    | .pack => packSector s x c src dst
    | .gather | .scatter => indexSector s x c src dst (list.getD (.far 0))
    | .cpyx => cpyxSector s x c src dst
    | _ => (.ok 0, s)
  | _, _, _ => (.error (.fault 1 0), s)

/-- The sectors of a command (R276). -/
def Command.sectors (c : Command) : Nat :=
  match c.kind with
  | .gather | .scatter => ceilDiv c.len 128
  | .cpyx => c.len
  | .aatom => 1
  | _ => ceilDiv c.len 1024

/-! ### How a channel goes on -/

/-- The cycles that a command takes beyond those for its destination bytes: within 12, 40 or 180 for towers alone with no other
channel or other transfer at work on their ports, else left open (R297). -/
def overhead (s : State) (x : Chan) (c : Command) : Nat × State :=
  let (cols, far) := commandReach s c
  let home := c.at_.col
  let ports := commandPorts s c
  let others := (s.chans.any fun r => r.1 != State.chanKey x &&
      ((r.2.inner.orElse fun _ => r.2.queue.head?).any fun o => (commandPorts s o).any ports.contains))
    || s.async.any (fun p => p.unit != State.chanKey x && ports.contains (keyTower p.key))
  let bound := if cols.all (· == home) then 12 else if cols.all (fun p => p / 64 == home / 64) then 40 else 180
  let (d, s) := s.freeNat
  (if far || others || (match x with | .pier .. => true | _ => false) then d else d % bound, s)

/-- Earlier accesses of the engine that issued a command have not been performed: its acquire waits for them (R279). -/
def acquireWaits (s : State) (c : Command) : Bool :=
  s.writesBefore c.at_ c.order || s.flights.any fun f => f.at_ == c.at_ && decide (f.id < c.order) && f.pieces.any fun p => !p.done

/-- The barrier word of a completion: its key and column (R280). -/
def barrierKey (s : State) (c : Command) : Option Nat :=
  (chanWindow s c.at_ (c.target / 2 ^ 26)).map fun w => towerKey w.1 (c.target / 2 ^ 22 % 16) (w.2.base + c.target % 2 ^ 22)

/-- The arrival that a completion makes, with the parity that the barrier held at the command's start (R280, R329). -/
def chanArrive (s : State) (x : Chan) (c : Command) : State :=
  match barrierKey s c with
  | none => s
  | some key =>
    let ord := match x with | .column _ sl ch => ch * 5 + sl | .pier _ n => 20 + n
    s.sendArrival { id := 0, key := key, prog := c.target, parity := c.parity, bytes := c.written % 2 ^ 48, col := c.at_.col,
                    order := ord, gid := c.gid, eng := c.at_.eng, src := State.chanSrc x, ctx := s.ctxOf c.at_ }

/-- The command of a channel starts: it takes the phase parity of its barrier (R280). -/
def Command.begin (c : Command) (s : State) : Command :=
  { c with started := true, since := s.cyc, parity := if c.cmpl = 1 then ((barrierKey s c).map fun b => (s.bword b).phase).getD 0 else 0 }

/-- The event that takes up a channel's command again. -/
def chanEvent : Chan → Instr := fun x => .channelCommandStart x

/-- Poison consumed by a channel: event 0x10 and the purge of its group; for firmware, the firmware context stops (R284, R471). -/
def chanPoison (s : State) (c : Command) (info : Nat) : State :=
  match c.gid with
  | some g => s.consumedBy g (BitVec.ofNat 64 info)
  | none => s.stopFirmware c.at_ 0x0D

/-- What stops a sector becomes the channel's next event. -/
def chanStop (s : State) (x : Chan) (c : Command) : Stop → State
  | .page => s
  | .full | .busy => s.due (s.cyc + 1) 45 (chanEvent x)
  | .fault code info => s.due s.cyc 47 (.engineFault x code info)
  | .poison info => chanPoison s c info

/-- A vector's place is free at the port of an STBIND: four vectors fill it, those that an AATOM has reserved places for among them (R294). -/
def portRoom (s : State) (c : Command) : Bool :=
  let p := (s.slotAt c.at_.sk).ports.getD (c.target % 16) {}
  decide (p.held.length + p.reserved < 4)

/-- AATOM's operation at its target (R295): a far one follows the writes that are held before it and gives the old value (R304); one at a tower takes its
turn at the port, through the lintel network where the tower is another column's (R25, R216). -/
def aatomRun (s : State) (x : Chan) (c : Command) : Except Stop (Option Nat) × State :=
  match EA.parse c.dest with
  | none => (.error (.fault 1 0), s)
  | some e =>
    let n := if c.size / 16 % 2 = 1 then 8 else 4
    match transPages s x c.at_ (eaPages e n 2) [] with
    | (.error e, s) => (.error e, s)
    | (.ok pages, s) =>
      let keys := eaKeys s c.at_ pages e n
      if !keysServed s keys || s.farBefore (chanPier x) keys then (.error .busy, s)
      else
        let s := s.noteFailed keys
        let raw := s.readRun keys
        if raw.any (·.2) then (.error (.poison e.markOf), s)
        else
          match e.isFar, keys with
          | false, k :: _ =>
            let src := if keyTower k / 16 = c.at_.col then 2 else 1
            (.ok none, { s with async := s.async ++ [{ src := src, unit := State.chanKey x, key := k, bytes := List.replicate n 0, gid := c.gid,
                                                       atom := some x }] })
          | _, _ =>
            let old := raw.foldr (fun b v => b.1 + 256 * v) 0
            (.ok (some old), s.rightRun c.gid.isNone (keys.zipIdx.map fun y => (y.1, c.atomNew n old / 256 ^ y.2 % 256, false)))

/-- A save stops what a channel would begin: commands that have not started, the next vector of a stream, the next record (R285). -/
def chanFrozen (s : State) (c : Command) : Bool :=
  ((c.gid.bind fun g => s.groups.get? g).map Group.state) == some .preempting &&
    (!c.started || (match c.kind with | .stbind _ => true | .chain => true | _ => false))

/-- A command waits while a contribution that its slot submitted before has not read its elements (R458). -/
def collHolds (s : State) (c : Command) : Bool :=
  s.colls.any fun x => x.reading && x.at_.col == c.at_.col && x.at_.slot == c.at_.slot

/-- CHANNEL_COMMAND_START: the channel's command starts, or goes on with its next sector (R271, R276). -/
def execChannelCommandStart (x : Chan) (s : State) : Out :=
  match s.chanCommand x with
  | none => .next s
  | some c =>
    let inner := match x with | .pier .. => true | .column .. => false
    if (s.chanAt x).susp.isSome || (!inner && chanFrozen s c) then .next s
    else
      let fresh := !c.started
      let c := if fresh then c.begin s else c
      let s := s.setCommand x c
      if (c.acq && acquireWaits s c) || collHolds s c then .next (s.due (s.cyc + 1) 45 (chanEvent x))
      else if c.kind = .aatom then
        match aatomRun s x c with
        | (.error e, s) => .next (chanStop s x c e)
        | (.ok none, s) => .next s
        | (.ok (some old), s) =>
          let (d, s) := s.freeNat
          .next ((s.setCommand x { c with aux := old }).due (s.cyc + 1 + d) 560 (.commandComplete x))
      else if c.sectors ≤ c.sector then
        let sl := s.slotAt c.at_.sk
        let p := sl.ports.getD (c.target % 16) {}
        let s := match c.kind with
          | .stbind _ => s.setSlot c.at_.sk { sl with ports := sl.ports.put (c.target % 16) { p with bound := false } }
          | _ => s
        .next (s.due (s.cyc + 1) 560 (.commandComplete x))
      else match c.kind with
        | .stbind _ =>
          if portRoom s c then
            let (d, s) := s.freeNat
            .next (s.due (s.cyc + max 1 (ceilDiv (min 1024 (c.len - 1024 * c.sector)) 64) + d) 45 (.streamPortVector x))
          else .next (s.due (s.cyc + 1) 45 (chanEvent x))
        | _ =>
          match sectorRun s x c with
          | (.error e, s) => .next (chanStop s x c e)
          | (.ok bytes, s) =>
            let busy := ceilDiv (c.written + bytes) 64 - ceilDiv c.written 64
            let c := { c with sector := c.sector + 1, written := c.written + bytes }
            let s := s.setCommand x c
            if c.sector < c.sectors then .next (s.due (s.cyc + busy) 45 (chanEvent x))
            else
              let (d, s) := overhead s x c
              .next (s.due (s.cyc + busy + d) 560 (.commandComplete x))

/-- A vector of a stream with its tag and marks (R284, R294). -/
def streamVector (tag : Nat) (data : List (Nat × Option Nat)) : VReg :=
  let lane (l : Nat) : List (Nat × Option Nat) := (data.drop (4 * l)).take 4
  { tag := tag, lanes := (List.range 256).map fun l => BitVec.ofNat 32 ((lane l).foldr (fun b v => b.1 + 256 * v) 0),
    marks := (List.range 256).filterMap fun l => ((lane l).findSome? (·.2)).map fun m => (l, m) }

/-- STREAM_PORT_VECTOR: the next vector of a stream arrives at its port (R294). -/
def execStreamPortVector (x : Chan) (s : State) : Out :=
  match s.chanCommand x, (s.chanCommand x).bind fun c => EA.parse c.src with
  | some c, some src =>
    if !portRoom s c then .next (s.due (s.cyc + 1) 45 (.streamPortVector x)) else
    let o := 1024 * c.sector
    let n := min 1024 (c.len - o)
    let (r, s) : Except Stop (List (Nat × Option Nat)) × State := match c.kind with
      | .stbind true => readLines s x c src
      | _ => match transPages s x c.at_ (eaPages (src.at_ o) n 0) [] with
        | (.error e, s) => (.error e, s)
        | (.ok pages, s) =>
          let keys := eaKeys s c.at_ pages (src.at_ o) n
          if keysServed s keys then
            let s := s.noteFailed keys
            (.ok (((chanView s x).readRun keys).zipIdx.map fun b => (b.1.1, if b.1.2 then some (src.at_ (o + b.2)).markOf else none)), s)
          else (.error .busy, s)
    match r with
    | .error e => .next (chanStop s x c e)
    | .ok data =>
      let last := decide (c.sectors ≤ c.sector + 1)
      let sl := s.slotAt c.at_.sk
      let p := sl.ports.getD (c.target % 16) {}
      let p := { p with held := p.held ++ [streamVector c.aux data], last := if last then some (p.held.length + 1) else none }
      let s := s.setSlot c.at_.sk { sl with ports := sl.ports.put (c.target % 16) p }
      let s := s.setCommand x { c with sector := c.sector + 1 }
      .next (if last then s.due s.cyc 560 (.commandComplete x) else s.due (s.cyc + 1) 45 (chanEvent x))
  | _, _ => .next s

/-- The channel leaves its command and starts its next one in the next cycle (R271). -/
def chanNext (s : State) (x : Chan) : State :=
  let v := s.chanAt x
  let s := s.setChan x { v with queue := v.queue.drop 1, susp := none }
  if 1 < v.queue.length then s.due (s.cyc + 1) 45 (chanEvent x) else s

/-- The completion object of a command takes its signal (R280). -/
def chanSignal (s : State) (x : Chan) (c : Command) : State :=
  let sl := s.slotAt c.at_.sk
  match c.cmpl with
  | 0 => s.landTokens c.at_ [c.target % 8]
  | 1 => chanArrive s x c
  | 2 => match c.kind with
    | .aatom =>
      let p := sl.ports.getD (c.target % 16) {}
      let v : VReg := { tag := 0, lanes := [BitVec.ofNat 32 c.aux, BitVec.ofNat 32 (c.aux / 2 ^ 32)] ++ List.replicate 254 0 }
      s.setSlot c.at_.sk { sl with ports := sl.ports.put (c.target % 16) { p with held := p.held ++ [v], reserved := p.reserved - 1 } }
    | _ => s
  | 3 => s.setSlot c.at_.sk (sl.fillQueue c.target (s.cyc + 2) (.s { val := BitVec.ofNat 64 c.aux }))
  | _ => s

/-! ### Chains (R292, R293) -/

/-- The addresses of a chain's record: the keys of its bytes, its page held for the access. -/
def recordKeys (s : State) (x : Chan) (c : Command) (a kind : Nat) : Except Stop (List Nat) × State :=
  match EA.parse a with
  | none => (.error (.fault 1 0), s)
  | some e =>
    match rangeBad s c.at_ e 64, transPages s x c.at_ (eaPages e 64 kind) [] with
    | some p, _ => (.error (.fault 0x09 p), s)
    | _, (.error e, s) => (.error e, s)
    | _, (.ok pages, s) =>
      let keys := eaKeys s c.at_ pages e 64
      if keysServed s keys then (.ok keys, s) else (.error .busy, s)

/-- The chain ends: it signals its completion, and the pier channel is free (R292). -/
def chainEnd (s : State) (pier n : Nat) : State :=
  let v := s.chanAt (.pier pier n)
  (s.setChan (.pier pier n) { v with inner := none, susp := none, err := none }).due (s.cyc + 1) 560 (.commandComplete (.pier pier n))

/-- Word 0 of a chain's record is written with OWN = 0 and ERR (R292). -/
def writeRecord0 (s : State) (x : Chan) (c : Command) (a : Nat) (keys : List Nat) (err : Nat) : State :=
  let w := ((chanView s x).readRun (keys.take 8)).foldr (fun b v => b.1 + 256 * v) 0
  let w := w % 2 ^ 60 / 2 * 2 + err * 2 ^ 60
  let es := ((EA.parse a).map fun e => e.run 8).getD []
  (sectorWrite s x c [] es (keys.take 8) ((List.range 8).map fun i => (w / 256 ^ i % 256, false))).2

/-- A chain's record that has ended with an ERR: once its writes have reached the CHAIN's scope its word 0 is written, and the chain goes on at the NEXT
that was read or ends (R292). -/
def closeRecord (s : State) (pier n err : Nat) (c : Command) : State :=
  let x : Chan := .pier pier n
  let again (s : State) : State := s.due (s.cyc + 1) 560 (.commandComplete x)
  if !s.unitReached (State.chanKey x) c.scope then again s
  else match recordKeys s x c (s.chanAt x).at_ 1 with
    | (.ok keys, s) =>
      let v := s.chanAt x
      let s := writeRecord0 s x c v.at_ keys err
      if err ≠ 0 ∨ v.next = 0 then chainEnd s pier n
      else
        let (d, s) := s.freeNat
        (s.setChan x { v with at_ := v.next, susp := none, err := none }).due (s.cyc + 1 + d) 46 (.chainRecord pier n)
    | (.error .page, s) => s
    | (.error .full, s) | (.error .busy, s) => again s
    | (.error _, s) => chainEnd s pier n

/-- A chain's record is done or has failed: the bytes that it wrote join the CHAIN's, and it is closed (R292, R329). -/
def recordDone (s : State) (pier n err : Nat) : State :=
  let x : Chan := .pier pier n
  let v := s.chanAt x
  match v.queue.head? with
  | none => s
  | some c =>
    let c := { c with written := c.written + ((v.inner.map Command.written).getD 0) }
    closeRecord (s.setChan x { v with queue := [c], inner := none, err := some err }) pier n err c

/-- A channel that has waited goes on where it stood (R273, R282, R285). -/
def State.resumeChan (s : State) (x : Chan) : State :=
  let v := s.chanAt x
  match x with
  | .column .. => s.due (s.cyc + 1) 45 (chanEvent x)
  | .pier p n =>
    if v.err.isSome then s.due (s.cyc + 1) 560 (.commandComplete x)
    else if v.inner.isSome then s.due (s.cyc + 1) 45 (chanEvent x)
    else if v.parked then s.due (s.cyc + 1) 46 (.chainRecordPoll p n)
    else s.due (s.cyc + 1) 46 (.chainRecord p n)

/-- TRANSLATION_FAULT: the channel's access waits in a record. Once every write of the sectors before has reached its region the channel is Suspended at its
sector, until its record is answered (R282). -/
def execTranslationFault (x : Chan) (record : Nat) (s : State) : Out :=
  if !s.unitReached (State.chanKey x) 5 then .next (s.due (s.cyc + 1) 47 (.translationFault x record))
  else if s.pages.open_.any fun r => r.id == record && r.who.contains (.chan x) then .next (s.setChan x { s.chanAt x with susp := some record })
  else .next (s.resumeChan x)

/-- The command that a record stands for, or that it is malformed (R293). -/
def recordCommand (c : Command) (w : List Nat) : Option Command :=
  let a := w.getD 0 0
  let kind := a / 2 % 8
  let size := a / 16 % 4
  let cm := a / 64 % 4
  let next := w.getD 1 0
  let bar := w.getD 6 0
  if a / 2 ^ 20 % 2 ^ 40 ≠ 0 ∨ a / 2 ^ 8 % 64 ≠ 0 ∨ 5 ≤ a / 2 ^ 16 % 8 ∨ 2 ≤ cm ∨ 6 ≤ kind ∨ (size ≠ 0 ∧ kind ≠ 1 ∧ kind ≠ 2) ∨
      (EA.parse next).isNone ∨ next % 64 ≠ 0 ∨ (cm = 0 ∧ bar ≠ 0) ∨ w.getD 7 0 ≠ 0 ∨ (kind = 0 ∧ w.getD 5 0 ≠ 0) then none
  else some { kind := match kind with | 0 => .copy | 1 => .gather | 2 => .scatter | 3 => .cpyx | 4 => .scaled | _ => .pack,
              at_ := c.at_, gid := c.gid, order := c.order, dest := w.getD 2 0, src := w.getD 3 0, len := w.getD 4 0, aux := w.getD 5 0,
              size := size, acq := a.testBit 14, rel := a.testBit 15, scope := a / 2 ^ 16 % 8, strong := a.testBit 19,
              cmpl := if cm = 1 then 1 else 4, target := bar }

/-- Bytes of a chain's record are read (R292): a poisoned one, or the record's words. -/
def readRecord (s : State) (x : Chan) (a : Nat) (keys : List Nat) : Except Nat (List Nat) × State :=
  let s := s.noteFailed keys
  let raw := (chanView s x).readRun keys
  (match raw.zipIdx.find? fun r => r.1.2 with
    | some r => .error (((EA.parse a).getD (.far 0)).at_ r.2).markOf
    | none => .ok ((List.range (keys.length / 8)).map fun i => ((raw.drop (8 * i)).take 8).foldr (fun b v => b.1 + 256 * v) 0), s)

/-- A record that could not be read: it is Suspended, tries again, ends with ERR = 3 where its page is refused, or the chain ends (R292, R434). -/
def recordStop (s : State) (pier n : Nat) (again : Instr) : Stop → State
  | .page => s
  | .full | .busy => s.due (s.cyc + 1) 46 again
  | .fault code _ => if code = 0x12 ∨ code = 0x13 then recordDone s pier n 3 else chainEnd s pier n
  | .poison _ => chainEnd s pier n

/-- CHAIN_RECORD: a pier channel reads its record: it parks, ends, or performs it (R273, R292). -/
def execChainRecord (pier n : Nat) (s : State) : Out :=
  let x : Chan := .pier pier n
  let v := s.chanAt x
  match v.queue.head? with
  | none => .next s
  | some c =>
    if v.susp.isSome || v.inner.isSome || v.err.isSome || chanFrozen s { c with started := true } then .next s
    else
      let c := if c.started then c else c.begin s
      let s := s.setChan x { v with queue := [c], parked := false }
      if c.acq && acquireWaits s c then .next (s.due (s.cyc + 1) 46 (.chainRecord pier n))
      else match recordKeys s x c v.at_ 0 with
        | (.error e, s) => .next (recordStop s pier n (.chainRecord pier n) e)
        | (.ok keys, s) =>
          match readRecord s x v.at_ keys with
          | (.error info, s) => .next (chanPoison s c info)
          | (.ok w, s) =>
            if (w.getD 0 0) % 2 = 0 then
              .next ((s.setChan x { s.chanAt x with parked := true }).due (s.cyc + 1024) 46 (.chainRecordPoll pier n))
            else
              let s := s.setChan x { s.chanAt x with next := w.getD 1 0 }
              match recordCommand c w with
              | none => .next (recordDone s pier n 1)
              | some r =>
                match operandFault s c.at_ r with
                | some (code, _) => .next (recordDone s pier n (if code = 1 then 1 else 2))
                | none =>
                  let s := auditReach s r 0xD1
                  .next ((s.setChan x { s.chanAt x with inner := some r }).due (s.cyc + 1) 45 (.channelCommandStart x))

/-- CHAIN_RECORD_POLL: a Parked pier channel reads word 0 of its record again (R273). -/
def execChainRecordPoll (pier n : Nat) (s : State) : Out :=
  let x : Chan := .pier pier n
  let v := s.chanAt x
  match v.queue.head? with
  | none => .next s
  | some c =>
    if !v.parked || v.susp.isSome || chanFrozen s { c with started := true } then .next s
    else match recordKeys s x c v.at_ 0 with
      | (.error e, s) => .next (recordStop s pier n (.chainRecordPoll pier n) e)
      | (.ok keys, s) =>
        match readRecord s x v.at_ (keys.take 8) with
        | (.error info, s) => .next (chanPoison s c info)
        | (.ok w, s) =>
          if (w.getD 0 0) % 2 = 0 then .next (s.due (s.cyc + 1024) 46 (.chainRecordPoll pier n))
          else execChainRecord pier n s

/-- COMMAND_COMPLETE: a command whose writes have reached the scope of its release, or else their regions, signals (R255, R279, R280); a record's command
ends its record. -/
def execCommandComplete (x : Chan) (s : State) : Out :=
  let v := s.chanAt x
  match v.queue.head? with
  | none => .next s
  | some c =>
    let c' := (s.chanCommand x).getD c
    let done := s.unitReached (State.chanKey x) (if c'.rel then c'.scope else 5) c'.since
    match x, v.err with
    | .pier p n, some e => .next (closeRecord s p n e c)
    | _, _ =>
      if !done then .next (s.due (s.cyc + 1) 560 (.commandComplete x))
      else match x, v.inner with
        | .pier p n, some r => .next (recordDone (if r.cmpl = 1 then chanArrive s x r else s) p n 0)
        | .pier .., none => .next ((chanSignal s x c).setChan x {})
        | .column .., _ => .next (chanNext (chanSignal s x c) x)

/-- A command ends by a fault: its port is unbound when it is empty, and never has a last vector (R294). -/
def endPort (s : State) (c : Command) : State :=
  match c.kind with
  | .stbind _ =>
    let sl := s.slotAt c.at_.sk
    let p := sl.ports.getD (c.target % 16) {}
    let port := if p.held.isEmpty then { p with bound := false } else { p with last := some p.held.length }
    s.setSlot c.at_.sk { sl with ports := sl.ports.put (c.target % 16) port }
  | _ => s

/-- The place that a command had reserved for its completion is free again: a command that faults reserves nothing (R99). -/
def giveBack (s : State) (c : Command) : State :=
  let sl := s.slotAt c.at_.sk
  match c.cmpl, c.kind with
  | 0, _ => s.setSlot c.at_.sk (sl.setFifo (c.target % 8) { sl.fifo (c.target % 8) with reserved := (sl.fifo (c.target % 8)).reserved - 1 })
  | 3, _ => s.setSlot c.at_.sk (sl.setQueue c.target { sl.queue c.target with reserved := (sl.queue c.target).reserved - 1 })
  | 2, .aatom =>
    let p := sl.ports.getD (c.target % 16) {}
    s.setSlot c.at_.sk { sl with ports := sl.ports.put (c.target % 16) { p with reserved := p.reserved - 1 } }
  | _, _ => s

/-- ENGINE_FAULT: a direct command ends with a fault of its group, and the channel goes on; a record ends its chain with ERR (R283,
R292). A firmware command stops the firmware context. -/
def execEngineFault (x : Chan) (code info : Nat) (s : State) : Out :=
  match x, (s.chanAt x).queue.head? with
  | _, none => .next s
  | .pier p n, some _ =>
    if !s.unitReached (State.chanKey x) 5 then .next (s.due (s.cyc + 1) 47 (.engineFault x code info))
    else .next (recordDone s p n (if code = 0x12 ∨ (code = 0x13 ∧ info < 2 ^ 52) then 3 else if code = 0x01 ∨ code = 0x04 then 1 else 2))
  | .column .., some c =>
    if !s.unitReached (State.chanKey x) 5 c.since then .next (s.due (s.cyc + 1) 47 (.engineFault x code info))
    else
      let s := giveBack (endPort s c) c
      let s := match c.gid with
        | some g => s.engineFault g ⟨c.at_.eng, State.chanSrc x, code, BitVec.ofNat 64 (if code = 0x13 then info % 2 ^ 52 else info)⟩
        | none => s.stopFirmware c.at_ code
      .next (chanNext s x)

end Sys2Proof.Machine
end

