-- ==== Sys2Proof/Machine/Complete.lean ====
section
/-! DEFINITION. How a word ends (R79), the writing of a product's granules (R178–R180), MMAC's and MDRAIN's conversions (R199,
R200), and the failure of bed joints and bypasses (R188–R190). -/

namespace Sys2Proof.Machine

/-! ### Products -/

/-- Flags join FPSTAT of a slot at the end of the cycle (R45, R180). -/
def State.raiseFlags (s : State) (sk fl : Nat) : State :=
  let sl := s.slotAt sk
  s.setSlot sk { sl with flagsNow := sl.flagsNow ||| fl }

/-- A product leaves its column with its granules written (R178, R186). -/
def writeProduct (s : State) (col : Nat) (p : Product) : State :=
  let s := s.settleProducts col (s.cyc + 1)
  let c := s.colAt col
  let fl := ((c.products.find? fun x => x.id == p.id).map Product.flags).getD 0
  let s := s.setCol col { c with products := c.products.filter fun x => x.id != p.id }
  s.raiseFlags (slotKey col p.slot) fl

/-- A product's granules complete; an MMAC's rows then go to the converter (R199). -/
def endProduct (s : State) (f : Flight) (p : Product) : State :=
  let col := f.at_.col
  if s.cyc < p.endAt then s
  else
    let s := writeProduct s col p
    if p.kind ≠ 2 then s.endWord f
    else
      let g := granulesOf p.n
      let rows := (List.range p.m).map fun i => (List.range p.n).map fun j => s.accAt col (p.acc + i * g + j / 64) (j % 64)
      let c := s.colAt col
      let from_ := max (s.cyc + 1) c.convFree
      let v : Convert := { id := f.id, slot := p.slot, i32 := p.i32, tag := p.mdTag, outl := p.outl, unit0 := true, mode := p.mode,
                           width := p.n, rows := rows, g := g }
      (s.setCol col { c with convFree := from_ + p.batches, converts := c.converts ++ [v] }).due from_ 590 (.wordComplete f.id)

/-! ### Conversions -/

/-- MMAC's rows become the line images of MD (R176, R199). -/
def writeTile (s : State) (col md : Nat) (v : Convert) : State :=
  let slice := sliceOf v.tag
  let nb := scaleBytes v.tag
  let m := v.rows.length
  let s := v.out.zipIdx.foldl (fun s r =>
    let codes := r.1.1 ++ List.replicate (4 * slice - r.1.1.length) 0
    let sc := r.1.2 ++ List.replicate (4 * nb - r.1.2.length) 127
    (List.range 4).foldl (fun s c =>
      let s := s.store (tileKey col md c (96 * r.2)) 96 (packElems (tagWidth v.tag) ((codes.drop (c * slice)).take slice))
      s.store (tileKey col md c (96 * m + nb * r.2)) nb (packElems 8 ((sc.drop (c * nb)).take nb))) s) s
  let c := s.colAt col
  let c := c.setCtl (0x040 + md) (BitVec.ofNat 64 (m * 256 + v.tag))
  s.setCol col { c with tileBad := c.tileBad.filter fun l => decide (l / 256 ≠ md ∨ m ≤ l % 256) }

/-- A conversion goes on by a granule, or its word ends: MMAC's MD is written, MDRAIN's stores get their data (R199, R200). -/
def stepConvert (s : State) (f : Flight) (v : Convert) : State :=
  let col := f.at_.col
  let sk := slotKey col v.slot
  let c := s.colAt col
  if v.step < v.total then
    let sl := s.slotAt sk
    let (v', gens) := v.advance sl.genList
    let s := if gens = sl.genList then s else s.setSlot sk (sl.setGens gens)
    let s := s.setCol col { c with converts := c.converts.map fun x => if x.id == v.id then v' else x }
    if v'.step < v.total then s.due (s.cyc + 1) 590 (.wordComplete f.id)
    else s.due (s.cyc + (match f.ins with | .mdrain _ _ => 10 | _ => 9)) 600 (.wordComplete f.id)
  else
    let s := s.setCol col { c with converts := c.converts.filter fun x => x.id != v.id }
    let s := match f.ins with
      | .mdrain _ g =>
        let nr := v.rows.length
        let put := (s.stores.find? fun (e : PortWrite) => e.id == f.id).map PortWrite.pieces
        let l := drainBytes 0 0 nr v.width v.tag (g.sub / 8 % 2 == 1) v.out
        let rest := ((put.getD []).drop l.length).map fun (p : WPiece) => (⟨0, 0, p.bytes, false⟩ : CellBytes)
        fillStore s f.id (l ++ rest)
      | .mmac _ g => writeTile s col g.md v
      | _ => s
    (s.raiseFlags sk v.flags).endWord f

/-! ### The end of a word -/

/-- An MFREE waits for the work of its slot, in each cycle anew; then its clear begins (R202). -/
def freeWait (s : State) (f : Flight) (ids : List Nat) : Option State :=
  if ids.any fun n => (s.flight n).isSome then some (s.due (s.cyc + 1) 605 (.wordComplete f.id))
  else match f.ins with
    | .mfree _ g =>
      if g.sub % 2 = 1 then
        some (((s.clearMatrix f.at_.col).setFlight { f with pend := .matrix [] }).due (s.cyc + 4480) 600 (.wordComplete f.id))
      else none
    | _ => none

/-- MZERO and the tile load leave their effects; an MFREE releases the lease (R197, R201, R202). -/
def matrixEnd (s : State) (f : Flight) : State :=
  let col := f.at_.col
  match f.ins, f.pend with
  | .mld _ _, .tile [m, tag, dim] => s.finishTile f m tag dim
  | .mzero _ g, .matrix [n] => (List.range n).foldl (fun s x => s.clearGranule col (g.acc + x)) s
  | .mzero _ g, .matrix [] =>
    let s := s.zeroRange (tileKey col g.md 0 0) (4 * 2 ^ 15)
    let c := s.colAt col
    s.setCol col { c with tileBad := c.tileBad.filter fun l => l / 256 != g.md, ctl := c.ctl.del (0x040 + g.md) }
  | .mfree _ _, _ => s.releaseLease col
  | _, _ => s

/-- WORD_COMPLETE: a word in flight has reached the end of its work, or of a part of it (R79, R186, R199, R200). -/
def execWordComplete (id : Nat) (s : State) : Out :=
  match s.flight id with
  | none => .next s
  | some f =>
    let c := s.colAt f.at_.col
    match c.products.find? fun p => p.id == id with
    | some p => .next (endProduct s f p)
    | none =>
      match c.converts.find? fun v => v.id == id with
      | some v => .next (stepConvert s f v)
      | none => .next (match f.ins, f.pend with
        | _, .handle _ => s.endHandle f
        | .mfree _ _, .matrix (n :: l) => (freeWait s f (n :: l)).getD ((matrixEnd s f).endWord f)
        | _, _ => (matrixEnd s f).endWord f)

/-! ### Bed joints and the bypass (R188–R190) -/

/-- The product and the pass whose batch is on its way through the arrays and the joints: it has entered and has not reached the latch or its granule;
the oldest where there are several (R186, R188). -/
def failingPass (s : State) (col batch : Nat) : Option (Product × Nat) :=
  (s.colAt col).products.findSome? fun p =>
    if p.cut.isSome then none
    else (p.passes.findIdx? fun x =>
      decide (x.lo ≤ batch ∧ batch < x.hi ∧ x.start + x.step * (batch - x.lo) ≤ s.cyc ∧ s.cyc ≤ p.reach x batch)).map fun i => (p, i)

/-- A pass from batch `b` on, to be run over the bypass once it gets it (R186, R188). -/
def MPass.again (x : MPass) (b : Nat) : MPass :=
  { x with lo := b, start := never, step := if x.bypass then x.step else 4 * x.step, bypass := true }

/-- The passes of a product that goes on from batch `b` of pass `i` (R188). -/
def replayPasses (l : List MPass) (i b : Nat) : List MPass :=
  match l.drop i with
  | [] => l
  | x :: t => l.take i ++ (if x.lo < b then [{ x with hi := b }] else []) ++ x.again b :: t.map fun y => y.again y.lo

/-- The passes of a product that a replay of an earlier one puts off: batches on their way go through the arrays anew. DESIGN CHOICE (log 138). -/
def Product.putOff (p : Product) (t : Nat) : Product :=
  { p with passes := p.passes.flatMap fun x =>
      let n := ((List.range' x.lo (x.hi - x.lo)).filter fun k => decide (p.reach x k ≤ t)).length
      (if n = 0 then [] else [{ x with hi := x.lo + n }]) ++ (if x.lo + n < x.hi then [x.again (x.lo + n)] else []) }

/-- Products end without their remaining batches, BYPBAD is set, and the column leaves service (R88, R190, R470). -/
def loseBatches (s : State) (col : Nat) (ids : List Nat) : State :=
  let c := s.colAt col
  let cut (p : Product) : Product :=
    let left := (List.range p.batches).filter fun k => decide (s.cyc < p.lastAccess k) && !(p.lost.any fun x => x.1 == k)
    { p with cut := some s.cyc, lost := p.lost ++ left.map fun k => (k, ((p.reaches k).filter fun t => decide (t ≤ s.cyc)).length) }
  let c := c.setCtl 0x110 (c.ctlr 0x110 ||| BitVec.ofNat 64 (2 ^ 19))
  let s := s.setCol col { c with arrayFree := s.cyc + 1, bypassTo := min c.bypassTo s.cyc, bypassAsk := none,
                                 products := c.products.map fun p => if ids.contains p.id then cut p else p }
  let s := s.retireColumn col 2
  (ids.foldl (fun s n => s.due s.cyc 600 (.wordComplete n)) s).grantBypass col

/-- Bits join a product's own record, FOLDREC while that is the product's (R191), and the product's entry in an audit's log (R476). -/
def markRecord (s : State) (col : Nat) (p : Product) (bits : Nat) : State :=
  let c := s.colAt col
  let c := if (c.products.getLast?).any fun x => x.id == p.id then c.setCtl 0x030 (c.ctlr 0x030 ||| BitVec.ofNat 64 bits) else c
  let s := s.setCol col { c with products := c.products.map fun x => if x.id == p.id then { x with record := x.record ||| bits } else x }
  match p.logAt with
  | some a => s.farStore a 4 ((s.load a 4 ||| bits) % 2 ^ 32)
  | none => s

/-- The products of a column that have not ended (R186). -/
def inFlight (s : State) (col : Nat) : List Product :=
  (s.colAt col).products.filter fun p => p.cut.isNone && (p.unstarted || decide (s.cyc ≤ p.endAt))

/-- The products of a column from one on, in the order of issue. -/
def laterProducts (s : State) (col id : Nat) : List Nat := ((s.colAt col).products.map Product.id).dropWhile (· != id)

/-- A product replays from batch `b` of its pass `i`, and those after it are put off (R188). -/
def replayProduct (s : State) (col : Nat) (p : Product) (i b : Nat) : State :=
  let c := s.colAt col
  let later := (laterProducts s col p.id).tail
  let l := c.products.map fun x =>
    if x.id == p.id then { x with replayed := true, after := s.cyc + 1, passes := replayPasses x.passes i b }
    else if later.contains x.id then x.putOff s.cyc else x
  (s.setCol col { c with products := l, arrayFree := never, bypassTo := min c.bypassTo s.cyc, bypassAsk := some s.cyc }).grantBypass col

/-- BED_JOINT_FAILURE: a batch fails the check of a joint: JDEG is set, and the instruction replays from that batch over the bypass
(R188). An instruction that has replayed once does not again: the batch stays unwritten and its granule is poisoned. DESIGN CHOICE (log 138). -/
def execBedJointFailure (col joint batch : Nat) (s : State) : Out :=
  match failingPass s col batch with
  | none => .next s
  | some (p, i) =>
    let v := s.foldstat col
    if 2 < joint ∨ (foldJdeg v).testBit joint then .next s
    else
      let c := s.colAt col
      let s := s.setCol col (c.setCtl 0x110 (v ||| BitVec.ofNat 64 (2 ^ (16 + joint))))
      let s := s.health { code := 0x0A, loc := s.colLoc col, info := BitVec.ofNat 64 joint }
      let s := (inFlight s col).foldl (fun s x => markRecord s col x (2 ^ 19)) s
      let s := if p.replayed then s else markRecord s col p (2 ^ 20)
      if p.replayed then
        let n := ((p.passes.take i).filter fun x => x.writes && decide (x.lo ≤ batch ∧ batch < x.hi)).length
        let c := s.colAt col
        .next (s.setCol col { c with products := c.products.map fun x => if x.id == p.id then { x with lost := x.lost ++ [(batch, n)] } else x })
      else if foldBypbad v then .next (loseBatches s col (laterProducts s col p.id))
      else .next (replayProduct s col p i batch)

/-- BYPASS_GRANT: the bypass of a column and its partner is free (R189). -/
def execBypassGrant (col : Nat) (s : State) : Out := .next (s.grantBypass col)

/-- The products of a column whose batches are on their way over the bypass, and those after them. -/
def bypassed (s : State) (col : Nat) : List Nat :=
  match (s.colAt col).products.find? fun p =>
    p.cut.isNone && decide (s.cyc ≤ p.endAt) && p.passes.any fun x => x.bypass && decide (x.start ≤ s.cyc) with
  | some p => laterProducts s col p.id
  | none => []

/-- BYPASS_FAILURE: the bypass of a column that replays or runs over it fails its check (R190). -/
def execBypassFailure (col : Nat) (s : State) : Out :=
  if (bypassed s col).isEmpty then .next s else .next (loseBatches s col (bypassed s col))

end Sys2Proof.Machine
end

