-- ==== Sys2Proof/Machine/Far.lean ====
section
/-! DEFINITION. Far accesses of the plinth at virtual addresses of a context: the front end, the checking of images, saves, tower
images and collectives (R385–R403, R434). -/

namespace Sys2Proof.Machine

namespace State

/-- The cache of a unit that translates pages of its own accord: a code store's is its column's; the units of the plinth use pier 0's (R344, R433). -/
def unitCache : Requester → Nat
  | .fetch k => 4 + k.col
  | _ => 0

/-- Virtual pages are translated one after another, up to the first that is not there. -/
def transRange (s : State) (ctx kind src : Nat) (who : Requester) : List Nat → Tr × List (Nat × Nat) × State
  | [] => (.ok 0, [], s)
  | v :: t =>
    if 2 ^ 36 ≤ v then (.refused, [], s)
    else match s.translate (unitCache who) ctx (v * 65536) kind src who with
      | (.ok pa, s) =>
        let (r, l, s) := s.transRange ctx kind src who t
        (r, (v, pa / 65536) :: l, s)
      | (r, s) => (r, [], s)

end State

/-- Physical pages are reached one after another, up to the first that is not (R436, R516). -/
def State.physRange (s : State) (who : Requester) : List Nat → Tr × List (Nat × Nat) × State
  | [] => (.ok 0, [], s)
  | p :: t =>
    match s.farPhys (p * 65536) who with
    | (.ok _, s) =>
      let (r, l, s) := s.physRange who t
      (r, (p, p) :: l, s)
    | (r, s) => (r, [], s)

/-- The virtual pages of `n` bytes. -/
def vpages (va n : Nat) : List Nat :=
  if n = 0 then [] else List.range' (va / 65536) ((va + n - 1) / 65536 + 1 - va / 65536)

/-- The physical addresses of `n` bytes through translated pages. -/
def virtKeys (pages : List (Nat × Nat)) (va n : Nat) : List Nat :=
  (List.range n).filterMap fun i =>
    (pages.find? fun p => p.1 == (va + i) / 65536).map fun p => p.2 * 65536 + (va + i) % 65536

/-- The little-endian 64-bit words of bytes. -/
def wordsOf (l : List Nat) : List Nat :=
  (List.range (l.length / 8)).map fun i => ((l.drop (8 * i)).take 8).foldr (fun b v => b + 256 * v) 0

/-- The bytes of 64-bit words. -/
def bytesOf (l : List Nat) : List Nat := l.flatMap fun w => (List.range 8).map fun i => w / 256 ^ i % 256

namespace State

/-- `n` bytes are read at a virtual address of a context, or the access waits or is refused. -/
def readVirt (s : State) (ctx va n kind src : Nat) (who : Requester) : Tr × List (Nat × Bool) × State :=
  match s.transRange ctx kind src who (vpages va n) with
  | (.ok _, pages, s) => (.ok 0, s.readRun (virtKeys pages va n), s.noteFailed (virtKeys pages va n))
  | (r, _, s) => (r, [], s)

/-- Bytes are written at a virtual address of a context, or the access waits or is refused. -/
def writeVirt (s : State) (ctx va : Nat) (data : List Nat) (src : Nat) (who : Requester) : Tr × State :=
  match s.transRange ctx 1 src who (vpages va data.length) with
  | (.ok _, pages, s) =>
    (.ok 0, s.rightRun false (((virtKeys pages va data.length).zip data).map fun x => (x.1, x.2, false)))
  | (r, _, s) => (r, s)

/-- The plinth consumes poison of a context: event 0x12, and the context is torn down (R471). -/
def plinthPoison (s : State) (ctx va : Nat) : State :=
  ((s.noteBad ctx (BitVec.ofNat 64 (2 ^ 63 + va))).health
    { code := 0x12, ctx := ctx, info := BitVec.ofNat 64 (2 ^ 63 + va / 8 * 8) }).due s.cyc 850 .teardown (ctx + 65536)

/-- Poison in a table of a context at a physical address: event 0x12, and the context is torn down (R471). -/
def tablePoison (s : State) (ctx pa : Nat) : State :=
  ((s.noteFailed [pa]).health { code := 0x12, ctx := ctx, info := BitVec.ofNat 64 (2 ^ 63 + pa / 8 * 8) }).due s.cyc 850 .teardown (ctx + 65536)

end State

end Sys2Proof.Machine
end

