-- ==== Sys2Proof/Machine/Group.lean ====
section
/-! DEFINITION. Groups (ch. 14): safe points and saves (R371–R376), what frees a slot (R88, R379, R423, R472), placement and
restoring (R363, R344), messages (R380), YIELD and GSIG (R381–R383), the watchdog (R366) and migration (R377, R378). -/

namespace Sys2Proof.Machine

/-! ### Safe points and requests (R371–R373) -/

/-- An engine stands at a safe point (R372). -/
def Engine.safePoint (e : Engine) : Bool :=
  match e.sec with
  | .empty => true
  | .waiting => e.hdr.safe && e.codeMiss.isNone
  | .dispatched => e.hdr.safe
  | .running => e.safeHere
  | _ => false

namespace State

/-- The groups that are pre-empted and placed with a group: those of its gang that hold slots, else itself (R375). -/
def gangOf (s : State) (g : Nat) : List Nat :=
  match s.groups.get? g with
  | none => []
  | some v =>
    if v.gang then (s.groups.filter fun r => r.2.gang && r.2.lid == v.lid && r.2.state.resident).map (·.1) else [g]

/-- A pre-emption of one group is requested; it takes effect in the next cycle, and its limit runs from there (R371, R373). A request
while one is pending has no effect. -/
def preemptOne (s : State) (force byYield : Bool) (mig : Option (Nat × Nat)) (g : Nat) : State :=
  match s.groups.get? g with
  | none => s
  | some v =>
    let sk := slotKey v.col v.slot
    let sl := s.slotAt sk
    if !v.state.resident || sl.preempt.isSome then s
    else (s.setSlot sk { sl with preempt := some ⟨s.cyc + 1, force, byYield, mig⟩ }).due
      (s.cyc + 1 + if force then 0 else v.region.plimit) 40 (.forcedFullSave g)

/-- A pre-emption of a group, and with it of its gang; a request for a group with one pending has no effect (R371, R375). -/
def preemptGroup (s : State) (g : Nat) (force byYield : Bool := false) : State :=
  if (((s.groups.get? g).map fun v => (s.slotAt (slotKey v.col v.slot)).preempt.isSome).getD false) then s
  else (s.gangOf g).foldl (fun s g => s.preemptOne force byYield none g) s

/-- The streams of a slot. -/
def slotStreams (col slot : Nat) : List Stream := [⟨col, slot, .a⟩, ⟨col, slot, .x⟩, ⟨col, slot, .d⟩]

/-- A word in flight belongs to a slot. -/
def ofSlot (f : Flight) (col slot : Nat) : Bool := f.at_.col == col && f.at_.slot == slot

/-- The waiting BWAITs and MLEASEs of a slot are cancelled (R112, R336). -/
def cancelWaits (s : State) (col slot : Nat) : State :=
  (s.flights.filter fun f => ofSlot f col slot && (match f.pend with | .bwait _ _ | .lease => true | _ => false)).foldl undoWord s

/-- The save of a group begins: its engines stop, and its waiting BWAITs and MLEASEs are cancelled (R336, R374). -/
def beginSave (s : State) (g : Nat) (full : Bool) : State :=
  match s.groups.get? g with
  | none => s
  | some v =>
    let sk := slotKey v.col v.slot
    let sl := s.slotAt sk
    let at_ := sl.stop.getD s.cyc
    let s := s.setGroup g { v with state := .preempting, forced := full, faulted := v.state == .faulted, stoppedAt := at_ }
    let s := s.setSlot sk { sl with stop := some at_, wdogCount := 0 }
    let s := (slotStreams v.col v.slot).foldl (fun s k => s.setEng k.ek { s.engAt k.ek with atSafe := true }) s
    let c := s.colAt v.col
    let s := s.setCol v.col { c with leaseWait := c.leaseWait.filter fun w => w.1 != v.slot }
    s.cancelWaits v.col v.slot

/-- Groups of a gang whose slots hold the leases of one quad stop in one cycle (R106, R375). -/
def quadMates (s : State) (v : Group) : List Group :=
  if (s.colAt v.col).lease ≠ some v.slot then []
  else (s.groups.filter fun r => r.2.gang && v.gang && r.2.lid == v.lid && r.2.state.resident && r.2.col != v.col
    && quadOf r.2.col == quadOf v.col && (s.colAt r.2.col).lease == some r.2.slot).map (·.2)

/-- Every engine of a group's slot has stopped at a safe point. -/
def allSafe (s : State) (v : Group) : Bool := (slotStreams v.col v.slot).all fun k => (s.engAt k.ek).atSafe

/-- The groups with a pre-emption in force. -/
def pending (s : State) : List (Nat × Group) :=
  s.slots.filterMap fun r => (s.groupOf r.1).filter fun _ => r.2.preempt.any fun p => decide (p.at_ ≤ s.cyc)

/-- The start of a cycle for groups with a pre-emption in force: engines at safe points stop, and a group whose engines have all
stopped enters Pre-empting; a Faulted group enters it at once (R361, R372, R373). -/
def safeTick (s : State) : State :=
  let open_ (v : Group) : Bool := v.state == .running || v.state == .stalled || v.state == .atSafe
  let s := (s.pending.filter fun r => open_ r.2).foldl (fun (s : State) (r : Nat × Group) =>
    let s := (slotStreams r.2.col r.2.slot).foldl (fun s k =>
      let e := s.engAt k.ek
      if !e.atSafe && e.safePoint then s.setEng k.ek { e with atSafe := true } else s) s
    if r.2.state != GState.atSafe && (slotStreams r.2.col r.2.slot).any (fun k => (s.engAt k.ek).atSafe) then
      s.setGroup r.1 { r.2 with state := .atSafe } else s) s
  let now := s.pending.filter fun r => r.2.state == .faulted ||
    (open_ r.2 && s.allSafe r.2 && (s.quadMates r.2).all fun m => m.state == .preempting || s.allSafe m)
  now.foldl (fun s r => s.beginSave r.1 (r.2.state == .faulted)) s

end State

/-- GCTL_PREEMPT: REQ = 1 of the group in a slot (R371). -/
def execGctlPreempt (col slot : Nat) (force : Bool) (s : State) : Out :=
  .next (match s.groupOf (slotKey col slot) with
    | some (g, _) => s.preemptGroup g force
    | none => s)

/-- FORCED_FULL_SAVE: the limit has expired, or FORCE was written: the engines that have not stopped stop before their next words,
and everything is saved whole (R373). -/
def execForcedFullSave (g : Nat) (s : State) : Out :=
  match s.groups.get? g with
  | none => .next s
  | some v =>
    match (s.slotAt (slotKey v.col v.slot)).preempt with
    | none => .next s
    | some p =>
      let due := decide (p.at_ + (if p.force then 0 else v.region.plimit) ≤ s.cyc)
      if v.state = .placed then .next (s.due (s.cyc + 1) 40 (.forcedFullSave g))
      else if (v.state = .running ∨ v.state = .stalled ∨ v.state = .atSafe) ∧ due then .next (s.beginSave g true)
      else .next s

/-! ### Freeing a slot -/

/-- The channel an event takes up. -/
def chanOfEvent : Instr → Option Chan
  | .channelCommandStart x | .translationFault x _ | .commandComplete x | .engineFault x _ _ | .streamPortVector x => some x
  | .chainRecord p n | .chainRecordPoll p n => some (.pier p n)
  | _ => none

/-- The slot whose engines or tokens an event is about. -/
def slotOfEvent : Instr → Option (Nat × Nat)
  | .sectionDispatch c n _ | .sectionRetire c n _ | .tokenAvailable c n _ | .codeBlockFetch c n _ | .scheduleMiss c n
  | .watchdog c n | .csSharedRetry c n => some (c, n)
  | _ => none

/-- The channel that a key of `State.chans` stands for. -/
def chanOfKey (k : Nat) : Chan :=
  if 10 ^ 6 ≤ k then .pier ((k - 10 ^ 6) / 16) ((k - 10 ^ 6) % 16) else .column (k / 10) (k / 2 % 5) (k % 2)

namespace State

/-- The channels that hold commands of a slot: its own two, and the pier channels of its chains. -/
def slotChans (s : State) (col slot : Nat) : List Chan :=
  (s.chans.filter fun r => r.2.queue.any fun c => c.at_.col == col && c.at_.slot == slot).map fun r => chanOfKey r.1

/-- A channel is emptied, with the events that would take it up. -/
def dropChan (s : State) (x : Chan) : State :=
  let s := s.forget (.chan x)
  { s.setChan x {} with async := s.async.filter (fun p => p.atom != some x),
                        agenda := (s.setChan x {}).agenda.filter fun d => chanOfEvent d.ev != some x }

/-- A slot is freed: its engines, registers, queues, tokens and streams hold nothing; its control registers stay until the next
placement (R88, R379). -/
def clearSlot (s : State) (col slot : Nat) : State :=
  let sk := slotKey col slot
  let sl := s.slotAt sk
  let s := if sl.hold then s.touchColumn col else s
  let s := s.setSlot sk { ctl := sl.ctl, stop := some s.cyc, flagsNow := sl.flagsNow, slipNow := sl.slipNow, lates := sl.lates }
  let s := (slotStreams col slot).foldl (fun s k => (s.setEng k.ek {}).forget (.fetch k)) s
  { s with agenda := s.agenda.filter fun d => slotOfEvent d.ev != some (col, slot) }

/-- The lease of a slot is released without clearing, and its place among the waiting is given up (R112, R202). -/
def dropLease (s : State) (col slot : Nat) : State :=
  let c := s.colAt col
  let s := s.setCol col { c with leaseWait := c.leaseWait.filter fun w => w.1 != slot }
  if c.lease = some slot then (s.forget (.pin col)).releaseLease col else s

/-- The audit of a group that is purged is given up: its own, or that of the group it replays. -/
def dropAudit (s : State) (g : Nat) : State :=
  let o := (((s.groups.get? g).bind Group.audit).bind Audit.replayOf).getD g
  match s.groups.get? o with
  | none => s
  | some v =>
    if v.audit.isNone then s
    else { s.setGroup o { v with audit := none } with auditor := { s.auditor with pending := s.auditor.pending - 1 } }

/-- A running purge of a context and tag counts groups that it has purged; the count is one more than their number once it acts (R470, R472). -/
def countPurged (s : State) (ctx tag n : Nat) : State :=
  { s with purges := s.purges.map fun (q : Nat × Nat × Nat) => if q.1 == ctx && q.2.1 == tag then (q.1, q.2.1, max 1 q.2.2 + n) else q }

/-- A group is Purged: no further effect, no save, its slot freed; words already issued complete and their writes land, and a running command stops at its
next 64-byte line (R361, R423, R472). A replay of an audit keeps its mark. -/
def purgeGroup (s : State) (g : Nat) : State :=
  let s := s.dropAudit g
  match s.groups.get? g with
  | none => s
  | some v =>
    let s := s.setGroup g { v with state := .purged, saved := none, heldMsgs := [], frame := none, audit := v.audit.filter fun a => a.replayOf.isSome }
    let ctx := s.ctxAt v.ctx
    let s := s.setCtx v.ctx { ctx with frames := ctx.frames.filter fun f => f.1 != g }
    let owed := s.arrivals.filter fun a => a.gid == some g
    let s := { s with
      arrivals := s.arrivals.filter fun a => a.gid != some g,
      agenda := s.agenda.filter fun d => match d.ev with
        | .barrierArrivalReach _ => !owed.any fun a => a.id == d.arg
        | .messageLand t _ _ _ => t != g
        | .groupPlace t _ _ | .codeStoreCopyComplete t | .forcedFullSave t | .saveComplete t | .saveFrameWait t => t != g
        | _ => true }
    if !v.state.resident then s
    else
      let s := (s.slotChans v.col v.slot).foldl (fun s x =>
        let s := match (s.chanAt x).queue.head? with
          | some c => if c.started then s.stopUnit (chanKey x) ((((s.chanAt x).inner.map Command.since)).getD c.since) else s
          | none => s
        s.dropChan x) s
      let stuck (f : Flight) : Bool := match f.pend, f.ins with
        | .bwait _ _, _ | .lease, _ | .recv _ _ _, _ | .message _, _ | .enq _ _, _ => true
        | .port _ _, .cspush _ _ => true
        | .port _ _, .cspop _ _ => true
        | _, _ => false
      let s := { s with flights := s.flights.filter fun f => !(ofSlot f v.col v.slot && stuck f) }
      (s.dropLease v.col v.slot).clearSlot v.col v.slot

/-- Nothing of a slot's earlier groups is in flight. -/
def slotClean (s : State) (col slot : Nat) : Bool :=
  !(s.flights.any fun f => ofSlot f col slot) && !(s.stores.any fun e => e.by_.col == col && e.by_.slot == slot)
    && (s.slotChans col slot).isEmpty && !(s.agenda.any fun d => slotOfEvent d.ev == some (col, slot))

/-- A slot may take a group. -/
def slotFree (s : State) (col slot : Nat) : Bool := (s.slotAt (slotKey col slot)).gid.isNone && s.slotClean col slot

end State

/-! ### Saving (R374–R376) -/

/-- Lateness that has been counted but not added to ROWLATE yet. -/
def Slot.addLates (sl : Slot) (l : List (Nat × Nat)) : Slot :=
  let r := sl.ctlr 0x050
  if l.isEmpty then sl else
    { (sl.setCtl 0x050 (BitVec.ofNat 64 (min (bitsAt r 63 32 + l.length) 0xFFFFFFFF * 2 ^ 32
        + min (bitsAt r 31 0 + l.foldl (fun n x => n + x.2) 0) 0xFFFFFFFF))) with
      lates := sl.lates.filter fun r => !l.contains r }

/-- The hardware's own updates of a slot at the end of a cycle, then the flags that a W1C write of the cycle may not clear
(R46, R92, R102, R218). -/
def Slot.settle (sl : Slot) (cyc : Nat) : Slot :=
  let sl := sl.addLates (sl.lates.filter fun r => r.1 == cyc)
  if sl.slipNow = 0 then sl else
    { (sl.setCtl 0x022 (BitVec.ofNat 64 (min ((sl.ctlr 0x022).toNat + sl.slipNow) 0xFFFFFFFF))) with slipNow := 0 }

/-- The control registers that a save record holds; the trap record joins them for a Faulted group (R374). -/
def savedCtl (faulted : Bool) : List Nat :=
  [0x000, 0x001, 0x002, 0x010, 0x012, 0x021, 0x022, 0x050, 0x120, 0x100, 0x101, 0x102, 0x103, 0x112, 0x070, 0x071, 0x133]
    ++ if faulted then [0x060, 0x061, 0x062, 0x063, 0x064, 0x136] else []

/-- The slot as a save record holds it: tokens and values that were on their way have arrived. -/
def Slot.saved (sl : Slot) (faulted : Bool) (keepV keepK : Nat → Bool) : Slot :=
  let sl := sl.addLates sl.lates
  { vregs := sl.vregs.filter fun r => keepV r.1
    kregs := sl.kregs.filter fun r => keepK r.1
    queues := sl.queues.map fun r => (r.1, { held := r.2.held.map fun x => (0, x.2), reserved := r.2.reserved })
    fifos := sl.fifos.map fun r => (r.1, { avail := r.2.avail + r.2.arriving, reserved := r.2.reserved })
    ports := sl.ports
    hregs := sl.hregs
    mbs := sl.mbLand.foldl (fun m x => m.put x.1 x.2) (sl.mbClear.foldl (fun m n => m.put n 0) sl.mbs)
    ctl := sl.ctl.filter fun r => (savedCtl faulted).contains r.1
    gens := sl.gens
    latches := sl.latches.map fun r => (r.1, { held := r.2.held.map fun x => (0, x.2) })
    cstreams := sl.cstreams
    hold := sl.hold
    perturb := sl.perturb
    engFaults := sl.engFaults
    owed := none }

/-- The live-map entry of an engine's safe point; none where the engine is saved whole (R342, R373). -/
def liveEntry (s : State) (v : Group) (eng : Nat) (e : Engine) : Option (List Nat) :=
  let idx := match e.sec with | .running => e.idx | _ => 0
  if v.forced || !e.safePoint || !e.hdr.livemap || e.sec == .empty then none
  else ((v.lid.bind fun l => s.launches.get? l).map Launch.live).bind fun l =>
    l.find? fun x => x.take 3 == [eng, e.hdr.secno, idx]

/-- An engine as a save record holds it (R374). -/
def Engine.saved (e : Engine) (keep : Nat → Bool) : Engine :=
  { e with sregs := e.sregs.filter (fun r => keep r.1), heldBy := none, heldTo := 0, atSafe := false, codeMiss := none,
           target := none, quadNo := 0, wait := 0, blocked := 0, pin := none, shapes := [] }

namespace State

/-- A channel as a save record holds it, with the refusal of its page that it has not acted on (R285, R434). -/
def savedChan (s : State) (x : Chan) : ChanState :=
  { s.chanAt x with refused := (s.denied.find? fun d => d.1 == .chan x).map fun d => d.2 }

/-- A requester takes the place of another in the open records. -/
def replaceWho (s : State) (a b : Requester) : State :=
  s.mapWho fun l => l.map fun w => if w = a then b else w

/-- A group's state is in its save record, its slot is free, its lease released and FWPEND.SAVED set; it is queued again unless it
migrates or its context leaves its columns (R361, R369, R374, R376). The destination of a pending receive is saved, live or not (R165). -/
def saveOne (s : State) (g : Nat) : State :=
  match s.groups.get? g with
  | none => s
  | some v =>
    let sk := slotKey v.col v.slot
    let sl := s.slotAt sk
    let faulted := v.faulted
    let es := [0, 1, 2].map fun n => (n, s.engAt (sk * 3 + n))
    let live (n : Nat) : Option (List Nat) := (es[n]?).bind fun e => liveEntry s v n e.2
    let bit (o : Option (List Nat)) (i r : Nat) : Bool := match o with | some l => (l.getD i 0).testBit r | none => true
    let chans := s.slotChans v.col v.slot
    let awaited : List Nat := (s.flights.filter fun f => ofSlot f v.col v.slot).filterMap fun f => match f.pend with
      | .recv _ r _ => some r
      | _ => none
    let rec0 : SaveRec :=
      { slot := sl.saved faulted (fun r => bit (live 1) 4 r || awaited.contains r) (bit (live 1) 5)
        engs := es.map fun e => e.2.saved (bit (live e.1) 3)
        flights := s.flights.filter fun f => ofSlot f v.col v.slot
        matrix := if (s.colAt v.col).lease = some v.slot ∧ sl.owed.isNone then some (s.captureMatrix v.col) else sl.owed
        chans := chans.map fun x => ((match x with | .column _ _ ch => ch | .pier .. => 2), s.savedChan x)
        faulted := faulted, stoppedAt := v.stoppedAt, slotNo := v.slot }
    let p := sl.preempt
    let s := chans.zipIdx.foldl (fun s x => (s.replaceWho (.chan x.1) (.held g x.2)).dropChan x.1) s
    let s := { s with flights := s.flights.filter fun f => !ofSlot f v.col v.slot }
    let s := (s.dropLease v.col v.slot).clearSlot v.col v.slot
    let c := s.colAt v.col
    let s := s.setCol v.col (c.raisePend (2 ^ (4 + v.slot)))
    let mig := p.bind Preempt.migrate
    s.setGroup g { v with saved := some rec0, migrate := mig, atTail := (p.map Preempt.byYield).getD false, queuedAt := s.cyc,
                          state := if mig.isNone ∧ (s.ctxAt v.ctx).state = 1 then .queued else .saved }

/-- The groups that are saved together: a gang, but for a migration, which moves single groups (R364, R375). -/
def saveUnit (s : State) (g : Nat) (v : Group) : List Nat :=
  if ((s.slotAt (slotKey v.col v.slot)).preempt.bind Preempt.migrate).isSome then [g] else s.gangOf g

/-- A channel of a group that is being saved has come to rest: nothing of it moves but a chain's next record (R285). -/
def chanSettled (s : State) (x : Chan) : Bool :=
  !(s.agenda.any fun d => chanOfEvent d.ev == some x && (match d.ev with | .chainRecord _ _ | .chainRecordPoll _ _ => false | _ => true))
    && (((s.chanAt x).inner.isNone && (s.chanAt x).err.isNone) || (s.chanAt x).susp.isSome)

/-- What a save waits for has come about (R374). -/
def canSave (s : State) (g : Nat) : Bool :=
  match s.groups.get? g with
  | none => false
  | some v =>
    v.state == .preempting
      && (s.flights.all fun f => !ofSlot f v.col v.slot || (match f.pend with | .recv _ _ _ => true | _ => false))
      && !(s.stores.any fun e => e.by_.col == v.col && e.by_.slot == v.slot)
      && (s.slotChans v.col v.slot).all s.chanSettled && !(s.arrivals.any fun a => a.gid == some g)

/-- The lowest free save frame of a context (R407). -/
def freeFrame (s : State) (ctx : Nat) : Option Nat :=
  let c := s.ctxAt ctx
  (List.range c.saveframes).find? fun n => !c.frames.any fun f => f.2 == n

/-- A group takes a save frame. -/
def takeFrame (s : State) (g n : Nat) : State :=
  match s.groups.get? g with
  | none => s
  | some v =>
    let c := s.ctxAt v.ctx
    (s.setCtx v.ctx { c with frames := c.frames ++ [(g, n)] }).setGroup g { v with frame := some n }

/-- The virtual address of a group's save frame. -/
def frameAddr (s : State) (v : Group) : Nat := (s.ctxAt v.ctx).savearea + v.frame.getD 0 * 2 ^ 24

/-- Save frames of a unit are found and their pages translated; `true` when all are there. The pages of a save record beyond its first
are taken to be resident with it (the record's layout is the device's own). -/
def readyFrames (s : State) : List Nat → Bool × State
  | [] => (true, s)
  | g :: t =>
    match s.groups.get? g with
    | none => s.readyFrames t
    | some v =>
      let waits := s.agenda.any fun d => d.ev == .saveFrameWait g
      match v.frame.orElse fun _ => s.freeFrame v.ctx with
      | none => (false, if waits then s else s.due (s.cyc + 2 ^ 20) 30 (.saveFrameWait g))
      | some n =>
        let s := if v.frame.isSome then s else s.takeFrame g n
        if s.attached (.save g) || (waits && v.frame.isSome) then (false, s)
        else match s.translate 0 v.ctx (s.frameAddr { v with frame := some n } / 65536 * 65536) 1 6 (.save g) with
          | (.ok _, s) => s.readyFrames t
          | (.refused, s) => (false, s.due (s.cyc + 2 ^ 20) 30 (.saveFrameWait g))
          | (_, s) => (false, s)

/-- The saves that can complete are put on the agenda; the time a save takes is left open (R374). A BWAIT that has been performed since its group's save
began and waits is cancelled (R336). -/
def planSaves (s : State) : State :=
  let l := s.groups.filter fun r => r.2.state == .preempting
  let s := l.foldl (fun (s : State) (r : Nat × Group) => s.cancelWaits r.2.col r.2.slot) s
  l.foldl (fun s r =>
    let unit := s.saveUnit r.1 r.2
    if unit.head? != some r.1 || !(unit.all s.canSave) || s.agenda.any (fun d => d.ev == .saveComplete r.1) then s
    else match s.readyFrames unit with
      | (true, s) =>
        let (d, s) := s.freeNat
        s.due (s.cyc + 1 + d) 12 (.saveComplete r.1)
      | (false, s) => s) s

end State

/-- SAVE_COMPLETE: a group, or its whole gang, enters Saved (R361, R374, R375). -/
def execSaveComplete (g : Nat) (s : State) : Out :=
  match s.groups.get? g with
  | none => .next s
  | some v =>
    let unit := s.saveUnit g v
    .next (if unit.all s.canSave then unit.foldl State.saveOne s else s)

/-- SAVE_FRAME_WAIT: a save with no free frame, or whose page was refused, is reported (R407, R434). -/
def execSaveFrameWait (g : Nat) (s : State) : Out :=
  match s.groups.get? g with
  | none => .next s
  | some v =>
    let told := s.health { code := 0x24, ctx := v.ctx, tag := v.reqtag }
    if v.state = .preempting then
      if v.frame.isSome then .next told
      else if (s.freeFrame v.ctx).isSome then .next s
      else .next (told.due (s.cyc + 2 ^ 20) 30 (.saveFrameWait g))
    else if v.state = .placed then .next (told.due s.cyc 18 (.codeStoreCopyComplete g))
    else .next s

/-! ### Placement (R344, R352, R361, R363) -/

namespace State

/-- Spare sites of a pier that hold no column number and have not failed (R484). -/
def freeSpares (s : State) (pier : Nat) : List Nat :=
  [64, 65, 66, 67].filter fun n => !(s.sites.any fun r => r.1 / 64 == pier && r.2 == n) && !s.failedSites.contains (pier * 128 + n)

/-- A column number is out of service: Retired, with no spare column left in its pier (R88). -/
def outOfService (s : State) (col : Nat) : Bool := (s.colAt col).state == 4 && (s.freeSpares (col / 64)).isEmpty

/-- Placements on a column are not held: it is Enabled or Hosting, its quad is On, it has a trap area and a window of the context, and no
migration has its windows (R88, R115, R210, R377, R490). -/
def colOpen (s : State) (col winctx : Nat) : Bool :=
  (s.colAt col).state == 0 && (s.quadAt (quadOf col)).state == 0 && bitsAt ((s.colAt col).ctlr 0x137) 51 13 != 0
    && (s.lowestWin col winctx).isSome && !(s.moves.any fun m => m.src == col || m.dest == col) && !s.tripped

/-- The context whose window a group's slot names (R210). -/
def groupWinCtx (s : State) (v : Group) : Nat :=
  if (v.audit.bind Audit.replayOf).isSome then bitsAt (s.devr 0x186) 15 0 else v.ctx

/-- The launch of a group. -/
def launchOf (s : State) (v : Group) : Launch := ((v.lid.bind fun l => s.launches.get? l).getD {})

/-- An audited group takes a log slot at its placement, or runs unaudited when the log is full (R475). -/
def selectAudit (s : State) (g : Nat) : State :=
  match s.groups.get? g with
  | none => s
  | some v =>
    let l := s.launchOf v
    let log := s.devr 0x185
    let size := 2 ^ bitsAt log 3 0
    let chosen := bitsAt (s.devr 0x186) 16 16 == 1 && l.flags.testBit 2 && l.persist == 0 && !v.gang && v.region.aen
      && v.num % 2 ^ v.region.auditn == 0
    if !chosen || v.audit.isSome then s
    else if size ≤ s.auditor.pending then
      { s.health { code := 0x19, ctx := v.ctx, tag := v.reqtag, info := 1 } with
        auditor := { s.auditor with abandoned := min 0xFFFF (s.auditor.abandoned + 1) } }
    else { s.setGroup g { v with audit := some { logSlot := s.audits % size } } with
           audits := s.audits + 1, auditor := { s.auditor with pending := s.auditor.pending + 1 } }

/-- A group is placed in a slot: the slot is initialised (R90, R210, R351, R362), or takes what the save record holds (R363), its pending receives
among it, which a send may meet from now on (R165). The engines stay stopped until the group is Running. -/
def placeGroup (s : State) (g col slot : Nat) : State :=
  match s.groups.get? g with
  | none => s
  | some v =>
    let sk := slotKey col slot
    let win := (s.lowestWin col (s.groupWinCtx v)).getD 0
    let l := s.launchOf v
    let base : List (Nat × Nat) := [(0, (l.streams.getD 0 (0, 0)).2), ((l.streams.getD 0 (0, 0)).2, (l.streams.getD 1 (0, 0)).2),
      ((l.streams.getD 0 (0, 0)).2 + (l.streams.getD 1 (0, 0)).2, (l.streams.getD 2 (0, 0)).2)]
    let cached := decide (65536 < (l.streams.foldl (fun n x => n + x.2) 0))
    match v.saved with
    | none =>
      let ctl : Map Word := [(0x021, BitVec.ofNat 64 s.cyc), (0x070, BitVec.ofNat 64 (v.num + v.node * 2 ^ 48)), (0x071, BitVec.ofNat 64 v.reqtag),
        (0x120, BitVec.ofNat 64 (win * 2 ^ 32 + b2w v.region.strict 63))]
      let ctl : Map Word := match v.audit.bind Audit.replayOf, v.audit with
        | some _, some a => ctl.put 0x111 (BitVec.ofNat 64
            ((bitsAt (s.devr 0x185) 51 18 * 2 ^ 18 + 2 ^ 18 * a.logSlot + 64) / 64 * 64 + 1))
        | _, _ => ctl
      let s := s.setSlot sk { gid := some g, stop := some 0, ctl := ctl, codeCached := cached,
                              hregs := v.hbind.foldl (fun m x => m.put x.1 x.2) [] }
      let regs : Map SReg := v.sregs.zipIdx.filterMap fun x => if x.1 = 0 then none else some (56 + x.2, { val := BitVec.ofNat 64 x.1 })
      let s := base.zipIdx.foldl (fun s b => s.setEng (sk * 3 + b.2) { base := b.1.1, len := b.1.2, sregs := regs }) s
      s.setGroup g { v with state := .placed, col := col, slot := slot }
    | some r =>
      let t := (r.slot.ctlr 0x120)
      let s := s.setSlot sk { (r.slot.setCtl 0x120 (setBits t 33 32 win)) with
        gid := some g, stop := some 0, codeCached := cached, owed := r.matrix }
      let s := { s with flights := s.flights ++ r.flights.map fun (f : Flight) => { f with at_ := { f.at_ with col := col, slot := slot } } }
      let s := (r.engs.zip base).zipIdx.foldl (fun s b => s.setEng (sk * 3 + b.2) { b.1.1 with base := b.1.2.1, len := b.1.2.2 }) s
      s.setGroup g { v with state := .placed, col := col, slot := slot }

/-- The three streams of a group's image are copied into its slot's code store (R344): `none` while a page is not resident. A page that
is refused leaves the store a cache, whose fetch meets the refusal again. -/
def copyCode (s : State) (g : Nat) : Bool × State :=
  match s.groups.get? g with
  | none => (true, s)
  | some v =>
    let sk := slotKey v.col v.slot
    let l := s.launchOf v
    if (s.slotAt sk).codeCached then (true, s)
    else (l.streams.zipIdx.foldl (fun (r : Bool × State × Nat) x =>
      let (ok, s, base) := r
      if !ok || x.1.2 == 0 then (ok, s, base)
      else match s.readVirt v.ctx (l.image + x.1.1) x.1.2 3 4 (.fetch ⟨v.col, v.slot, .a⟩) with
        | (.ok _, data, s) =>
          let s := { s with mem := (data.zipIdx.foldl (fun m b => Memory.write m (codeKey sk (base + b.2)) (BitVec.ofNat 8 b.1.1)) s.mem) }
          let s := match data.zipIdx.find? fun b => b.1.2 with
            | some b => s.consumedBy g (BitVec.ofNat 64 (2 ^ 63 + (l.image + x.1.1 + b.2) / 8 * 8))
            | none => s
          (true, s, base + x.1.2)
        | (.refused, _, s) => (true, s.setSlot sk { s.slotAt sk with codeCached := true, code := [] }, base + x.1.2)
        | (.full, _, s) => (false, s.due (s.cyc + 1) 18 (.codeStoreCopyComplete g), base)
        | (_, _, s) => (false, s, base)) (true, s, 0)) |> fun r => (r.1, r.2.1)

/-- The save frame of a group that is being restored is there (R434), and the pier channels for its chains are free (R272, R285). -/
def canRestore (s : State) (g : Nat) : Bool × State :=
  match s.groups.get? g with
  | none => (true, s)
  | some v =>
    match v.saved with
    | none => (true, s)
    | some r =>
      let mates := (s.gangOf g).filterMap fun h => (s.groups.get? h).filter fun (w : Group) => decide (w.state = .placed ∧ w.col / 64 = v.col / 64)
      let chains := mates.foldl (fun n w => n + ((w.saved.map fun r => r.chans.countP fun c => c.1 == 2).getD 0)) 0
      let free := ((List.range 16).filter fun n => (s.chans.get? (State.chanKey (.pier (v.col / 64) n))).isNone).length
      if free < chains then (false, s.due (s.cyc + 1) 18 (.codeStoreCopyComplete g))
      else if s.attached (.save g) then (false, s)
      else match s.translate 0 v.ctx (s.frameAddr v / 65536 * 65536) 0 6 (.save g) with
        | (.ok _, s) => (true, s)
        | (.refused, s) => (false, s.due (s.cyc + 2 ^ 20) 30 (.saveFrameWait g))
        | (.full, s) => (false, s.due (s.cyc + 1) 18 (.codeStoreCopyComplete g))
        | (_, s) => (false, s)

/-- A saved channel goes on in the group's new slot, or on a free pier channel of its new pier: Suspended while the record that it waits in is open, and
else where it was saved, with a refusal that has been answered (R273, R285, R434). -/
def restoreChan (s : State) (g col slot n : Nat) (c : Nat × ChanState) : State :=
  let move (x : Command) : Command := { x with at_ := { x.at_ with col := col, slot := slot } }
  let x : Chan := if c.1 = 2 then .pier (col / 64) ((freePier s (col / 64)).getD 0) else .column col slot c.1
  let open_ := (s.pages.open_.find? fun r => r.who.contains (.held g n)).map PageRecord.id
  let s := s.replaceWho (.held g n) (.chan x)
  let s := { s with denied := s.denied ++ (c.2.refused.map fun (r : Nat × Nat) => (Requester.chan x, r.1, r.2)).toList }
  let s := s.setChan x { c.2 with queue := c.2.queue.map move, inner := c.2.inner.map move, susp := open_, refused := none }
  if s.attached (.chan x) then s else s.resumeChan x

/-- The engines of a placed group may issue from the next cycle on (R361, R363): STAMPBASE moves (R106), what the save record held goes on,
a REFHOLD is made again (R226) and held messages land (R380). A Faulted group enters Faulted with its record written again (R373). -/
def startGroup (s : State) (g : Nat) : State :=
  match s.groups.get? g with
  | none => s
  | some v =>
    let sk := slotKey v.col v.slot
    let ks := slotStreams v.col v.slot
    let s := v.heldMsgs.foldl (fun s m => s.due (s.cyc + 1) 620 (.messageLand g m.1 m.2.toNat (2 ^ 64)) 0) s
    match v.saved with
    | none =>
      let s := s.setSlot sk { s.slotAt sk with stop := none }
      let s := s.setGroup g { v with state := .running, heldMsgs := [] }
      ks.foldl (fun s k => if (s.engAt k.ek).len = 0 then s else s.reachHeader k (s.cyc - 1)) s
    | some r =>
      let c := s.ctxAt v.ctx
      let s := s.setCtx v.ctx { c with frames := c.frames.filter fun f => f.1 != g }
      let s := if (s.slotAt sk).hold then s.touchColumn v.col else s
      let s := r.chans.zipIdx.foldl (fun s c => s.restoreChan g v.col v.slot c.2 c.1) s
      let s := if (s.slotAt sk).owed.isSome then
          let col := s.colAt v.col
          let s := s.setCol v.col { col with leaseWait := col.leaseWait ++ [(v.slot, v.region.prio)] }
          if col.lease.isNone then s.due s.cyc 760 (.leaseGrant v.col) else s
        else s
      let sl := s.slotAt sk
      if r.faulted then
        let eng := engOf (bitsAt (sl.ctlr 0x60) 7 6)
        let k : Stream := ⟨v.col, v.slot, eng⟩
        let sl := (sl.setCtl 0x64 (BitVec.ofNat 64 (s.recordAddr k))).setCtl 0x135 (BitVec.ofNat 64 v.region.domain)
        let s := s.setSlot sk { sl with stop := some r.stoppedAt }
        let s := s.setGroup g { v with state := .faulted, saved := none, frame := none, heldMsgs := [], stoppedAt := r.stoppedAt }
        s.writeRecord k (bitsAt (sl.ctlr 0x60) 8 8 == 1)
      else
        let moved := BitVec.ofNat 64 (s.cyc + 1 - r.stoppedAt)
        let s := s.setSlot sk { (sl.setCtl 0x021 (sl.ctlr 0x021 + moved)) with stop := none }
        let s := s.setGroup g { v with state := .running, saved := none, frame := none, heldMsgs := [] }
        let s := (s.restartEngines sk (s.cyc + 1)).resumePartners g (s.cyc + 1)
        ks.foldl (fun s k => if (s.engAt k.ek).sec == .waiting then s.reachHeader k (s.cyc - 1) else s) s

end State

/-- GROUP_PLACE: a Queued group is placed in a slot that can take it (R352, R361, R363). A group whose tag is being purged is purged
instead (R472). -/
def execGroupPlace (g col slot : Nat) (s : State) : Out :=
  match s.groups.get? g with
  | none => .next s
  | some v =>
    if v.state ≠ .queued ∨ (s.ctxAt v.ctx).state ≠ 1 ∨ !s.slotFree col slot ∨ !s.colOpen col (s.groupWinCtx v) then .next s
    else if s.purges.any fun p => p.1 == v.ctx && p.2.1 == v.reqtag then .next ((s.purgeGroup g).countPurged v.ctx v.reqtag 1)
    else
      let s := if v.saved.isNone then s.selectAudit g else s
      let s := s.placeGroup g col slot
      let (d, s) := s.freeNat
      let later := v.gang && s.agenda.any fun x => match x.ev with
        | .codeStoreCopyComplete o => o != g && (s.gangOf g).contains o
        | _ => false
      .next (if later then s else s.due (s.cyc + 1 + d) 18 (.codeStoreCopyComplete g))

/-- CODE_STORE_COPY_COMPLETE: the copy of the code, and the restoring of a saved group, are complete, and the group becomes Running; a
gang's groups do so in one cycle (R106, R344, R361). -/
def execCodeStoreCopyComplete (g : Nat) (s : State) : Out :=
  let unit := (s.gangOf g).filter fun h => ((s.groups.get? h).map Group.state) == some .placed
  let (ok, s) := unit.foldl (fun (r : Bool × State) h =>
    if !r.1 then r
    else match r.2.copyCode h with
      | (true, s) => s.canRestore h
      | x => x) (true, s)
  .next (if ok then unit.foldl State.startGroup s else s)

/-- The place in a group's image of a byte of its concatenated streams. -/
def imagePlace (l : Launch) (o : Nat) : Option Nat :=
  let a := l.streams.getD 0 (0, 0)
  let x := l.streams.getD 1 (0, 0)
  let d := l.streams.getD 2 (0, 0)
  if o < a.2 then some (l.image + a.1 + o)
  else if o < a.2 + x.2 then some (l.image + x.1 + (o - a.2))
  else if o < a.2 + x.2 + d.2 then some (l.image + d.1 + (o - a.2 - x.2))
  else none

/-- CODE_BLOCK_FETCH: a 1 KiB block that engines of a slot wait for comes into its code store, which holds 64 of them; a refused page
is a fault of the word fetched (R344, R434). -/
def execCodeBlockFetch (col slot b : Nat) (s : State) : Out :=
  let sk := slotKey col slot
  match s.groupOf sk with
  | none => .next s
  | some (g, v) =>
    let l := s.launchOf v
    let waiting := (State.slotStreams col slot).filter fun k => (s.engAt k.ek).codeMiss == some b
    let who : Requester := .fetch (waiting.headD ⟨col, slot, .a⟩)
    let at_ : List (Nat × Nat) := (List.range 1024).filterMap fun i => (imagePlace l (1024 * b + i)).map fun a => (1024 * b + i, a)
    match s.transRange v.ctx 3 4 who (distinct (at_.map fun (x : Nat × Nat) => x.2 / 65536)) with
    | (.ok _, pages, s) =>
      let data : List (Nat × Nat × Nat) := at_.map fun (x : Nat × Nat) => (x.1, x.2, ((virtKeys pages x.2 1).head?).getD 0)
      let s := match data.find? fun (x : Nat × Nat × Nat) => s.poisoned x.2.2 with
        | some x => s.consumedBy g (BitVec.ofNat 64 (2 ^ 63 + x.2.1 / 8 * 8))
        | none => s
      let s := { s with mem := data.foldl (fun m (x : Nat × Nat × Nat) => Memory.write m (codeKey sk x.1) (Memory.read s.mem x.2.2)) s.mem }
      let sl := s.slotAt sk
      let held := sl.code.filter (· != b)
      let s := s.setSlot sk { sl with code := (if 64 ≤ held.length then held.drop 1 else held) ++ [b] }
      .next (waiting.foldl (fun s k =>
        let s := s.setEng k.ek { s.engAt k.ek with codeMiss := none }
        if (s.engAt k.ek).sec == .waiting then s.reachHeader k s.cyc else s) s)
    | (.refused, _, s) =>
      .next (waiting.foldl (fun s k =>
        let e := s.engAt k.ek
        let hdr := e.sec == .waiting
        let va := (imagePlace l (if hdr then e.base + e.pos else e.wordOff e.idx)).getD 0
        (s.setEng k.ek { s.engAt k.ek with codeMiss := none }).takeFault k s.refCode (BitVec.ofNat 64 (va + s.refKind 3)) hdr) s)
    | (.full, _, s) => .next (s.due (s.cyc + 1) 26 (.codeBlockFetch col slot b))
    | (_, _, s) => .next s

/-! ### Retirement and the watchdog (R366, R379) -/

namespace State

/-- The retirement condition of a group (R379). -/
def retireReady (s : State) (v : Group) : Bool :=
  (v.state == .running || v.state == .stalled)
    && (slotStreams v.col v.slot).all (fun k => (s.engAt k.ek).sec == .empty)
    && (s.slotChans v.col v.slot).isEmpty && !(s.flights.any fun f => ofSlot f v.col v.slot)
    && !(s.stores.any fun e => e.by_.col == v.col && e.by_.slot == v.slot)
    && (s.slotAt (slotKey v.col v.slot)).engFaults.isEmpty && (s.slotAt (slotKey v.col v.slot)).stop.isNone

/-- The state of a group after this cycle's selection, and its watchdog count: Stalled while no engine is ready though one has work and no
pre-emption is pending, Running again when an engine issues (R361, R366). -/
def stallTick (s : State) (rdy picked : List Stream) : State :=
  s.slots.foldl (fun s r =>
    match s.groupOf r.1 with
    | none => s
    | some (g, v) =>
      if v.state ≠ .running ∧ v.state ≠ .stalled ∧ r.2.wdogCount = 0 then s
      else
        let mine (l : List Stream) : Bool := l.any fun k => k.sk == r.1
        let work := (slotStreams v.col v.slot).any fun k => (s.engAt k.ek).sec != .empty
        let st := if v.state = .running ∨ v.state = .stalled then
            (if mine picked then .running
             else if !mine rdy && work && r.2.preempt.isNone && r.2.stop.isNone then .stalled else v.state)
          else v.state
        let s := if st = v.state then s else s.setGroup g { v with state := st }
        let n := if v.state = .stalled ∧ st = .stalled ∧ r.2.preempt.isNone ∧ r.2.stop.isNone then r.2.wdogCount + 1 else 0
        let s := if n = r.2.wdogCount then s else s.setSlot r.1 { s.slotAt r.1 with wdogCount := n }
        let lim := (r.2.ctlr 0x133).toNat * 1024
        if lim ≠ 0 ∧ n = lim then s.due s.cyc 60 (.watchdog v.col v.slot) else s) s

end State

/-- WATCHDOG: the engine with work that has been not ready for the most cycles raises it before its next word (R366). -/
def execWatchdog (col slot : Nat) (s : State) : Out :=
  let ks := (State.slotStreams col slot).filter fun k => (s.engAt k.ek).sec != .empty
  match ks with
  | [] => .next s
  | k :: t =>
    let k := t.foldl (fun b x => if (s.engAt b.ek).blocked < (s.engAt x.ek).blocked then x else b) k
    .next (s.groupFault k 0x1A (BitVec.ofNat 64 (engCode k.eng)) false 0)

/-! ### Messages (R380, R383) -/

namespace State

/-- What becomes of a message for a mailbox of a group: `none` while another has landed there in this cycle; else whether it was kept, and
the state (R133, R380). -/
def message (s : State) (g mb : Nat) (v : Word) : Option (Bool × State) :=
  match s.groups.get? g with
  | none => some (false, s)
  | some x =>
    match x.state, x.saved with
    | .running, _ | .stalled, _ | .atSafe, _ | .faulted, _ | .preempting, _ =>
      let sk := slotKey x.col x.slot
      let sl := s.slotAt sk
      if sl.mbLand.any fun l => l.1 == mb then none
      else some (true, s.setSlot sk { sl with mbLand := sl.mbLand ++ [(mb, v)] })
    | .placed, _ => some (true, s.setGroup g { x with heldMsgs := x.heldMsgs ++ [(mb, v)] })
    | .saved, some r | .migrating, some r | .queued, some r =>
      some (true, s.setGroup g { x with saved := some { r with slot := { r.slot with mbs := r.slot.mbs.put mb v } } })
    | _, _ => some (false, s)

/-- The group that a GSIG addresses: that of the sender's launch with a number (R383). -/
def sibling (s : State) (sk num : Nat) : Option Nat :=
  (s.groupOf sk).bind fun v => v.2.lid.bind fun l =>
    (s.groups.find? fun r => r.2.lid == some l && r.2.num == num && (r.2.audit.bind Audit.replayOf).isNone && r.2.state != .purged
      && r.2.state != .retired).map (·.1)

end State

/-- MESSAGE_LAND: a message reaches its group and lands in a mailbox, is put into the save record, is held, or is discarded (R133, R380).
Of those for one mailbox the first lands, one in each cycle: in the order of the cycles in which they reach it, in one cycle the columns by
number, then the host and the fabric; `State.subject` is that place, 1,024 to a cycle. A GSIG completes with the outcome. -/
def execMessageLand (gid mb value word : Nat) (s : State) : Out :=
  let sender := s.flight word
  let to_ := match sender with
    | some f => (match f.pend with | .message n => (s.sibling f.at_.sk n).getD (2 ^ 64) | _ => 2 ^ 64)
    | none => gid
  let before := s.agenda.any fun d => decide (d.at_ ≤ s.cyc) && decide (d.arg < s.subject) && (match d.ev with
    | .messageLand g m _ _ => g == gid && m == mb
    | _ => false)
  if before then .next (s.due s.cyc 620 (.messageLand gid mb value word) s.subject)
  else match s.message to_ mb (BitVec.ofNat 64 value) with
    | none => .next (s.due (s.cyc + 1) 620 (.messageLand gid mb value word) s.subject)
    | some (kept, s) => .next (match sender with
      | some f => s.endWord { f with writes := [.cf kept] }
      | none => s)

/-- The placements that wait for a slot of a column: saved groups of it, new ones aimed at it, and those that have no column yet and may have this one, with
their priority numbers (R382). -/
def slotWaiters (s : State) (col : Nat) : List Nat :=
  (s.groups.filter fun r => r.2.state == .queued &&
    (if r.2.saved.isSome then s.physCol r.2.ctx r.2.ccol == some col
     else r.2.col == col || (decide (256 ≤ r.2.col) && (s.ctxCol r.2.ctx col).any fun c =>
       r.2.region.cols.testBit c && (s.launchOf r.2).piers.testBit (col / 64)))).map fun r => r.2.region.prio

/-- YIELD (R381, R382). -/
def execYield (q : Seq) (f : FmtF) (s : State) : Out :=
  wordIssue (.yield q f) q [.cf]
    (fun s =>
      match s.groupOf s.cur.sk with
      | none => .fault 0x14 0
      | some (g, v) =>
        let want := f.sub % 2 == 1 || (slotWaiters s s.cur.col).any fun p => decide (p ≤ v.region.prio)
        .go { st := if want then s.preemptGroup g false true else s, writes := [.cf want] }) s

/-- GSIG (R381, R383): the very cycle of landing within its bound is left open. -/
def execGsig (q : Seq) (f : FmtF) (s : State) : Out :=
  wordIssue (.gsig q f) q [.s f.dst, .s f.oa, .cf]
    (fun s =>
      let k := s.cur
      if f.sub % 2 = 1 ∧ s.writesBefore k s.nextId then .wait
      else consuming s [f.dst, f.oa] (
        if k.fw then .fault 0x14 0
        else
          let num := (s.sv f.dst).toNat
          let to_ := (s.sibling k.sk num).getD (2 ^ 64)
          let col := ((s.groups.get? to_).map Group.col).getD k.col
          let bound := if col = k.col then 4 else if col / 64 = k.col / 64 then 40 else 180
          let (d, s) := s.freeNat
          let lat := 1 + d % bound
          .go { st := s.due (s.cyc + lat - 1) 620 (.messageLand to_ (f.imm16 % 4) (s.sv f.oa).toNat s.nextId)
                  ((s.cyc + lat - 1) * 1024 + k.col),
                lat := lat, busy := [.cf], pend := .message num })) s

/-! ### Firmware's access to a Faulted group (R369, R370) -/

/-- GREGDATA_WRITE (R370). -/
def execGregdataWrite (col value : Nat) (s : State) : Out :=
  let c := s.colAt col
  let sk := slotKey col (bitsAt (c.ctlr 0x083) 1 0)
  if ((s.groupOf sk).map fun g => g.2.state) ≠ some .faulted then .next s
  else
    let sel := c.ctlr 0x131
    let ek := sk * 3 + bitsAt sel 21 20
    let e := s.engAt ek
    let n := bitsAt sel 17 0
    let v := BitVec.ofNat 64 value
    .next (match bitsAt sel 19 18 with
      | 0 => s.setEng ek (e.setS n { val := v })
      | 1 => s.setEng ek { e with cf := v.getLsbD 0 }
      | 2 => s.setEng ek { e with spill := e.spill.put n { val := v } }
      | _ =>
        let sl := s.slotAt sk
        let r := sl.vreg (n / 256)
        s.setSlot sk (sl.setV (n / 256) { r with lanes := r.lanes.set (n % 256) (v.setWidth 32), marks := r.marks.del (n % 256) }))

/-- MICRO_PC_RECORD_ARRIVAL: FWPEND.FAULT is set (R115, R367). `State.subject` is how much later the record comes when the stack serves
other traffic now. -/
def execMicroPcRecordArrival (col slot : Nat) (s : State) : Out :=
  let c := s.colAt col
  if 0 < s.subject ∧ s.farTraffic then .next (s.due (s.cyc + s.subject) 20 (.microPcRecordArrival col slot))
  else .next (s.setCol col (c.raisePend (2 ^ slot)))

/-! ### Migration (R377, R378) -/

namespace State

/-- The groups of a context that hold slots of a column. -/
def columnGroups (s : State) (ctx col : Nat) : List (Nat × Group) :=
  s.groups.filter fun r => r.2.ctx == ctx && r.2.col == col && r.2.state.resident

/-- The valid window registers of a context in a column. -/
def winsOf (s : State) (ctx col : Nat) : List Nat := (List.range 4).filter fun n => twinFor (s.twin col n) ctx

/-- A migration of the context's groups from a column is refused (R377, R422). -/
def migrationRefused (s : State) (ctx src dest dwin : Nat) : Bool :=
  let gs := s.columnGroups ctx src
  let free := (List.range 4).filter fun n => (s.slotAt (slotKey dest n)).gid.isNone
  let swin := (s.lowestWin src ctx).getD 0
  let size (w : Word) : Nat := (windowOf w).size
  (s.ctxAt ctx).state != 1 || (s.colAt dest).state != 0 || dest == src || decide (free.length < gs.length)
    || !twinFor (s.twin dest dwin) ctx || size (s.twin dest dwin) != size (s.twin src swin)
    || decide (1 < (s.winsOf ctx src).length) || decide (1 < (s.winsOf ctx dest).length)
    || ((s.ctxCol ctx dest).isSome && !(s.columnGroups ctx dest).isEmpty)

end State

/-- GCTL_MIGRATE: REQ = 2 is refused with ERR, or pre-empts the groups of the context in the column, with FORCE for a full save at once (R371, R377); the event's
argument is FORCE. A context that is not Live has it refused, whatever is pending (R422); so is a request for a slot without a group, DESIGN CHOICE
(log 173). -/
def execGctlMigrate (col slot dest dwin : Nat) (s : State) : Out :=
  let sk := slotKey col slot
  let refused : Out := .next (s.setSlot sk { s.slotAt sk with preemptErr := true })
  match s.groupOf sk with
  | none => refused
  | some (_, v) =>
    if (s.ctxAt v.ctx).state ≠ 1 then refused
    else if (s.slotAt sk).preempt.isSome then .next s
    else if s.migrationRefused v.ctx col dest dwin then refused
    else
      let s := s.setSlot sk { s.slotAt sk with preemptErr := false }
      let s := { s with moves := s.moves ++ [(⟨v.ctx, col, dest, (s.lowestWin col v.ctx).getD 0, dwin, (s.ctxCol v.ctx dest).isSome, false⟩ : Move)] }
      .next ((s.columnGroups v.ctx col).foldl (fun (s : State) (r : Nat × Group) =>
        let k := slotKey r.2.col r.2.slot
        let sl := s.slotAt k
        match sl.preempt with
        | some p => s.setSlot k { sl with preempt := some { p with migrate := some (dest, dwin) } }
        | none => s.preemptOne (s.subject % 2 == 1) false (some (dest, dwin)) r.1) s)

/-- Cells of two ranges of equal length change places, or the first is copied over the second. -/
def swapCells (m : Memory) (a b n : Nat) (exchange : Bool) : Memory :=
  let inA (k : Nat) : Bool := decide (a ≤ k ∧ k < a + n)
  let inB (k : Nat) : Bool := decide (b ≤ k ∧ k < b + n)
  let rest : Memory := m.filter fun c => !(inB c.1) && !(exchange && inA c.1)
  let toB := (m.filter fun c => inA c.1).map fun c => (c.1 - a + b, c.2)
  let toA := if exchange then (m.filter fun c => inB c.1).map fun c => (c.1 - b + a, c.2) else []
  (toA ++ toB).foldl (fun m c => Memory.write m c.1 c.2) rest

/-- The same for marked words. -/
def swapMarks (l : List Nat) (a b n : Nat) (exchange : Bool) : List Nat :=
  let inA (k : Nat) : Bool := decide (a ≤ k ∧ k < a + n)
  let inB (k : Nat) : Bool := decide (b ≤ k ∧ k < b + n)
  let rest := l.filter fun k => !(inB k) && !(exchange && inA k)
  let toB := (l.filter inA).map fun k => k - a + b
  let toA := if exchange then (l.filter inB).map fun k => k - b + a else []
  (toA ++ toB).foldl State.insertKey rest

namespace State

/-- The sum slots of one window go to the matching slots of another, or the two change places (R321, R377). -/
def swapSums (s : State) (a wa b wb : Nat) (exchange : Bool) : State :=
  let sa := (s.towerAt a).sums
  let sb := (s.towerAt b).sums
  let of_ (m : Map SumSlot) (w : Nat) : Map SumSlot := (m.filter fun r => r.1 / 16 == w).map fun r => (r.1 % 16, r.2)
  let without (m : Map SumSlot) (w : Nat) : Map SumSlot := m.filter fun r => r.1 / 16 != w
  let into (m : Map SumSlot) (w : Nat) (l : Map SumSlot) : Map SumSlot := l.foldl (fun m r => m.put (16 * w + r.1) r.2) (without m w)
  let s := s.setTower b { s.towerAt b with sums := into sb wb (of_ sa wa) }
  s.setTower a { s.towerAt a with sums := if exchange then into sa wa (of_ sb wb) else without sa wa }

/-- Where a byte of a move's windows lies afterwards (R377, R378). -/
def movedKey (s : State) (m : Move) (k : Nat) : Nat :=
  let wa := windowOf (s.twin m.src m.swin)
  let wb := windowOf (s.twin m.dest m.dwin)
  let col := keyTower k / 16
  let cell := keyTower k % 16
  let off := k % 2 ^ 22
  if k < towerBase ∨ codeBase ≤ k then k
  else if col = m.src ∧ wa.base ≤ off ∧ off < wa.base + wa.size then towerKey m.dest cell (off - wa.base + wb.base)
  else if m.exchange ∧ col = m.dest ∧ wb.base ≤ off ∧ off < wb.base + wb.size then towerKey m.src cell (off - wb.base + wa.base)
  else k

/-- Accesses that wait, and arrivals on their way, find their words where a move has taken them; Queued groups wait for their context columns (R335,
R378). -/
def followMove (s : State) (m : Move) : State :=
  let k := s.movedKey m
  let col (c : Nat) : Nat := if c = m.src then m.dest else if c = m.dest ∧ m.exchange then m.src else c
  { s with
    flights := s.flights.map fun f =>
      { f with
        pieces := f.pieces.map fun p => if p.done then p else { p with key := k p.key }
        pend := match f.pend with
          | .bwait a l => .bwait (k a) l
          | .port a l => .port (k a) l
          | p => p }
    arrivals := s.arrivals.map fun a => { a with key := k a.key }
    groups := s.groups.map fun (r : Nat × Group) =>
      (r.1, if r.2.ctx = m.ctx ∧ r.2.state = .queued ∧ r.2.saved.isNone then { r.2 with col := col r.2.col } else r.2) }

/-- The tower contents of a move's two windows are copied or exchanged, with their poison and sum slots (R377). -/
def moveTowers (s : State) (m : Move) : State :=
  let wa := windowOf (s.twin m.src m.swin)
  let wb := windowOf (s.twin m.dest m.dwin)
  (List.range 16).foldl (fun s t =>
    let a := towerKey m.src t wa.base
    let b := towerKey m.dest t wb.base
    let s := (s.checkRead a wa.size).checkRead b (if m.exchange then wa.size else 0)
    let s := { s with mem := swapCells s.mem a b wa.size m.exchange, bitErrs := s.bitErrs.filter (fun e => decide (e.1 < b ∨ b + wa.size ≤ e.1)), poison := swapMarks s.poison a b wa.size m.exchange }
    s.swapSums (m.src * 16 + t) m.swin (m.dest * 16 + t) m.dwin m.exchange) s

/-- The port queues of two columns are empty, and no write of theirs is on its way. -/
def portsDrained (s : State) (cols : List Nat) : Bool :=
  cols.all fun c => (List.range 16).all (fun t => (s.towerAt (c * 16 + t)).queue.isEmpty)
    && !(s.stores.any fun e => e.pieces.any fun p => decide (towerBase ≤ p.key) && keyTower p.key / 16 == c)
    && !(s.async.any fun p => keyTower p.key / 16 == c)

/-- Migrations whose groups are all Saved go on to move the towers; the time is within the bounds of R377 while nothing else uses the ports,
and else left open. -/
def planMoves (s : State) : State :=
  (s.moves.filter fun m => !m.begun).foldl (fun (s : State) (m : Move) =>
    let gs := s.groups.filter fun r => r.2.ctx == m.ctx && r.2.migrate == some (m.dest, m.dwin) && (r.2.state == .saved || r.2.state.resident)
    let left := s.columnGroups m.ctx m.src
    if !left.isEmpty || gs.any (fun r => r.2.state != .saved) || !s.portsDrained [m.src, m.dest] || s.jobs.any (fun j => j.ctx == m.ctx && j.moving)
    then s
    else
      let s := gs.foldl (fun (s : State) (r : Nat × Group) => s.setGroup r.1 { r.2 with state := .migrating }) s
      let w := (windowOf (s.twin m.src m.swin)).size
      let most := (w / 64 + if m.src / 64 = m.dest / 64 then 40 else 180) * (if m.exchange then 2 else 1)
      let (d, s) := s.freeNat
      let d := if s.chans.isEmpty && s.jobs.isEmpty then d % most else d
      let t : State := { s with moves := s.moves.map fun (x : Move) => if x == m then { m with begun := true } else x }
      t.due (s.cyc + 1 + d) 630 (.migrationComplete m.ctx m.src)) s

end State

/-- MIGRATION_COMPLETE: the towers have moved, COLMAP changes, in the context's record too (R407, R408), the source window goes where nothing was exchanged,
and the groups are placed on DEST in the lowest free slots (R377, R378). -/
def execMigrationComplete (ctx src : Nat) (s : State) : Out :=
  match s.moves.find? fun m => m.ctx == ctx && m.src == src && m.begun with
  | none => .next s
  | some m =>
    let cs := (s.ctxCol ctx src).getD src
    let cd := s.ctxCol ctx m.dest
    let s := (s.moveTowers m).followMove m
    let c := s.ctxAt ctx
    let map := c.colmap.set cs m.dest
    let map := match cd with | some d => map.set d src | none => map
    let s := s.setCtx ctx { c with colmap := map }
    let entry (s : State) (n p : Nat) : State := s.farStore (c.record + 128 + n) 1 p
    let s := entry s cs m.dest
    let s := match cd with | some d => entry s d src | none => s
    let col := s.colAt src
    let s := if m.exchange then s
      else s.setCol src (col.setCtl (0x121 + m.swin) (setBits (col.ctlr (0x121 + m.swin)) 63 63 0))
    let s := ({ s with moves := s.moves.filter fun x => x != m }.homeJobs ctx).relayTurns
    let gs := s.groups.filter fun r => r.2.ctx == ctx && r.2.state == .migrating && r.2.migrate == some (m.dest, m.dwin)
    let order := (List.range 4).flatMap fun n => gs.filter fun r => r.2.slot == n
    .next (order.foldl (fun (s : State) (r : Nat × Group) =>
      if (s.ctxAt ctx).state ≠ 1 then s.setGroup r.1 { r.2 with state := .saved, migrate := none }
      else match (List.range 4).find? fun n => s.slotFree m.dest n && s.colOpen m.dest ctx with
      | none => s.setGroup r.1 { r.2 with state := .queued, migrate := none, atTail := false, queuedAt := s.cyc }
      | some n =>
        let s := (s.setGroup r.1 { r.2 with migrate := none }).placeGroup r.1 m.dest n
        let (d, s) := s.freeNat
        s.due (s.cyc + 1 + d) 18 (.codeStoreCopyComplete r.1)) s)

end Sys2Proof.Machine
end

