-- ==== Sys2Proof/Machine/Journal.lean ====
section
/-! DEFINITION. Queues, their descriptors and the journal (R384–R388, R398–R404): what the front end writes about packets, and the far
operations of signals (R390, R392, R434). -/

namespace Sys2Proof.Machine

/-- The global index of a queue (R384). -/
def queueIndex (ctx q : Nat) : Nat := ctx * 4096 + q

/-- The type of a packet (R389). -/
def Packet.typ (p : Packet) : Nat := p.words.getD 0 0 % 16

/-- Word 1 of a journal record (R403). -/
def recordWord1 (queue typ state status ridx node flags : Nat) : Nat :=
  queue + typ * 2 ^ 12 + state * 2 ^ 16 + status * 2 ^ 24 + ridx % 65536 * 2 ^ 32 + node * 2 ^ 48 + flags * 2 ^ 61

/-- The node that a packet's record names (R403). -/
def Packet.node (p : Packet) : Nat := if p.typ = 1 then p.words.getD 1 0 % 4096 else 0

/-- HTO and PRK of a record, from bit 61 up (R403). -/
def Packet.flags (p : Packet) : Nat := p.hto.toNat + 2 * p.prk.toNat

namespace State

def queueAt (s : State) (k : Nat) : FQueue := s.fqueues.getD k {}
def setQueue (s : State) (k : Nat) (q : FQueue) : State := { s with fqueues := s.fqueues.put k q }

/-- The physical address of a queue's descriptor (R384, R385). -/
def descAt (s : State) (k : Nat) : Nat := (s.ctxAt (k / 4096)).queues + 64 * (k % 4096)

/-- The device's words of a descriptor: RPTR, WPTR and STATE (R385). -/
def writeDesc (s : State) (k : Nat) : State :=
  let q := s.queueAt k
  s.storeWords (s.descAt k + 16) [q.rptr, q.wptr, q.state]

/-- A queue takes a state. -/
def queueState (s : State) (k st : Nat) : State :=
  if (s.queueAt k).state = st then s else (s.setQueue k { s.queueAt k with state := st }).writeDesc k

/-- A queue gives up its hardware slot (R388). -/
def releaseSlot (s : State) (k : Nat) : State :=
  let q := s.queueAt k
  if q.slotAt.isNone then s else { s.setQueue k { q with slotAt := none } with feFree := s.feFree + 1 }

/-- A queue stands at a packet boundary: no packet of it is in processing (R388). -/
def atBoundary (q : FQueue) : Bool := match q.cur with | none => true | some p => p.begun.isNone

/-- A packet that was taken up and has not begun goes back to the accepted ones; its hold runs on (R397). -/
def putBack (q : FQueue) : FQueue :=
  match q.cur with
  | some p =>
    if p.begun.isNone then
      { q with cur := none, seqs := p.seqno :: q.seqs, heldFrom := p.held.map fun t => (p.seqno, t, p.words.getD 0 0 / 16 % 16) }
    else q
  | none => q

/-- A queue enters Halted, now or at its packet boundary (R388). -/
def haltQueue (s : State) (k : Nat) : State :=
  let q := s.queueAt k
  if q.state = 0 ∨ q.state = 6 then s
  else if atBoundary q then ((s.setQueue k (putBack { q with halt := false })).releaseSlot k).queueState k 6
  else s.setQueue k { q with halt := true }

/-- A journal or signal write, or a ring, was refused: every queue of the context is Halted, with event 0x25 (R434). -/
def haltAll (s : State) (ctx vpage : Nat) : State :=
  let s := s.health { code := 0x25, ctx := ctx, info := BitVec.ofNat 64 vpage }
  (s.fqueues.filter fun r => r.1 / 4096 == ctx).foldl (fun s r => s.haltQueue r.1) s

/-- A far write of the front end: made, given up after a refusal (`ok` as well), or waiting (R434). -/
def frontWrite (s : State) (ctx va : Nat) (data : List Nat) (who : Requester) : Tr × State :=
  if s.attached who then (.waits, s)
  else match s.writeVirt ctx va data 3 who with
    | (.refused, s) => (.ok 0, s.haltAll ctx (va / 65536))
    | r => r

/-- A journal record is written (R403, R404). -/
def journal (s : State) (ctx seqno word1 user : Nat) (who : Requester) : Tr × State :=
  let c := s.ctxAt ctx
  s.frontWrite ctx (c.journal + 32 * (seqno % 2 ^ c.jlog2)) (bytesOf [seqno, word1, s.cyc, user]) who

/-- The sequence numbers of a context whose records are not final (R403). -/
def liveSeqs (s : State) (ctx : Nat) : List Nat :=
  (s.fqueues.filter fun r => r.1 / 4096 == ctx).flatMap (fun r => r.2.seqs ++ (r.2.cur.map fun p => p.seqno).toList)
    ++ s.launches.filterMap fun r =>
      match r.2.state with
      | .retired | .failed | .aborted => none
      | _ => if r.2.ctx = ctx then r.2.packet.map fun p => p.2 else none

/-- The journal slot of the next sequence number of a context is free (R387, R403). -/
def journalFree (s : State) (ctx : Nat) : Bool :=
  let c := s.ctxAt ctx
  !(s.liveSeqs ctx).any fun n => n % 2 ^ c.jlog2 == c.nextSeq % 2 ^ c.jlog2

/-- What an atomic far operation of a signal leaves in its word: 0 write, 1 add, 2 maximum (R389). -/
def signalValue (op old v : Nat) : Nat :=
  match op with
  | 1 => (old + v) % 2 ^ 64
  | 2 => max old v
  | _ => v

/-- A signal word is operated on, or the operation waits or is refused (R390, R392). Consumed poison tears the context down (R471). -/
def signalWord (s : State) (ctx va v op : Nat) (who : Requester) : Tr × State :=
  match s.transRange ctx (if op = 0 then 1 else 2) 3 who (vpages va 8) with
  | (.ok _, pages, s) =>
    match (virtKeys pages va 1).head? with
    | some key =>
      if op ≠ 0 ∧ s.poisoned key then (.ok 0, s.plinthPoison ctx va)
      else (.ok 0, s.rightRun false ((bytesOf [signalValue op (s.load key 8) v]).zipIdx.map fun b => (key + b.2, b.1, false)))
    | none => (.ok 0, s)
  | (r, _, s) => (r, s)

end State

end Sys2Proof.Machine
end

