-- ==== Sys2Proof/Machine/Launch.lean ====
section
/-! DEFINITION. Launches (ch. 13): region budgets (R412–R414), the checks of an image (R341–R350), the walker and its pool
(R351–R353), the launch graph (R354, R355) and the words POPW, ENQW and ENQ (R356–R360). -/

namespace Sys2Proof.Machine

/-! ### Regions (R412, R413) -/

/-- The words of a region control block (R412). -/
def State.regionWords (s : State) (c : Context) (n : Nat) : List Nat :=
  (List.range 6).map fun i => s.load (c.regions + 64 * n + 8 * i) 8

/-- Poison in the region control blocks of a node or of one of its ancestors: its place (R471). -/
def State.regionPoison (s : State) (c : Context) : Nat → Nat → Option Nat
  | 0, _ => none
  | fuel + 1, n =>
    if c.nodes ≤ n then none
    else
      let a := c.regions + 64 * n
      ((List.range 6).map (fun i => a + 8 * i) |>.find? s.poisoned).or
        (if n = 0 ∨ n ≤ s.load a 8 / 2 ^ 48 then none else s.regionPoison c fuel (s.load a 8 / 2 ^ 48))

/-- Word bits [hi : lo] of a number. -/
def nbits (v hi lo : Nat) : Nat := v / 2 ^ lo % 2 ^ (hi + 1 - lo)

/-- A node's own values (R412). -/
def ownRegion (n : Nat) (w : List Nat) : Region :=
  let a := w.getD 0 0
  { prio := nbits a 4 0, strict := a.testBit 8, matrix := a.testBit 9, debug := a.testBit 10, aen := a.testBit 11, auditn := nbits a 15 12,
    cols := w.getD 2 0 + w.getD 3 0 * 2 ^ 64 + w.getD 4 0 * 2 ^ 128 + w.getD 5 0 * 2 ^ 192, tower := nbits (w.getD 1 0) 41 32,
    hbmshare := nbits a 23 16, plimit := nbits (w.getD 1 0) 31 0, domain := if a.testBit 5 then n else 65536, policy := nbits a 7 6 }

/-- A node's effective values, `none` where it or an ancestor is invalid, and the nodes at which a limit changed a value, once for
each value (R413). `domain` is the nearest node whose fault-domain flag is set, else the root (R367). -/
def State.region (s : State) (c : Context) : Nat → Nat → Option Region × List Nat
  | 0, _ => (none, [])
  | fuel + 1, n =>
    let w := s.regionWords c n
    let a := w.getD 0 0
    let own := ownRegion n w
    if !a.testBit 32 || decide (c.nodes ≤ n) || own.policy == 3 then (none, [])
    else if n = 0 then
      (if nbits a 63 48 = 0xFFFF then
        some { own with plimit := if own.plimit = 0 then 1750000 else own.plimit, domain := 0 } else none, [])
    else if n ≤ nbits a 63 48 then (none, [])
    else match s.region c fuel (nbits a 63 48) with
      | (none, l) => (none, l)
      | (some p, l) =>
        let inh (b : Nat) : Bool := a.testBit b
        let e : Region :=
          { prio := if inh 38 then p.prio else own.prio
            domain := if inh 39 ∨ own.domain = 65536 then p.domain else own.domain
            policy := if inh 39 then p.policy else own.policy
            strict := if inh 40 then p.strict else own.strict
            matrix := if inh 41 then p.matrix else own.matrix
            debug := if inh 42 then p.debug else own.debug
            aen := if inh 43 then p.aen else own.aen
            auditn := if inh 43 then p.auditn else own.auditn
            cols := if inh 44 then p.cols else own.cols
            tower := if inh 45 then p.tower else own.tower
            hbmshare := if inh 46 then p.hbmshare else own.hbmshare
            plimit := if inh 47 then p.plimit else own.plimit }
        let m : Region := { e with
          prio := max e.prio p.prio, cols := e.cols &&& p.cols, matrix := e.matrix && p.matrix, debug := e.debug && p.debug,
          tower := min e.tower p.tower, hbmshare := min e.hbmshare p.hbmshare, plimit := min e.plimit p.plimit }
        let changed := [m.prio != e.prio, m.cols != e.cols, m.matrix != e.matrix, m.debug != e.debug, m.tower != e.tower,
          m.hbmshare != e.hbmshare, m.plimit != e.plimit]
        (some m, l ++ List.replicate (changed.countP id) n)

/-! ### Images (R341–R350) -/

/-- The little-endian number of the first `n` bytes. -/
def leOf (l : List Nat) (n : Nat) : Nat := (l.take n).foldr (fun b v => b + 256 * v) 0

/-- The sections of a stream: header and the selector of each word; `none` where the stream does not end with a section or with
padding (R73–R76). -/
def sections : Nat → List Nat → Option (List (Nat × List Nat))
  | 0, _ => none
  | n + 1, l =>
    if l.isEmpty then some []
    else if l.length < 8 then none
    else
      let h := leOf l 8
      if h / 2 ^ 62 = 3 then
        let skip := 8 + 4 * (h % 2 ^ 20)
        if l.length < skip then none else sections n (l.drop skip)
      else
        let body := 8 + 12 * ((nbits h 59 56 + 5) / 6)
        let len := h % 2 ^ 20
        if l.length < body + 12 * len then none
        else
          let sels := (List.range len).map fun i => leOf (l.drop (body + 12 * i)) 12 / 2 ^ 92
          (sections n (l.drop (body + 12 * len))).map fun t => (h, sels) :: t

/-- The last section of a stream ends with DONE, whose selector code is 11 (R62, R341). -/
def endsDone (x : List (Nat × List Nat)) : Bool := (x.getLast?.bind fun h => h.2.getLast?) == some 11

/-- The safe points of the LIVEMAP sections of a stream: engine, section number, index (R342). -/
def safePoints (eng : Nat) (x : List (Nat × List Nat)) : List (List Nat) :=
  (x.filter fun h => h.1.testBit 60).flatMap fun h =>
    ((if h.1.testBit 61 then [0] else []) ++ (h.2.zipIdx.filterMap fun (w : Nat × Nat) => if w.1 = 2 then some (w.2 + 1) else none)).map
      fun i => [eng, nbits h.1 55 44, i]

/-- A live-map entry of four words: engine, section number, index and the live registers; `none` where it breaks R342. -/
def liveMap (w : List Nat) : Option (List Nat) :=
  let a := w.getD 0 0
  let eng := nbits a 33 32
  let s := w.getD 1 0
  let v := w.getD 2 0
  let k := w.getD 3 0
  if 2 ^ 34 ≤ a ∨ eng = 3 ∨ s % 2 = 1 ∨ (eng ≠ 1 ∧ (v ≠ 0 ∨ k ≠ 0)) ∨ 2 ^ 8 ≤ k ∨ k % 2 = 1 then none
  else some [eng, nbits a 31 20, nbits a 19 0, s, v, k]

/-- One entry comes before another (R342). -/
def keyBefore (a b : List Nat) : Bool :=
  let key (x : List Nat) : Nat := x.getD 0 0 * 2 ^ 32 + x.getD 1 0 * 2 ^ 20 + x.getD 2 0
  decide (key a < key b)

/-- Rising with no duplicates. -/
def risingKeys : List (List Nat) → Bool
  | a :: b :: t => keyBefore a b && risingKeys (b :: t)
  | _ => true

/-- The live map of an image, `none` where it breaks R342 or misses a safe point. -/
def liveMaps (table : List Nat) (points : List (List Nat)) : Option (List (List Nat)) :=
  let es := (List.range (table.length / 4)).map fun i => liveMap ((table.drop (4 * i)).take 4)
  if es.any fun e => e.isNone then none
  else
    let l := es.filterMap id
    if risingKeys l && l.all (fun e => points.contains (e.take 3)) && points.all (fun p => l.any fun e => e.take 3 == p) then some l else none

/-- A 64-bit word as a signed number. -/
def signed (w : Nat) : Int := (BitVec.ofNat 64 w).toInt

/-- A launch with its loop nest, from the words of a record; `none` where it breaks R345. -/
def withNest (l : Launch) (w : List Nat) : Option Launch :=
  let a := w.getD 0 0
  let b := w.getD 1 0
  let levels := nbits a 2 0
  let order := (List.range 6).map fun j => nbits a (3 * j + 6) (3 * j + 4)
  let lv := (List.range levels).map fun k => (w.drop (2 + 4 * k)).take 4
  let bad (x : List Nat) : Bool :=
    let step := x.getD 2 0
    let tile := x.getD 3 0
    decide (signed (x.getD 1 0) ≤ signed (x.getD 0 0)) || step == 0 || decide (2 ^ 47 < step) || tile == 0 || decide (65535 < tile)
  let count (x : List Nat) : Nat :=
    ((signed (x.getD 1 0) - signed (x.getD 0 0)).toNat + x.getD 2 0 * x.getD 3 0 - 1) / (x.getD 2 0 * x.getD 3 0)
  let n := lv.foldl (fun n x => n * count x) 1
  let persist := nbits b 47 32
  if 2 ^ 26 ≤ a ∨ a.testBit 3 ∨ nbits a 25 22 = 0 ∨ levels = 0 ∨ 6 < levels ∨ 2 ^ 48 ≤ b ∨ nbits b 31 3 ≠ 0 ∨ b % 8 = 0 ∨ 4 < b % 8
      ∨ 1024 < persist ∨ (order.drop levels).any (· != 0) ∨ !((List.range levels).all fun k => (order.take levels).contains k)
      ∨ lv.any bad ∨ 2 ^ 48 ≤ n then none
  else some { l with
    piers := nbits a 25 22, order := order.take levels, slotsMax := b % 8, persist := persist, items := n,
    levels := lv.map fun x => (signed (x.getD 0 0), x.getD 2 0 * x.getD 3 0, count x) }

/-- A launch of a kernel without a loop-nest record (R345). -/
def defaultNest (l : Launch) : Launch :=
  { l with piers := 0xF, order := [0], slotsMax := 4, persist := l.gang, items := 1, levels := [(0, 1, 1)] }

/-- The indices of work item `w`: the levels from the innermost depth out; the outermost takes the rest of the quotient (R346). -/
def itemIndices (l : Launch) (w : Nat) : List Nat :=
  let step (r : List (Nat × Nat) × Nat) (j : Nat) : List (Nat × Nat) × Nat :=
    let k := l.order.getD j 0
    let lv := l.levels.getD k (0, 1, 1)
    let i := if j = 0 then r.2 else r.2 % lv.2.2
    ((k, (BitVec.ofInt 64 (lv.1 + (i * lv.2.1 : Nat))).toNat) :: r.1, r.2 / lv.2.2)
  let l := ((List.range l.order.length).reverse.foldl step ([], w)).1
  (List.range 6).map fun k => ((l.find? fun x => x.1 == k).map fun x => x.2).getD 0

/-- What a check gives: it waits (`error none`), fails with a status, or goes on. -/
abbrev Check (α : Type) := Except (Option Nat) α × State

/-- Bytes of an image are read by the checks; a refused page fails them with `st`. -/
def readImage {α : Type} (s : State) (lid ctx va n st : Nat) (k : List Nat → State → Check α) : Check α :=
  if n = 0 then k [] s
  else match s.readVirt ctx va n 3 4 (.launch lid) with
    | (.ok _, data, s) =>
      match data.zipIdx.find? fun x => x.1.2 with
      | some x => (.error none, s.plinthPoison ctx (va + x.2))
      | none => k (data.map fun x => x.1) s
    | (.refused, _, s) => (.error (some st), s)
    | (.full, _, s) => (.error none, s.due (s.cyc + 1) 22 (.launchCheck lid))
    | (.waits, _, s) => (.error none, s)

/-- The header of an image breaks R341. -/
def headerBad (h : List Nat) : Bool :=
  let f (lo n : Nat) : Nat := leOf (h.drop lo) n
  let flags := f 6 2
  let gang := f 8 2
  f 0 4 != 0x4B59494D || f 4 2 != 1 || decide (8 ≤ flags)
    || (if flags % 2 = 1 then decide (gang < 2 ∨ 1024 < gang) else gang != 0)
    || f 10 2 != 0 || f 12 4 % 64 != 0 || f 44 4 % 32 != 0 || decide (16 < f 56 2) || f 58 6 != 0
    || [16, 24, 32, 40, 48, 52].any fun o => f o 4 % 16 != 0

/-- The templates of the handle table are checked for the entries that are Free (R262, R350). -/
def checkTemplates (s : State) (l : Launch) (lid : Nat) : List (Nat × Nat) → List (Nat × List Nat) → Check (List (Nat × List Nat))
  | [], acc => (.ok acc, s)
  | (e, va) :: t, acc =>
    if (s.entry l.ctx e).state ≠ 0 ∨ acc.any (fun x => x.1 == e) then checkTemplates s l lid t acc
    else if va % 64 ≠ 0 then (.error (some 4), s)
    else match s.readVirt l.ctx va 64 3 4 (.launch lid) with
      | (.ok _, data, s) =>
        if data.any fun x => x.2 then (.error none, s.plinthPoison l.ctx va)
        else
          let x := wordsOf (data.map fun x => x.1)
          let d := Desc.ofWords x
          if (templateReserved x).isSome || d.illegal || !s.regionFits l.ctx d.lay none then (.error (some 4), s)
          else checkTemplates s l lid t (acc ++ [(e, { d with state := if d.ro then 3 else 1 }.words)])
      | (.refused, _, s) => (.error (some 4), s)
      | (.full, _, s) => (.error none, s.due (s.cyc + 1) 22 (.launchCheck lid))
      | (.waits, _, s) => (.error none, s)

namespace State

/-- The walker's columns: physical columns of the region's budget in the piers, in service, by number (R352, R414). -/
def walkColumns (s : State) (l : Launch) : List Nat :=
  (List.range 256).filter fun p => l.piers.testBit (p / 64) && !s.outOfService p &&
    (match s.ctxCol l.ctx p with | some c => l.region.cols.testBit c | none => false)

/-- The checks of R349 in the order of the statuses, and the definition of handle entries when all pass (R350). -/
def checkLaunch (s : State) (lid : Nat) (l : Launch) : Check Launch :=
  readImage s lid l.ctx l.image 64 1 fun h s =>
    let f (lo n : Nat) : Nat := leOf (h.drop lo) n
    if headerBad h then (.error (some 1), s)
    else
      let streams := [(f 16 4, f 20 4), (f 24 4, f 28 4), (f 32 4, f 36 4)]
      let l := { l with flags := f 6 2, gang := f 8 2, tower := f 12 4, streams := streams }
      readImage s lid l.ctx (l.image + f 16 4) (f 20 4) 1 fun a s =>
      readImage s lid l.ctx (l.image + f 24 4) (f 28 4) 1 fun x s =>
      readImage s lid l.ctx (l.image + f 32 4) (f 36 4) 1 fun d s =>
        let secs := [a, x, d].map fun b => sections (b.length / 8 + 1) b
        if secs.any (fun r => match r with | none => true | some t => !t.isEmpty && !endsDone t)
            || ([a, x, d].zip secs).any (fun r => !r.1.isEmpty && (r.2.getD []).isEmpty) || (l.flags.testBit 1 && !l.region.matrix) then
          (.error (some 1), s)
        else readImage s lid l.ctx (l.image + f 48 4) (if f 48 4 = 0 then 0 else 16) 2 fun n0 s =>
        readImage s lid l.ctx (l.image + f 48 4 + 16) (32 * (if n0.isEmpty then 0 else min 6 (leOf n0 8 % 8))) 2 fun n1 s =>
          match if n0.isEmpty then some (defaultNest l) else withNest l (wordsOf (n0 ++ n1)) with
          | none => (.error (some 2), s)
          | some l => readImage s lid l.ctx (l.image + f 40 4) (f 44 4) 3 fun side s =>
            match liveMaps (wordsOf side) ((secs.map fun r => r.getD []).zipIdx.flatMap fun r => safePoints r.2 r.1) with
            | none => (.error (some 3), s)
            | some live => readImage s lid l.ctx (l.image + f 52 4) (16 * f 56 2) 4 fun tab s =>
              let es := (List.range (f 56 2)).map fun i => ((wordsOf tab).drop (2 * i)).take 2
              if es.any fun e => decide (2 ^ 16 ≤ e.getD 0 0) then (.error (some 4), s)
              else match checkTemplates s l lid (es.map fun e => (e.getD 0 0 / 16, e.getD 1 0)) [] with
                | (.error e, s) => (.error e, s)
                | (.ok defs, s) =>
                  let l := { l with live := live, hbind := es.map fun e => (e.getD 0 0 % 16, e.getD 0 0 / 16) }
                  let cols := (s.walkColumns l).length
                  if cols = 0 ∨ l.region.tower * 8192 < l.tower ∨ l.slotsMax * cols < max l.gang l.persist then (.error (some 5), s)
                  else
                    let s := defs.foldl (fun s (e : Nat × List Nat) => s.setEntry l.ctx e.1 e.2) s
                    let total := if l.gang ≠ 0 then l.gang else if l.persist ≠ 0 then l.persist else l.items
                    let pool := l.gang ≠ 0 ∨ l.persist ≠ 0
                    (.ok { l with state := .walking, total := total, items := if pool then l.items else 0 }, s)

/-! ### The launch graph (R354, R355) -/

def setLaunch (s : State) (lid : Nat) (l : Launch) : State := { s with launches := s.launches.put lid l }

/-- The words of a node of a context's graph (R354). -/
def nodeWords (s : State) (ctx n : Nat) : List Nat := (List.range 4).map fun i => s.load ((s.ctxAt ctx).graph + 32 * n + 8 * i) 8

/-- A node that breaks R354. -/
def nodeBad (w : List Nat) : Bool :=
  decide (2 ^ 52 ≤ w.getD 0 0) || w.getD 0 0 % 4096 != 0 || nbits (w.getD 1 0) 47 32 != 0 || (w.getD 2 0).testBit 63
    || decide (5 < nbits (w.getD 2 0) 62 60) || w.getD 3 0 != 0

/-- The predecessor count of a node (R354). -/
def nodePred (s : State) (ctx n : Nat) : Nat := (s.nodeWords ctx n).getD 1 0 % 65536

/-- The word of a node that holds its predecessor count is poisoned: its place (R471). -/
def predPoison (s : State) (ctx n : Nat) : Option Nat :=
  let a := (s.ctxAt ctx).graph + 32 * n + 8
  if s.poisoned a then some a else none

/-- A node is launched (R355); the launch is checked in the next cycle. -/
def launchNode (s : State) (ctx node : Nat) (l : Launch := {}) : State :=
  let lid := s.nextId
  ({ s with nextId := lid + 1 }.setLaunch lid { l with ctx := ctx, node := node, state := .launched, since := s.cyc }).due
    (s.cyc + 1) 22 (.launchCheck lid)

/-- One decrement of a successor's counter: at 0 its node is launched, and a counter that stands at 0 is overrun (R355); where the count is read and is
poisoned the context is torn down (R471). -/
def countDown (s : State) (ctx succ : Nat) : State :=
  let c := s.ctxAt ctx
  match if (c.counters.get? succ).isNone then s.predPoison ctx succ else none with
  | some a => s.tablePoison ctx a
  | none =>
  let n := c.counters.getD succ (s.nodePred ctx succ)
  if n = 0 then s.health { code := 0x22, ctx := ctx, info := BitVec.ofNat 64 succ }
  else
    let s := s.setCtx ctx { c with counters := c.counters.put succ (n - 1) }
    if n = 1 then s.launchNode ctx succ else s

/-- The decrements of a cycle: the retired launches by node number, each node's successors in their order (R355). -/
def countDowns (s : State) : State :=
  let ins (x : Nat × Nat × List Nat) (l : List (Nat × Nat × List Nat)) : List (Nat × Nat × List Nat) :=
    (l.filter fun y => decide (y.2.1 ≤ x.2.1)) ++ [x] ++ l.filter fun y => decide (x.2.1 < y.2.1)
  (s.downs.foldl (fun l x => ins x l) []).foldl (fun s x => x.2.2.foldl (fun s n => s.countDown x.1 n) s) { s with downs := [] }

/-- Counters of nodes launched in this cycle are reloaded at the end of its update (R355). -/
def reloadCounters (s : State) : State :=
  (s.launches.filter fun r => r.2.state == .launched && r.2.since == s.cyc).foldl (fun s r =>
    let c := s.ctxAt r.2.ctx
    match s.predPoison r.2.ctx r.2.node with
    | some a => s.tablePoison r.2.ctx a
    | none => s.setCtx r.2.ctx { c with counters := c.counters.put r.2.node (s.nodePred r.2.ctx r.2.node) }) s

/-- The completion signal of a launch that is final is written once its record is (R390, R404). -/
def launchSignal (s : State) (lid : Nat) : State :=
  match s.launches.get? lid with
  | none => s
  | some l =>
    let (va, v, op) := l.signal
    let done (s : State) : State := s.setLaunch lid { l with signal := (0, 0, 0) }
    if va = 0 then s
    else if s.attached (.launch lid) then s
    else match s.signalWord l.ctx va v op (.launch lid) with
      | (.ok _, s) => done s
      | (.refused, s) => done (s.haltAll l.ctx (va / 65536))
      | (.full, s) => s.due (s.cyc + 1) 22 (.launchRetire lid)
      | (.waits, s) => s

/-- A launch is final: its record is written, its pool discarded, its successors counted down, and its signal follows (R348, R355,
R390, R404). -/
def closeLaunch (s : State) (lid status : Nat) (l : Launch) : State :=
  let st : LState := if status = 0 then .retired else if status = 7 then .aborted else .failed
  let s := s.setLaunch lid { l with state := st, status := status, pool := [], ending := none,
                                    signal := if status = 7 then (0, 0, 0) else l.signal }
  let s := if status = 0 then { s with downs := s.downs ++ [(l.ctx, l.node, l.succ)] } else s
  let s := match l.packet with
    | some (q, _) => if l.stopfail ∧ status ≠ 0 ∧ status ≠ 7 then s.haltQueue (queueIndex l.ctx q) else s
    | none => s
  s.launchSignal lid

/-- A launch ends with a status: its final record is written first (R348, R404). -/
def endLaunch (s : State) (lid status : Nat) : State :=
  match s.launches.get? lid with
  | none => s
  | some l =>
    match l.packet with
    | none => s.closeLaunch lid status l
    | some (q, n) =>
      match s.journal l.ctx n (recordWord1 q 1 (if status = 0 then 3 else 4) status l.ridx l.node l.pflags) 0 (.launch lid) with
      | (.full, s) => (s.setLaunch lid { l with ending := some status }).due (s.cyc + 1) 22 (.launchRetire lid)
      | (.waits, s) => s.setLaunch lid { l with ending := some status }
      | (_, s) => s.closeLaunch lid status l

/-- The groups of a launch. -/
def launchGroups (s : State) (lid : Nat) : List (Nat × Group) := s.groups.filter fun r => r.2.lid == some lid && (r.2.audit.bind Audit.replayOf).isNone

/-- Every write that a group made has reached its SYS point (R395): a purged group may have left words and stores in its slot. -/
def writesDone (s : State) (g : Nat) (v : Group) : Bool :=
  !s.writesOf g && (v.state != .purged || (s.slotAt (slotKey v.col v.slot)).gid.isSome || s.slotClean v.col v.slot)

/-- A launch whose groups are all gone, retired or with a purged one among them (R348), and whose groups' writes have reached SYS, as its record, its
signal and a BARRIER need (R395, R404). -/
def launchOver (s : State) (lid : Nat) (l : Launch) : Option Nat :=
  let gs := (s.launchGroups lid).map fun r => r.2.state
  let gone := gs.all (fun g => g == .retired || g == .purged) && (s.launchGroups lid).all fun r => s.writesDone r.1 r.2
  if l.ending.isSome then none
  else if gs.contains .purged then (if gone ∧ (l.state = .walking ∨ l.state = .running) then some 6 else none)
  else if gone ∧ l.state = .running then some 0 else none

end State

/-- LAUNCH_CHECK: a launch enters Checking in the cycle after it was launched, when its region is read (R348, R413); later the checks
end, at a time the spec leaves open. -/
def execLaunchCheck (lid : Nat) (s : State) : Out :=
  match s.launches.get? lid with
  | none => .next s
  | some l =>
    match l.state with
    | .launched =>
      let w := s.nodeWords l.ctx l.node
      let key := (s.ctxAt l.ctx).graph + 32 * l.node
      if s.poisoned key || s.poisoned (key + 8) || s.poisoned (key + 16) || s.poisoned (key + 24) then .next (s.tablePoison l.ctx key)
      else
        let l := { l with
          reqtag := nbits (w.getD 1 0) 31 16, regionNode := nbits (w.getD 1 0) 63 48, image := nbits (w.getD 0 0) 51 0,
          succ := (List.range (nbits (w.getD 2 0) 62 60)).map fun j => nbits (w.getD 2 0) (12 * j + 11) (12 * j) }
        if State.nodeBad w then .next ((s.setLaunch lid l).endLaunch lid 1)
        else if l.image = 0 then .next ((s.setLaunch lid l).endLaunch lid 0)
        else match s.regionPoison (s.ctxAt l.ctx) (l.regionNode + 1) l.regionNode with
        | some a => .next (s.tablePoison l.ctx a)
        | none =>
          let c := s.ctxAt l.ctx
          let (r, limits) := s.region c (l.regionNode + 1) l.regionNode
          let s := limits.foldl (fun s n => s.health { code := 0x21, ctx := l.ctx, info := BitVec.ofNat 64 n }) s
          let bad : Region := { matrix := decide (l.regionNode < c.nodes) && (ownRegion l.regionNode (s.regionWords c l.regionNode)).matrix }
          let s := s.setLaunch lid { l with state := .checking, region := r.getD bad }
          let (d, s) := s.freeNat
          .next (s.due (s.cyc + 1 + d) 22 (.launchCheck lid))
    | .checking =>
      match s.checkLaunch lid l with
      | (.ok l, s) => .next (s.setLaunch lid l)
      | (.error (some st), s) => .next (s.endLaunch lid st)
      | (.error none, s) => .next s
    | _ => .next s

/-- LAUNCH_RETIRE: the last group of a launch has retired, or is gone after a purge; a record or a signal that had to wait is written
(R348, R355, R390). -/
def execLaunchRetire (lid : Nat) (s : State) : Out :=
  match s.launches.get? lid with
  | none => .next s
  | some l =>
    match l.ending, s.launchOver lid l with
    | some st, _ => .next (s.endLaunch lid st)
    | none, some st => .next (s.endLaunch lid st)
    | none, none => .next (s.launchSignal lid)

/-! ### The walker (R351, R352) -/

namespace State

/-- The number of groups of a launch that hold slots of a column. -/
def launchOn (s : State) (lid col : Nat) : Nat := (s.launchGroups lid).countP fun r => r.2.state.resident && r.2.col == col

/-- The slots of a column without a group. -/
def emptySlots (s : State) (col : Nat) : List Nat := (List.range 4).filter fun n => (s.slotAt (slotKey col n)).gid.isNone

/-- The columns that the next `n` placements of a launch aim at: each the first, in ascending cyclic order after the one before, with a
free slot and fewer than SLOTS groups of the launch; `taken` are those aimed at before (R352). -/
def aimColumns (s : State) (lid : Nat) (l : Launch) (cols : List Nat) : Nat → Option Nat → List Nat → Option (List Nat)
  | 0, _, taken => some taken.reverse
  | n + 1, last, taken =>
    let order := match last with
      | none => cols
      | some p => (cols.filter fun c => decide (p < c)) ++ cols.filter fun c => decide (c ≤ p)
    match order.find? fun c =>
        decide (taken.count c < (s.emptySlots c).length) && decide (s.launchOn lid c + taken.count c < l.slotsMax) with
    | none => none
    | some c => s.aimColumns lid l cols n (some c) (c :: taken)

/-- The groups that a walker places next stand Queued: the whole gang, or the next group (R351, R361). -/
def createGroups (s : State) (lid : Nat) (l : Launch) : State :=
  let n := if l.gang = 0 then min 1 (l.total - l.next) else l.total - l.next
  let s := (List.range n).foldl (fun s i =>
    let w := l.next + i
    let idx := if l.gang = 0 ∧ l.persist = 0 then itemIndices l w else List.replicate 6 0
    let g : Group := { ctx := l.ctx, lid := some lid, node := l.node, num := w, reqtag := l.reqtag, region := l.region, gang := l.gang != 0,
                       col := 65536, queuedAt := s.cyc, hbind := l.hbind, sregs := idx ++ [w, l.reqtag] }
    { s.setGroup s.nextId g with nextId := s.nextId + 1 }) s
  s.setLaunch lid { l with next := l.next + n }

/-- The groups of a launch that wait for their first placement. -/
def unplaced (s : State) (lid : Nat) : List (Nat × Group) := (s.launchGroups lid).filter fun r => r.2.state == .queued && r.2.saved.isNone

/-- One walker: its next groups are created when the ones before are placed, and each is aimed at its column. An aim moves when its column
has no free slot left, holds SLOTS groups of the launch, or is none of the walker's columns any more, being out of service or no longer mapped (R352, R414);
once its placement has been held, only in the last case. -/
def walkLaunch (s : State) (lid : Nat) (l : Launch) : State :=
  if !(s.launchGroups lid).all (fun r => r.2.state != .purged) then s
  else
    let s := if (s.unplaced lid).isEmpty ∧ l.next < l.total then s.createGroups lid l else s
    let gs := s.unplaced lid
    if gs.isEmpty then s.setLaunch lid { l with state := .running }
    else
      let held (v : Group) : Bool := decide (v.col < 256) && (v.aimHeld || !s.colOpen v.col (s.groupWinCtx v))
      let cols := s.walkColumns l
      let still (v : Group) : Bool := decide (v.col < 256) && cols.contains v.col
        && (held v || (!(s.emptySlots v.col).isEmpty && decide (s.launchOn lid v.col < l.slotsMax)))
      if (l.gang = 0 ∨ gs.any fun r => held r.2) ∧ gs.all fun r => still r.2 then
        gs.foldl (fun s g => s.setGroup g.1 { g.2 with aimHeld := held g.2 }) s
      else
        let cols := (s.aimColumns lid l cols gs.length l.lastCol []).getD []
        gs.zipIdx.foldl (fun s g =>
          let c := cols.getD g.2 65536
          s.setGroup g.1.1 { g.1.2 with col := c, ccol := (s.ctxCol l.ctx c).getD 0, aimHeld := false }) s

/-- The walkers of the launches of live contexts (R352, R418). -/
def planWalk (s : State) : State :=
  (s.launches.filter fun r => r.2.state == .walking && (s.ctxAt r.2.ctx).state == 1).foldl (fun s r => s.walkLaunch r.1 r.2) s

/-- The column and slot at which a Queued group would be placed now: a saved group in the column it left, in any free slot, or for a gang in the slot
it left; a new group in the lowest free slot of its column (R352, R375, R376). -/
def placeAt (s : State) (v : Group) (taken : List (Nat × Nat)) : Option (Nat × Nat) :=
  let free (c n : Nat) : Bool := s.slotFree c n && !taken.contains (c, n)
  match v.saved with
  | some r =>
    (if (v.audit.bind Audit.replayOf).isSome then some v.col else s.physCol v.ctx v.ccol).bind fun c =>
      if !s.colOpen c (s.groupWinCtx v) then none
      else if v.gang then (if free c r.slotNo then some (c, r.slotNo) else none)
      else ((List.range 4).find? (free c)).map fun n => (c, n)
  | none =>
    let room := (v.audit.bind Audit.replayOf).isSome || (v.lid.all fun l =>
      decide (s.launchOn l v.col + (taken.filter fun t => t.1 == v.col).length < (s.launchOf v).slotsMax))
    if v.col < 256 ∧ room ∧ s.colOpen v.col (s.groupWinCtx v) then ((List.range 4).find? (free v.col)).map fun n => (v.col, n) else none

/-- The groups that are placed together with a Queued group (R352, R375). -/
def placeUnit (s : State) (g : Nat) (v : Group) : List (Nat × Group) :=
  if !v.gang then [(g, v)]
  else s.groups.filter fun r => r.2.gang && r.2.lid == v.lid && r.2.state != .retired && r.2.state != .purged

/-- Places for a whole unit, or none. -/
def placeAll (s : State) : List (Nat × Group) → List (Nat × Nat) → List (Nat × Nat × Nat) → Option (List (Nat × Nat × Nat))
  | [], _, acc => some acc
  | (g, v) :: t, taken, acc =>
    if v.state ≠ .queued then none
    else match s.placeAt v taken with
      | none => none
      | some (c, n) => s.placeAll t ((c, n) :: taken) (acc ++ [(g, c, n)])

/-- Queued groups in the order in which they compete for slots: by priority number; within a level a saved group went to its head when it was queued,
a new one and one saved by YIELD to its tail (R8, R376, R382, R414). -/
def placeOrder (s : State) : List (Nat × Group) :=
  let key (v : Group) : Nat :=
    v.region.prio * 2 ^ 80 + if v.saved.isSome ∧ !v.atTail then 2 ^ 79 - v.queuedAt else 2 ^ 79 + v.queuedAt
  (s.groups.filter fun r => r.2.state == .queued && (s.ctxAt r.2.ctx).state == 1).foldl (fun l r =>
    (l.filter fun x => decide (key x.2 ≤ key r.2)) ++ [r] ++ l.filter fun x => decide (key r.2 < key x.2)) []

/-- The placements of the next cycle. How long a placement that nothing holds takes is left open, so each may be put off. -/
def planPlace (s : State) : State :=
  (s.placeOrder.foldl (fun (r : State × List (Nat × Nat)) x =>
    let unit := r.1.placeUnit x.1 x.2
    if unit.head?.map (fun u => u.1) != some x.1 then r
    else match r.1.placeAll unit r.2 [] with
      | none => r
      | some l =>
        let (d, s) := r.1.freeNat
        let s := if d % 2 = 1 then s
          else l.foldl (fun (s : State) (p : Nat × Nat × Nat) => s.due (s.cyc + 1) 15 (.groupPlace p.1 p.2.1 p.2.2)) s
        let s := match x.2.lid.bind fun n => (s.launches.get? n).map fun v => (n, v) with
          | some (n, v) => if d % 2 = 1 ∨ x.2.saved.isSome then s else s.setLaunch n { v with lastCol := l.getLast?.map fun p => p.2.1 }
          | none => s
        (s, r.2 ++ l.map fun p => (p.2.1, p.2.2))) (s, [])).1

end State

/-! ### The pool (R353) -/

namespace Launch

/-- The pool holds nothing at all. -/
def poolEmpty (l : Launch) : Bool := decide (l.items ≤ l.taken) && l.pool.isEmpty

/-- The head of the pool, if a pop sees it in a cycle, and whether it came from ENQW. -/
def head (l : Launch) (cyc : Nat) : Option (Word × Bool) :=
  if l.taken < l.items then some (BitVec.ofNat 64 l.taken, false)
  else match l.pool with
    | x :: _ => if x.seen ≤ cyc then some (x.val, true) else none
    | [] => none

/-- The pool without its head. -/
def pop (l : Launch) : Launch := if l.taken < l.items then { l with taken := l.taken + 1 } else { l with pool := l.pool.tail }

end Launch

namespace State

/-- A word is a blocking POPW (R353). -/
def blockingPop (w : Nat) : Bool :=
  match rawDecode w with
  | some (.popw _ f) => f.sub % 2 == 0
  | _ => false

/-- A group stands at a blocking POPW that is not ready; a group that is not resident by its saved micro-PC (R353). -/
def standsAtPop (s : State) (g : Nat × Group) : Bool :=
  let v := g.2
  let next (e : Engine) : Bool := e.sec == .dispatched || e.sec == .running || (e.sec == .waiting && v.saved.isSome)
  match v.state, v.saved with
  | .retired, _ => true
  | .placed, _ | .purged, _ => false
  | _, some r =>
    match r.engs.head? with
    | some e =>
      let l := s.launchOf v
      let va := (List.range 12).map fun i => imagePlace l (e.wordOff e.idx + i)
      let w := (va.zipIdx.foldl (fun n a => n + (match a.1 with
        | some a0 => (match s.walkPage 0 v.ctx a0 3 with
          | (.leaf pa 0, _) => (Memory.read s.mem pa).toNat
          | _ => 0)
        | none => 0) * 256 ^ a.2) 0)
      next e && e.heldBy.isNone && blockingPop w
    | none => false
  | .queued, none => false
  | _, none =>
    let k : Stream := ⟨v.col, v.slot, .a⟩
    let e := s.engAt k.ek
    next e && e.heldBy.isNone && e.codeMiss.isNone && blockingPop (s.wordAt k) &&
      (match rawDecode (s.wordAt k) with
        | some (.popw q _) => e.flHolds q
        | _ => false)

/-- The pool of a launch is terminated at the end of this cycle (R353). -/
def poolOver (s : State) (lid : Nat) (l : Launch) : Bool :=
  l.state == .running && !l.terminated && l.poolEmpty && (s.launchGroups lid).all s.standsAtPop

end State

/-- POOL_TERMINATE: from now on every POPW of the launch returns TERM (R353). -/
def execPoolTerminate (lid : Nat) (s : State) : Out :=
  match s.launches.get? lid with
  | none => .next s
  | some l => .next (s.setLaunch lid { l with terminated := true })

/-! ### Words (R356–R360) -/

/-- The launch of the current stream's group, with its number. -/
def State.ownLaunch (s : State) (k : Stream) : Option (Nat × Launch) :=
  (s.groupOf k.sk).bind fun g => g.2.lid.bind fun n => (s.launches.get? n).map fun l => (n, l)

/-- POPW (R357). -/
def execPopw (q : Seq) (f : FmtF) (s : State) : Out :=
  let try_ := f.sub % 2 == 1
  let dec := f.sub / 2 % 2 == 1
  wordIssue (.popw q f) q ([.s f.dst, .cf] ++ if dec then (List.range 7).map fun n => .s (56 + n) else [])
    (fun s =>
      match s.ownLaunch s.cur with
      | none => .fault 0x14 0
      | some (n, l) =>
        let (d, t) := s.freeNat
        let lat := 1 + d % 24
        match l.head s.cyc with
        | some (x, enq) =>
          let idx := if dec then (itemIndices l x.toNat ++ [x.toNat]).zipIdx.map fun i => Write.s (56 + i.2) { val := BitVec.ofNat 64 i.1 } else []
          .go { st := t.setLaunch n l.pop, lat := lat, writes := .s f.dst { val := x } :: .cf true :: idx, hold := enq }
        | none =>
          if l.terminated then .go { st := t, lat := lat, writes := [.s f.dst { val := 1 }, .cf false] }
          else if try_ then .go { st := t, lat := lat, writes := [.s f.dst {}, .cf false] }
          else .wait) s

/-- ENQW (R358). -/
def execEnqw (q : Seq) (f : FmtF) (s : State) : Out :=
  let try_ := f.sub % 2 == 1
  wordIssue (.enqw q f) q (.s f.oa :: if try_ then [.cf] else [])
    (fun s =>
      if s.writesBefore s.cur s.nextId then .wait
      else match s.ownLaunch s.cur with
        | none => .fault 0x14 0
        | some (n, l) => consuming s [f.oa] (
          if 65536 ≤ l.pool.length then (if try_ then .go { st := s, writes := [.cf false] } else .wait)
          else
            let (d, t) := s.freeNat
            let item : PoolItem := { val := s.sv f.oa, at_ := s.cyc, place := s.cur.ek, seen := s.cyc + 1 + d % 24 }
            .go { st := t.setLaunch n { l with pool := l.pool ++ [item], terminated := l.terminated },
                  writes := if try_ then [.cf true] else [] })) s

end Sys2Proof.Machine
end

