-- ==== Sys2Proof/Machine/Queue.lean ====
section
/-! DEFINITION. The command front end (ch. 15): doorbells and acceptance (R385–R388), hardware slots (R398–R400), the packets (R389–R396)
and ENQ (R359). An event about one queue finds its global index in `State.subject`. -/

namespace Sys2Proof.Machine

/-! ### Packets (R389) -/

/-- A packet is malformed (R389). -/
def packetBad (w : List Nat) : Bool :=
  let x (n : Nat) : Nat := w.getD n 0
  let rest (n : Nat) : Bool := (w.drop n).any (· != 0)
  decide (2 ^ 11 ≤ x 0) ||
  (match x 0 % 16 with
    | 1 => decide (4096 ≤ x 1) || x 2 % 8 != 0 || decide (2 < x 4) || rest 5
    | 2 => x 1 % 8 != 0 || decide (3 < x 3 % 2 ^ 32) || rest 4
    | 3 => x 1 % 8 != 0 || x 3 % 4 == 3 || x 3 / 4 % 64 != 0 || decide (512 ≤ x 3) || decide (65536 ≤ x 4) || rest 5
    | 4 => rest 2
    | 5 => decide (512 ≤ x 1) || rest 2
    | _ => true)

/-- A WAIT's condition is met (R389). -/
def condMet (cond x v : Nat) : Bool :=
  match cond with
  | 0 => decide (v ≤ x)
  | 1 => x == v
  | 2 => x != v
  | _ => x &&& v != 0

/-- The event that a packet's type names; a malformed type comes under MARK. -/
def Packet.event (p : Packet) : Instr :=
  match p.typ with
  | 1 => .launch
  | 2 => .wait
  | 3 => .signal
  | 5 => .evict
  | _ => .markPacket

namespace State

/-- A context's queues exist (R388, R422). -/
def queuesLive (s : State) (ctx : Nat) : Bool := decide (1 ≤ (s.ctxAt ctx).state ∧ (s.ctxAt ctx).state ≤ 4)

/-- A descriptor is legal (R385); `none` where it is not VALID. Its PRIV bit must have been given by firmware, or by the host while the firmware context lets
it reach the register window (log 65). -/
def readDesc (s : State) (k : Nat) : Option (Option FQueue) :=
  let a := s.descAt k
  let w (n : Nat) : Nat := s.load (a + 8 * n) 8
  let d := w 0
  if d % 2 = 0 then none
  else if 2 ^ 20 ≤ d ∨ nbits d 15 13 ≠ 0 ∨ nbits d 7 2 ≠ 0 ∨ nbits d 19 16 < 4 ∨ w 1 % 4096 ≠ 0 ∨ 2 ^ 48 ≤ w 2 ∨ 2 ^ 48 ≤ w 3 ∨ 16 ≤ w 4
      ∨ w 5 ≠ 0 ∨ w 6 ≠ 0 ∨ w 7 ≠ 0 ∨ (d.testBit 1 ∧ !s.privs.contains a) then some none
  else some (some { state := 1, log2 := nbits d 19 16, prio := nbits d 12 8, priv := d.testBit 1, ring := w 1 })

/-- A word of a queue's descriptor is poisoned (R471). -/
def descPoisoned (s : State) (k : Nat) : Bool := (List.range 8).any fun n => s.poisoned (s.descAt k + 8 * n)

/-- An Undefined queue becomes Idle when its descriptor is VALID and legal (R385, R388). -/
def openQueue (s : State) (k : Nat) : State :=
  if (s.queueAt k).state ≠ 0 then s
  else if s.descPoisoned k then s.tablePoison (k / 4096) (s.descAt k)
  else match s.readDesc k with
    | none => s
    | some none => s.health { code := 0x23, ctx := k / 4096 }
    | some (some q) => (s.setQueue k q).writeDesc k

/-- The packet at a ring count is read: `none` while it waits. A refused ring halts the queues of the context (R434). -/
def ringRead (s : State) (k count : Nat) : Option (List Nat) × State :=
  let q := s.queueAt k
  let ctx := k / 4096
  let va := q.ring + 64 * (count % 2 ^ q.log2)
  if s.attached (.queue k) then (none, s)
  else match s.readVirt ctx va 64 0 3 (.queue k) with
    | (.ok _, data, s) =>
      if data.any fun x => x.2 then (none, s.plinthPoison ctx va) else (some (wordsOf (data.map fun x => x.1)), s)
    | (.refused, _, s) => (none, s.haltAll ctx (va / 65536))
    | (_, _, s) => (none, s)

/-- A packet whose words are in the ring is accepted, when its record can be written; `true` when it was (R387, R404). -/
def acceptPacket (s : State) (k : Nat) (words : List Nat) : Bool × State :=
  let ctx := k / 4096
  let q := s.queueAt k
  let n := (s.ctxAt ctx).nextSeq
  let p : Packet := { words := words }
  match s.journal ctx n (recordWord1 (k % 4096) p.typ 1 0 q.wptr p.node 0) 0 (.queue k) with
  | (.ok _, s) =>
    let c := s.ctxAt ctx
    let s := s.setCtx ctx { c with nextSeq := max 1 ((n + 1) % 2 ^ 64) }
    let q := s.queueAt k
    let w := (q.wptr + 1) % 2 ^ 48
    let adv := if q.adv = q.wptr then w else q.adv
    (true, (s.setQueue k { q with wptr := w, adv := adv, seqs := q.seqs ++ [n], state := if q.state = 1 then 2 else q.state }).writeDesc k)
  | (_, s) => (false, s)

/-- The packets that advances cover are accepted in ring order as far as journal slots are free (R387). -/
def acceptAll (s : State) (k : Nat) : Nat → State
  | 0 => s
  | n + 1 =>
    let q := s.queueAt k
    if q.state = 0 ∨ q.adv = q.wptr ∨ q.reset ∨ !s.journalFree (k / 4096) then s
    else match s.ringRead k q.wptr with
      | (none, s) => s
      | (some w, s) => match s.acceptPacket k w with
        | (true, s) => s.acceptAll k n
        | (false, s) => s

/-- How many packets an advance has asked for and not got. -/
def owedPackets (q : FQueue) : Nat := (q.adv + 2 ^ 48 - q.wptr) % 2 ^ 48


/-- The processing of a packet ends with a status: its final record is written first (R389, R404). -/
def endPacket (s : State) (k status : Nat) : State :=
  let ctx := k / 4096
  match (s.queueAt k).cur with
  | none => s
  | some p =>
    match s.journal ctx p.seqno (recordWord1 (k % 4096) p.typ (if status = 0 then 3 else 4) status p.count p.node p.flags) p.user (.queue k) with
    | (.ok _, s) =>
      let q := s.queueAt k
      let halt := q.halt || (status != 0 && (p.words.getD 0 0).testBit 10)
      let s := s.setQueue k { q with cur := none, halt := halt }
      if q.slotAt.isSome then s.queueState k 3
      else if halt then s.haltQueue k
      else s.queueState k (if q.seqs.isEmpty then 1 else 2)
    | (.waits, s) => (s.setQueue k { s.queueAt k with cur := some { p with done := some status } }).queueState k 4
    | (_, s) => ((s.setQueue k { s.queueAt k with cur := some { p with done := some status } }).queueState k 4).due (s.cyc + 1) 49 p.event k

/-- An eviction holds admission (R393). -/
def evicting (s : State) : Bool := decide (1 ≤ s.evict.phase ∧ s.evict.phase ≤ 5)

/-- One visit to the packet in processing: an end that waits for its record is tried again, a packet of another queue does not proceed while an EVICT is in
progress, a packet begins with its Started record, a malformed one ends with status 8, and `go` does the rest (R389, R394, R396, R404). -/
def visitPacket (s : State) (k : Nat) (go : State → Packet → State) : State :=
  match (s.queueAt k).cur with
  | none => s
  | some p =>
    match p.done with
    | some st => s.endPacket k st
    | none =>
      if s.evicting ∧ k ≠ s.evict.queue then
        if p.begun.isSome then (s.queueState k 4).due (s.cyc + 1) 49 p.event k else s.queueState k 4
      else if p.begun.isSome then go s p
      else match s.journal (k / 4096) p.seqno (recordWord1 (k % 4096) p.typ 2 0 p.count p.node p.flags) 0 (.queue k) with
        | (.ok _, s) =>
          let p := { p with begun := some s.cyc, held := none }
          let q := s.queueAt k
          let s := (s.setQueue k { q with cur := some p, rptr := (p.count + 1) % 2 ^ 48, state := 3 }).writeDesc k
          if packetBad p.words then s.endPacket k 8 else go s p
        | (.waits, s) => s.queueState k 4
        | (_, s) => (s.queueState k 4).due (s.cyc + 1) 49 p.event k

/-- A LAUNCH of this queue, with a lower sequence number than `n`, whose launch is not final (R389, R390). -/
def openLaunches (s : State) (k n : Nat) : Nat :=
  s.launches.countP fun r => r.2.ctx == k / 4096 && (match r.2.packet with | some (q, m) => q == k % 4096 && decide (m < n) | none => false) &&
    (match r.2.state with | .retired | .failed | .aborted => false | _ => true)

/-- The class of the device's current operating point (R397, R487). -/
def opClass (s : State) : Nat := s.opPoint

/-- A packet waits for its operating point (R397). -/
def holdsFor (s : State) (p : Packet) : Bool :=
  (p.words.getD 0 0).testBit 8 && decide (s.opClass < nbits (p.words.getD 0 0) 7 4) && !p.hto

/-- A packet may begin as far as BARRIER, the launch limit and an eviction go (R389, R390, R396). -/
def mayBegin (s : State) (k : Nat) (p : Packet) : Bool :=
  (!s.evicting || k == s.evict.queue) && (!(p.words.getD 0 0).testBit 9 || s.openLaunches k p.seqno == 0) && (p.typ != 1 || decide (s.openLaunches k p.seqno < 256))

/-- The queues that may be admitted (R398, R418). -/
def readyQueues (s : State) : List (Nat × FQueue) :=
  if s.evicting then []
  else s.fqueues.filter fun r => r.2.state == 2 && (s.ctxAt (r.1 / 4096)).state == 1 && !(s.agenda.any fun d => d.ev == .queueActive && d.arg == r.1)

/-- The packets of a queue that have not started become Abandoned; then, at its packet boundary, the queue starts anew (R388). -/
def tryReset (s : State) (k : Nat) : Nat → State
  | 0 => s
  | n + 1 =>
    let q := putBack (s.queueAt k)
    match q.seqs with
    | [] =>
      if atBoundary q then
        let s := (s.setQueue k q).releaseSlot k
        if s.descPoisoned k then s.tablePoison (k / 4096) (s.descAt k) else
        match s.readDesc k with
        | some (some d) => (s.setQueue k { d with rptr := q.wptr, wptr := q.wptr, adv := q.wptr }).writeDesc k
        | some none => ((s.setQueue k {}).writeDesc k).health { code := 0x23, ctx := k / 4096 }
        | none => (s.setQueue k {}).writeDesc k
      else s.setQueue k q
    | m :: t =>
      if s.attached (.queue k) then s
      else
        let count := (q.wptr + 2 ^ 48 - q.seqs.length) % 2 ^ 48
        let read := s.readVirt (k / 4096) (q.ring + 64 * (count % 2 ^ q.log2)) 64 0 3 (.queue k)
        match read with
        | (.waits, _, s) | (.full, _, s) => s
        | (_, data, s) =>
          let p : Packet := { words := wordsOf (data.map fun x => x.1) }
          match s.journal (k / 4096) m (recordWord1 (k % 4096) p.typ 5 0 count p.node 0) 0 (.queue k) with
          | (.ok _, s) => (s.setQueue k { q with seqs := t }).tryReset k n
          | (_, s) => s

/-- What a queue with a hardware slot does at a packet boundary, its next packet beginning in cycle `t`: it stops, gives up its slot, or
takes up the next packet, which begins or holds (R388, R394, R396–R399, R418). -/
def nextPacket (s : State) (k t : Nat) : State :=
  let q := s.queueAt k
  if q.halt then s.haltQueue k
  else if q.reset then s
  else if (s.ctxAt (k / 4096)).state ≠ 1 then ((s.setQueue k (putBack q)).releaseSlot k).queueState k 2
  else
    let slice := (s.devr 0x141).toNat % 2 ^ 32
    if slice ≠ 0 ∧ q.slotAt.getD t + slice ≤ t ∧ (q.cur.isSome || !q.seqs.isEmpty) ∧ s.readyQueues.any (fun r => decide (r.2.prio ≤ q.prio)) then
      s.due t 49 .queueSliceEnd k
    else
    let (p, s) : Option Packet × State := match q.cur, q.seqs with
      | some p, _ => (some p, s)
      | none, [] => (none, (s.releaseSlot k).queueState k 1)
      | none, n :: l =>
        match s.ringRead k q.rptr with
        | (none, s) => (none, if (s.queueAt k).state = 3 then s.queueState k 4 else s)
        | (some w, s) =>
          let p : Packet := { words := w, seqno := n, count := q.rptr, held := (q.heldFrom.filter fun h => h.1 == n).map fun h => h.2.1 }
          (some p, s.setQueue k { s.queueAt k with cur := some p, seqs := l, heldFrom := none })
    match p with
    | none => s
    | some p =>
      if !s.mayBegin k p then s.queueState k 4
      else if s.holdsFor p then
        let since := p.held.getD t
        let lim := (s.devr 0x142).toNat % 2 ^ 16 * 1024
        let s := (s.setQueue k { s.queueAt k with cur := some { p with held := some since } }).queueState k 4
        if lim ≠ 0 ∧ since + lim ≤ t then s.due t 49 .holdTimeout k else s
      else (s.queueState k 3).due t 49 p.event k

/-- The limits of a packet in processing that can expire in cycle `t`: a WAIT's TIMEOUT and QPARK (R391, R400). -/
def packetLimits (s : State) (k t : Nat) (p : Packet) : State :=
  let lim := p.words.getD 3 0 / 2 ^ 32 * 1024
  if p.typ = 2 ∧ p.done.isNone ∧ lim ≠ 0 ∧ p.begun.getD t + lim ≤ t then s.due t 49 .waitTimeout k
  else match p.parkFrom with
    | some b => if (s.queueAt k).state = 4 ∧ b + (s.devr 0x140).toNat % 2 ^ 32 ≤ t then s.due t 49 .queuePark k else s
    | none => s

/-- Only queues that are still Ready have returned from Parked (R398). -/
def keepReturned (s : State) : State := { s with returned := s.returned.filter fun k => (s.queueAt k).state == 2 }

/-- The front end at the end of a cycle: owed acceptances, resets, and what each queue does in the next cycle. -/
def planQueues (s : State) : State :=
  keepReturned (s.fqueues.foldl (fun s r =>
    let k := r.1
    let s := s.acceptAll k (owedPackets (s.queueAt k))
    let s := if (s.queueAt k).reset then s.tryReset k ((s.queueAt k).seqs.length + 2) else s
    let q := s.queueAt k
    if q.slotAt.isSome ∧ atBoundary q then s.nextPacket k (s.cyc + 1)
    else match q.cur with
      | some p => if p.begun.isSome then s.packetLimits k (s.cyc + 1) p else s
      | none => s) s)

end State

/-! ### Packets of ENQs (R359, R360) -/

namespace State

/-- ENQs on their way to a queue. -/
def enqsTo (s : State) (k : Nat) : Nat := s.flights.countP fun f => match f.pend with | .enq q _ => q == k | _ => false

/-- A queue has room for one more ENQ: its ring, and the context's journal (R359, R387). -/
def enqRoom (s : State) (k : Nat) (q : FQueue) : Bool :=
  let c := s.ctxAt (k / 4096)
  let ahead := s.flights.countP fun f => match f.pend with | .enq x _ => x / 4096 == k / 4096 | _ => false
  decide ((q.wptr + 2 ^ 48 - q.rptr) % 2 ^ 48 + s.enqsTo k < 2 ^ q.log2) && q.adv == q.wptr && !q.reset &&
    !((s.liveSeqs (k / 4096)).any fun n => n % 2 ^ c.jlog2 == (c.nextSeq + ahead) % 2 ^ c.jlog2)

/-- An ENQ's word gets its outcome and completes with its latency, or later where the queue's ring or journal made it wait (R359, R360). -/
def answerEnq (s : State) (f : Flight) (n : Nat) (ok : Bool) : State :=
  let ws := f.writes.map fun w => match w with | .cf _ => Write.cf ok | .s r _ => .s r { val := BitVec.ofNat 64 n } | x => x
  let t : State := { s with flights := s.flights.map fun (g : Flight) => if g.id == f.id then { f with pend := .none, writes := ws } else g }
  t.due (max s.cyc (f.issued + f.lat - 1)) 600 (.wordComplete f.id)

/-- The packets of ENQs are written into their rings and accepted, in the order of R353; one whose ring is refused is answered as a full
queue. -/
def takeEnqs (s : State) : State :=
  let key (f : Flight) : Nat := f.issued * 2 ^ 32 + f.at_.ek
  let waiting := s.flights.filter fun f => match f.pend with | .enq _ _ => true | _ => false
  (waiting.foldl (fun l f => (l.filter fun x => decide (key x ≤ key f)) ++ [f] ++ l.filter fun x => decide (key f < key x)) []).foldl (fun s f =>
    match f.pend with
    | .enq k data =>
      let ctx := k / 4096
      let s := s.openQueue k
      let q := s.queueAt k
      let va := q.ring + 64 * (q.wptr % 2 ^ q.log2)
      if q.state = 0 then s.answerEnq f 0 false
      else if s.attached (.queue k) ∨ !s.journalFree ctx ∨ 2 ^ q.log2 ≤ (q.wptr + 2 ^ 48 - q.rptr) % 2 ^ 48 then s
      else match s.transRange ctx 1 3 (.queue k) (vpages va 64) with
        | (.ok _, pages, s) =>
          let s := s.rightRun false (((virtKeys pages va 64).zip data).map fun x => (x.1, x.2.1, x.2.2))
          let n := (s.ctxAt ctx).nextSeq
          (match s.acceptPacket k (wordsOf (data.map fun x => x.1)) with
            | (true, s) => s.answerEnq f n true
            | (false, s) => s)
        | (.refused, _, s) => (s.haltAll ctx (va / 65536)).answerEnq f 0 false
        | (_, _, s) => s
    | _ => s) s

end State

/-! ### Doorbells (R386–R388) -/

/-- DOORBELL_ADVANCE: packets up to a write count are accepted, after the ENQs of the cycle; a count out of range halts the queue (R386, R387). -/
def execDoorbellAdvance (queue ptr : Nat) (s : State) : Out :=
  if !s.queuesLive (queue / 4096) then .next s
  else
    let s := s.takeEnqs.openQueue queue
    let q := s.queueAt queue
    let below (a b : Nat) : Bool := decide (2 ^ 47 ≤ (a + 2 ^ 48 - b) % 2 ^ 48)
    if q.state = 0 then .next s
    else if below ptr q.wptr || below ((q.rptr + 2 ^ q.log2) % 2 ^ 48) ptr then .next (s.haltQueue queue)
    else
      let s := s.setQueue queue { q with adv := if below ptr q.adv then q.adv else ptr }
      .next (s.acceptAll queue (State.owedPackets (s.queueAt queue)))

/-- DOORBELL_HALT (R388). -/
def execDoorbellHalt (s : State) : Out :=
  let k := s.subject
  .next (if s.queuesLive (k / 4096) then (s.takeEnqs.openQueue k).haltQueue k else s)

/-- DOORBELL_RESUME (R388). -/
def execDoorbellResume (s : State) : Out :=
  let k := s.subject
  if !s.queuesLive (k / 4096) then .next s
  else
    let s := s.takeEnqs.openQueue k
    let q := s.queueAt k
    .next (if q.state = 6 then s.queueState k (if q.seqs.isEmpty then 1 else 2) else s)

/-- DOORBELL_RESET (R388). -/
def execDoorbellReset (s : State) : Out :=
  let k := s.subject
  if !s.queuesLive (k / 4096) then .next s
  else
    let s := s.takeEnqs.openQueue k
    let q := s.queueAt k
    if q.state = 0 then .next s
    else .next ((s.setQueue k { q with reset := true }).tryReset k (q.seqs.length + 2))

/-! ### Hardware slots (R398–R400) -/

/-- The queue that is admitted: of the lowest priority number with a Ready queue, the first that returned from Parked, else the first at or
after the level's pointer, which then moves past it (R398). -/
def admitted (s : State) : Option (Nat × State) :=
  match s.readyQueues with
  | [] => none
  | a :: t =>
    let prio := t.foldl (fun m r => min m r.2.prio) a.2.prio
    let level := (a :: t).filter fun r => r.2.prio == prio
    match s.returned.find? fun k => level.any fun r => r.1 == k with
    | some k => some (k, { s with returned := s.returned.filter (· != k) })
    | none =>
      let ptr := s.rr.getD prio 0
      let far (k : Nat) : Nat := (k + 2 ^ 28 - ptr) % 2 ^ 28
      let best := level.foldl (fun b r => if far r.1 < far b then r.1 else b) (((level.head?).map fun r => r.1).getD 0)
      some (best, { s with rr := s.rr.put prio ((best + 1) % 2 ^ 28) })

/-- QUEUE_ADMIT: a Ready queue takes a free slot (R398). -/
def execQueueAdmit (s : State) : Out :=
  if s.feFree = 0 then .next s
  else match admitted s with
    | none => .next s
    | some (k, s) => .next { (s.due (s.cyc + 4) 48 .queueActive k) with feFree := s.feFree - 1, admitted := some s.cyc }

/-- QUEUE_ACTIVE: the admitted queue is Active, and its head packet may begin in this cycle (R398). -/
def execQueueActive (s : State) : Out :=
  let k := s.subject
  let q := s.queueAt k
  if q.state ≠ 2 ∨ (s.ctxAt (k / 4096)).state ≠ 1 then .next { s with feFree := s.feFree + 1 }
  else
    let s := (s.setQueue k { q with slotAt := some s.cyc }).queueState k 3
    match q.cur with
    | some p => .next (if p.begun.isSome then s.due s.cyc 49 p.event k else s.nextPacket k s.cyc)
    | none => .next (s.nextPacket k s.cyc)

/-- QUEUE_SLICE_END: the slot is released at the packet boundary (R399). -/
def execQueueSliceEnd (s : State) : Out :=
  let k := s.subject
  let q := s.queueAt k
  .next (if q.slotAt.isSome ∧ State.atBoundary q then ((s.setQueue k (State.putBack q)).releaseSlot k).queueState k 2 else s)

/-- A queue whose page is not resident enters Parked (R400). -/
def State.park (s : State) (k : Nat) : State :=
  match (s.queueAt k).cur with
  | none => s
  | some p => ((s.setQueue k { s.queueAt k with cur := some { p with prk := true, parkFrom := none } }).releaseSlot k).queueState k 5

/-- QUEUE_PARK: QPARK has expired while the page is not resident (R400). -/
def execQueuePark (s : State) : Out :=
  let q := s.queueAt s.subject
  .next (if q.state = 4 ∧ (q.cur.bind fun p => p.parkFrom).isSome then s.park s.subject else s)

/-- QUEUE_UNPARK: the page is resident; the queue is Ready at the head of its level (R400). -/
def execQueueUnpark (s : State) : Out :=
  let k := s.subject
  .next (if (s.queueAt k).state = 5 then { s.queueState k 2 with returned := s.returned ++ [k] } else s)

/-! ### Packets (R389–R397) -/

/-- LAUNCH: a packet begins, and within 16 cycles the node is launched, which ends its processing (R390, R402). -/
def execLaunch (s : State) : Out :=
  let k := s.subject
  .next (s.visitPacket k fun s p =>
    if p.typ ≠ 1 then s
    else if p.begun = some s.cyc then
      let (d, s) := s.freeNat
      s.due (s.cyc + 1 + d % 16) 47 .launch k
    else
      let w (n : Nat) : Nat := p.words.getD n 0
      let s := s.launchNode (k / 4096) (w 1 % 4096)
        { packet := some (k % 4096, p.seqno), ridx := p.count, pflags := p.flags, fclass := nbits (w 0) 7 4, stopfail := (w 0).testBit 10,
          signal := (w 2, w 3, w 4 % 4) }
      (s.setQueue k { s.queueAt k with cur := none }).nextPacket k s.cyc)

/-- A WAIT or a SIGNAL whose page is not resident holds its queue, which parks after QPARK cycles (R400, R434). -/
def State.holdForPage (s : State) (k : Nat) (p : Packet) : State :=
  let s := (s.setQueue k { s.queueAt k with cur := some { p with parkFrom := some (p.parkFrom.getD s.cyc) } }).queueState k 4
  if (s.devr 0x140).toNat % 2 ^ 32 = 0 then s.park k else s

/-- A WAIT reads its word (R391). -/
def State.waitRead (s : State) (k : Nat) (p : Packet) : State :=
  let w (n : Nat) : Nat := p.words.getD n 0
  if s.attached (.queue k) ∨ p.typ ≠ 2 then s
  else match s.readVirt (k / 4096) (w 1) 8 0 3 (.queue k) with
    | (.ok _, data, s) =>
      if data.any fun x => x.2 then s.plinthPoison (k / 4096) (w 1)
      else
        let x := ((wordsOf (data.map fun x => x.1)).head?).getD 0
        if condMet (w 3 % 8) x (w 2) then
          (s.setQueue k { s.queueAt k with cur := some { p with user := x, parkFrom := none } }).endPacket k 0
        else
          let (d, s) := s.freeNat
          ((s.setQueue k { s.queueAt k with cur := some { p with parkFrom := none } }).queueState k 4).due (s.cyc + 1 + d % 256) 49 .waitReread k
    | (.refused, _, s) => s.endPacket k 11
    | (.waits, _, s) => s.holdForPage k p
    | (.full, _, s) => (s.queueState k 4).due (s.cyc + 1) 49 .waitReread k

/-- WAIT (R391). -/
def execWait (s : State) : Out := .next (s.visitPacket s.subject fun s p => s.waitRead s.subject p)

/-- WAIT_REREAD: the word of a WAIT in processing is read again (R391). -/
def execWaitReread (s : State) : Out :=
  let q := s.queueAt s.subject
  match q.cur with
  | some p => .next (if p.begun.isSome ∧ p.typ = 2 ∧ (q.state = 3 ∨ q.state = 4) then s.visitPacket s.subject fun s p => s.waitRead s.subject p else s)
  | none => .next s

/-- WAIT_TIMEOUT: the WAIT ends Failed with status 10 (R391). -/
def execWaitTimeout (s : State) : Out :=
  match (s.queueAt s.subject).cur with
  | some p => .next (if p.typ = 2 ∧ p.begun.isSome ∧ p.done.isNone then (s.detach (.queue s.subject)).endPacket s.subject 10 else s)
  | none => .next s

/-- SIGNAL: its operation is made as one atomic far access, at a time the spec leaves open, and then its interrupt is raised (R392). -/
def execSignal (s : State) : Out :=
  let k := s.subject
  .next (s.visitPacket k fun s p =>
    let w (n : Nat) : Nat := p.words.getD n 0
    if p.typ ≠ 3 ∨ s.attached (.queue k) then s
    else if p.begun = some s.cyc then
      let (d, s) := s.freeNat
      s.due (s.cyc + 1 + d) 49 .signal k
    else match s.signalWord (k / 4096) (w 1) (w 2) (w 3 % 4) (.queue k) with
      | (.ok _, s) =>
        let s := if (w 3).testBit 8 then s.raiseIrq (w 4) else s
        s.endPacket k 0
      | (.refused, s) => s.endPacket k 11
      | (.waits, s) => s.holdForPage k p
      | (.full, s) => (s.queueState k 4).due (s.cyc + 1) 49 .signal k)

/-- MARK: the packet's record is written with its USER and it ends (R392, R402). -/
def execMarkPacket (s : State) : Out :=
  let k := s.subject
  .next (s.visitPacket k fun s p =>
    if p.typ ≠ 4 then s
    else if p.begun = some s.cyc then
      let (d, s) := s.freeNat
      s.due (s.cyc + 1 + d) 49 .markPacket k
    else (s.setQueue k { s.queueAt k with cur := some { p with user := p.words.getD 1 0 } }).endPacket k 0)

/-- HOLD_TIMEOUT: the hold for an operating point has lasted OPHOLD × 1,024 cycles; the packet goes on with HTO (R397). -/
def execHoldTimeout (s : State) : Out :=
  let k := s.subject
  match (s.queueAt k).cur with
  | some p =>
    if p.begun.isNone ∧ p.held.isSome then
      .next ((s.setQueue k { s.queueAt k with cur := some { p with hto := true } }).due s.cyc 49 p.event k)
    else .next s
  | none => .next s

/-! ### ENQ -/

/-- ENQ (R359). Its latency is any within 18 cycles (R4, R360). The front end reads the descriptor of an Undefined queue for it, and one that is VALID and
not legal is a health event besides the fault (R385). -/
def execEnq (q : Seq) (f : FmtF) (s : State) : Out :=
  let try_ := f.sub % 2 == 1
  let k := queueIndex (s.ctxOf s.cur) (f.imm16 % 4096)
  let said (t : State) : State :=
    let sl := t.slotAt s.cur.sk
    if s.canIssue s.cur && !s.cur.fw && (s.queueAt k).state == 0 && s.readDesc k == some none && sl.stop == some s.cyc
        && bitsAt (sl.ctlr 0x60) 7 0 == 0x13 + 64 * engCode s.cur.eng then t.health { code := 0x23, ctx := s.ctxOf s.cur }
    else t
  match wordIssue (.enq q f) q ([.s f.dst, .s f.oa] ++ if try_ then [.cf] else [])
    (fun s =>
      if s.writesBefore s.cur s.nextId then .wait
      else consuming s [f.oa] (
        match s.towerAddr (s.sv f.oa) true 0 with
        | .error i => .fault 0x09 i
        | .ok a =>
          match towerRange s a 64 with
          | .error i => .fault 0x09 i
          | .ok key =>
            let ctx := s.ctxOf s.cur
            let k := queueIndex ctx (f.imm16 % 4096)
            let desc := if (s.queueAt k).state = 0 then (s.readDesc k).bind id else some (s.queueAt k)
            if a.off % 64 ≠ 0 then .fault 0x0B (BitVec.ofNat 64 a.prog)
            else match (if ctx = 0 then none else desc) with
              | none => .fault 0x13 (BitVec.ofNat 64 a.prog)
              | some c =>
                let cfs (b : Bool) : List Write := if try_ then [.cf b] else []
                let (d, t) := s.freeNat
                if !s.served a.col key then .wait
                else if !s.enqRoom k c then (if try_ then .go { st := t, lat := 1 + d % 18, writes := .s f.dst {} :: cfs false } else .wait)
                else .go { st := t.checkRead key 64, lat := 1 + d % 18, writes := .s f.dst {} :: cfs true,
                           pend := .enq k (s.readRun ((List.range 64).map fun i => key + i)) })) s with
  | .next t => .next (said t)
  | r => r

end Sys2Proof.Machine
end

