-- ==== Sys2Proof/Machine/Context.lean ====
section
/-! DEFINITION. Contexts (ch. 16): creation, switching out and in with the tower image (R406–R411, R418–R422), and teardown
(R423–R425). A command's event finds its context in `State.subject`: plus 2^16 where the device started the teardown, plus 2^17 where its effect
begins. -/

namespace Sys2Proof.Machine

/-! ### The context record (R406–R408) -/

namespace State

/-- Words of a context record hold nothing but what R407 lists. -/
def recordBad (c : Nat) (w : Nat → Nat) : Bool :=
  let only (n hi lo : Nat) : Bool := w n % 2 ^ lo == 0 && decide (w n < 2 ^ (hi + 1))
  w 0 / 16 % 2 ^ 12 != 0 || w 0 / 2 ^ 16 != c
    || !(only 1 51 12 && only 2 51 12 && only 3 51 12 && only 4 51 12 && only 6 51 6 && only 8 51 24 && only 10 51 26 && only 11 51 12)
    || nbits (w 5) 11 5 != 0 || decide (2 ^ 52 ≤ w 5) || decide (w 5 % 32 < 10 ∨ 20 < w 5 % 32)
    || w 7 == 0 || decide (65535 < w 7) || w 9 == 0 || decide (65535 < w 9)
    || (List.range 4).any (fun n => w (12 + n) != 0) || (List.range 16).any (fun n => w (48 + n) != 0)

/-- The context columns of a root budget with their physical columns. -/
def mapped (v : Context) : List (Nat × Nat) :=
  (List.range 256).filterMap fun c => if v.rootCols.testBit c then (v.colmap[c]?).map fun p => (c, p) else none

/-- No value stands twice. -/
def distinctList (l : List Nat) : Bool := (distinct l).length == l.length

/-- The record of a context as it stands; an ERR where it breaks R407, R408 or R442. -/
def readContext (s : State) (c : Nat) : Except Nat Context :=
  let a := s.load (bitsAt (s.devr 0x152) 51 19 * 2 ^ 19 + 8 * c) 8
  let w (n : Nat) : Nat := s.load (a + 8 * n) 8
  if c = 0 ∨ a = 0 ∨ a % 512 ≠ 0 ∨ !farNamed a ∨ (List.range 64).any (fun n => s.poisoned (a + 8 * n)) ∨ recordBad c w then .error 3
  else
    let door := w 11
    let clash := s.ctxs.any fun r => r.1 != c && r.2.state != 0 && r.2.doorbell == door
    let v : Context :=
      { record := a, ptroot := w 1, handles := w 2, graph := w 3, queues := w 4, journal := w 5 / 4096 * 4096, jlog2 := w 5 % 32,
        regions := w 6, nodes := w 7, savearea := w 8, saveframes := w 9, towerimg := w 10, doorbell := door,
        colmap := (List.range 256).map fun n => (Memory.read s.mem (a + 128 + n)).toNat }
    let root := ((if (s.regionPoison v 1 0).isSome then none else (s.region v 1 0).1)).getD {}
    let v := { v with rootCols := root.cols, rootTower := root.tower }
    if door % 32768 ≠ 0 ∨ 2 ^ 31 ≤ door ∨ clash ∨ !distinctList ((mapped v).map fun m => m.2) then .error 3 else .ok v

/-- Every mapped column is Enabled or Hosting and holds exactly one valid window of the context, of the root's size (R411). -/
def windowsFit (s : State) (c : Nat) (v : Context) : Bool :=
  (mapped v).all fun m =>
    let ws := (List.range 4).filter fun n => twinFor (s.twin m.2 n) c
    (s.colAt m.2).state == 0 && ws.length == 1 && ws.all fun n => (windowOf (s.twin m.2 n)).size == v.rootTower * 8192

/-- A context takes a state, which is written into bits [3:0] of word 0 of its record (R407, R409). -/
def enterState (s : State) (c st : Nat) : State :=
  let v := s.ctxAt c
  (s.setCtx c { v with state := st }).farStore v.record 1 (s.load v.record 1 / 16 * 16 + st)

/-- A command of CTXCMD ends with an ERR (R410, R411). -/
def ctxAnswer (s : State) (c err : Nat) : State := { s with ctxLast := c, ctxErr := err }

/-- The windows of a context: context column, physical column, window register (R411). -/
def ctxWindows (s : State) (c : Nat) : List (Nat × Nat × Nat) :=
  (mapped (s.ctxAt c)).filterMap fun m => (s.lowestWin m.2 c).map fun n => (m.1, m.2, n)

/-- The sum slots of a window are cleared in its 16 towers (R321). -/
def clearSums (s : State) (col win : Nat) : State :=
  (List.range 16).foldl (fun s t =>
    let v := s.towerAt (col * 16 + t)
    if v.sums.any fun r => r.1 / 16 == win then s.setTower (col * 16 + t) { v with sums := v.sums.filter fun r => r.1 / 16 != win } else s) s

/-- A window's bytes are zeroed in its 16 towers, with their poison, and its sum slots cleared (R409, R425, R479). -/
def zeroWindow (s : State) (col win : Nat) : State :=
  let w := windowOf (s.twin col win)
  let inW (k : Nat) : Bool := decide (towerBase ≤ k) && keyTower k / 16 == col && decide (w.base ≤ (k - towerBase) % 2 ^ 22 ∧ (k - towerBase) % 2 ^ 22 < w.base + w.size)
  ({ s with mem := s.mem.filter (fun x => !inW x.1), poison := s.poison.filter (fun k => !inW k), bitErrs := s.bitErrs.filter fun e => !inW e.1 }).clearSums col win

/-! ### The tower image (R418–R421) -/

/-- Parts of a context's windows that lie in one page of the image each: virtual address, memory key, bytes (R419). -/
def imageParts (s : State) (c : Nat) : List (Nat × Nat × Nat) :=
  (s.ctxWindows c).flatMap fun x =>
    let w := windowOf (s.twin x.2.1 x.2.2)
    (List.range 16).flatMap fun t => (List.range ((w.size + 65535) / 65536)).map fun i =>
      ((s.ctxAt c).towerimg + x.1 * 2 ^ 26 + t * 2 ^ 22 + 65536 * i, towerKey x.2.1 t (w.base + 65536 * i), min 65536 (w.size - 65536 * i))

/-- Steps that each may wait for a page are made in order up to the first that waits; the number of those made. -/
def inOrder {α : Type} (f : State → α → Tr × State) (done : Nat) : List α → State → Tr × Nat × State
  | [], s => (.ok 0, done, s)
  | a :: t, s =>
    match f s a with
    | (.ok _, s) => inOrder f (done + 1) t s
    | (r, s) => (r, done, s)

/-- A part of a tower is written to the image: a poisoned word makes its whole access fail its check (R284, R418). -/
def writePart (s : State) (c : Nat) (x : Nat × Nat × Nat) : Tr × State :=
  match s.translate 0 c (x.1 / 65536 * 65536) 1 6 (.image c) with
  | (.ok pa, s) =>
    let a := pa + x.1 % 65536
    let n := x.2.2
    let out (k : Nat) : Bool := decide (k < a ∨ a + n ≤ k)
    let s := s.checkRead x.2.1 n
    let bad := s.poison.filter fun k => decide (x.2.1 ≤ k ∧ k < x.2.1 + n)
    let words := bad.flatMap fun k =>
      let u := markUnit a
      let b := (k - x.2.1 + a) / u * u
      (List.range (u / 8)).map fun i => b + 8 * i
    (.ok 0, { s with mem := swapCells s.mem x.2.1 a n false, poison := words.foldl State.insertKey (s.poison.filter out),
                     hbmMeta := s.hbmMeta.filter fun r => out r.1, hbmCheck := s.hbmCheck.filter fun r => out r.1 })
  | r => r

/-- A part of the image is read back into a tower with its poison (R421). -/
def readPart (s : State) (c : Nat) (x : Nat × Nat × Nat) : Tr × State :=
  match s.translate 0 c (x.1 / 65536 * 65536) 0 6 (.image c) with
  | (.ok pa, s) =>
    let a := pa + x.1 % 65536
    let s := (s.hbmCheck.filter fun r => decide (a / 64 * 64 ≤ r.1 ∧ r.1 < a + x.2.2)).foldl (fun (s : State) r => s.renewCheck r.1) s
    let bad := s.poison.filter fun k => decide (a ≤ k ∧ k < a + x.2.2)
    let s := s.noteFailed bad
    (.ok 0, { s with mem := swapCells s.mem a x.2.1 x.2.2 false, bitErrs := s.bitErrs.filter (fun e => decide (e.1 < x.2.1 ∨ x.2.1 + x.2.2 ≤ e.1)), poison := swapMarks s.poison a x.2.1 x.2.2 false })
  | r => r

/-- The 64 bytes that image a sum slot (R419). -/
def sumBytes (x : SumSlot) : List Nat :=
  let f := (BitVec.ofInt 320 x.sum).toNat
  (List.range 40).map (fun i => f / 256 ^ i % 256) ++ [x.nan.toNat + 2 * x.pinf.toNat + 4 * x.ninf.toNat + 8 * x.ovr.toNat] ++ List.replicate 23 0

/-- The sum slot that 64 bytes image. -/
def sumOf (l : List Nat) : SumSlot :=
  let b := l.getD 40 0
  { sum := (BitVec.ofNat 320 (leOf l 40)).toInt, nan := b.testBit 0, pinf := b.testBit 1, ninf := b.testBit 2, ovr := b.testBit 3 }

/-- The address at which the sum slots of a context column are imaged (R419). -/
def sumsAt (s : State) (c cc : Nat) : Nat := (s.ctxAt c).towerimg + 2 ^ 34 + cc * 2 ^ 14

/-- The sum slots of a window are written to the image. -/
def writeSums (s : State) (c : Nat) (x : Nat × Nat × Nat) : Tr × State :=
  let data := (List.range 16).flatMap fun t => (List.range 16).flatMap fun j =>
    sumBytes ((s.towerAt (x.2.1 * 16 + t)).sums.getD (16 * x.2.2 + j) {})
  s.writeVirt c (s.sumsAt c x.1) data 6 (.image c)

/-- The sum slots of a window are read back (R421). -/
def readSums (s : State) (c : Nat) (x : Nat × Nat × Nat) : Tr × State :=
  match s.readVirt c (s.sumsAt c x.1) 16384 0 6 (.image c) with
  | (.ok _, data, s) =>
    let bytes := data.map fun b => b.1
    let s := s.clearSums x.2.1 x.2.2
    (.ok 0, (List.range 256).foldl (fun s i =>
      let v := sumOf ((bytes.drop (64 * i)).take 64)
      if v = {} then s
      else
        let t := x.2.1 * 16 + i / 16
        s.setTower t { s.towerAt t with sums := (s.towerAt t).sums.put (16 * x.2.2 + i % 16) v }) s)
  | (r, _, s) => (r, s)

/-- The groups of a context that are neither saved nor gone, nor waiting for their first placement. -/
def stillOut (s : State) (c : Nat) : Bool :=
  s.groups.any fun r => r.2.ctx == c && (r.2.state.resident || r.2.state == .migrating)

/-- Other traffic may use the ports of some columns or the stacks: commands with far operands or operands there, transfers on their way, relayouts, and words
in flight in those columns (R420). -/
def imageTraffic (s : State) (cols : List Nat) : Bool :=
  (s.chans.any fun r => (r.2.inner.toList ++ r.2.queue).any fun c => (commandReach s c).2 || (commandReach s c).1.any cols.contains)
    || !s.farHeld.isEmpty || s.async.any (fun p => cols.contains (keyTower p.key / 16)) || s.jobs.any Job.moving
    || s.flights.any fun f => cols.contains f.at_.col

/-- Draining contexts whose groups are all Saved begin their image; its time is within R420's bound, which runs from the last save, while nothing else uses
those stacks and ports (R418, R420). -/
def planImages (s : State) : State :=
  (s.ctxs.filter fun r => r.2.state == 2 && !r.2.imaging).foldl (fun s r =>
    let cols := (mapped r.2).map fun m => m.2
    if s.stillOut r.1 then s
    else
    let from_ := r.2.savedFrom.getD s.cyc
    let s := if r.2.savedFrom.isSome then s else s.setCtx r.1 { r.2 with savedFrom := some s.cyc }
    if !s.portsDrained cols || s.jobs.any (fun j => j.ctx == r.1 && j.moving) || s.moves.any (fun m => m.ctx == r.1 && m.begun) then s
    else
      let w := r.2.rootTower * 8192
      let n := (List.range 4).foldl (fun m p => max m (cols.countP fun c => c / 64 == p)) 0
      let most := max (w / 4) (16 * w * n / 2926) + 2000
      let (d, s) := s.freeNat
      let d := if s.imageTraffic cols then d else d % max 1 (from_ + most - s.cyc)
      (s.setCtx r.1 { s.ctxAt r.1 with imaging := true, imaged := 0, savedFrom := none }).due (s.cyc + 1 + d) 20 .switchoutDrainComplete r.1) s

end State

/-! ### Commands (R409–R411, R418–R421) -/

/-- CREATE (R409–R411). -/
def execCreate (s : State) : Out :=
  let c := s.subject
  if !s.ctxBusy.isEmpty then .next (s.ctxAnswer c 1)
  else if (s.ctxAt c).state ≠ 0 then .next (s.ctxAnswer c 2)
  else match s.readContext c with
    | .error e => .next (s.ctxAnswer c e)
    | .ok v =>
      if !s.windowsFit c v then .next (s.ctxAnswer c 4)
      else
        let s := (s.setCtx c v).enterState c 1
        let s := (s.ctxWindows c).foldl (fun s x => s.zeroWindow x.2.1 x.2.2) s
        .next (s.ctxAnswer c 0)

/-- A Live context begins to switch out: its groups are pre-empted, and placements and admissions stop (R418). -/
def State.switchOut (s : State) (c : Nat) : State :=
  let s := s.enterState c 2
  let s := { s with ctxBusy := s.ctxBusy ++ [c] }
  (s.groups.filter fun r => r.2.ctx == c && r.2.state.resident).foldl (fun s r => s.preemptGroup r.1 false) s

/-- SWITCHOUT (R411, R418). -/
def execSwitchout (s : State) : Out :=
  let c := s.subject
  if !s.ctxBusy.isEmpty then .next (s.ctxAnswer c 1)
  else if (s.ctxAt c).state ≠ 1 then .next (s.ctxAnswer c 2)
  else .next ((s.switchOut c).ctxAnswer c 0)

/-- SWITCHOUT_DRAIN_COMPLETE: the image is written, window by window, the windows go, and the context is Parked (R418, R420). A refused
page is reported every 2^20 cycles (R434). -/
def execSwitchoutDrainComplete (s : State) : Out :=
  let c := s.subject
  let v := s.ctxAt c
  if v.state ≠ 2 ∨ !v.imaging ∨ s.attached (.image c) then .next s
  else match s.inOrder (fun s x => s.writePart c x) v.imaged ((s.imageParts c).drop v.imaged) with
    | (.ok _, n, s) =>
      (match s.inOrder (fun s x => s.writeSums c x) 0 (s.ctxWindows c) with
        | (.ok _, _, s) =>
          let s := (s.ctxWindows c).foldl (fun s x =>
            let col := s.colAt x.2.1
            s.setCol x.2.1 (col.setCtl (0x121 + x.2.2) (setBits (col.ctlr (0x121 + x.2.2)) 63 63 0))) s
          let s := (s.setCtx c { s.ctxAt c with imaging := false }).enterState c 3
          .next { s with ctxBusy := s.ctxBusy.filter (· != c) }
        | (r, _, s) => .next (wait r c (s.setCtx c { s.ctxAt c with imaged := n })))
    | (r, n, s) => .next (wait r c (s.setCtx c { s.ctxAt c with imaged := n }))
where
  /-- The image waits for a page. -/
  wait (r : Tr) (c : Nat) (s : State) : State :=
    match r with
    | .refused => (s.health { code := 0x24, ctx := c }).due (s.cyc + 2 ^ 20) 20 .switchoutDrainComplete c
    | .full => s.due (s.cyc + 1) 20 .switchoutDrainComplete c
    | _ => s

/-- A Parked context begins to switch in: its record is read again and checked, and its image is restored; or an ERR (R411, R421). -/
def State.switchIn (s : State) (c : Nat) : Except Nat State :=
  let old := s.ctxAt c
  match s.readContext c with
  | .error e => .error e
  | .ok v =>
    if !s.windowsFit c v then .error 4
    else
      let v := { v with frames := old.frames, counters := old.counters, nextSeq := old.nextSeq, badPages := old.badPages }
      let s := (s.setCtx c v).enterState c 4
      let (d, s) := s.freeNat
      .ok ({ s with ctxBusy := s.ctxBusy ++ [c] }.due (s.cyc + 1 + d) 20 .switchinRestoreComplete c)

/-- SWITCHIN (R411, R421). -/
def execSwitchin (s : State) : Out :=
  let c := s.subject
  if !s.ctxBusy.isEmpty then .next (s.ctxAnswer c 1)
  else if (s.ctxAt c).state ≠ 3 then .next (s.ctxAnswer c 2)
  else match s.switchIn c with
    | .error e => .next (s.ctxAnswer c e)
    | .ok s => .next (s.ctxAnswer c 0)

/-- SWITCHIN_RESTORE_COMPLETE: the windows hold the image again; Saved groups are queued at the head of their level, relayout jobs go on, and the
context is Live (R421). -/
def execSwitchinRestoreComplete (s : State) : Out :=
  let c := s.subject
  let v := s.ctxAt c
  if v.state ≠ 4 ∨ s.attached (.image c) then .next s
  else match s.inOrder (fun s x => s.readPart c x) 0 (s.imageParts c) with
    | (.ok _, _, s) =>
      (match s.inOrder (fun s x => s.readSums c x) 0 (s.ctxWindows c) with
        | (.ok _, _, s) =>
          let s := s.enterState c 1
          let s := { s with ctxBusy := s.ctxBusy.filter (· != c) }
          let s := (s.groups.filter fun r => r.2.ctx == c && r.2.state == .saved).foldl (fun s r =>
            s.setGroup r.1 { r.2 with state := .queued, atTail := false, queuedAt := s.cyc }) s
          .next (s.homeJobs c).relayTurns
        | (r, _, s) => .next (wait r c s))
    | (r, _, s) => .next (wait r c s)
where
  /-- The restore waits for a page. -/
  wait (r : Tr) (c : Nat) (s : State) : State :=
    match r with
    | .refused => (s.health { code := 0x24, ctx := c }).due (s.cyc + 2 ^ 20) 20 .switchinRestoreComplete c
    | .full => s.due (s.cyc + 1) 20 .switchinRestoreComplete c
    | _ => s

/-! ### Teardown (R423–R425) -/

namespace State

/-- The context of an event that a teardown discards with the context's jobs, pages and image. -/
def eventCtx : Instr → Option Nat
  | .relayoutTileMoving c _ | .relayoutTileNew c _ | .relayoutTileRetry c _ | .relayoutComplete c _ | .migrationComplete c _ => some c
  | _ => none

/-- The record of a packet of a dead context becomes Abandoned as soon as the journal's page, and the ring's where the packet's type is not known, are
there (R388, R403, R434). -/
def writeOrphan (s : State) (o : Orphan) : State :=
  let put (s : State) (typ status node flags : Nat) : State :=
    match s.journal o.ctx o.seqno (recordWord1 (o.queue % 4096) typ 5 status o.count node flags) 0 (.queue o.queue) with
    | (.ok _, s) => { s with orphans := s.orphans.erase o }
    | (_, s) => s
  if s.attached (.queue o.queue) then s
  else match o.known with
    | some (typ, status, node, flags) => put s typ status node flags
    | none => match s.readVirt o.ctx o.va 64 0 3 (.queue o.queue) with
      | (.ok _, data, s) =>
        let p : Packet := { words := wordsOf (data.map fun b => b.1) }
        put s p.typ 0 p.node 0
      | (.refused, _, s) => put s 0 0 0 0
      | (_, _, s) => s

/-- The records that teardowns still have to write (R388). -/
def planOrphans (s : State) : State := s.orphans.foldl writeOrphan s

/-- The packets of a queue whose records are not final. -/
def packetsLeft (k : Nat) (q : FQueue) : List Orphan :=
  let va (n : Nat) : Nat := q.ring + 64 * (n % 2 ^ q.log2)
  (q.cur.map fun (p : Packet) => (⟨k / 4096, k, p.seqno, p.count, va p.count, some (p.typ, 0, p.node, p.flags)⟩ : Orphan)).toList
    ++ q.seqs.zipIdx.map fun n =>
      let count := (q.wptr + 2 ^ 48 - q.seqs.length + n.2) % 2 ^ 48
      ⟨k / 4096, k, n.1, count, va count, none⟩

/-- The records of a context that are not final become Abandoned, its launches Aborted and its queues Undefined (R388, R423). A record whose page is not
resident is written when it is, and Free waits for it. DEDUCED (log 80). -/
def endQueues (s : State) (c : Nat) : State :=
  let s := (s.fqueues.filter fun r => r.1 / 4096 == c).foldl (fun s r =>
    let s := { s with orphans := s.orphans ++ packetsLeft r.1 r.2 }.releaseSlot r.1
    (s.setQueue r.1 {}).writeDesc r.1) s
  let s := (s.launches.filter fun r => r.2.ctx == c).foldl (fun s r =>
    match r.2.state with
    | .retired | .failed | .aborted => s.setLaunch r.1 { r.2 with signal := (0, 0, 0) }
    | _ =>
      let own := (r.2.packet.map fun p => (⟨c, queueIndex c p.1, p.2, r.2.ridx, 0, some (1, 7, r.2.node, r.2.pflags)⟩ : Orphan)).toList
      { s with orphans := s.orphans ++ own }.setLaunch r.1
        { r.2 with state := .aborted, status := 7, pool := [], ending := none, signal := (0, 0, 0) }) s
  { s with fqueues := s.fqueues.filter fun r => r.1 / 4096 != c, returned := s.returned.filter fun k => k / 4096 != c }.planOrphans

/-- A requester of a context. -/
def Requester.of (s : State) (c : Nat) : Requester → Bool
  | .queue n => n / 4096 == c
  | .relay x _ => x == c
  | .image x => x == c
  | .launch l => ((s.launches.get? l).map fun v => v.ctx) == some c
  | .save g | .held g _ => ((s.groups.get? g).map fun v => v.ctx) == some c
  | _ => false

/-- The physical far pages that stores of a context's groups target on their way (R424). -/
def storePages (s : State) (c : Nat) : List Nat :=
  let own (k : Stream) : Bool := (s.groupOf k.sk).any fun g => g.2.ctx == c
  distinct ((s.stores.filter fun e => own e.by_).flatMap fun e => (e.pieces.filter fun p => decide (p.key < towerBase)).map fun p => p.key / 65536)

/-- The far pages that a teardown leaves in doubt: those that writes on their way target (`held` are those of stores), those whose poison its groups
consumed, and those of an image's parts that are not written yet (R424). -/
def leavePages (s : State) (c : Nat) (held : List Nat) : State :=
  let v := s.ctxAt c
  let img := if v.imaging then
      distinct ((((s.imageParts c).drop v.imaged).map fun x => x.1 / 65536) ++ (s.ctxWindows c).map fun x => s.sumsAt c x.1 / 65536)
    else []
  let mark (src : Nat) (s : State) (p : Nat) : State :=
    match s.walkPage 0 c (p * 65536) 0 with
    | (.leaf pa _, s) => s.residue c (pa / 65536 * 65536) src
    | (_, s) => s
  let own (w : FarWrite) : Bool := ((w.gid.bind s.groups.get?).map fun (v : Group) => v.ctx) == some c && !w.reached s 2
  let src (w : FarWrite) : Nat := if w.unit < 10 ^ 6 then 0 else if w.unit < 2 * 10 ^ 6 then 1 else 2
  let late := distinct ((s.farHeld.filter own).flatMap fun w => w.cells.map fun x => x.1 / 65536 * 4 + src w)
  let s := late.foldl (fun s p => s.residue c (p / 4 * 65536) (p % 4)) s
  let s := held.foldl (fun s p => s.residue c (p * 65536) 0) s
  let s := v.badPages.foldl (mark 0) s
  img.foldl (mark 6) s

/-- A teardown takes hold on every object of a context (R423, R424). -/
def tearDown (s : State) (c : Nat) : State :=
  let held := s.storePages c
  let s := (s.groups.filter fun r => r.2.ctx == c).foldl (fun s r =>
    if r.2.state = .retired ∨ r.2.state = .purged then s.dropAudit r.1 else s.purgeGroup r.1) s
  let s := { s with
    jobs := s.jobs.filter fun j => j.ctx != c
    arrivals := s.arrivals.filter fun a => a.ctx != c
    moves := s.moves.filter fun m => m.ctx != c
    purges := s.purges.filter fun p => p.1 != c
    evict := { s.evict with ctxs := s.evict.ctxs.filter (· != c),
                            gone := if s.evict.phase = 2 ∨ s.evict.phase = 3 then s.evict.gone ++ s.ctxPages c else s.evict.gone }
    agenda := s.agenda.filter fun (d : Due) => eventCtx d.ev != some c && !((d.ev == Instr.switchoutDrainComplete || d.ev == Instr.switchinRestoreComplete) && d.arg == c) }
  let s := s.leavePages c held
  let s := { s with
    pages := { s.pages with open_ := s.pages.open_.filter fun r => r.ctx != c || r.reason == 4,
                            fresh := s.pages.fresh.filter fun r => r.ctx != c, held := s.pages.held.filter fun r => r.ctx != c }
    hostWaits := s.hostWaits.filter fun w => !Requester.of s c w.1
    denied := s.denied.filter fun w => !Requester.of s c w.1 }
  let s := s.idFreed.endQueues c
  let s := { s with
    colls := s.colls.map fun (x : Contribution) => if x.ctx == c && !x.ended then { x with err := 4, reading := false, bar := 0 } else x }
  let s := (List.range 256).foldl (fun s p =>
    if ((s.colAt p).ctlr 0x113).toNat = c then
      let s := s.clearForeign p
      s.setCol p ((s.colAt p).setCtl 0x113 0)
    else s) s
  let s := (List.range 256).foldl (fun (s : State) p => (s.winsOf c p).foldl (fun s n => s.clearSums p n) s) s
  let s := (s.setCtx c { s.ctxAt c with imaging := false, savedFrom := none, frames := [], badPages := [] }).relayTurns
  let (d, s) := s.freeNat
  s.due (s.cyc + 1 + d) 850 .teardownComplete c

/-- Nothing of a context is in flight (R409): no word, store or command of a slot of its columns, or of a slot of an audit's replay, that no longer holds a
group, and no write of a channel or a relayout engine that may be its own. -/
def ctxQuiet (s : State) (c : Nat) : Bool :=
  let cols := (mapped (s.ctxAt c)).map fun m => m.2
  let own (unit pier : Nat) : Bool := match unitColumn unit with
    | some col => cols.contains col
    | none => cols.any fun col => col / 64 == pier
  let left (m n : Nat) : Bool := (s.slotAt (slotKey m n)).gid.isSome || s.slotClean m n
  (cols.all fun m => (List.range 4).all (left m))
    && s.groups.all (fun r => r.2.ctx != c || r.2.state != .purged || (r.2.audit.bind Audit.replayOf).isNone || left r.2.col r.2.slot)
    && !(s.orphans.any fun o => o.ctx == c) && !(s.async.any fun p => own p.unit (keyTower p.key / 1024)) && !(s.farHeld.any fun w => own w.unit w.pier)

end State

/-- TEARDOWN: accepted in any state from Live to Restoring; it takes hold in the next cycle (R411, R423). -/
def execTeardown (s : State) : Out :=
  let c := s.subject % 65536
  let st := (s.ctxAt c).state
  if s.subject / 2 ^ 17 = 1 then .next (s.tearDown c)
  else
    let own := decide (s.subject / 65536 = 1)
    if st = 0 ∨ st = 5 then .next (if own then s else s.ctxAnswer c 2)
    else
      let s := s.enterState c 5
      let s := if own then s else s.ctxAnswer c 0
      .next ({ s with ctxBusy := s.ctxBusy.filter (· != c) ++ [c] }.due (s.cyc + 1) 2 .teardown (c + 2 ^ 17))

/-- TEARDOWN_COMPLETE: once nothing of the context is in flight it is Free (R409, R423). -/
def execTeardownComplete (s : State) : Out :=
  let c := s.subject
  if (s.ctxAt c).state ≠ 5 then .next s
  else if !s.ctxQuiet c then .next (s.due (s.cyc + 1) 850 .teardownComplete c)
  else
    let s := s.enterState c 0
    .next { s with ctxs := s.ctxs.del c, ctxBusy := s.ctxBusy.filter (· != c),
                   pages := { s.pages with cache := s.pages.cache.filter fun e => e.ctx != c } }

end Sys2Proof.Machine
end

