-- ==== Sys2Proof/Machine/Health.lean ====
section
/-! DEFINITION. Health (ch. 19): purges (R472, R473), the firmware context's restart (R474), the retirement of groups with the replay
audit (R379, R475–R481), row sparing (R233–R235), retired columns and their remap (R88, R483, R484), and ageing (R485). -/

namespace Sys2Proof.Machine

/-! ### Purges (R472, R473) -/

/-- PURGE: a purge of a context and tag is accepted; one that is in progress takes it up (R472, R473). `State.subject` is 1 where the device
starts it (R471). -/
def execPurge (value : Nat) (s : State) : Out :=
  let c := value / 2 ^ 32 % 65536
  let tag := value % 65536
  let st := (s.ctxAt c).state
  if c = 0 ∨ st < 1 ∨ 4 < st then .next (if s.subject = 0 then { s with purgeErr := true } else s)
  else
    let s := if s.subject = 0 then { s with purgeErr := false } else s
    .next (if s.purges.any fun p => p.1 == c && p.2.1 == tag then s else { s with purges := s.purges ++ [(c, tag, 0)] })

namespace State

/-- The groups that a purge covers. -/
def purgeable (s : State) (c tag : Nat) : List (Nat × Group) :=
  s.groups.filter fun r => r.2.ctx == c && r.2.reqtag == tag && r.2.state != .retired && r.2.state != .purged

/-- The start of a cycle: groups of tags that are being purged are Purged (R472). -/
def purgeTick (s : State) : State :=
  s.purges.foldl (fun s p =>
    let gs := s.purgeable p.1 p.2.1
    let s := gs.foldl (fun (s : State) r => s.purgeGroup r.1) s
    s.countPurged p.1 p.2.1 gs.length) s

/-- A purge has acted, and nothing of its groups is in flight (R472). -/
def purgeDone (s : State) (p : Nat × Nat × Nat) : Bool :=
  decide (1 ≤ p.2.2) && (s.purgeable p.1 p.2.1).isEmpty &&
    s.groups.all fun r => r.2.ctx != p.1 || r.2.reqtag != p.2.1 || r.2.state != .purged || s.writesDone r.1 r.2

end State

/-- PURGE_COMPLETE: event 0x11 with the number of groups purged (R470, R472). -/
def execPurgeComplete (ctx tag : Nat) (s : State) : Out :=
  match s.purges.find? fun p => p.1 == ctx && p.2.1 == tag with
  | none => .next s
  | some p =>
    let s := s.health { code := 0x11, ctx := ctx, tag := tag, info := BitVec.ofNat 64 (p.2.2 - 1) }
    .next { s with purges := s.purges.filter fun q => !(q.1 == ctx && q.2.1 == tag) }

/-! ### The firmware context (R474, R493) -/

namespace State

/-- The streams of the firmware image: offset and length (R341, R493). -/
def fwStreams (s : State) : List (Nat × Nat) :=
  let f (o : Nat) : Nat := leOf (s.fwImage.drop o) 4
  [(f 16, f 20), (f 24, f 28), (f 32, f 36)]

/-- The firmware context of a column starts at the entry of its image, its registers and spill stores zero (R474). -/
def startFirmware (s : State) (col : Nat) : State :=
  let sk := slotKey col 4
  let l := s.fwStreams
  let s := (s.slotChans col 4).foldl dropChan s
  let s := { s with
    flights := s.flights.filter fun f => !ofSlot f col 4
    stores := s.stores.filter fun e => !(e.by_.col == col && e.by_.slot == 4 && e.sent.isNone)
    agenda := s.agenda.filter fun d => slotOfEvent d.ev != some (col, 4) }
  let s := s.setSlot sk { ctl := (s.slotAt sk).ctl }
  let len (n : Nat) : Nat := (l.getD n (0, 0)).2
  let base := [0, len 0, len 0 + len 1]
  let s := base.zipIdx.foldl (fun (s : State) (b : Nat × Nat) => s.setEng (sk * 3 + b.2) { base := b.1, len := len b.2 }) s
  (slotStreams col 4).foldl (fun s k => if (s.engAt k.ek).len = 0 then s else s.reachHeader k s.cyc) s

end State

/-- FWRST: the firmware context of a column starts again (R474). -/
def execFwrst (col : Nat) (s : State) : Out := .next (s.startFirmware col)

/-! ### Retirement and the audit (R379, R475–R481) -/

namespace State

/-- The header of an audited group's log slot (R476). -/
def auditHeader (s : State) (v : Group) (a : Audit) : State :=
  s.storeWords (bitsAt (s.devr 0x185) 51 18 * 2 ^ 18 + 2 ^ 18 * a.logSlot)
    [v.num + v.node * 2 ^ 48, v.ctx + v.reqtag * 2 ^ 16 + v.col * 2 ^ 32 + a.products * 2 ^ 40, a.sig % 2 ^ 64, a.sig / 2 ^ 64, 0, 0, 0, 0]

/-- The first column that may take the replay of a group, with a slot and its lowest-numbered valid window (R210, R479). -/
def replayColumn (s : State) (v : Group) : Option (Nat × Nat × Nat) :=
  let ctx := bitsAt (s.devr 0x186) 15 0
  let order := (List.range 256).map fun n => (n + (v.col / 64 + 1) * 64) % 256
  order.findSome? fun c =>
    if c = v.col ∨ (s.colAt c).state ≠ 0 then none
    else
      let wins := (List.range 4).filter fun n => twinFor (s.twin c n) ctx
      if !wins.any fun n => decide ((s.launchOf v).tower ≤ (windowOf (s.twin c n)).size) then none
      else wins.head?.bind fun w => ((List.range 4).find? fun n => s.slotFree c n).map fun n => (c, n, w)

end State

/-- GROUP_RETIRE: the group is Retired and its slot freed; an audited group's log header is written, and its replay awaits a column; a
replay's end has its signature compared (R361, R379, R476, R479, R481). -/
def execGroupRetire (g : Nat) (s : State) : Out :=
  match s.groups.get? g with
  | none => .next s
  | some v =>
    let s := (s.dropLease v.col v.slot).clearSlot v.col v.slot
    .next (match v.audit with
      | none => s.setGroup g { v with state := .retired }
      | some a =>
        match a.replayOf with
        | none =>
          let s := s.setGroup g { v with state := .retired, audit := some { a with since := s.cyc, site := s.colLoc v.col } }
          (s.auditHeader v a).due (s.cyc + 1) 20 (.auditReplayPlace g)
        | some _ => (s.setGroup g { v with state := .retired }).due s.cyc 960 (.auditCompare g))

/-- AUDIT_REPLAY_PLACE: the replay of an audited group is placed, its window zeroed, at priority 31, on the first column that qualifies, when
placements there are not held (R115, R210); until 2^20 cycles have passed without one the columns are looked at again (R479). -/
def execAuditReplayPlace (g : Nat) (s : State) : Out :=
  match s.groups.get? g with
  | none => .next s
  | some v =>
    match v.audit with
    | none => .next s
    | some a =>
      match s.replayColumn v with
      | none => .next (if a.since + 2 ^ 20 ≤ s.cyc then s.due s.cyc 20 (.auditNoColumn g) else s.due (s.cyc + 1) 20 (.auditReplayPlace g))
      | some (c, n, w) =>
        if !s.colOpen c (bitsAt (s.devr 0x186) 15 0) then .next (s.due (s.cyc + 1) 20 (.auditReplayPlace g)) else
        let id := s.nextId
        let r : Group := { ctx := v.ctx, lid := v.lid, node := v.node, num := v.num, reqtag := v.reqtag, region := { v.region with prio := 31 },
                           col := c, slot := n, ccol := v.ccol, queuedAt := s.cyc, hbind := v.hbind, sregs := v.sregs,
                           audit := some { logSlot := a.logSlot, replayOf := some g } }
        let s := { s with nextId := id + 1 }.setGroup id r
        let s := (s.zeroWindow c w).placeGroup id c n
        let sk := slotKey c n
        let s := s.setSlot sk ((s.slotAt sk).setCtl 0x120 (setBits ((s.slotAt sk).ctlr 0x120) 33 32 w))
        let (d, s) := s.freeNat
        .next (s.due (s.cyc + 1 + d) 18 (.codeStoreCopyComplete id))

/-- AUDIT_NO_COLUMN: no column has qualified within 2^20 cycles (R479). -/
def execAuditNoColumn (g : Nat) (s : State) : Out := .next (s.abandonAudit g 4 0)


/-- AUDIT_COMPARE: the signature of a replay is compared with the original's; on a mismatch the original's physical column enters Retiring, unless a remap
has taken it out of service before (R481, R483). -/
def execAuditCompare (g : Nat) (s : State) : Out :=
  match s.groups.get? g with
  | none => .next s
  | some r =>
    match r.audit with
    | none => .next s
    | some b =>
      match b.replayOf.bind fun o => (s.groups.get? o).map fun v => (o, v) with
      | none => .next s
      | some (o, v) =>
        match v.audit with
        | none => .next (s.setGroup g { r with audit := none })
        | some a =>
          let s := (s.setGroup o { v with audit := none }).setGroup g { r with audit := some { b with replayOf := some o } }
          let s := { s with auditor := { s.auditor with pending := s.auditor.pending - 1 } }
          if a.sig = b.sig then .next s
          else
            let s := { s with auditor := { s.auditor with mismatch := min 0xFFFF (s.auditor.mismatch + 1) } }
            let s := s.health { code := 0x18, ctx := v.ctx, tag := v.reqtag, loc := a.site, info := BitVec.ofNat 64 r.col }
            .next (if s.colLoc v.col = a.site then s.retireColumn v.col 3 else s)

/-- Replays that have faulted are purged, and their audits abandoned (R481). -/
def State.dropReplays (s : State) : State :=
  (s.groups.filter fun r => r.2.state == .faulted && (r.2.audit.bind Audit.replayOf).isSome).foldl (fun s r =>
    let code := bitsAt ((s.slotAt (slotKey r.2.col r.2.slot)).ctlr 0x060) 5 0
    let s := match r.2.audit.bind Audit.replayOf with
      | some o => s.abandonAudit o 3 code
      | none => s
    s.purgeGroup r.1) s

/-! ### Row sparing (R233–R235) -/

namespace State

/-- The good spare rows of a bank that hold no row: numbers 512 to 519 (R233). -/
def goodSpares (t : Tower) (bank : Nat) : List Nat :=
  (List.range 8).filterMap fun i =>
    if t.badSpares.contains (bank * 8 + i) || t.spares.any (fun r => r.1 / 512 == bank && r.2 == 512 + i) then none else some (512 + i)

/-- A tower falls to cell sparing: the spare cell of its course takes its number with rows and error counts of its own; when the course has no spare cell
left the column enters Retiring (R19, R234). DESIGN CHOICE (log 144): the spare takes the number at once, for the spec gives firmware's remap no register and
no time. -/
def cellSpare (s : State) (tower : Nat) : State :=
  let col := tower / 16
  let used := (List.range 4).any fun i => (s.towerAt (tower / 4 * 4 + i)).cellSpared
  let c := s.colAt col
  let s := s.setCol col (c.setCtl 0x126 (setBits (c.ctlr 0x126) 21 21 1))
  let s := s.health { code := 0x07, loc := s.cellLoc tower }
  let t := s.towerAt tower
  let s := s.setTower tower (if used then { t with spareNow := none }
    else { t with cellSpared := true, spareNow := none, spares := [], badSpares := [], errs := [] })
  let gs := s.groups.filter fun r => r.2.col == col && r.2.state.resident
  let s := gs.foldl (fun (s : State) r => s.preemptGroup r.1) s
  if used then s.retireColumn col 1 else s

/-- The first of some requested copies that finds a good spare starts; a request that finds none brings the tower to cell sparing (R233, R234). -/
def startCopies (tower : Nat) : List SpareReq → State → State
  | [], s => s.setTower tower { s.towerAt tower with spareReqs := [] }
  | r :: rest, s =>
    match (goodSpares (s.towerAt tower) r.bank).head? with
    | none => startCopies tower rest (s.cellSpare tower)
    | some sp =>
      let c := s.colAt (tower / 16)
      let s := s.setCol (tower / 16) (c.setCtl 0x126 (setBits (c.ctlr 0x126) 21 21 0))
      let s := s.setTower tower { s.towerAt tower with spareNow := some (r, sp), spareReqs := rest }
      let s := s.health { code := 0x04, loc := s.towerLoc tower r.bank r.row, info := BitVec.ofNat 64 r.cause }
      let (d, s) := s.freeNat
      let (x, s) := s.freeNat
      s.due (s.cyc + 1 + d) 20 (.rowSpareCopyVerify tower (x % 2 == 0))

/-- The next requested copy of a tower starts, when none runs (R233). -/
def startSpare (s : State) (tower : Nat) : State :=
  if (s.towerAt tower).spareNow.isSome then s else startCopies tower (s.towerAt tower).spareReqs s

end State

/-- ROWSPARE with START: a copy of a row is queued (R233, R235). -/
def execRowspareStart (col value : Nat) (s : State) : Out :=
  let tower := col * 16 + value / 2 ^ 17 % 16
  let t := s.towerAt tower
  let s := s.setTower tower { t with spareReqs := t.spareReqs ++ [⟨value / 2 ^ 13 % 16, value / 16 % 512, 2⟩] }
  .next (s.startSpare tower)

/-- ROW_SPARE_COPY_VERIFY: the copy is verified and the spare takes the row, or the spare shows an error, is marked bad, and the copy starts again on the
next one; with 1 in `subject`, a copy that an error asked for starts (R233). A row that leaves a spare leaves it bad. -/
def execRowSpareCopyVerify (tower : Nat) (good : Bool) (s : State) : Out :=
  let t := s.towerAt tower
  if s.subject = 1 then .next (s.startSpare tower)
  else match t.spareNow with
  | none => .next s
  | some (r, sp) =>
    if good then
      let loc := s.towerLoc tower r.bank r.row
      let was := (t.spares.get? (r.bank * 512 + r.row)).toList.map fun o => r.bank * 8 + (o - 512)
      let s := s.setTower tower { t with spares := t.spares.put (r.bank * 512 + r.row) sp, badSpares := t.badSpares ++ was, spareNow := none }
      let b := s.bankAt tower r.bank
      let s := s.setBank tower r.bank { b with restored := b.restored.put sp s.cyc }
      let s := s.health { code := 0x05, loc := loc, info := BitVec.ofNat 64 sp }
      .next (s.startSpare tower)
    else
      let s := s.setTower tower { t with badSpares := t.badSpares ++ [r.bank * 8 + (sp - 512)] }
      let s := s.health { code := 0x06, loc := s.towerLoc tower r.bank r.row, info := BitVec.ofNat 64 sp }
      .next (match (State.goodSpares (s.towerAt tower) r.bank).head? with
        | none => (s.cellSpare tower).startSpare tower
        | some n =>
          let s := s.setTower tower { s.towerAt tower with spareNow := some (r, n) }
          let (d, s) := s.freeNat
          let (x, s) := s.freeNat
          s.due (s.cyc + 1 + d) 20 (.rowSpareCopyVerify tower (x % 2 == 0)))

/-! ### Retired columns (R88, R483, R484) -/

/-- The groups of Retiring columns are pre-empted (R88). -/
def State.planRetiring (s : State) : State :=
  (s.cols.filter fun r => r.2.state == 3).foldl (fun s r =>
    (s.groups.filter fun g => g.2.col == r.1 && g.2.state.resident).foldl (fun (s : State) g => s.preemptGroup g.1) s) s

/-- COLUMN_RETIRED: no resident group remains in a Retiring column (R88). -/
def execColumnRetired (col : Nat) (s : State) : Out :=
  let c := s.colAt col
  .next (if c.state = 3 then s.setCol col { c with state := 4 } else s)

/-- REMAP with GO: the copy of a Retired column's site to a spare site starts, or is refused (R484). -/
def execRemapGo (value : Nat) (s : State) : Out :=
  let col := value / 2 ^ 12 % 256
  let sp := value / 2 ^ 20 % 4
  if (s.colAt col).state ≠ 4 ∨ !(s.freeSpares (col / 64)).contains (64 + sp) ∨ s.remapping.isSome then .next { s with remapErr := true }
  else
    let s := s.setCol col { s.colAt col with state := 5 }
    let (d, s) := s.freeNat
    .next ({ s with remapErr := false, remapping := some (col, sp) }.due (s.cyc + 1 + d % 67536) 20 .remapComplete)

namespace State

/-- A cell entry of the remap area for the site of a column (R486): the cell is replaced by the spare cell of its course. -/
def applyCell (col : Nat) (s : State) (e : Nat) : State :=
  let cell := nbits e 50 48
  let tower := col * 16 + nbits e 52 51 * 4 + cell
  if cell < 4 then s.setTower tower { s.towerAt tower with cellSpared := true } else s

/-- A row entry or a failed course of the remap area for the site of a column (R486). Physical cell 4 is the spare of its course; a row of a cell
that has been replaced is in no tower. -/
def applyRow (col : Nat) (s : State) (e : Nat) : State :=
  let course := nbits e 52 51
  let cell := nbits e 50 48
  let towers := (List.range 4).map fun i => col * 16 + course * 4 + i
  if nbits e 63 62 = 3 then
    let c := s.colAt col
    s.setCol col (c.setCtl 0x110 (setBits (c.ctlr 0x110) (12 + course) (12 + course) 1))
  else match towers.find? fun t => if (s.towerAt t).cellSpared then decide (cell = 4) else decide (t % 4 = cell) with
    | none => s
    | some t =>
      let v := s.towerAt t
      let bank := nbits e 47 44
      let row := nbits e 43 34
      let target := nbits e 29 20
      if row = target then s.setTower t { v with badSpares := v.badSpares.filter (· != bank * 8 + (row - 512)) ++ [bank * 8 + (row - 512)] }
      else s.setTower t { v with spares := v.spares.put (bank * 512 + row) target }

/-- The entries of the remap area for the site that holds a column number are applied: cells, then rows and failed courses in the order they are
stored (R232, R486). -/
def applySite (s : State) (col : Nat) : State :=
  let l := s.remapTable.filter fun e => nbits e 61 60 == col / 64 % 4 && nbits e 59 53 == s.sites.getD col (col % 64)
  let s := (l.filter fun e => nbits e 63 62 == 1).foldl (applyCell col) s
  (l.filter fun e => nbits e 63 62 == 0 || nbits e 63 62 == 3).foldl (applyRow col) s

end State

/-- REMAP_COMPLETE: the spare holds the number, with the towers, sum slots and TWIN0–TWIN3 of the site; everything else of the column is the
spare's own; a spare that the number leaves has failed, and what the remap
area says of the new site's rows, cells and courses holds (R17, R88, R232, R483, R484). -/
def execRemapComplete (s : State) : Out :=
  match s.remapping with
  | none => .next s
  | some (col, sp) =>
    let ctl := (s.colAt col).ctl.filter fun r => decide (0x121 ≤ r.1 ∧ r.1 ≤ 0x124)
    let old := s.sites.getD col (col % 64)
    let s := { s with remapping := none, sites := s.sites.put col (64 + sp),
                      failedSites := if old < 64 then s.failedSites else s.failedSites ++ [col / 64 * 128 + old] }
    let s := (s.clearMatrix col).setCol col { ctl := ctl }
    let s := (List.range 16).foldl (fun (s : State) t => s.setTower (col * 16 + t) { sums := (s.towerAt (col * 16 + t)).sums, queue := (s.towerAt (col * 16 + t)).queue }) s
    let s := (List.range 4).foldl (fun (s : State) n => s.setSlot (slotKey col n) {}) s
    let s := { s with agenda := s.agenda.filter fun d => match d.ev with
      | .backgroundRefresh t | .forcedRefresh t _ _ | .rowOperationEnd t _ => t / 16 != col
      | _ => true }
    let s := (s.applySite col).startFirmware col
    .next (s.health { code := 0x09, loc := s.colLoc col, info := BitVec.ofNat 64 sp })

/-! ### Ageing (R485) -/

/-- The location word of a course of a site (R468); `site` is pier × 128 + physical column. -/
def siteLoc (site course : Nat) : Nat := site / 128 * 2 ^ 56 + site % 128 * 2 ^ 49 + course * 2 ^ 47

/-- The monitors of a course, as AGESEL numbers it, show a margin; event 0x0C is written when it falls below the threshold (R485). -/
def State.marginAt (s : State) (key margin : Nat) : State :=
  let (old, low) := s.ages.getD key (0xFFFF, 0xFFFF)
  let m := min margin 0xFFFF
  let thr := bitsAt (s.devr 0x188) 47 32
  let s := { s with ages := s.ages.put key (m, min low m) }
  if m < thr ∧ thr ≤ old then s.health { code := 0x0C, loc := siteLoc (key / 512 * 128 + key / 4 % 128) (key % 4), info := BitVec.ofNat 64 m } else s

/-- AGEING_MARGIN_LOW: the monitors of a course report a margin (R485). -/
def execAgeingMarginLow (site course margin : Nat) (s : State) : Out :=
  .next (s.marginAt (site / 128 * 512 + site % 128 * 4 + course % 4) margin)

end Sys2Proof.Machine
end

