-- ==== Sys2Proof/Machine/Link.lean ====
section
/-! DEFINITION. The Ubcia link and the host (R441–R447): the host's accesses through the aperture, messages from the host, and the states of the
link. -/

namespace Sys2Proof.Machine

namespace State

/-- The limit of the link and of the ports' training, in cycles (R444, R446, R451). -/
def linkLimit (s : State) : Nat := bitsAt (s.devr 0x172) 31 16 * 2 ^ 20

/-! ### The host's accesses (R441, R442, R445) -/

/-- The stream in whose place the host writes registers: firmware of column 0. -/
def hostStream : Stream := ⟨0, 4, .a⟩

/-- The aperture offset of the register window, of the message port, and of what follows it (R441). -/
def windowAt : Nat := 2 ^ 39 + 2 ^ 31
def portAtHost : Nat := 2 ^ 39 + 2 ^ 31 + 2 ^ 20

/-- The registers that the register window covers (R441): those of this chapter and of the page chapter, and the four of R492. -/
def windowCovers (c : Nat) : Bool :=
  decide (0x160 ≤ c ∧ c ≤ 0x167) || (decide (0x170 ≤ c ∧ c ≤ 0x17C) && c != 0x17A) || decide (0x190 ≤ c ∧ c ≤ 0x193)

/-- Doorbells, messages and register writes are refused from Streaming on (R467). -/
def streamingOn (s : State) : Bool := decide (3 ≤ s.evict.phase ∧ s.evict.phase ≤ 5)

/-- An answer goes to the host. -/
def answer (s : State) (l : List Nat) (error : Bool := false) : State := { s with answers := s.answers ++ [⟨l, error⟩] }

/-- A rejected input of the host (R470). -/
def rejected (s : State) (why : Nat) : State := s.health { code := 0x23, info := BitVec.ofNat 64 why }

/-- The link refuses the host's requests (R444), or the register window is closed (R441). -/
def hostRefused (s : State) (offset : Nat) : Bool :=
  s.link.state == 4 || s.link.state == 5 ||
  (decide (windowAt ≤ offset ∧ offset < portAtHost) && bitsAt (s.devr 0x172) 2 2 == 0)

/-- The bytes of local HBM that an aperture offset names lie on a quarantined page (R436, R441). -/
def hostQuarantined (s : State) (offset : Nat) : Bool :=
  decide (offset < hbmBytes) && s.quarState (offset / 65536) != 0

/-- The byte of the register window at an offset within it. -/
def windowByte (s : State) (o : Nat) : Nat :=
  if windowCovers (o / 8) then (s.ctlRead hostStream (o / 8)).toNat / 256 ^ (o % 8) % 256 else 0

/-- The context whose doorbell block holds an offset of the doorbell region (R442). -/
def doorbellCtx (s : State) (d : Nat) : Option Nat :=
  (s.ctxs.find? fun r => r.2.state != 0 && r.2.doorbell == d / 32768 * 32768).map fun r => r.1

/-- A doorbell is written (R386). -/
def ring (s : State) (queue v : Nat) : State :=
  if v / 2 ^ 48 % 2 ^ 14 ≠ 0 then s.health { code := 0x23, ctx := queue / 4096, info := 1 }
  else match v / 2 ^ 62 % 4 with
    | 0 => s.due s.cyc 700 (.doorbellAdvance queue (v % 2 ^ 48))
    | 1 => s.due s.cyc 700 .doorbellHalt queue
    | 2 => s.due s.cyc 700 .doorbellResume queue
    | _ => s.due s.cyc 700 .doorbellReset queue

/-- A register of the window is written by the host; a value that R9 refuses is answered as an error. -/
def windowWrite (s : State) (c v : Nat) : State :=
  if !windowCovers c then s.rejected 3
  else match s.ctlBad hostStream c (BitVec.ofNat 64 v) with
    | some _ => s.answer [] true
    | none => s.ctlSchedule hostStream c (BitVec.ofNat 64 v)

/-- A register's value with some bytes replaced; bits that a written one would clear are zero elsewhere. -/
def windowMerge (s : State) (c o : Nat) (data : List Nat) : Nat :=
  let old := (s.ctlRead hostStream c &&& ~~~(BitVec.ofNat 64 (w1cMask c))).toNat
  ((List.range 8).map fun i => if o ≤ i ∧ i < o + data.length then data.getD (i - o) 0 * 256 ^ i else old / 256 ^ i % 256 * 256 ^ i).sum

/-- The 64-bit value of an 8-byte write. -/
def wordOf (data : List Nat) : Nat := ((List.range 8).map fun i => data.getD i 0 % 256 * 256 ^ i).sum

/-- The writes to the register window of an access: one for each register that it touches. -/
def windowWrites (s : State) (o : Nat) (data : List Nat) : State :=
  if data.length < 8 then s.windowWrite (o / 8) (s.windowMerge (o / 8) (o % 8) data)
  else (List.range (data.length / 8)).foldl (fun s i => s.windowWrite (o / 8 + i) (wordOf (data.drop (8 * i)))) s

/-- A write to the message port: words 2 and 1 are held, and word 0 sends (R443). -/
def messagePort (s : State) (o : Nat) (data : List Nat) : State :=
  (List.range (data.length / 8)).foldl (fun s i =>
    let v := wordOf (data.drop (8 * i))
    match o + 8 * i with
    | 16 => { s with link := { s.link with word2 := v } }
    | 8 => { s with link := { s.link with word1 := v } }
    | 0 => s.due s.cyc 610 (.hostMessage v) (s.link.word2 * 2 ^ 64 + s.link.word1)
    | _ => s.rejected 3) s

end State

/-- Training holds a request of the host (R444). -/
def State.holdHost (s : State) (i : Instr) : State := { s with link := { s.link with held := s.link.held ++ [i] } }

/-- The requests that training held come in the order in which the link unit received them, ahead of later ones (R445). -/
def State.releaseHost (s : State) : State :=
  { s with link := { s.link with held := [] }, agenda := s.link.held.map (fun i => ⟨s.cyc, 49, i, 0⟩) ++ s.agenda }

/-- HOST_READ (R441, R445). The host sends nothing over a link that is Down; in Training its requests are held (R444). -/
def execHostRead (offset size : Nat) (s : State) : Out :=
  if s.link.state = 0 then .next s
  else if s.link.state = 1 then .next (s.holdHost (.hostRead offset size))
  else if s.hostRefused offset || s.hostQuarantined offset then .next (s.answer [] true)
  else if offset < 2 ^ 39 then
    let keys := ((List.range size).map fun i => offset + i).map fun o => if o < hbmBytes then some (s.pkg * 2 ^ 42 + o) else none
    let s := s.noteFailed (keys.filterMap id)
    .next (s.answer (keys.map fun k => match k with | some a => (Memory.read s.mem a).toNat | none => 0))
  else
    .next (s.answer ((List.range size).map fun i =>
      if State.windowAt ≤ offset + i ∧ offset + i < State.portAtHost then s.windowByte (offset + i - State.windowAt) else 0))

/-- HOST_WRITE (R441–R443, R445, R467). -/
def execHostWrite (offset : Nat) (data : List Nat) (s : State) : Out :=
  if s.link.state = 0 then .next s
  else if s.link.state = 1 then .next (s.holdHost (.hostWrite offset data))
  else if s.hostRefused offset || s.hostQuarantined offset then .next (s.answer [] true)
  else if offset < 2 ^ 39 then
    let l := (data.zipIdx.filter fun b => decide (offset + b.2 < hbmBytes)).map fun b => (s.pkg * 2 ^ 42 + offset + b.2, b.1, false)
    .next (s.rightRun (bitsAt (s.devr 0x172) 2 2 == 1) l)
  else if s.streamingOn then .next (s.answer [] true)
  else if offset < State.windowAt then
    let d := offset - 2 ^ 39
    match s.doorbellCtx d with
    | none => .next (s.rejected 3)
    | some c =>
      if d % 8 ≠ 0 ∨ data.length < 8 then .next (s.rejected 3)
      else .next ((List.range (data.length / 8)).foldl (fun (s : State) i =>
        s.ring (queueIndex c (d % 32768 / 8 + i)) (State.wordOf (data.drop (8 * i)))) s)
  else if offset < State.portAtHost then .next (s.windowWrites (offset - State.windowAt) data)
  else if offset < State.portAtHost + 4096 then .next (s.messagePort (offset - State.portAtHost) data)
  else .next (s.rejected 3)

/-- HOST_MESSAGE: the message goes to its group; `State.subject` holds words 2 and 1 as they were at the write of word 0 (R133, R380, R443). -/
def execHostMessage (value : Nat) (s : State) : Out :=
  let w := s.subject / 2 ^ 64
  if 2 ^ 30 ≤ w then .next (s.rejected 2)
  else
    let hits := s.groups.filter fun g => g.2.ctx == w % 2 ^ 16 && g.2.node == w / 2 ^ 16 % 2 ^ 12 && g.2.num == s.subject % 2 ^ 48 &&
      (g.2.audit.bind Audit.replayOf).isNone && g.2.state != .retired && g.2.state != .purged
    match hits.getLast? with
    | none => .next s
    | some g => .next (s.due s.cyc 620 (.messageLand g.1 (w / 2 ^ 28 % 4) value (2 ^ 64)) (s.cyc * 1024 + 256))

/-! ### Accesses to host memory (R446) -/

/-- HOST_ACCESS_TIMEOUT: a channel's access to host memory has waited for LINKTO × 2^20 cycles: it is tried once more, and ends as a refusal
with PERMISSION does (R434, R446). -/
def execHostAccessTimeout (x : Chan) (s : State) : Out :=
  match s.hostWaits.find? fun w => w.1 == .chan x with
  | none => .next s
  | some (_, t, _) =>
    if s.hostUp then .next s
    else if s.cyc < t + s.linkLimit then .next (s.due (t + s.linkLimit) 44 (.hostAccessTimeout x))
    else match s.agenda.find? fun d => chanOfEvent d.ev == some x with
      | none => .next s
      | some d =>
        let s := { s with agenda := s.agenda.filter fun d => chanOfEvent d.ev != some x }
        match d.ev with
        | .channelCommandStart x => execChannelCommandStart x s
        | .streamPortVector x => execStreamPortVector x s
        | .chainRecord p n => execChainRecord p n s
        | .chainRecordPoll p n => execChainRecordPoll p n s
        | _ => .next { s with agenda := s.agenda ++ [d] }

/-- Writes on their way to host memory that have waited for the link for LINKTO × 2^20 cycles are not made, and their channels' commands end as a refusal with
PERMISSION does; those of a relayout engine go on waiting (R446). DEDUCED (log 156). -/
def State.hostWritesLate (s : State) : State :=
  if s.linkSends then s
  else
    let (late, rest) := s.farHeld.partition fun w => w.toHost && decide (w.unit < 2 * 10 ^ 6 ∧ w.made + s.linkLimit ≤ s.cyc)
    (distinct (late.map FarWrite.unit)).foldl (fun s u =>
      let x := chanOfKey u
      let va := ((late.find? fun w => w.unit == u).map FarWrite.va).getD 0
      if (s.chanCommand x).isNone then s
      else { s with agenda := s.agenda.filter fun d => chanOfEvent d.ev != some x }.due (s.cyc + 1) 47 (.engineFault x 0x13 va))
      { s with farHeld := rest }

/-! ### The states of the link (R444) -/

namespace State

/-- The link begins to train; it has LINKTO for it. -/
def linkTrain (s : State) : State := { s with link := { s.link with state := 1, width := 3, since := s.cyc } }

/-- Training whose time is over by the LINKTO that holds now ends (R444). -/
def linkTick (s : State) : State :=
  if s.link.state = 1 ∧ s.link.since + s.linkLimit ≤ s.cyc + 1 then s.due (s.cyc + 1) 20 (.linkTrained 0) else s

/-- The link carries traffic in a lane state; a cycle of it takes a number of link-level replays that the spec leaves open (R455). -/
def linkReplays (s : State) : State :=
  if s.linkSends then
    let (d, s) := s.freeNat
    { s with link := { s.link with retry := min 0xFFFFFFFF (s.link.retry + d) } }
  else s

/-- The link goes Down, and what the host had asked of it in training is lost (R444). -/
def linkFall (s : State) : State := { s with link := { s.link with state := 0, width := 3, held := [] } }

/-- The link is trained with a number of lanes in use. -/
def linkRise (s : State) (state width : Nat) : State := { s with link := { s.link with state := state, width := width } }.releaseHost

/-- Every request and interrupt that the device has sent to the host is acknowledged (R444). -/
def linkQuiet (s : State) : Bool := s.irqWaits.isEmpty && !s.farHeld.any FarWrite.toHost

/-- The link begins to drain; its device requests and interrupts are acknowledged at a time the spec leaves open. -/
def linkDrain (s : State) : State :=
  if s.link.state = 2 ∨ s.link.state = 3 then
    let (d, s) := s.freeNat
    { s with link := { s.link with state := 4 } }.due (s.cyc + 1 + d) 20 .linkDrained
  else s

end State

/-- LNKCTL command 1 (R444). -/
def execLnkctlTrain (s : State) : Out := .next (if s.link.state = 0 then s.linkTrain else s)

/-- The host asks for training (R444); a device that has tripped, or whose bring-up has stopped, does not answer (R488, R497). -/
def execHostTrainingRequest (s : State) : Out := .next (if s.link.state = 0 ∧ s.tripped = false ∧ s.stuckAt = 0 then s.linkTrain else s)

/-- LNKCTL command 2 (R444). -/
def execLnkctlDrain (s : State) : Out := .next s.linkDrain

/-- LNKCTL command 3 (R444). -/
def execLnkctlDown (s : State) : Out := .next s.linkFall

/-- LINK_TRAINED: training has brought up a number of lanes; fewer than 8 after LINKTO take the link Down with event 0x27 (R444, R470). -/
def execLinkTrained (lanes : Nat) (s : State) : Out :=
  if s.link.state ≠ 1 then .next s
  else if 32 ≤ lanes then .next (s.linkRise 2 0)
  else if 16 ≤ lanes then .next (s.linkRise 3 1)
  else if 8 ≤ lanes then .next (s.linkRise 3 2)
  else if s.link.since + s.linkLimit ≤ s.cyc then .next (s.linkFall.health { code := 0x27, info := 0xF })
  else .next s

/-- LINK_LANE_FAILURE: the link trains again, its traffic held (R444). -/
def execLinkLaneFailure (s : State) : Out := .next (if s.link.state = 2 ∨ s.link.state = 3 then s.linkTrain else s)

/-- LINK_DRAINED: the link is Drained once every device request and interrupt is acknowledged (R444). -/
def execLinkDrained (s : State) : Out :=
  .next (if s.link.state ≠ 4 then s
    else if s.linkQuiet then { s with link := { s.link with state := 5 } }
    else s.due (s.cyc + 1) 20 .linkDrained)

end Sys2Proof.Machine
end

