-- ==== Sys2Proof/Machine/Fabric.lean ====
section
/-! DEFINITION. The fabric: ports, routes, flits and the package's number (R440, R448–R454). -/

namespace Sys2Proof.Machine

namespace State

def setPort (s : State) (p : Nat) (v : FPort) : State := { s with fports := s.fports.put p v }

/-- A port begins to train; it has LINKTO × 2^20 cycles for it (R451). -/
def portTrain (s : State) (p : Nat) : State := s.setPort p { s.portAt p with state := 1, since := s.cyc }

/-- Ports whose training is over by the LINKTO that holds now end it (R451). -/
def portTick (s : State) : State :=
  (s.fports.filter fun r => r.2.state == 1 && decide (r.2.since + s.linkLimit ≤ s.cyc + 1)).foldl (fun s r => s.due (s.cyc + 1) 20 (.portTrained r.1 0)) s

/-- A port goes Down: the flits of its replay buffer are to be sent again, ahead of the others (R450). -/
def portFall (s : State) (p : Nat) : State :=
  let v := s.portAt p
  if v.state = 6 then s
  else { (s.setPort p { v with state := 0, lambda := 0, replay := [], failSeq := none, fails := 0 }) with flits := v.replay ++ s.flits }

/-- The port that PORTSEL selected for an event of PORTCTL (R455). -/
def selPort (s : State) : Nat := s.subject % 16

end State

/-- PORTCTL command 1 (R451). `State.subject` is the selected port. -/
def execPortctlTrain (s : State) : Out := .next (if (s.portAt s.selPort).state = 0 then s.portTrain s.selPort else s)

/-- PORTCTL command 2 (R451). -/
def execPortctlDrain (s : State) : Out :=
  .next (if s.portUp s.selPort then s.setPort s.selPort { s.portAt s.selPort with state := 4 } else s)

/-- PORTCTL command 3 (R451). -/
def execPortctlDown (s : State) : Out := .next (s.portFall s.selPort)

/-- PORT_TRAINED: a number of wavelengths has locked; fewer than 96 within LINKTO × 2^20 cycles take the port Down with event 0x27 (R451, R470). -/
def execPortTrained (port lambda : Nat) (s : State) : Out :=
  let v := s.portAt port
  if v.state ≠ 1 then .next s
  else if 384 ≤ lambda then .next (s.setPort port { v with state := 2, lambda := 384 })
  else if 96 ≤ lambda then .next (s.setPort port { v with state := 3, lambda := lambda })
  else if v.since + s.linkLimit ≤ s.cyc then
    .next ((s.portFall port).health { code := 0x27, info := BitVec.ofNat 64 port })
  else .next s

/-- WAVELENGTH_LOSS (R451). -/
def execWavelengthLoss (port : Nat) (s : State) : Out :=
  let v := s.portAt port
  if !s.portUp port then .next s
  else if v.lambda - 1 < 96 then .next (s.portFall port)
  else .next (s.setPort port { v with state := 3, lambda := v.lambda - 1 })

/-- LIGHT_LOSS (R451). -/
def execLightLoss (port : Nat) (s : State) : Out := .next (s.portFall port)

/-- No route entry names a port (R451). -/
def State.unrouted (s : State) (port : Nat) : Bool :=
  s.routes.all fun r => r.2 % 16 != port && r.2 / 16 % 16 != port

/-- A draining port has no route, and every flit it sent is acknowledged (R451). -/
def State.portEmpty (s : State) (port : Nat) : Bool :=
  (s.portAt port).state == 4 && s.unrouted port && (s.portAt port).replay.isEmpty

/-- PORT_DRAINED (R451). -/
def execPortDrained (port : Nat) (s : State) : Out :=
  .next (if s.portEmpty port then s.setPort port { s.portAt port with state := 5 } else s)

/-- Every port in one state takes another. -/
def State.portsFrom (s : State) (old new : Nat) : State :=
  (List.range 12).foldl (fun s p => if (s.portAt p).state = old then s.setPort p { s.portAt p with state := new } else s) s

/-- LATCH_OPEN: Drained ports become Unlatched (R451). -/
def execLatchOpen (s : State) : Out := .next (s.portsFrom 5 6)

/-- LATCH_CLOSE: Unlatched ports go Down (R451). -/
def execLatchClose (s : State) : Out := .next (s.portsFrom 6 0)

/-! ### Flits (R449, R450) -/

/-- The virtual channel of a type of flit (R449). -/
def vcOf : Nat → Nat
  | 1 => 1
  | 3 => 2
  | 4 => 3
  | _ => 0

/-- Bits [31:0] of a flit's header (R449). -/
def flitHeader (f : Flit) : Nat :=
  f.seqno % 1024 * 2 ^ 22 + f.dst % 512 * 2 ^ 13 + f.kind % 16 * 2 ^ 9 + vcOf f.kind * 2 ^ 7 + (if f.last then 2 ^ 6 else 0)

/-- The CRC of a flit: over the low four bytes of its header and its 64 payload bytes (R449). -/
def flitSum (f : Flit) : Nat :=
  crc32 ((List.range 4).map (fun i => flitHeader f / 256 ^ i % 256) ++ (List.range 64).map fun i => f.body.getD i 0)

/-- A flit's CRC holds (R449). -/
def flitGood (f : Flit) : Bool := f.crc == flitSum f

/-- The package sends a flit of its own with a short payload. -/
def State.sendControl (s : State) (kind dst : Nat) (body : List Nat) : State :=
  { s with flits := s.flits ++ [({ kind := kind, seqno := 0, src := s.pkg, dst := dst, last := true, body := body, crc := 0 } : Flit)] }

/-- A reservation of another package is accepted where this one is armed for it, and else refused (R464). DESIGN CHOICE (log 174): the payloads of a
reservation (empty), its acceptance (1) and its refusal (2), and of the answer "moved" to a request (3). -/
def State.takeReservation (s : State) (f : Flit) : State :=
  s.sendControl 4 f.src [if bitsAt (s.devr 0x17B) 0 0 = 1 ∧ f.src = bitsAt (s.devr 0x17B) 24 16 then 1 else 2]

/-- The target has answered this package's reservation (R464, R465). -/
def State.takeAnswer (s : State) (f : Flit) : State :=
  if s.evict.phase ≠ 1 ∨ f.src ≠ s.evict.target then s
  else if f.body = [1] then s.due (s.cyc + 1) 20 .evictReserveAccept
  else if f.body = [2] then s.due (s.cyc + 1) 20 .evictionFail
  else s

/-- What a flit for this package brings: it is kept as received. A reservation is answered, and so is a request from Route drain on, which its sender sends
again; the last flit of a checkpoint from the armed source makes it complete, which the model leaves open for each (R449, R464, R465). -/
def State.takeFlit (s : State) (port : Nat) (f : Flit) : State :=
  if f.kind = 0 ∧ (s.evict.phase = 4 ∨ s.evict.phase = 5) then s.sendControl 1 f.src [3]
  else
  let s := { s with inbox := s.inbox ++ [(port, f)] }
  if f.kind ≠ 4 then s
  else if f.body = [] then s.takeReservation f
  else if f.body = [1] ∨ f.body = [2] then s.takeAnswer f
  else if f.last ∧ bitsAt (s.devr 0x17B) 0 0 = 1 ∧ f.src = bitsAt (s.devr 0x17B) 24 16 then
    let (x, s) := s.freeNat
    { s with evict := { s.evict with received := s.evict.received || x % 2 == 1 } }
  else s

/-- FLIT_RECEIVE: a flit is checked and delivered in order; one that fails its CRC, and every later one, is discarded until it comes again; an
acknowledgement frees the flits up to the one it names (R449, R450). -/
def execFlitReceive (port : Nat) (flit : Flit) (s : State) : Out :=
  let v := s.portAt port
  if !(s.portUp port || v.state == 4) then .next s
  else if !flitGood flit then .next (s.setPort port { v with naks := v.naks ++ [flit.seqno] })
  else if flit.kind = 5 then
    let left := (v.replay.dropWhile fun f => f.seqno != flit.seqno).drop 1
    .next (if v.replay.any fun f => f.seqno == flit.seqno then s.setPort port { v with replay := left, failSeq := none, fails := 0 } else s)
  else if flit.seqno ≠ v.rxSeq then .next s
  else
    let s := s.setPort port { v with rxSeq := (v.rxSeq + 1) % 1024 }
    if 6 ≤ flit.kind then .next (s.rejected 4)
    else if flit.dst = s.pkg then .next (s.takeFlit port flit)
    else .next { s with flits := s.flits ++ [flit] }

/-- FLIT_NAK: the sender sends again from the named flit on; the port trains again after 16 replays of one flit have failed (R450). -/
def execFlitNak (port seqno : Nat) (s : State) : Out :=
  let v := s.portAt port
  if !(s.portUp port || v.state == 4) ∨ !(v.replay.any fun f => f.seqno == seqno) then .next s
  else
    let fails := if v.failSeq = some seqno then v.fails + 1 else 0
    if 16 ≤ fails then .next ((s.setPort port { v with failSeq := none, fails := 0 }).portTrain port)
    else .next (s.setPort port { v with failSeq := some seqno, fails := fails, retry := min 0xFFFFFFFF (v.retry + 1) })

/-! ### Routes (R452–R454) -/

/-- ROUTE_WRITE: the entry that RTSEL selected, `State.subject`, takes its ports (R454, R455). -/
def execRouteWrite (value : Nat) (s : State) : Out := .next { s with routes := s.routes.put (s.subject % 512) (value % 512) }

namespace State

/-- What a port's wavelengths carry in a cycle: 64 Gb/s each, 72 bytes a flit, so 4 sixty-thirds of a flit a cycle each at 1.75 GHz (R4, R448, R451). -/
def refillPorts (s : State) : State :=
  { s with fports := s.fports.map fun (r : Nat × FPort) => (r.1, { r.2 with credit := min r.2.credit 62 + 4 * r.2.lambda }) }

/-- Flits to a destination that other ports have sent are not all acknowledged (R453). -/
def owedElsewhere (s : State) (port dst : Nat) : Bool := s.fports.any fun r => r.1 != port && r.2.replay.any fun f => f.dst == dst

/-- Ports with no flit to send and none unacknowledged gate their wavelengths (R27, R448). DESIGN CHOICE (log 143): at the end of the first such cycle. -/
def gatePorts (s : State) : State :=
  { s with fports := s.fports.map fun (r : Nat × FPort) =>
      if r.2.replay.isEmpty && !(s.flits.any fun f => s.routePort f.dst == some r.1) then (r.1, { r.2 with lit := none }) else r }

/-- The flits that can leave now do so, in order for each destination and virtual channel; a gated port brings its wavelengths back first, in 64 cycles
(R448, R452, R453). -/
def sendFlits (s : State) : State :=
  State.gatePorts <| s.flits.foldl (fun (s : State) (f : Flit) =>
    if f.dst = s.pkg then s.takeFlit 16 f
    else
      let held := s.flits.any fun g => g.dst == f.dst && vcOf g.kind == vcOf f.kind
      match s.routePort f.dst with
      | none => { s with flits := s.flits ++ [f] }
      | some p =>
        let v := s.portAt p
        if v.lit.isNone then { s.setPort p { v with lit := some (s.cyc + 64) } with flits := s.flits ++ [f] }
        else if held || s.owedElsewhere p f.dst || decide (1024 ≤ v.replay.length ∨ v.credit < 63) || v.lit.any fun t => decide (s.cyc < t) then
          { s with flits := s.flits ++ [f] }
        else
          let f := { f with seqno := v.txSeq }
          s.setPort p { v with txSeq := (v.txSeq + 1) % 1024, credit := v.credit - 63, replay := v.replay ++ [{ f with crc := flitSum f }] })
      { s.refillPorts with flits := [] }

end State

/-! ### The package's number (R440) -/

/-- PKGID_WRITE: local HBM is what the new number names, and the package's own flits that leave from now on carry it; on an armed target whose checkpoint is
complete, ARM clears (R426, R440). -/
def execPkgidWrite (value : Nat) (s : State) : Out :=
  let new := value % 512
  let old := s.pkg
  let ev := s.devr 0x17B
  let s := s.setDev 0x170 (BitVec.ofNat 64 new)
  let s := if bitsAt ev 0 0 = 1 ∧ s.evict.received then s.setDev 0x17B (setBits ev 0 0 0) else s
  if new = old then .next s
  else
    let a := old * 2 ^ 42
    let b := new * 2 ^ 42
    let turn (k : Nat) : Nat := if k / 2 ^ 42 = old then k - a + b else if k / 2 ^ 42 = new then k - b + a else k
    let own (f : Flit) : Flit := if f.src = old then { f with src := new } else f
    .next { s with
      flits := s.flits.map own
      fports := s.fports.map fun (r : Nat × FPort) => (r.1, { r.2 with replay := r.2.replay.map own })
      farHeld := s.farHeld.map fun (w : FarWrite) => { w with cells := w.cells.map (fun c => (turn c.1, c.2)), metas := w.metas.map fun m => (turn m.1, m.2) }
      mem := swapCells s.mem a b (2 ^ 42) true, poison := swapMarks s.poison a b (2 ^ 42) true,
      hbmMeta := s.hbmMeta.foldl (fun m r => m.put (turn r.1) r.2) [],
      hbmCheck := s.hbmCheck.foldl (fun m r => m.put (turn r.1) r.2) [] }

end Sys2Proof.Machine
end

