-- ==== Sys2Proof/Machine/Collective.lean ====
section
/-! DEFINITION. The collectives engine (R456–R463): contributions, instances, their values and their ends. -/

namespace Sys2Proof.Machine

/-! ### Values (R460) -/

/-- The one NaN of results in F32 (R460). -/
def collNan (v : Nat) : Nat := if fmtF32.dec v |>.isNan then 0x7FC00000 else v

/-- Two elements combined, as F32 or I32 words (R460): OP 0 sum, 1 min, 2 max. -/
def collPair (op fmt a b : Nat) : Nat :=
  if fmt = 8 then portOp (match op with | 0 => 2 | 1 => 6 | _ => 7) 0 32 a b
  else collNan (portOp (match op with | 0 => 10 | 1 => 11 | _ => 12) 0 32 a b)

/-- The elements of ranks combined in order (R460). -/
def collRanks (op fmt : Nat) : List Nat → Nat
  | [] => 0
  | a :: t => t.foldl (collPair op fmt) a

/-- One level of the tree over LIST: neighbours are combined, a lone last element is carried up (R460). -/
def pairUp (f : Nat → Nat → Nat) : List Nat → List Nat
  | a :: b :: t => f a b :: pairUp f t
  | l => l

/-- The tree over LIST; each level at least halves what is left, so that as many levels as there are elements suffice. -/
def collTree (f : Nat → Nat → Nat) : Nat → List Nat → Nat
  | n + 1, a :: b :: t => collTree f n (pairUp f (a :: b :: t))
  | _, l => l.headD 0

/-- An element as a word: BF16 is widened (R460). -/
def collWiden (fmt v : Nat) : Nat := if fmt = 2 then v * 65536 else v

/-- The bytes of an element (R457). -/
def collWidth (fmt : Nat) : Nat := if fmt = 2 then 2 else 4

/-- A result element in the format of the contributions (R460). -/
def collRound (fmt v : Nat) : Nat :=
  if fmt = 8 then v
  else if fmt = 2 then (if (fmtF32.dec v).isNan then 0x7FC0 else (cvtFloat fmtBF16 {} 0 (fmtF32.dec v)).1)
  else collNan v

/-- One result element: `own` are the words of the ranks of this package in order, `far` those that the other packages give, in LIST order, and `at_` the place
of this package in LIST. For an exact sum `far` holds single contributions (R460). -/
def collElem (op fmt at_ : Nat) (own far : List Nat) : Nat :=
  if op = 3 then ((own ++ far).foldl (fun (c : SumSlot) v => c.contribute 0 v) {}).seal 0
  else
    let l := far.take at_ ++ [collRanks op fmt own] ++ far.drop at_
    collRound fmt (collTree (collPair op fmt) l.length l)

/-! ### Where a contribution's operands lie (R274, R275, R457) -/

namespace State

/-- The window through which the contributions of a context reach a column number (R275, R516). -/
def collWindow (s : State) (ctx c : Nat) : Option (Nat × Window) :=
  if ctx = 0 then (if c < 256 then some (c, ⟨0, 2 ^ 22⟩) else none)
  else (s.physCol ctx c).bind fun p => (s.lowestWin p ctx).map fun n => (p, windowOf (s.twin p n))

/-- `n` bytes from an engine address lie inside the range of its form and, in towers, inside a window of the context (R275). -/
def collFits (s : State) (ctx : Nat) (e : EA) (n : Nat) : Bool :=
  match e with
  | .far a => decide (a + n ≤ 2 ^ 52)
  | .lin c _ off => ((s.collWindow ctx c).map fun w => decide (off + n ≤ w.2.size)) == some true
  | .str c x => ((s.collWindow ctx c).map fun w => decide (x + n ≤ 16 * w.2.size)) == some true

/-- The memory key of one byte through translated pages. -/
def collKey (s : State) (ctx : Nat) (pages : List (Nat × Nat)) (e : EA) : Option Nat :=
  match e with
  | .far a => (pages.find? fun p => p.1 == a / 65536).map fun p => p.2 * 65536 + a % 65536
  | _ => e.tower.bind fun t => (s.collWindow ctx t.1).bind fun w =>
      if t.2.2 < w.2.size then some (towerKey w.1 t.2.1 (w.2.base + t.2.2)) else none

/-- The keys of `n` bytes: found, to be waited for, or refused (R434, R462). -/
def collKeys (s : State) (x : Contribution) (e : EA) (n kind : Nat) : Tr × List Nat × State :=
  let r : Tr × List (Nat × Nat) × State := match e with
    | .far a =>
      if x.ctx = 0 then s.physRange (.coll x.comm) (vpages a n) else s.transRange x.ctx kind 7 (.coll x.comm) (vpages a n)
    | _ => (.ok 0, [], s)
  match r with
  | (.ok _, pages, s) =>
    let keys := (e.run n).filterMap (s.collKey x.ctx pages)
    if keysServed s keys then (.ok 0, keys, s) else (.full, [], s)
  | (t, _, s) => (t, [], s)

/-- The key of a tower word of a context at its global program address. -/
def collTower (s : State) (ctx a : Nat) : Option Nat := s.collKey ctx [] (.lin (a / 2 ^ 26) (a / 2 ^ 22 % 16) (a % 2 ^ 22))

/-- The collectives engine consumes poison: event 0x12, and the context is torn down (R471). -/
def collPoison (s : State) (ctx info : Nat) : State :=
  (s.health { code := 0x12, ctx := ctx, info := BitVec.ofNat 64 info }).due s.cyc 850 .teardown (ctx + 65536)

/-- ERR is written into a descriptor that can be reached (R457). -/
def writeErr (s : State) (ctx desc err : Nat) : State :=
  match s.collTower ctx desc with
  | none => s
  | some key =>
    let old := (Memory.read s.mem (key + 7)).toNat
    s.writeRun [(key + 7, old % 16 + err * 16, false)]

/-! ### Descriptors and communicators (R456, R457, R459) -/

/-- A descriptor as the engine takes it; `none` where it is malformed. -/
def readColl (s : State) (x : Contribution) (key : Nat) : Option Contribution :=
  let w (n : Nat) : Nat := s.load (key + 8 * n) 8
  let h := w 0
  let fmt := h % 32
  let op := nbits h 11 8
  let count := w 3
  let bar := w 4
  let zero := nbits h 59 42 == 0 && nbits h 31 24 == 0 && nbits h 15 12 == 0 && nbits h 7 5 == 0 && w 5 == 0 && w 6 == 0 && w 7 == 0
  if !zero || (EA.parse (w 1)).isNone || (EA.parse (w 2)).isNone || count == 0 || decide (2 ^ 24 < count) || decide (3 < op)
      || !([1, 2, 8].contains fmt) || (op == 3 && fmt != 1) || bar % 16 != 0 || decide (2 ^ 34 ≤ bar)
      || (bar != 0 && (s.collTower x.ctx (bar + 15)).isNone) then none
  else
    some { x with comm := nbits h 41 32, rank := nbits h 23 16, op := op, fmt := fmt, count := count, src := w 1, dst := w 2, bar := bar,
                  parity := ((s.collTower x.ctx bar).map fun k => s.load k 8 / 2 ^ 48 % 2).getD 0 }

/-- The address of a communicator's entry. -/
def commAt (s : State) (comm : Nat) : Nat := bitsAt (s.devr 0x178) 51 12 * 4096 + 32 * comm

/-- LOCAL and LIST of a communicator, for a context whose own it is (R456, R459). -/
def readComm (s : State) (ctx comm : Nat) : Option (Nat × List Nat) :=
  let w (n : Nat) : Nat := s.load (s.commAt comm + 8 * n) 8
  let n := nbits (w 0) 41 32
  let l := (List.range n).map fun i => s.load (w 1 + 2 * i) 2
  if nbits (w 0) 63 49 ≠ 0 ∨ nbits (w 0) 47 42 ≠ 0 ∨ nbits (w 0) 31 24 ≠ 0 ∨ !(w 0).testBit 48 ∨ w 0 % 65536 ≠ ctx ∨ nbits (w 0) 23 16 = 0
      ∨ n = 0 ∨ 512 < n ∨ w 2 ≠ 0 ∨ w 3 ≠ 0 ∨ !farNamed (w 1) ∨ !distinctList l ∨ !l.contains s.pkg then none
  else some (nbits (w 0) 23 16, l)

/-- The poisoned word, if any, among what the engine reads of a communicator. -/
def commPoison (s : State) (comm : Nat) : Option Nat :=
  let a := s.commAt comm
  let l := s.load (a + 8) 8
  ((List.range 4).map (fun i => a + 8 * i) ++ (List.range (nbits (s.load a 8) 41 32)).map fun i => l + 2 * i).find? fun k => s.poisoned k

/-! ### Instances (R459) -/

/-- The contributions of a communicator that its open instances hold. -/
def commColls (s : State) (comm : Nat) : List Contribution := s.colls.filter fun x => x.comm == comm

/-- The instance that the next contribution of a rank goes into: its j-th goes into the j-th (R459). -/
def nextInst (s : State) (comm rank : Nat) : Nat := s.collNext.getD (comm * 256 + rank) 0

/-- A contribution differs from its instance's rank 0 (R459). -/
def collDiffers (s : State) (x : Contribution) : Bool :=
  (s.commColls x.comm).any fun y => y.inst == x.inst && y.rank == 0 && (y.count != x.count || y.op != x.op || y.fmt != x.fmt)

/-- A contribution leaves its instance with ERR 1; later ones of its rank move up by an instance. -/
def dropColl (s : State) (x : Contribution) : State :=
  let s := s.writeErr x.ctx x.desc 1
  { s with collNext := s.collNext.put (x.comm * 256 + x.rank) (s.nextInst x.comm x.rank - 1),
           colls := (s.colls.filter fun y => !(y.comm == x.comm && y.inst == x.inst && y.rank == x.rank)).map fun y =>
      if y.comm == x.comm && y.rank == x.rank && decide (x.inst < y.inst) then { y with inst := y.inst - 1 } else y }

/-- Contributions that differ from a rank 0 that has come end with ERR 1; at most `n` of them. -/
def dropDiffering (s : State) : Nat → State
  | 0 => s
  | n + 1 =>
    match s.colls.find? fun x => !x.ended && x.err == 0 && s.collDiffers x with
    | none => s
    | some x => (s.dropColl x).dropDiffering n

/-- The elements of a contribution are read, wait, or fail (R458, R462). -/
def readElems (s : State) (x : Contribution) : Contribution × State :=
  match EA.parse x.src with
  | none => (x, s)
  | some e =>
    let w := collWidth x.fmt
    if !s.collFits x.ctx e (x.count * w) then ({ x with err := 2, reading := false }, s)
    else match s.collKeys x e (x.count * w) 0 with
      | (.ok _, keys, s) =>
        let s := s.noteFailed keys
        match keys.find? fun k => s.poisoned k with
        | some k => ({ x with reading := false }, s.collPoison x.ctx (if e.isFar then 2 ^ 63 + e.pos else keyAddr k))
        | none =>
          let bytes := keys.map fun k => (Memory.read s.mem k).toNat
          ({ x with reading := false, elems := (List.range x.count).map fun i => leOf (bytes.drop (w * i)) w }, s)
      | (.refused, _, s) => ({ x with err := 3, reading := false }, s)
      | (_, _, s) => (x, s)

/-- A contribution takes its new value. -/
def setColl (s : State) (x : Contribution) : State :=
  { s with colls := s.colls.map fun y => if y.comm == x.comm && y.inst == x.inst && y.rank == x.rank then x else y }

/-- An instance in which a contribution failed ends the others of it with ERR 4 (R462). -/
def spreadErr (s : State) : State :=
  { s with colls := s.colls.map fun x =>
      if !x.ended && x.err == 0 && s.colls.any (fun y => y.comm == x.comm && y.inst == x.inst && y.err != 0) then
        { x with err := 4, reading := false } else x }

/-- The contributions of an instance, in the order of their ranks. -/
def instColls (s : State) (comm inst : Nat) : List Contribution :=
  (List.range 256).flatMap fun r => s.colls.filter fun x => x.comm == comm && x.inst == inst && x.rank == r

/-- An instance is complete in this package, and nothing in it has failed (R459). -/
def instReady (s : State) (comm inst : Nat) : Bool :=
  let l := s.instColls comm inst
  l.all (fun x => !x.reading && x.err == 0 && !x.ended) && ((l.head?).map fun x => decide (l.length = x.num)) == some true

end State

/-- A contribution joins its instance. -/
def State.joinColl (s : State) (x : Contribution) : State :=
  { s with colls := s.colls ++ [x], collNext := s.collNext.put (x.comm * 256 + x.rank) (x.inst + 1) }

/-- What COLLGO gets of the communicator table at a far address: it is there, it waits for the memory that holds it, or it is refused (R446, R452). -/
def State.commReach (s : State) (comm : Nat) : Tr × State :=
  let a := s.commAt comm
  let l := s.load (a + 8) 8
  if s.reachable a then { s with hostWaits := s.hostWaits.filter fun w => w.1 != Requester.coll comm || w.2.2 == l }.reach l l (.coll comm)
  else s.reach a a (.coll comm)

/-- COLLGO: a contribution is accepted at the end of the cycle of its word (R458, R459). -/
def execCollgo (col slot desc : Nat) (s : State) : Out :=
  let k : Stream := ⟨col, slot, .a⟩
  let ctx := s.ctxOf k
  let x : Contribution := { comm := 0, inst := 0, rank := 0, ctx := ctx, at_ := k, gid := (s.groupOf k.sk).map fun g => g.1, desc := desc,
                            reading := true, first := s.nextId }
  match s.collTower ctx desc, s.collTower ctx (desc + 63) with
  | some key, some _ =>
    let s := s.checkRead key 64
    match (List.range 8).find? fun n => s.poisoned (key + 8 * n) with
    | some n => .next (s.collPoison ctx (desc + 8 * n))
    | none =>
      match s.readColl x key with
      | none => .next (s.writeErr ctx desc 1)
      | some x =>
        match s.commReach x.comm with
        | (.refused, s) => .next (s.writeErr ctx desc 3)
        | (.waits, s) | (.full, s) => .next (s.due (s.cyc + 1) 555 (.collgo col slot desc))
        | (.ok _, s) =>
        match s.commPoison x.comm, s.readComm ctx x.comm with
        | some a, _ => .next (s.collPoison ctx (2 ^ 63 + a))
        | none, none => .next (s.writeErr ctx desc 1)
        | none, some (local_, list) =>
          if local_ ≤ x.rank then .next (s.writeErr ctx desc 1)
          else
            let x := { x with num := local_, list := list, inst := s.nextInst x.comm x.rank }
            if s.collDiffers x then .next (s.writeErr ctx desc 1)
            else
              let (x, s) := s.readElems x
              let x := if ((EA.parse x.dst).map fun e => s.collFits ctx e (x.count * collWidth x.fmt)) == some true then x
                else { x with err := (if x.err = 0 then 2 else x.err), reading := false }
              .next ((s.joinColl x).dropDiffering (s.colls.length + 1)).spreadErr
  | _, _ => .next s

namespace State

/-- An arrival of a contribution at its barrier (R461, R517). -/
def collArrive (s : State) (x : Contribution) (bytes : Nat) : State :=
  match (if x.bar = 0 then none else s.collTower x.ctx x.bar) with
  | none => s
  | some key => s.sendArrival { id := 0, key := key, prog := x.bar, parity := x.parity, bytes := bytes, col := x.at_.col, order := 900, src := 5, ctx := x.ctx }

/-- What the engine writes into the windows of a context waits while it is not Live (R462); those of instances that are complete go on while an eviction quiesces (R465). -/
def collHeld (s : State) (ctx : Nat) : Bool :=
  let st := (s.ctxAt ctx).state
  decide (2 ≤ st ∧ st ≤ 4) && !(st == 2 && s.evict.phase == 2)

/-- What an instance's destinations are: all there, to be waited for, or failing with an ERR of one contribution (R461, R462). -/
def collTargets (s : State) : List Contribution → List (List Nat) → Except (Option (Contribution × Nat)) (List (List Nat)) × State
  | [], l => (.ok l, s)
  | x :: t, l =>
    match EA.parse x.dst with
    | none => (.error (some (x, 2)), s)
    | some e =>
      if !s.collFits x.ctx e (x.count * collWidth x.fmt) then (.error (some (x, 2)), s)
      else match s.collKeys x e (x.count * collWidth x.fmt) 1 with
        | (.ok _, keys, s) => s.collTargets t (l ++ [keys])
        | (.refused, _, s) => (.error (some (x, 3)), s)
        | (_, _, s) => (.error none, s)

/-- Values that the other packages of a communicator give, which the model leaves open. -/
def freeWords (s : State) : Nat → List Nat × State
  | 0 => ([], s)
  | n + 1 =>
    let (v, s) := s.freeNat
    let (l, s) := s.freeWords n
    (v % 2 ^ 32 :: l, s)

/-- The result elements of an instance (R460). -/
def collResults (s : State) (l : List Contribution) : List Nat × State :=
  match l with
  | [] => ([], s)
  | x :: _ =>
    let at_ := x.list.findIdx fun p => p == s.pkg
    let others := (x.list.length - 1) * (if x.op = 3 then x.num else 1)
    (List.range x.count).foldl (fun r i =>
      let (far, t) := r.2.freeWords others
      (r.1 ++ [collElem x.op x.fmt at_ (l.map fun y => collWiden y.fmt (y.elems.getD i 0)) far], t)) ([], s)

end State

/-- An instance has failed in another package: its contributions of this one end with ERR 4, those that come later as well (R462). -/
def State.failColl (s : State) (comm inst : Nat) : State :=
  let l := s.instColls comm inst
  let done := if l.isEmpty then decide (inst < s.nextInst comm 0) else ((l.head?).map fun x => decide (l.length = x.num)) == some true
  let s := l.foldl (fun s x => if x.ended || x.err != 0 then s else s.setColl { x with err := 4, reading := false }) s
  if done then s else s.due (s.cyc + 1) 555 (.collectiveComplete comm inst) 1

/-- COLLECTIVE_COMPLETE: every destination of a complete instance receives the result, and then every barrier its arrival (R460, R461). Where a page is not
there, or the context is not Live, nothing is written yet (R462). With `State.subject` = 1 the instance has failed in another package. -/
def execCollectiveComplete (comm inst : Nat) (s : State) : Out :=
  if s.subject = 1 then .next (s.failColl comm inst)
  else if !s.instReady comm inst then .next s
  else
    let l := s.instColls comm inst
    let ctx := ((l.head?).map fun x => x.ctx).getD 0
    let later (s : State) : State := l.foldl (fun (s : State) x => s.setColl { x with going := false, called := true }) s
    if s.collHeld ctx then .next (later s)
    else match s.collTargets l [] with
      | (.error none, s) => .next (later s)
      | (.error (some (x, err)), s) => .next (s.setColl { x with err := err }).spreadErr
      | (.ok keys, s) =>
        let (vals, s) := s.collResults l
        let s := (l.zip keys).foldl (fun (s : State) x =>
          let w := collWidth x.1.fmt
          let bytes := vals.flatMap fun v => (List.range w).map fun i => v / 256 ^ i % 256
          s.writeRun ((x.2.zip bytes).map fun b => (b.1, b.2, false))) s
        .next (l.foldl (fun (s : State) x =>
          ((s.writeErr ctx x.desc 0).collArrive x (x.count * collWidth x.fmt)).setColl { x with ended := true }) s)

namespace State

/-- A contribution with an ERR ends: ERR is written, and its barrier gets an arrival with no bytes (R462). -/
def endColl (s : State) (x : Contribution) : State :=
  (((s.writeErr x.ctx x.desc x.err).collArrive x 0)).setColl { x with ended := true }

/-- Instances all of whose contributions have ended go, and so do the contributions of contexts that are gone; the ranks of a communicator whose context is
gone start anew together. -/
def closeColls (s : State) : State :=
  let isOver (x : Contribution) : Bool :=
    let l := s.instColls x.comm x.inst
    (l.all fun y => y.ended) && decide (l.length = x.num)
  let gone (x : Contribution) : Bool := x.ended && x.ctx != 0 && ((s.ctxAt x.ctx).state == 0 || (s.ctxAt x.ctx).state == 5)
  let next := (s.colls.filter gone).foldl (fun (m : Map Nat) x =>
    let n := m.foldl (fun n r => if r.1 / 256 = x.comm then max n r.2 else n) 0
    (List.range x.num).foldl (fun m i => m.put (x.comm * 256 + i) n) m) s.collNext
  { s with colls := s.colls.filter fun x => !isOver x && !gone x, collNext := next }

/-- What the collectives engine does at the end of a cycle: elements that waited are read, failures end contributions, and complete instances come up; the
latency of R463 holds for what it bounds. -/
def planColls (s : State) : State :=
  if s.colls.isEmpty then s
  else
    let s := (s.colls.filter fun x => x.reading && !s.attached (.coll x.comm)).foldl (fun (s : State) x =>
      let (y, s) := s.readElems x
      s.setColl y) s
    let s := s.spreadErr
    let s := (s.colls.filter fun x => !x.ended && x.err != 0 && !s.collHeld x.ctx).foldl endColl s
    let s := s.closeColls
    (s.colls.filter fun x => x.rank == 0 && !x.going && (x.called || x.list.length == 1) && s.instReady x.comm x.inst
        && !s.attached (.coll x.comm) && !s.collHeld x.ctx).foldl (fun (s : State) x =>
      let (d, s) := s.freeNat
      let d := if x.called then 0 else if x.num = 1 ∧ x.count ≤ 16 then d % 40 else d
      (s.setColl { x with going := true, called := true }).due (s.cyc + 1 + d) 555 (.collectiveComplete x.comm x.inst)) s

end State

end Sys2Proof.Machine
end

