-- ==== Sys2Proof/Machine/Evict.lean ====
section
/-! DEFINITION. Eviction (R393, R464–R467): the EVICT packet, the phases of the source, and the arming of a target. -/

namespace Sys2Proof.Machine

/-! ### Arming a target (R440, R464) -/

/-- EVCTL without FWDONE: SRC and ARM are written; a checkpoint of another source, or of an earlier arming, counts as not received (R464). -/
def execEvctlArm (value : Nat) (s : State) : Out :=
  let old := s.devr 0x17B
  let new := BitVec.ofNat 64 (value / 2 ^ 16 % 512 * 2 ^ 16 + value % 2)
  let fresh := bitsAt new 0 0 == 1 && (bitsAt old 0 0 == 0 || bitsAt old 24 16 != bitsAt new 24 16)
  let s := if fresh then { s with evict := { s.evict with received := false } } else s
  .next (s.setDev 0x17B new)

/-- EVCTL with FWDONE: firmware has saved its state (R465). -/
def execEvctlFwdone (s : State) : Out :=
  .next (if s.evict.phase = 2 then { s with evict := { s.evict with fwDone := true } } else s)

/-! ### The source's phases (R465) -/

/-- EVICT (R393, R464): a queue without PRIV ends it with status 9; else the reservation goes to the target, which must answer within LINKTO × 2^20 cycles;
all phases must end within 52,500,000,000 cycles. -/
def execEvict (s : State) : Out :=
  let k := s.subject
  .next (s.visitPacket k fun s p =>
    if p.typ ≠ 5 then s
    else if s.evicting then s
    else if !(s.queueAt k).priv then s.endPacket k 9
    else
      let target := p.words.getD 1 0 % 512
      let s := { s with evict := { s.evict with phase := 1, safe := false, fwDone := false, startedAt := s.cyc, target := target, queue := k, ctxs := [],
                                                gone := [], sent := [] } }
      let s := s.sendControl 4 target []
      ((s.queueState k 4).due (s.cyc + s.linkLimit) 20 .evictionFail (2 * s.cyc + 2)).due (s.cyc + 52500000000) 20 .evictionFail (2 * s.cyc + 3))

namespace State

/-- The Live contexts switch out for the eviction (R465). -/
def evictOut (s : State) : State :=
  (s.ctxs.filter fun r => r.2.state == 1).foldl (fun (s : State) r =>
    let s := s.switchOut r.1
    { s with evict := { s.evict with ctxs := s.evict.ctxs.filter (· != r.1) ++ [r.1] } }) s

/-- Quiescing has ended: every context is Parked or gone, firmware has saved its state, and no complete instance has writes to make (R465). -/
def quiesced (s : State) : Bool :=
  s.evict.phase == 2 && s.evict.fwDone && s.ctxs.all (fun r => r.2.state == 3 || r.2.state == 0) &&
    s.colls.all fun x => x.ended || !x.called

/-- A port or the link carries nothing any more: Drained, or not in use at all (R465). -/
def routesDrained (s : State) : Bool :=
  s.evict.phase == 4 && (s.link.state == 5 || s.link.state == 0) &&
    (List.range 12).all fun p => (s.portAt p).state == 5 || (s.portAt p).state == 6 || (s.portAt p).state == 0

/-- An address lies in one of these pages. -/
def inPages (l : List (Nat × Nat)) (k : Nat) : Bool := l.any fun p => decide (p.1 ≤ k ∧ k < p.1 + p.2)

/-- A byte of local HBM that is streamed: those of in-service pages, but for the pages that only contexts torn down since have held, and the quarantine
map (R465, R467). -/
def streamed (s : State) (live : List (Nat × Nat)) (k : Nat) : Bool :=
  let o := k - s.pkg * 2 ^ 42
  let map := bitsAt (s.devr 0x166) 51 12 * 4096
  decide (s.pkg * 2 ^ 42 ≤ k ∧ o < hbmBytes) &&
    ((s.quarState (o / 65536) == 0 && (!inPages s.evict.gone k || inPages live k)) || decide (map ≤ k ∧ k < map + (localPages + 3) / 4))

/-- The in-service pages of local HBM are written to the same addresses of the target's HBM, with their poison, and the target is sent the quarantine map
and the open collective instances (R465). -/
def streamOut (s : State) : State :=
  let b := s.evict.target * 2 ^ 42
  let a := s.pkg * 2 ^ 42
  let live := s.ctxs.flatMap fun r => s.ctxPages r.1
  let mine := s.streamed live
  let theirs (k : Nat) : Bool := decide (b ≤ k) && s.streamed live (k - b + a)
  let s := { s with evict := { s.evict with sent := s.colls.filter fun x => !x.ended } }
  if a = b then s
  else
    { s with
      mem := (s.mem.filter fun c => mine c.1).foldl (fun m c => Memory.write m (c.1 - a + b) c.2) (s.mem.filter fun c => !theirs c.1)
      poison := (s.poison.filter mine ++ ((s.hbmCheck.filter fun (r : Nat × Nat) => mine r.1 && s.checkFails r.1).flatMap fun (r : Nat × Nat) =>
        (List.range 8).map fun w => r.1 + 8 * w)).foldl (fun l k => insertKey l (k - a + b)) (s.poison.filter fun k => !theirs k)
      hbmCheck := s.hbmCheck.filter fun r => !theirs r.1
      hbmMeta := (s.hbmMeta.filter fun r => mine r.1).foldl (fun m r => m.put (r.1 - a + b) r.2) (s.hbmMeta.filter fun r => !theirs r.1) }

/-- Windows of a context that its switch-out made invalid are valid again (R421, R466). -/
def windowsBack (s : State) (c : Nat) : State :=
  (mapped (s.ctxAt c)).foldl (fun (s : State) m =>
    if (s.lowestWin m.2 c).isSome then s
    else match (List.range 4).find? fun n => bitsAt (s.twin m.2 n) 47 32 == c && (windowOf (s.twin m.2 n)).size == (s.ctxAt c).rootTower * 8192 with
      | none => s
      | some n =>
        let col := s.colAt m.2
        s.setCol m.2 (col.setCtl (0x121 + n) (setBits (col.ctlr (0x121 + n)) 63 63 1))) s

/-- Contexts switch back in after a failed eviction, each once it is Parked (R466). -/
def evictBack (s : State) : State :=
  s.evict.ctxs.foldl (fun (s : State) c =>
    let gone (s : State) : State := { s with evict := { s.evict with ctxs := s.evict.ctxs.filter (· != c) } }
    match (s.ctxAt c).state with
    | 2 => s
    | 3 => (match (s.windowsBack c).switchIn c with
      | .ok s => gone s
      | .error _ => gone s)
    | _ => gone s) s

/-- What the eviction unit does at the end of a cycle. -/
def planEvict (s : State) : State :=
  match s.evict.phase with
  | 2 => s.evictOut
  | 6 => s.evictBack
  | _ => s

end State

/-- EVICT_RESERVE_ACCEPT: the target has accepted, and Quiescing begins (R465). -/
def execEvictReserveAccept (s : State) : Out :=
  .next (if s.evict.phase = 1 then { s with evict := { s.evict with phase := 2 } }.evictOut else s)

/-- QUIESCE_COMPLETE: Streaming begins (R465). -/
def execQuiesceComplete (s : State) : Out :=
  .next (if s.quiesced then { s with evict := { s.evict with phase := 3 } } else s)

/-- STREAMING_COMPLETE: the target has acknowledged all, and ports and link begin to drain (R465). -/
def execStreamingComplete (s : State) : Out :=
  if s.evict.phase ≠ 3 then .next s
  else
    let s := s.streamOut
    .next ((({ s with evict := { s.evict with phase := 4 } }.portsFrom 2 4).portsFrom 3 4).linkDrain)

/-- ROUTE_DRAIN_COMPLETE: SAFE is raised, and the EVICT ends Done (R393, R465). -/
def execRouteDrainComplete (s : State) : Out :=
  .next (if s.routesDrained then
    { s with evict := { s.evict with phase := 5, safe := true } }.endPacket s.evict.queue 0 else s)

/-- EVICTION_FAIL: the target refuses, or a limit has passed: `State.subject` is 2 and 3 more than twice the starting cycle for the reservation's and for
the whole handshake's. The EVICT ends Failed with status 12, ports and link train again, and the contexts switch back in (R464–R466). -/
def execEvictionFail (s : State) : Out :=
  let own := decide (2 ≤ s.subject)
  let stale := own && s.subject / 2 - 1 != s.evict.startedAt
  if s.evict.phase = 0 ∨ 5 ≤ s.evict.phase ∨ stale ∨ (own ∧ s.subject % 2 = 0 ∧ s.evict.phase ≠ 1) then .next s
  else
    let s := { s with evict := { s.evict with phase := 6 } }.endPacket s.evict.queue 12
    let s := (List.range 12).foldl (fun (s : State) p =>
      if (s.portAt p).state = 4 ∨ (s.portAt p).state = 5 then s.portTrain p else s) s
    let s := if s.link.state = 4 ∨ s.link.state = 5 then s.linkTrain else s
    .next s.evictBack

end Sys2Proof.Machine
end

