-- ==== Sys2Proof/Machine/Platform.lean ====
section
/-! DEFINITION. The platform (ch. 20): operating points and heat (R487, R488), quad power (R490–R492), identity, attestation and bring-up
(R486, R493–R497). -/

namespace Sys2Proof.Machine

/-! ### Operating points (R397, R487) -/

namespace State

/-- The highest frequency class that is requested: by packets held under HOLD, and by LAUNCH packets in processing or whose launches are not final
(R397). -/
def fclassAsked (s : State) : Nat :=
  let held := s.fqueues.foldl (fun m r => match r.2.cur with
    | some p => if (p.held.isSome ∧ p.begun.isNone) ∨ (p.typ = 1 ∧ p.begun.isSome ∧ p.done.isNone) then max m (nbits (p.words.getD 0 0) 7 4) else m
    | none => match r.2.heldFrom with
      | some h => if r.2.seqs.contains h.1 then max m h.2.2 else m
      | none => m) 0
  s.launches.foldl (fun m r => match r.2.state with
    | .retired | .failed | .aborted => m
    | _ => if r.2.packet.isSome then max m r.2.fclass else m) held

/-- The point that R487 asks for. -/
def pointWanted (s : State) : Nat :=
  let v := s.devr 0x196
  min (bitsAt v 7 4) (min s.opCap (max (bitsAt v 3 0) s.fclassAsked))

/-- A change to a point is held while a pier's TREFHARD is too long for it (R487). -/
def pointHeld (s : State) (n : Nat) : Bool :=
  (List.range 4).any fun p => decide (53405 * (15 + n) / 30 < bitsAt (s.pierCtl.getD p (ctlReset 0x125)) 15 0)

/-- A change of operating point is decided at the end of a cycle, unless one is on its way (R487). -/
def planPoint (s : State) : State :=
  let n := s.pointWanted
  if n = s.opPoint ∨ s.pointHeld n ∨ s.agenda.any (fun d => match d.ev with | .opPointChange _ => true | _ => false) then s
  else
    let (d, s) := s.freeNat
    s.due (s.cyc + 1 + d % 17499) 20 (.opPointChange n)

/-- The direction of the thermal cap: 1 while a course is at or above THROT, 2 while every course is below THROT − 5 and the cap is not
at its top, 0 otherwise (R488). -/
def capMode (s : State) : Nat :=
  let throt := bitsAt (s.devr 0x195) 39 32
  if s.heats.any fun r => decide (throt ≤ r.2) then 1
  else if s.opCap < 15 ∧ s.heats.all (fun r => decide (r.2 + 5 < throt)) then 2 else 0

/-- The cap's clock runs from the cycle in which its direction last changed; `capTick` holds its next tick, times four, plus the direction (R488). -/
def planCap (s : State) : State :=
  let m := s.capMode
  if m = s.capTick % 4 then s
  else
    let t := (s.cyc + 1750000) * 4 + m
    let s := { s with capTick := if m = 0 then 0 else t }
    if m = 0 then s else s.due (s.cyc + 1750000) 20 .capStep t

/-- The column that holds a physical column site, if one does; `site` is pier × 128 + physical column. -/
def siteCol (s : State) (site : Nat) : Option Nat :=
  ((List.range 64).map fun n => site / 128 % 4 * 64 + n).find? fun c => s.sites.getD c (c % 64) == site % 128

end State

/-- The courses of every physical column, as AGESEL numbers them (R485). -/
def courseKeys : List Nat := (List.range 4).flatMap fun p => (List.range 272).map fun n => p * 512 + n

/-- OP_POINT_CHANGE: the new clock is in force, and every path monitor shows what it is at it, which the spec leaves open; while a TREFHARD is too long for the
point the change is held (R485, R487). -/
def execOpPointChange (point : Nat) (s : State) : Out :=
  if s.pointHeld (point % 16) then .next (s.due (s.cyc + 1) 20 (.opPointChange point))
  else
    .next (courseKeys.foldl (fun (s : State) k =>
      let (m, s) := s.freeNat
      s.marginAt k (m % 65536)) { s with opPoint := point % 16 })

/-- A course's sensor reports a temperature: its THR bit is set at THROT, and cleared below THROT − 5 °C, with event 0x0B (R488, R470). -/
def State.heatAt (s : State) (site course celsius : Nat) : State :=
  let s := { s with heats := s.heats.put (site * 4 + course % 4) (celsius % 256) }
  match s.siteCol site with
  | none => s
  | some col =>
    let throt := bitsAt (s.devr 0x195) 39 32
    let c := s.colAt col
    let v := c.ctlr 0x110
    let b := 4 + course % 4
    let new := if throt ≤ celsius then 1 else if celsius + 5 < throt then 0 else bitsAt v b b
    if new = bitsAt v b b then s
    else
      let v := setBits v b b new
      (s.setCol col (c.setCtl 0x110 v)).health { code := 0x0B, loc := siteLoc site (course % 4), info := BitVec.ofNat 64 (bitsAt v 7 4) }

/-- A course stands at the trip temperature: ports and link go Down, and within 1,750 cycles every quad's clock stops and all else is lost (R488). -/
def State.trip (s : State) (site course celsius : Nat) : State :=
  let s := (List.range 12).foldl (fun (s : State) p => s.portFall p) s
  let (d, s) := s.linkFall.freeNat
  s.due (s.cyc + 1 + d % 1750) 1 (.thermalTrip site course celsius) 1

/-- THERMAL_THROTTLE: a course's sensor reports a temperature, which may trip the device (R488). -/
def execThermalThrottle (site course celsius : Nat) (s : State) : Out :=
  let s := s.heatAt site course celsius
  .next (if celsius < bitsAt (s.devr 0x195) 47 40 then s else s.trip site course celsius)

/-- CAP_STEP: the thermal cap moves by one point (R488). `State.subject` is the tick that put the step down, or 0. -/
def execCapStep (s : State) : Out :=
  if s.subject ≠ 0 ∧ s.subject ≠ s.capTick then .next s
  else
    let cap := match s.capMode with
      | 1 => s.opCap - 1
      | 2 => s.opCap + 1
      | _ => s.opCap
    .next { s with opCap := cap, capTick := 0 }

/-- What a trip leaves: towers with their sum slots, far memory, and the identity store (R488). -/
def State.afterTrip (s : State) : State :=
  { cyc := s.cyc, nextId := s.nextId, nextFree := s.nextFree, mem := s.mem.filter fun c => decide (c.1 < codeBase), poison := s.poison, bitErrs := s.bitErrs,
    hbmMeta := s.hbmMeta, hbmCheck := s.hbmCheck, towers := s.towers.map fun r => (r.1, { sums := r.2.sums }), identity := s.identity, irqs := s.irqs, answers := s.answers,
    heats := s.heats, tripped := true }

/-- THERMAL_TRIP: a course reports the trip temperature (R488). `State.subject` is 1 when the clocks have stopped. -/
def execThermalTrip (site course celsius : Nat) (s : State) : Out :=
  if s.subject = 1 then .next s.afterTrip
  else if celsius < bitsAt (s.devr 0x195) 47 40 then .next s
  else .next ((s.heatAt site course celsius).trip site course celsius)

/-! ### Quad power (R490–R492) -/

namespace State

def setQuad (s : State) (q : Nat) (v : Quad) : State := { s with quads := s.quads.put q v }

/-- A command or wake is refused: QPSTAT.ERR (R490). -/
def quadRefused (s : State) (q : Nat) : State := s.setQuad q { s.quadAt q with err := true }

/-- A quad takes a state by an accepted command or by an event. -/
def quadState (s : State) (q st : Nat) : State := s.setQuad q { s.quadAt q with state := st, err := false, since := s.cyc }

/-- An event of a quad's power sequence is still wanted: it was put down with the cycle of its state, plus 1, or comes from outside. -/
def quadDue (s : State) (q st : Nat) : Bool :=
  (s.quadAt q).state == st && (s.subject == 0 || s.subject == (s.quadAt q).since + 1)

/-- A draining quad's write queues are empty and its channels idle (R490). -/
def quadIdle (s : State) (q : Nat) : Bool :=
  (s.quadAt q).state == 2 && s.portsDrained (quadCols q) &&
    s.chans.all fun r => r.2.queue.all fun c => !(quadCols q).contains c.at_.col

/-- The firmware image is copied to the firmware code store of a column (R493, R497). -/
def loadFirmware (s : State) (col : Nat) : State :=
  let code := s.fwStreams.flatMap fun x => (s.fwImage.drop x.1).take x.2
  { s with mem := Memory.writeBytes s.mem (codeKey (slotKey col 4) 0) (code.map (BitVec.ofNat 8)) }

/-- A column whose rail was off takes its reset values, but for towers, sum slots, windows, TRAPAREA and the lasting bits of FOLDSTAT (R491). -/
def wakeColumn (s : State) (col : Nat) : State :=
  let c := s.colAt col
  let fold := (c.ctlr 0x110) &&& BitVec.ofNat 64 (maskOf 15 8 + maskOf 19 16)
  let kept : Map Word := c.ctl.filter fun r => decide (0x121 ≤ r.1 ∧ r.1 ≤ 0x124) || r.1 == 0x137
  let keep := kept.put 0x110 fold
  let s := (List.range 5).foldl (fun (s : State) n =>
    (((s.zeroRange (codeKey (slotKey col n) 0) (2 ^ 34)).setSlot (slotKey col n) {}).setEng (slotKey col n * 3) {}).setEng (slotKey col n * 3 + 1) {}
      |>.setEng (slotKey col n * 3 + 2) {}) (s.clearMatrix col)
  (s.setCol col { ctl := keep, state := c.state }).loadFirmware col

end State

/-- BLOCK: placements are held, and the resident groups of the quad's columns are pre-empted (R490). -/
def execBlock (quad : Nat) (s : State) : Out :=
  if (s.quadAt quad).state ≠ 0 then .next (s.quadRefused quad)
  else
    let s := s.quadState quad 1
    .next ((s.groups.filter fun r => (quadCols quad).contains r.2.col && r.2.state.resident).foldl (fun (s : State) r => s.preemptGroup r.1 false) s)

/-- UNBLOCK (R490). -/
def execUnblock (quad : Nat) (s : State) : Out :=
  .next (if (s.quadAt quad).state = 1 then s.quadState quad 0 else s.quadRefused quad)

/-- QUIESCE: an empty Blocked quad begins to drain (R490). -/
def execQuiesce (quad : Nat) (s : State) : Out :=
  .next (if (s.quadAt quad).state = 1 ∧ s.quadOcc quad = 0 then s.quadState quad 2 else s.quadRefused quad)

/-- QUAD_DRAIN_COMPLETE: the quad is Gated from the next cycle on; its clock stops 16 cycles after that, and its rail is discharged within 17,500 (R490). -/
def execQuadDrainComplete (quad : Nat) (s : State) : Out :=
  if !s.quadIdle quad then .next s
  else
    let s := s.setQuad quad { s.quadAt quad with state := 3, since := s.cyc }
    let (d, s) := s.freeNat
    .next ((s.due (s.cyc + 17) 20 (.logicClockStop quad) (s.cyc + 1)).due (s.cyc + 17 + d % 17485) 21 (.quadRailOff quad) (s.cyc + 1))

/-- LOGIC_CLOCK_STOP: QPSTAT.CLK falls (R490). -/
def execLogicClockStop (quad : Nat) (s : State) : Out :=
  .next (if s.quadDue quad 3 then s.setQuad quad { s.quadAt quad with clk := false } else s)

/-- QUAD_RAIL_OFF: the quad is Off, its columns Quiesced, and every program row buffer of it Closed (R490, R491). -/
def execQuadRailOff (quad : Nat) (s : State) : Out :=
  if !s.quadDue quad 3 then .next s
  else
    let s := s.setQuad quad { s.quadAt quad with state := 4, rail := false, clk := false, since := s.cyc, lost := true }
    .next ((quadCols quad).foldl (fun (s : State) col =>
      let c := s.colAt col
      let s := if c.state = 0 then s.setCol col { c with state := 2 } else s
      (List.range 16).foldl (fun (s : State) t =>
        let v := s.towerAt (col * 16 + t)
        if v.banks.isEmpty then s
        else s.setTower (col * 16 + t) { v with banks := v.banks.map fun (b : Nat × Bank) => (b.1, { b.2 with
          buf := none, seen := none, now := none,
          restored := match b.2.buf with | some r => b.2.restored.put (v.physRow b.1 r) s.cyc | none => b.2.restored }) }) s) s)

/-- QWAKE: rail and clock come up, in this order, and the wake ends within 35,000 cycles (R490). -/
def execQwake (quad : Nat) (s : State) : Out :=
  let st := (s.quadAt quad).state
  if st < 2 ∨ 4 < st then .next (s.quadRefused quad)
  else
    let s := s.quadState quad 5
    let s := s.setQuad quad { s.quadAt quad with rail := false, clk := false }
    let (a, s) := s.freeNat
    let (b, s) := s.freeNat
    let (c, s) := s.freeNat
    let a := 1 + a % 11666
    let b := a + 1 + b % 11666
    let c := b + c % 11667
    .next (((s.due (s.cyc + a) 20 (.logicRailUp quad) (s.cyc + 1)).due (s.cyc + b) 20 (.logicClockStart quad) (s.cyc + 1)).due
      (s.cyc + c) 700 (.quadWakeComplete quad) (s.cyc + 1))

/-- LOGIC_RAIL_UP: QPSTAT.RAIL reads 1 (R490). -/
def execLogicRailUp (quad : Nat) (s : State) : Out :=
  .next (if s.quadDue quad 5 then s.setQuad quad { s.quadAt quad with rail := true } else s)

/-- LOGIC_CLOCK_START: QPSTAT.CLK reads 1, once the rail is up (R490). -/
def execLogicClockStart (quad : Nat) (s : State) : Out :=
  .next (if s.quadDue quad 5 ∧ (s.quadAt quad).rail then s.setQuad quad { s.quadAt quad with clk := true } else s)

/-- QUAD_WAKE_COMPLETE: the quad is Blocked, its columns Enabled, reset where the rail was off, and their firmware contexts start (R490, R491). -/
def execQuadWakeComplete (quad : Nat) (s : State) : Out :=
  if !s.quadDue quad 5 then .next s
  else
    let lost := (s.quadAt quad).lost
    let s := s.setQuad quad { s.quadAt quad with state := 1, rail := true, clk := true, since := s.cyc, lost := false }
    .next ((quadCols quad).foldl (fun (s : State) col =>
      let s := if lost then s.wakeColumn col else s
      let c := s.colAt col
      let s := if c.state = 2 then s.setCol col { c with state := 0 } else s
      s.startFirmware col) s)

/-! ### Signatures, attestation and the identity store (R486, R493–R496) -/

/-- An Ed25519 signature of bytes, by the key of a party: 0 manufacturing, 1 firmware, 2 the device's identity key. The private keys are not given; each
signature is an open value, a function of key and digest. -/
def signature (key : Nat) (data : List Nat) : List Nat :=
  (List.range 64).map fun i => Config.secretByte (key + 8 * leOf (sha512 data) 64) i % 256

/-- The identity public key that the device derives (R494). -/
def identityKey : List Nat := (List.range 32).map fun i => Config.secretByte 3 i % 256

/-- The head of the identity store as the factory leaves it, up to the endorsement; ordering code and serial number are open (R486). -/
def factoryHead : List Nat :=
  [0x44, 0x49, 0x59, 0x4B, 1, 0, 0, 0] ++ (List.range 32).map (fun i => Config.secretByte 4 i % 128) ++ identityKey

/-- A byte of the identity store that nothing has written since the module was made (R486). DESIGN CHOICE (log 175): its remap area is empty. -/
def factoryByte (a : Nat) : Nat := (factoryHead ++ signature 0 factoryHead).getD a 0

namespace State

/-- A byte of the identity store. -/
def idByte (s : State) (a : Nat) : Nat := (s.identity.get? a).getD (factoryByte a)

/-- Bytes of the identity store. -/
def idBytes (s : State) (at_ n : Nat) : List Nat := (List.range n).map fun i => s.idByte (at_ + i)

/-- Bytes written at a physical far address. -/
def farBytes (s : State) (pa : Nat) (l : List Nat) : State := l.zipIdx.foldl (fun (s : State) b => s.farStore (pa + b.2) 1 b.1) s

/-- Bytes of physical far memory. -/
def farRead (s : State) (pa n : Nat) : List Nat := (List.range n).map fun i => (Memory.read s.mem (pa + i)).toNat

/-- The 128 bytes of a report that its signature covers (R495). -/
def report (s : State) (addr : Nat) : List Nat :=
  s.farRead addr 32 ++ sha512 s.fwImage ++ bytesOf [s.cyc] ++ s.idBytes 0x8C 4 ++ [s.pkg % 256, s.pkg / 256] ++ List.replicate 18 0

end State

/-- ATTEST with REMAP = 0: the report is filled in, signed and written, at a time the spec leaves open; a write while one is in progress has no
effect (R495). `State.subject` is 1 when that time has come. -/
def execAttestReport (addr : Nat) (s : State) : Out :=
  if s.subject = 1 then
    let r := s.report addr
    let l := (r ++ signature 2 r).drop 32
    .next ({ s with attesting := none }.farBytes (addr + 32) l)
  else if s.attesting.isSome then .next s
  else
    let (d, s) := s.freeNat
    .next ({ s with attesting := some addr }.due (s.cyc + 1 + d) 20 (.attestReport addr) 1)

/-- ATTEST with REMAP = 1: GEN and the remap area at an address are signed (R486, R496). -/
def execAttestRemap (addr : Nat) (s : State) : Out :=
  if s.subject = 1 then
    let data := s.farRead (addr + 4) 4 ++ s.farRead (addr + 0x78) (leOf (s.farRead addr 4) 4)
    .next ({ s with attesting := none }.farBytes (addr + 8) (signature 2 data))
  else if s.attesting.isSome then .next s
  else
    let (d, s) := s.freeNat
    .next ({ s with attesting := some addr }.due (s.cyc + 1 + d) 20 (.attestRemap addr) 1)

/-- IDENTITY_STORE_READ: a private read of the store on the management bus (R486). -/
def execIdentityStoreRead (offset count : Nat) (s : State) : Out :=
  .next { s with answers := s.answers ++ [⟨(List.range count).map fun i => s.idByte ((offset + i) % 65536), false⟩] }

/-- IDENTITY_STORE_WRITE: the remap area, its length, GEN and signature are written through the quoin (R496). -/
def execIdentityStoreWrite (offset : Nat) (data : List Nat) (s : State) : Out :=
  .next { s with identity := data.zipIdx.foldl (fun m b =>
    if 0x88 ≤ offset + b.2 ∧ offset + b.2 < 65536 then m.put (offset + b.2) (b.1 % 256) else m) s.identity }

/-! ### Bring-up (R497) -/

namespace State

/-- The step at which bring-up stops, for the identity store and an image with its signature; 0 where it does not (R493, R494, R497). -/
def bringUpStop (s : State) (image : List Nat) : Nat :=
  let code := image.take (image.length - 64)
  if leOf (s.idBytes 0 4) 4 ≠ 0x4B594944 ∨ s.idBytes 0x48 64 ≠ signature 0 (s.idBytes 0 0x48) ∨ s.idBytes 0x28 32 ≠ identityKey then 2
  else if image.length < 64 ∨ 2 ^ 20 < image.length ∨ image.drop (image.length - 64) ≠ signature 1 code then 5
  else 0

/-- The signature of the remap area holds (R486). -/
def remapGood (s : State) : Bool :=
  let n := leOf (s.idBytes 0x88 4) 4
  n % 8 == 0 && decide (n ≤ 65280) && s.idBytes 0x90 64 == signature 2 (s.idBytes 0x8C 4 ++ s.idBytes 0x100 n)

/-- The remap entries of the identity store, where their signature holds (R486). -/
def remapEntries (s : State) : List Nat := if s.remapGood then wordsOf (s.idBytes 0x100 (leOf (s.idBytes 0x88 4) 4)) else []

/-- A column entry of the remap area (R486): the number of the grid site, or the number that a spare site holds, goes to the target; a spare that a
number leaves has failed (R484). -/
def applyColumn (s : State) (e : Nat) : State :=
  let pier := nbits e 61 60
  let site := nbits e 59 53
  match if site < 64 then some (pier * 64 + site) else s.siteCol (pier * 128 + site) with
  | none => s
  | some col => { s with sites := s.sites.put col (nbits e 29 20),
                         failedSites := if site < 64 then s.failedSites else s.failedSites ++ [pier * 128 + site] }

/-- The device after the steps of bring-up: towers and far memory as they were, the remap applied, and every firmware context at the start of its image
(R497). -/
def broughtUp (s : State) (image : List Nat) : State :=
  let t : State := { nextFree := s.nextFree, mem := s.mem.filter fun c => decide (c.1 < codeBase), poison := s.poison, bitErrs := s.bitErrs, hbmMeta := s.hbmMeta,
                     hbmCheck := s.hbmCheck, towers := s.towers.map fun r => (r.1, { sums := r.2.sums }), identity := s.identity, answers := s.answers, irqs := s.irqs,
                     fwImage := image.take (image.length - 64), quoin := if s.remapGood then 0 else 1 }
  let t := (s.remapEntries.filter fun e => nbits e 63 62 == 2).foldl applyColumn { t with remapTable := s.remapEntries }
  let t := (List.range 256).foldl applySite t
  (List.range 256).foldl (fun (t : State) col => (t.loadFirmware col).startFirmware col) t

end State

/-- BRING_UP: the quoin brings the device up with a firmware image and its signature; a failure leaves it at its step, with no quad's rail raised. A step from 1
to 6 that fails for a reason of its own comes from outside, in `State.subject` (R497). -/
def execBringUp (image : List Nat) (s : State) : Out :=
  let a := s.bringUpStop image
  let b := if s.subject ≤ 6 then s.subject else 0
  match (if a = 0 ∨ (b ≠ 0 ∧ b < a) then b else a) with
  | 0 => .next (s.broughtUp image)
  | n => .next { s.afterTrip with tripped := false, stuckAt := n, quads := (List.range 64).map fun q => (q, { state := 4, rail := false, clk := false, lost := true }) }

end Sys2Proof.Machine
end

