-- ==== Sys2Proof/Machine/Respond.lean ====
section
/-! DEFINITION. The answers of the page handler (R434), and the control registers whose writes act on more than themselves (R50, R96,
R209). -/

namespace Sys2Proof.Machine

/-! ### Answers of the page handler (R434) -/

namespace State

/-- A requester that waited in a record tries its access again. Savers, walkers of pin lists and the collectives engine look for themselves. -/
def retryAccess (s : State) (id : Nat) : Requester → State
  | .chan x =>
    let v := s.chanAt x
    if v.susp ≠ some id then s
    else
      (s.setChan x { v with susp := none }).resumeChan x
  | .relay ctx entry => s.due (s.cyc + 1) 580 (.relayoutTileRetry ctx entry)
  | .queue k =>
    match (s.queueAt k).state, (s.queueAt k).cur with
    | 5, _ => s.due s.cyc 900 .queueUnpark k
    | _, some p => if p.begun.isSome then s.due (s.cyc + 1) 49 p.event k else s
    | _, none => s
  | .fetch k =>
    match s.groupOf k.sk with
    | none => s
    | some (g, v) =>
      if v.state = .placed then s.due (s.cyc + 1) 18 (.codeStoreCopyComplete g)
      else match (s.engAt k.ek).codeMiss with
        | some b => s.due (s.cyc + 1) 26 (.codeBlockFetch k.col k.slot b)
        | none => s
  | .save g => if ((s.groups.get? g).map fun (v : Group) => v.state) = some GState.placed then s.due (s.cyc + 1) 18 (.codeStoreCopyComplete g) else s
  | .image c => s.due (s.cyc + 1) 20 (if (s.ctxAt c).state = 2 then .switchoutDrainComplete else .switchinRestoreComplete) c
  | .launch lid =>
    match (s.launches.get? lid).map fun (l : Launch) => l.state with
    | some LState.checking => s.due (s.cyc + 1) 22 (.launchCheck lid)
    | _ => s.due (s.cyc + 1) 22 (.launchRetire lid)
  | .held _ _ | .pin _ | .coll _ | .walk => s

/-- The refusal of a page that a saved channel waits for is kept in its save record (R285, R434). -/
def refuseHeld (s : State) (vpage code g n : Nat) : State :=
  match s.groups.get? g with
  | some v => s.setGroup g { v with saved := v.saved.map fun r =>
      { r with chans := r.chans.zipIdx.map fun c => if c.2 = n then (c.1.1, { c.1.2 with refused := some (vpage, code) }) else c.1 } }
  | none => s

/-- An answer to a record takes hold at the end of the cycle (R434). -/
def answerRecord (s : State) (id : Nat) (code : Option Nat) : State :=
  { s with pages := { s.pages with answers := s.pages.answers ++ [(id, code)] } }

/-- A record closes, and each access that it holds tries again; `code` is none where the answer is retry, and otherwise the code with which its access of that page
is refused. A relayout's and a pin list's refusal is always PAGE_FAULT (R434). -/
def closeAnswered (s : State) (id : Nat) (code : Option Nat) : State :=
  match s.pages.open_.find? fun r => r.id == id with
  | none => s
  | some r =>
    let s := { s with pages := { s.pages with open_ := s.pages.open_.filter fun x => x.id != id } }
    let s := match code with
      | none => s
      | some c => r.who.foldl (fun s w => match w with
          | .held g n => s.refuseHeld r.vpage c g n
          | w => { s with denied := s.denied ++ [(w, r.vpage, match w with | .relay _ _ | .pin _ => 0x12 | _ => c)] }) s
    (r.who.foldl (fun (s : State) w => s.retryAccess id w) s).idFreed

/-- The end of a cycle at the record table: its faults attach, and the records that it has answered close, an access that attached in this cycle with
them (R432, R434). -/
def closeAnswers (s : State) : State :=
  let s := s.takeFaults
  s.pages.answers.foldl (fun s a => s.closeAnswered a.1 a.2) { s with pages := { s.pages with answers := [] } }

end State

/-- PFRESP with OUTCOME 0 (R434). -/
def execPfrespRetry (id : Nat) (s : State) : Out := .next (s.answerRecord id none)

/-- PFRESP with OUTCOME 1 (R434). -/
def execPfrespRefusePageFault (id : Nat) (s : State) : Out := .next (s.answerRecord id (some 0x12))

/-- PFRESP with OUTCOME 2 (R434). -/
def execPfrespRefusePermission (id : Nat) (s : State) : Out := .next (s.answerRecord id (some 0x13))

/-! ### Registers whose writes act at the end of the cycle -/

/-- RNGSEED_WRITE: every lane's generator is seeded (R50). -/
def execRngseedWrite (col slot value : Nat) (s : State) : Out :=
  let sk := slotKey col slot
  let seed := value % 2 ^ 32
  .next (s.setSlot sk (((s.slotAt sk).setCtl 0x002 (BitVec.ofNat 64 seed)).setGens ((List.range 256).map (seedLane seed))))

/-- QMAP_WRITE: queues get their writers and readers; where R96 refuses the value, or an entry is held or reserved, nothing changes. -/
def execQmapWrite (col slot value : Nat) (s : State) : Out :=
  let sk := slotKey col slot
  let v : Word := BitVec.ofNat 64 (value % 2 ^ 32)
  .next (if s.queuesBusy sk || State.qmapBad v then s else s.setSlot sk ((s.slotAt sk).setCtl 0x012 v))

/-- TWIN_WRITE: a window register is set, and the sum slots of its window are cleared (R209, R321). -/
def execTwinWrite (col win value : Nat) (s : State) : Out :=
  let c := s.colAt col
  .next ((s.setCol col (c.setCtl (0x121 + win % 4) (BitVec.ofNat 64 value))).clearSums col (win % 4))

end Sys2Proof.Machine
end

