-- ==== Sys2Proof/Machine/Ring.lean ====
section
/-! DEFINITION. The shared form of a conditional stream: a ring in a tower whose port performs each push and pop (R171, R172). -/

namespace Sys2Proof.Machine

/-- The descriptor of a ring (R171). -/
structure RingDesc where
  head : Nat
  tail : Nat
  base : Nat
  log2 : Nat
  tag : Nat

def State.ringDesc (s : State) (key : Nat) : RingDesc :=
  ⟨s.load key 4, s.load (key + 4) 4, s.load (key + 8) 4, s.load (key + 12) 1, s.load (key + 13) 1⟩

/-- The bytes from offset `off` of a cell lie in the window of a stream in its own column: their key, or TOWER_BOUNDS. -/
def ringRange (s : State) (k : Stream) (pcol cell off n : Nat) : Except Word Nat :=
  match s.window k k.col with
  | none => .error (BitVec.ofNat 64 (progAddr pcol cell off))
  | some w =>
    if off + n ≤ w.size then .ok (towerKey k.col cell (w.base + off))
    else .error (BitVec.ofNat 64 (progAddr pcol cell (max off w.size)))

/-- The descriptor of a ring is read: its words are checked (R228, R229). -/
def State.checkRing (s : State) (k : Stream) (desc : Nat) : State :=
  match ringRange s k (desc / 2 ^ 26) (desc / 2 ^ 22 % 16) (desc % 2 ^ 22) 16 with
  | .ok key => s.checkRead key 16
  | .error _ => s

/-- The checks of R172 in their order: the keys of descriptor and ring, or a fault. -/
def ringCheck (s : State) (k : Stream) (desc fmt pos : Nat) : Except (Nat × Word) (Nat × Nat × RingDesc) :=
  let pcol := desc / 2 ^ 26
  let cell := desc / 2 ^ 22 % 16
  let here := s.namedCol k pcol
  if here ≠ some k.col then .error (0x09, BitVec.ofNat 64 desc)
  else match ringRange s k pcol cell (desc % 2 ^ 22) 16 with
    | .error i => .error (0x09, i)
    | .ok key =>
      let d := s.ringDesc key
      match ringRange s k pcol cell d.base (4 * 2 ^ d.log2) with
      | .error i => .error (0x09, i)
      | .ok ring =>
        if d.tag ≠ fmt ∨ !([0, 1, 2, 3, 4, 5, 6, 8, 9, 10].contains d.tag) then .error (0x04, mismatchInfo fmt d.tag 0 pos)
        else if d.log2 < 6 ∨ 16 < d.log2 ∨ d.base % 64 ≠ 0 ∨ 2 ^ 22 ≤ d.base then .error (0x09, BitVec.ofNat 64 desc)
        else if s.poisoned key ∨ s.poisoned (key + 8) then .error (0x0D, BitVec.ofNat 64 (desc / 8 * 8))
        else .ok (key, ring, d)

/-- The offset of record `i` in its ring (R171). -/
def RingDesc.at_ (d : RingDesc) (i : Nat) : Nat := 4 * (i % 2 ^ d.log2)

/-- A poisoned word among `n` records from record `i` on, as TRAPINFO. -/
def ringPoison (s : State) (desc ring : Nat) (d : RingDesc) (i n : Nat) : Option Word :=
  ((List.range n).find? fun j => s.poisoned (ring + d.at_ (i + j))).map fun j =>
    BitVec.ofNat 64 ((desc / 2 ^ 22 * 2 ^ 22 + d.base + d.at_ (i + j)) / 8 * 8)

/-- A shared operation completes at the end of this cycle with its results. -/
def ringDone (s : State) (f : Flight) (ws : List Write) : State :=
  (s.setFlight { f with writes := ws, pend := .none }).due s.cyc 600 (.wordComplete f.id)

/-- It faults at its completion, with no effect (R172). -/
def ringFault (s : State) (f : Flight) (c : Nat) (i : Word) : State :=
  (s.setFlight { f with fault := some (c, i), pend := .none }).due s.cyc 600 (.wordComplete f.id)

/-- The earlier accesses of its engine to the tower of its descriptor keep a shared operation from its port (R304, R307, R308). -/
def ringWaits (s : State) (f : Flight) (desc : Nat) : Bool :=
  match ringRange s f.at_ (desc / 2 ^ 26) (desc / 2 ^ 22 % 16) (desc % 2 ^ 22) 16 with
  | .ok key => !s.mayPerform f ⟨0, key, desc, 16, 0, false, 0, none⟩
  | .error _ => false

/-- CS_SHARED_RETRY: the port performs the shared push or pop of a slot, or finds no room or too few records and tries again
(R172): those that wait at the port go first, in the order in which they reached it, and those that reach it in one cycle in the order of their slots. A push is
a release, so it waits for the earlier writes of its engine; both wait for its earlier accesses to their tower. -/
def execCsSharedRetry (col slot : Nat) (s : State) : Out :=
  let again (s : State) : Out := .next (s.due (s.cyc + 1) 550 (.csSharedRetry col slot))
  let later (s : State) : Out := .next (s.due (s.cyc + 1) (555 + slot) (.csSharedRetry col slot))
  match s.flights.find? fun f => f.at_ == ⟨col, slot, .x⟩ && (match f.pend, f.ins with
      | .port _ _, .cspush _ _ => true
      | .port _ _, .cspop _ _ => true
      | _, _ => false) with
  | none => .next s
  | some f =>
    let (desc, args) := match f.pend with | .port a l => (a, l) | _ => (0, [])
    let fmt := args.getD 0 0
    if ringWaits s f desc then later s else
    match f.ins with
    | .cspush _ _ =>
      if s.writesBefore f.at_ f.id then later s
      else
        let s := s.checkRing f.at_ desc
        match ringCheck s f.at_ desc fmt 3 with
        | .error (c, i) => .next (ringFault s f c i)
        | .ok (key, ring, d) =>
          let recs := args.drop 1
          let held := (d.tail + 2 ^ 32 - d.head) % 2 ^ 32
          if 2 ^ d.log2 < held + recs.length then again s
          else match ringPoison s desc ring d d.tail recs.length with
            | some i => .next (ringFault s f 0x0D i)
            | none =>
              let s := recs.zipIdx.foldl (fun s r => s.portStore (ring + d.at_ (d.tail + r.2)) 4 r.1) s
              let s := if recs.isEmpty then s else s.portStore (key + 4) 4 ((d.tail + recs.length) % 2 ^ 32)
              .next (ringDone s f [])
    | .cspop _ g =>
      let s := s.checkRing f.at_ desc
      match ringCheck s f.at_ desc fmt 0 with
      | .error (c, i) => .next (ringFault s f c i)
      | .ok (key, ring, d) =>
        let held := (d.tail + 2 ^ 32 - d.head) % 2 ^ 32
        match popCountOf g held with
        | none => if g.sub / 8 % 2 = 1 then .next (ringDone s f [.cf false]) else again s
        | some t =>
          let s := (List.range t).foldl (fun s j => s.checkRead (ring + d.at_ (d.head + j)) 4) s
          match ringPoison s desc ring d d.head t with
          | some i => .next (ringFault s f 0x0D i)
          | none =>
            let recs := (List.range t).map fun j => BitVec.ofNat 32 (s.load (ring + d.at_ (d.head + j)) 4)
            let s := if t = 0 then s else s.portStore key 4 ((d.head + t) % 2 ^ 32)
            .next (ringDone s f (popWrites g recs))
    | _ => .next s

end Sys2Proof.Machine
end

