-- ==== Sys2Proof/Machine/Scalar.lean ====
section
/-! DEFINITION. Scalar words: arithmetic, logic, compares, moves, addresses, bit fields and the spill store (R117–R127). -/

namespace Sys2Proof.Machine

/-- NOP does nothing but its sequencing (R121). -/
def execNop (q : Seq) (f : FmtA) (s : State) : Out :=
  wordIssue (.nop q f) q [] (fun s => .go { st := s }) s

/-- ADD: a + b (R121). -/
def execAdd (q : Seq) (f : FmtA) (s : State) : Out :=
  wordIssue (.add q f) q (regs3 f) (alu3 f 1 (· + ·)) s

/-- SUB: a − b (R121). -/
def execSub (q : Seq) (f : FmtA) (s : State) : Out :=
  wordIssue (.sub q f) q (regs3 f) (alu3 f 1 (· - ·)) s

/-- MUL: the low 64 bits of the product (R121). -/
def execMul (q : Seq) (f : FmtA) (s : State) : Out :=
  wordIssue (.mul q f) q (regs3 f) (alu3 f 3 (· * ·)) s

/-- The high half of the exact 128-bit product, signed or unsigned (R121). -/
def mulHigh (unsigned : Bool) (a b : Word) : Word :=
  if unsigned then BitVec.ofNat 64 (a.toNat * b.toNat / 2 ^ 64)
  else BitVec.ofInt 64 (a.toInt * b.toInt / 2 ^ 64)

/-- MULH, MULH.U (R121). -/
def execMulh (q : Seq) (f : FmtA) (s : State) : Out :=
  wordIssue (.mulh q f) q (regs3 f) (alu3 f 3 (mulHigh (f.sub == 1))) s

/-- The quotient of R122, rounded towards zero. -/
def quotient (unsigned : Bool) (a b : Word) : Word :=
  if unsigned then BitVec.ofNat 64 (a.toNat / b.toNat) else BitVec.ofInt 64 (a.toInt.tdiv b.toInt)

/-- The remainder of R122, with the sign of the dividend. -/
def remainder (unsigned : Bool) (a b : Word) : Word :=
  if unsigned then BitVec.ofNat 64 (a.toNat % b.toNat) else BitVec.ofInt 64 (a.toInt.tmod b.toInt)

/-- A division: INTEGER_DIVIDE when the divisor is zero (R122, R143). -/
def divide (f : FmtA) (op : Word → Word → Word) (s : State) : Act :=
  consuming s [f.oa, f.ob]
    (if s.sv f.ob = 0 then .fault 0x0C 0 else resS s f.dst (op (s.sv f.oa) (s.sv f.ob)) 24)

/-- DIV, DIV.U (R122). -/
def execDiv (q : Seq) (f : FmtA) (s : State) : Out :=
  wordIssue (.div q f) q (regs3 f) (divide f (quotient (f.sub == 1))) s

/-- REM, REM.U (R122). -/
def execRem (q : Seq) (f : FmtA) (s : State) : Out :=
  wordIssue (.rem q f) q (regs3 f) (divide f (remainder (f.sub == 1))) s

/-- AND (R121). -/
def execAnd (q : Seq) (f : FmtA) (s : State) : Out :=
  wordIssue (.and q f) q (regs3 f) (alu3 f 1 (· &&& ·)) s

/-- OR (R121). -/
def execOr (q : Seq) (f : FmtA) (s : State) : Out :=
  wordIssue (.or q f) q (regs3 f) (alu3 f 1 (· ||| ·)) s

/-- XOR (R121). -/
def execXor (q : Seq) (f : FmtA) (s : State) : Out :=
  wordIssue (.xor q f) q (regs3 f) (alu3 f 1 (· ^^^ ·)) s

/-- The count of a shift: the low six bits of b (R121). -/
def shiftCount (b : Word) : Nat := b.toNat % 64

/-- The shifts of R121. -/
def shiftLeft (a b : Word) : Word := a <<< shiftCount b
def shiftRight (a b : Word) : Word := a >>> shiftCount b
def shiftArith (a b : Word) : Word := a.sshiftRight (shiftCount b)
def rotateLeft (a b : Word) : Word := a.rotateLeft (shiftCount b)

/-- SHL (R121). -/
def execShl (q : Seq) (f : FmtA) (s : State) : Out :=
  wordIssue (.shl q f) q (regs3 f) (alu3 f 1 shiftLeft) s

/-- SHR (R121). -/
def execShr (q : Seq) (f : FmtA) (s : State) : Out :=
  wordIssue (.shr q f) q (regs3 f) (alu3 f 1 shiftRight) s

/-- SAR (R121). -/
def execSar (q : Seq) (f : FmtA) (s : State) : Out :=
  wordIssue (.sar q f) q (regs3 f) (alu3 f 1 shiftArith) s

/-- ROL (R121). -/
def execRol (q : Seq) (f : FmtA) (s : State) : Out :=
  wordIssue (.rol q f) q (regs3 f) (alu3 f 1 rotateLeft) s

/-- Leading zero bits, 64 for zero (R121). -/
def clz64 (a : Word) : Word := if a = 0 then 64 else BitVec.ofNat 64 (63 - Nat.log2 a.toNat)

/-- Set bits of the low `w` bits of a number. -/
def popCount (w n : Nat) : Nat := (List.range w).countP fun i => n.testBit i

/-- CLZ (R121). -/
def execClz (q : Seq) (f : FmtA) (s : State) : Out :=
  wordIssue (.clz q f) q [.s f.dst, .s f.oa] (alu2 f clz64) s

/-- POPC (R121). -/
def execPopc (q : Seq) (f : FmtA) (s : State) : Out :=
  wordIssue (.popc q f) q [.s f.dst, .s f.oa] (alu2 f fun a => BitVec.ofNat 64 (popCount 64 a.toNat)) s

/-- The smaller of two words (R121). -/
def minWord (unsigned : Bool) (a b : Word) : Word :=
  if (if unsigned then b.ult a else b.slt a) then b else a

/-- The larger of two words (R121). -/
def maxWord (unsigned : Bool) (a b : Word) : Word :=
  if (if unsigned then a.ult b else a.slt b) then b else a

/-- MIN, MIN.U (R121). -/
def execMin (q : Seq) (f : FmtA) (s : State) : Out :=
  wordIssue (.min q f) q (regs3 f) (alu3 f 1 (minWord (f.sub == 1))) s

/-- MAX, MAX.U (R121). -/
def execMax (q : Seq) (f : FmtA) (s : State) : Out :=
  wordIssue (.max q f) q (regs3 f) (alu3 f 1 (maxWord (f.sub == 1))) s

/-- A compare writes cf and the destination (R123). -/
def compare (dst : Nat) (c : Bool) (s : State) : Act :=
  .go { st := s, writes := [.s dst { val := BitVec.ofNat 64 c.toNat }, .cf c] }

/-- CMP.cc (R123). -/
def execCmp (q : Seq) (f : FmtA) (s : State) : Out :=
  wordIssue (.cmp q f) q (.cf :: regs3 f)
    (fun s => consuming s [f.oa, f.ob] (compare f.dst (condHolds f.sub (s.sv f.oa) (s.sv f.ob)) s)) s

/-- CMPI.cc (R123). -/
def execCmpi (q : Seq) (f : FmtB) (s : State) : Out :=
  wordIssue (.cmpi q f) q (.cf :: regsI f)
    (fun s => consuming s [f.oa] (compare f.dst (condHolds f.sub (s.sv f.oa) (imm f)) s)) s

/-- ADDI (R121). -/
def execAddi (q : Seq) (f : FmtB) (s : State) : Out :=
  wordIssue (.addi q f) q (regsI f) (aluI f (· + ·)) s

/-- ANDI (R121). -/
def execAndi (q : Seq) (f : FmtB) (s : State) : Out :=
  wordIssue (.andi q f) q (regsI f) (aluI f (· &&& ·)) s

/-- ORI (R121). -/
def execOri (q : Seq) (f : FmtB) (s : State) : Out :=
  wordIssue (.ori q f) q (regsI f) (aluI f (· ||| ·)) s

/-- XORI (R121). -/
def execXori (q : Seq) (f : FmtB) (s : State) : Out :=
  wordIssue (.xori q f) q (regsI f) (aluI f (· ^^^ ·)) s

/-- SHLI (R121). -/
def execShli (q : Seq) (f : FmtB) (s : State) : Out :=
  wordIssue (.shli q f) q (regsI f) (aluI f shiftLeft) s

/-- SHRI (R121). -/
def execShri (q : Seq) (f : FmtB) (s : State) : Out :=
  wordIssue (.shri q f) q (regsI f) (aluI f shiftRight) s

/-- SARI (R121). -/
def execSari (q : Seq) (f : FmtB) (s : State) : Out :=
  wordIssue (.sari q f) q (regsI f) (aluI f shiftArith) s

/-- ROLI (R121). -/
def execRoli (q : Seq) (f : FmtB) (s : State) : Out :=
  wordIssue (.roli q f) q (regsI f) (aluI f rotateLeft) s

/-- MOV carries the register with its mark (R124, R230). -/
def execMov (q : Seq) (f : FmtA) (s : State) : Out :=
  wordIssue (.mov q f) q [.s f.dst, .s f.oa]
    (fun s => .go { st := s, writes := [.s f.dst (s.e.sreg f.oa)] }) s

/-- MOVI (R124). -/
def execMovi (q : Seq) (f : FmtB) (s : State) : Out :=
  wordIssue (.movi q f) q [.s f.dst] (fun s => resS s f.dst (imm f)) s

/-- The address LEA forms, or the TRAPINFO of its TOWER_BOUNDS (R125, R378). DESIGN CHOICE (log 152): in an audit replay the column that it counts from
and names is the replay's own. -/
def leaAddr (s : State) (f : FmtB) : Except Word Word :=
  let k := s.cur
  let v := (s.sv f.oa + imm f).toNat
  match neighbour k.col f.sub with
  | none => .error (BitVec.ofNat 64 (2 ^ 63 + s.progCol k k.col * 2 ^ 26 + v % 2 ^ 26))
  | some c =>
    if 2 ^ 26 ≤ v then .error (BitVec.ofNat 64 (s.progCol k c * 2 ^ 26 + v % 2 ^ 26))
    else if k.fw then .ok (BitVec.ofNat 64 (c * 2 ^ 26 + v))
    else match s.ctxCol (s.ctxOf k) c with
      | some cc => .ok (BitVec.ofNat 64 (cc * 2 ^ 26 + v))
      | none => .error (BitVec.ofNat 64 (c * 2 ^ 26 + v))

/-- LEA (R125). -/
def execLea (q : Seq) (f : FmtB) (s : State) : Out :=
  wordIssue (.lea q f) q (regsI f)
    (fun s => consuming s [f.oa] (match leaAddr s f with
      | .ok v => resS s f.dst v
      | .error i => .fault 0x09 i)) s

/-- Position and width of a bit field (R126). -/
def fieldOf (f : FmtB) : Nat × Nat := (f.imm % 64, f.imm / 64 % 64 + 1)

/-- The field EXT extracts, zero- or sign-extended (R126). -/
def extField (signed : Bool) (pos width : Nat) (a : Word) : Word :=
  let v := a.toNat / 2 ^ pos % 2 ^ width
  if signed && v.testBit (width - 1) then BitVec.ofInt 64 ((v : Int) - 2 ^ width) else BitVec.ofNat 64 v

/-- The word with a field inserted (R126). -/
def insField (pos width : Nat) (old a : Word) : Word :=
  let m : Word := BitVec.ofNat 64 (2 ^ width - 1)
  (old &&& ~~~(m <<< pos)) ||| ((a &&& m) <<< pos)

/-- EXT (R126). -/
def execExt (q : Seq) (f : FmtB) (s : State) : Out :=
  wordIssue (.ext q f) q (regsI f)
    (fun s => consuming s [f.oa]
      (resS s f.dst (extField (f.sub == 1) (fieldOf f).1 (fieldOf f).2 (s.sv f.oa)))) s

/-- INS reads its destination as an operand (R126, R143). -/
def execIns (q : Seq) (f : FmtB) (s : State) : Out :=
  wordIssue (.ins q f) q (regsI f)
    (fun s => consuming s [f.oa, f.dst]
      (resS s f.dst (insField (fieldOf f).1 (fieldOf f).2 (s.sv f.dst) (s.sv f.oa)))) s

/-- The spill slot an immediate names, or the fault of R127. -/
def spillSlot (v : Word) : Except (Nat × Word) Nat :=
  if 4096 ≤ v.toNat then .error (0x0A, v &&& 0xFFFF)
  else if v.toNat % 8 ≠ 0 then .error (0x0B, v)
  else .ok (v.toNat / 8)

/-- SPILL (R127). -/
def execSpill (q : Seq) (f : FmtB) (s : State) : Out :=
  wordIssue (.spill q f) q [.s f.oa]
    (fun s => match spillSlot (imm f) with
      | .error x => .fault x.1 x.2
      | .ok n => .go { st := s.setE { s.e with spill := s.e.spill.put n (s.e.sreg f.oa) } }) s

/-- FILL (R127). -/
def execFill (q : Seq) (f : FmtB) (s : State) : Out :=
  wordIssue (.fill q f) q [.s f.dst]
    (fun s => match spillSlot (imm f) with
      | .error x => .fault x.1 x.2
      | .ok n => .go { st := s, writes := [.s f.dst (s.e.spill.getD n {})] }) s

end Sys2Proof.Machine
end

