-- ==== Sys2Proof/Machine/Dispatch.lean ====
section
/-! DEFINITION. The meaning of every step: one arm for each constructor of `Instr`. -/

namespace Sys2Proof.Machine

/-- The meaning of an instruction word at the current stream, or of an event. -/
def exec (i : Instr) (s : State) : Host.Outcome State Fault Refusal :=
  match i with
  | .nop q f => Sys2Proof.Machine.execNop q f s
  | .add q f => Sys2Proof.Machine.execAdd q f s
  | .sub q f => Sys2Proof.Machine.execSub q f s
  | .mul q f => Sys2Proof.Machine.execMul q f s
  | .mulh q f => Sys2Proof.Machine.execMulh q f s
  | .div q f => Sys2Proof.Machine.execDiv q f s
  | .rem q f => Sys2Proof.Machine.execRem q f s
  | .and q f => Sys2Proof.Machine.execAnd q f s
  | .or q f => Sys2Proof.Machine.execOr q f s
  | .xor q f => Sys2Proof.Machine.execXor q f s
  | .shl q f => Sys2Proof.Machine.execShl q f s
  | .shr q f => Sys2Proof.Machine.execShr q f s
  | .sar q f => Sys2Proof.Machine.execSar q f s
  | .rol q f => Sys2Proof.Machine.execRol q f s
  | .clz q f => Sys2Proof.Machine.execClz q f s
  | .popc q f => Sys2Proof.Machine.execPopc q f s
  | .min q f => Sys2Proof.Machine.execMin q f s
  | .max q f => Sys2Proof.Machine.execMax q f s
  | .cmp q f => Sys2Proof.Machine.execCmp q f s
  | .mov q f => Sys2Proof.Machine.execMov q f s
  | .qput q f => Sys2Proof.Machine.execQput q f s
  | .qget q f => Sys2Proof.Machine.execQget q f s
  | .addi q f => Sys2Proof.Machine.execAddi q f s
  | .andi q f => Sys2Proof.Machine.execAndi q f s
  | .ori q f => Sys2Proof.Machine.execOri q f s
  | .xori q f => Sys2Proof.Machine.execXori q f s
  | .shli q f => Sys2Proof.Machine.execShli q f s
  | .shri q f => Sys2Proof.Machine.execShri q f s
  | .sari q f => Sys2Proof.Machine.execSari q f s
  | .roli q f => Sys2Proof.Machine.execRoli q f s
  | .cmpi q f => Sys2Proof.Machine.execCmpi q f s
  | .movi q f => Sys2Proof.Machine.execMovi q f s
  | .lea q f => Sys2Proof.Machine.execLea q f s
  | .ext q f => Sys2Proof.Machine.execExt q f s
  | .ins q f => Sys2Proof.Machine.execIns q f s
  | .spill q f => Sys2Proof.Machine.execSpill q f s
  | .fill q f => Sys2Proof.Machine.execFill q f s
  | .lps q f => Sys2Proof.Machine.execLps q f s
  | .lpst q f => Sys2Proof.Machine.execLpst q f s
  | .sbase q f => Sys2Proof.Machine.execSbase q f s
  | .rdcyc q f => Sys2Proof.Machine.execRdcyc q f s
  | .ctlrd q f => Sys2Proof.Machine.execCtlrd q f s
  | .ctlwr q f => Sys2Proof.Machine.execCtlwr q f s
  | .mbrd q f => Sys2Proof.Machine.execMbrd q f s
  | .lcrd q f => Sys2Proof.Machine.execLcrd q f s
  | .trap q f => Sys2Proof.Machine.execTrap q f s
  | .brk q f => Sys2Proof.Machine.execBrk q f s
  | .eret q f => Sys2Proof.Machine.execEret q f s
  | .vadd q f => Sys2Proof.Machine.execVadd q f s
  | .vsub q f => Sys2Proof.Machine.execVsub q f s
  | .vmul q f => Sys2Proof.Machine.execVmul q f s
  | .vfma q f => Sys2Proof.Machine.execVfma q f s
  | .vmin q f => Sys2Proof.Machine.execVmin q f s
  | .vmax q f => Sys2Proof.Machine.execVmax q f s
  | .vdiv q f => Sys2Proof.Machine.execVdiv q f s
  | .vabs q f => Sys2Proof.Machine.execVabs q f s
  | .vneg q f => Sys2Proof.Machine.execVneg q f s
  | .vcmp q f => Sys2Proof.Machine.execVcmp q f s
  | .vsel q f => Sys2Proof.Machine.execVsel q f s
  | .vand q f => Sys2Proof.Machine.execVand q f s
  | .vor q f => Sys2Proof.Machine.execVor q f s
  | .vxor q f => Sys2Proof.Machine.execVxor q f s
  | .vshl q f => Sys2Proof.Machine.execVshl q f s
  | .vshr q f => Sys2Proof.Machine.execVshr q f s
  | .vsar q f => Sys2Proof.Machine.execVsar q f s
  | .vcvt q f => Sys2Proof.Machine.execVcvt q f s
  | .vsqrt q f => Sys2Proof.Machine.execVsqrt q f s
  | .vrsq q f => Sys2Proof.Machine.execVrsq q f s
  | .vrcp q f => Sys2Proof.Machine.execVrcp q f s
  | .vexp2 q f => Sys2Proof.Machine.execVexp2 q f s
  | .vlog2 q f => Sys2Proof.Machine.execVlog2 q f s
  | .vredsum q f => Sys2Proof.Machine.execVredsum q f s
  | .vredmin q f => Sys2Proof.Machine.execVredmin q f s
  | .vredmax q f => Sys2Proof.Machine.execVredmax q f s
  | .vscan q f => Sys2Proof.Machine.execVscan q f s
  | .vperm q f => Sys2Proof.Machine.execVperm q f s
  | .vshift q f => Sys2Proof.Machine.execVshift q f s
  | .vmov q f => Sys2Proof.Machine.execVmov q f s
  | .vbcast q f => Sys2Proof.Machine.execVbcast q f s
  | .vext q f => Sys2Proof.Machine.execVext q f s
  | .vidx q f => Sys2Proof.Machine.execVidx q f s
  | .kand q f => Sys2Proof.Machine.execKand q f s
  | .kor q f => Sys2Proof.Machine.execKor q f s
  | .kxor q f => Sys2Proof.Machine.execKxor q f s
  | .knot q f => Sys2Proof.Machine.execKnot q f s
  | .kpopc q f => Sys2Proof.Machine.execKpopc q f s
  | .cspush q f => Sys2Proof.Machine.execCspush q f s
  | .cspop q f => Sys2Proof.Machine.execCspop q f s
  | .mld q f => Sys2Proof.Machine.execMld q f s
  | .mma q f => Sys2Proof.Machine.execMma q f s
  | .mmaq q f => Sys2Proof.Machine.execMmaq q f s
  | .mmac q f => Sys2Proof.Machine.execMmac q f s
  | .mdrain q f => Sys2Proof.Machine.execMdrain q f s
  | .mzero q f => Sys2Proof.Machine.execMzero q f s
  | .mperturb q f => Sys2Proof.Machine.execMperturb q f s
  | .mlease q f => Sys2Proof.Machine.execMlease q f s
  | .mfree q f => Sys2Proof.Machine.execMfree q f s
  | .mfold q f => Sys2Proof.Machine.execMfold q f s
  | .ld q f => Sys2Proof.Machine.execLd q f s
  | .st q f => Sys2Proof.Machine.execSt q f s
  | .vld q f => Sys2Proof.Machine.execVld q f s
  | .vst q f => Sys2Proof.Machine.execVst q f s
  | .nst q f => Sys2Proof.Machine.execNst q f s
  | .act q f => Sys2Proof.Machine.execAct q f s
  | .pre q f => Sys2Proof.Machine.execPre q f s
  | .ref q f => Sys2Proof.Machine.execRef q f s
  | .refhold q f => Sys2Proof.Machine.execRefhold q f s
  | .refrel q f => Sys2Proof.Machine.execRefrel q f s
  | .hdef q f => Sys2Proof.Machine.execHdef q f s
  | .hld q f => Sys2Proof.Machine.execHld q f s
  | .hst q f => Sys2Proof.Machine.execHst q f s
  | .relay q f => Sys2Proof.Machine.execRelay q f s
  | .hwait q f => Sys2Proof.Machine.execHwait q f s
  | .hquery q f => Sys2Proof.Machine.execHquery q f s
  | .hclose q f => Sys2Proof.Machine.execHclose q f s
  | .copy q f => Sys2Proof.Machine.execCopy q f s
  | .chain q f => Sys2Proof.Machine.execChain q f s
  | .gather q f => Sys2Proof.Machine.execGather q f s
  | .scatter q f => Sys2Proof.Machine.execScatter q f s
  | .cpyx q f => Sys2Proof.Machine.execCpyx q f s
  | .stbind q f => Sys2Proof.Machine.execStbind q f s
  | .aatom q f => Sys2Proof.Machine.execAatom q f s
  | .atom q f => Sys2Proof.Machine.execAtom q f s
  | .red q f => Sys2Proof.Machine.execRed q f s
  | .seal q f => Sys2Proof.Machine.execSeal q f s
  | .fence q f => Sys2Proof.Machine.execFence q f s
  | .mark q f => Sys2Proof.Machine.execMark q f s
  | .binit q f => Sys2Proof.Machine.execBinit q f s
  | .arrive q f => Sys2Proof.Machine.execArrive q f s
  | .arrdrop q f => Sys2Proof.Machine.execArrdrop q f s
  | .bexpect q f => Sys2Proof.Machine.execBexpect q f s
  | .btest q f => Sys2Proof.Machine.execBtest q f s
  | .bwait q f => Sys2Proof.Machine.execBwait q f s
  | .popw q f => Sys2Proof.Machine.execPopw q f s
  | .enqw q f => Sys2Proof.Machine.execEnqw q f s
  | .yield q f => Sys2Proof.Machine.execYield q f s
  | .enq q f => Sys2Proof.Machine.execEnq q f s
  | .gsig q f => Sys2Proof.Machine.execGsig q f s
  | .csSharedRetry col slot => Sys2Proof.Machine.execCsSharedRetry col slot s
  | .wordComplete id => Sys2Proof.Machine.execWordComplete id s
  | .tokenAvailable col slot fifo => Sys2Proof.Machine.execTokenAvailable col slot fifo s
  | .sectionDispatch col slot eng => Sys2Proof.Machine.execSectionDispatch col slot eng s
  | .sectionRetire col slot eng => Sys2Proof.Machine.execSectionRetire col slot eng s
  | .scheduleMiss col slot => Sys2Proof.Machine.execScheduleMiss col slot s
  | .messageLand gid mb value word => Sys2Proof.Machine.execMessageLand gid mb value word s
  | .loadPerformed id => Sys2Proof.Machine.execLoadPerformed id s
  | .storeReachPort id dist => Sys2Proof.Machine.execStoreReachPort id dist s
  | .writeQueueDrain tower => Sys2Proof.Machine.execWriteQueueDrain tower s
  | .rowOperationEnd tower bank => Sys2Proof.Machine.execRowOperationEnd tower bank s
  | .backgroundRefresh tower => Sys2Proof.Machine.execBackgroundRefresh tower s
  | .forcedRefresh tower bank row => Sys2Proof.Machine.execForcedRefresh tower bank row s
  | .rowSpareCopyVerify tower good => Sys2Proof.Machine.execRowSpareCopyVerify tower good s
  | .rowspareStart col value => Sys2Proof.Machine.execRowspareStart col value s
  | .bedJointFailure col joint batch => Sys2Proof.Machine.execBedJointFailure col joint batch s
  | .bypassGrant col => Sys2Proof.Machine.execBypassGrant col s
  | .bypassFailure col => Sys2Proof.Machine.execBypassFailure col s
  | .leaseGrant col => Sys2Proof.Machine.execLeaseGrant col s
  | .thermalThrottle site course celsius => Sys2Proof.Machine.execThermalThrottle site course celsius s
  | .thermalTrip site course celsius => Sys2Proof.Machine.execThermalTrip site course celsius s
  | .ageingMarginLow site course margin => Sys2Proof.Machine.execAgeingMarginLow site course margin s
  | .opPointChange point => Sys2Proof.Machine.execOpPointChange point s
  | .channelCommandStart chan => Sys2Proof.Machine.execChannelCommandStart chan s
  | .translationFault chan record => Sys2Proof.Machine.execTranslationFault chan record s
  | .commandComplete chan => Sys2Proof.Machine.execCommandComplete chan s
  | .engineFault chan code info => Sys2Proof.Machine.execEngineFault chan code info s
  | .chainRecord pier chan => Sys2Proof.Machine.execChainRecord pier chan s
  | .chainRecordPoll pier chan => Sys2Proof.Machine.execChainRecordPoll pier chan s
  | .streamPortVector chan => Sys2Proof.Machine.execStreamPortVector chan s
  | .groupPlace gid col slot => Sys2Proof.Machine.execGroupPlace gid col slot s
  | .codeStoreCopyComplete gid => Sys2Proof.Machine.execCodeStoreCopyComplete gid s
  | .codeBlockFetch col slot block => Sys2Proof.Machine.execCodeBlockFetch col slot block s
  | .watchdog col slot => Sys2Proof.Machine.execWatchdog col slot s
  | .forcedFullSave gid => Sys2Proof.Machine.execForcedFullSave gid s
  | .saveComplete gid => Sys2Proof.Machine.execSaveComplete gid s
  | .migrationComplete ctx src => Sys2Proof.Machine.execMigrationComplete ctx src s
  | .groupRetire gid => Sys2Proof.Machine.execGroupRetire gid s
  | .launchCheck lid => Sys2Proof.Machine.execLaunchCheck lid s
  | .launchRetire lid => Sys2Proof.Machine.execLaunchRetire lid s
  | .poolTerminate lid => Sys2Proof.Machine.execPoolTerminate lid s
  | .doorbellAdvance queue ptr => Sys2Proof.Machine.execDoorbellAdvance queue ptr s
  | .saveFrameWait gid => Sys2Proof.Machine.execSaveFrameWait gid s
  | .pageWalk pier col walk => Sys2Proof.Machine.execPageWalk pier col walk s
  | .pfrespRetry id => Sys2Proof.Machine.execPfrespRetry id s
  | .pfrespRefusePageFault id => Sys2Proof.Machine.execPfrespRefusePageFault id s
  | .pfrespRefusePermission id => Sys2Proof.Machine.execPfrespRefusePermission id s
  | .relayoutTileRetry ctx entry => Sys2Proof.Machine.execRelayoutTileRetry ctx entry s
  | .pginvPage ctx vpage => Sys2Proof.Machine.execPginvPage ctx vpage s
  | .quarantine page => Sys2Proof.Machine.execQuarantine page s
  | .scrub page => Sys2Proof.Machine.execScrub page s
  | .release page => Sys2Proof.Machine.execRelease page s
  | .relayoutTileMoving ctx entry => Sys2Proof.Machine.execRelayoutTileMoving ctx entry s
  | .relayoutTileNew ctx entry => Sys2Proof.Machine.execRelayoutTileNew ctx entry s
  | .relayoutComplete ctx entry => Sys2Proof.Machine.execRelayoutComplete ctx entry s
  | .handleEntryFree ctx entry => Sys2Proof.Machine.execHandleEntryFree ctx entry s
  | .barrierUpdate addr => Sys2Proof.Machine.execBarrierUpdate addr s
  | .barrierArrivalReach arrival => Sys2Proof.Machine.execBarrierArrivalReach arrival s
  | .hostRead offset size => Sys2Proof.Machine.execHostRead offset size s
  | .hostWrite offset data => Sys2Proof.Machine.execHostWrite offset data s
  | .hostMessage value => Sys2Proof.Machine.execHostMessage value s
  | .hostAccessTimeout chan => Sys2Proof.Machine.execHostAccessTimeout chan s
  | .linkTrained lanes => Sys2Proof.Machine.execLinkTrained lanes s
  | .portTrained port lambda => Sys2Proof.Machine.execPortTrained port lambda s
  | .wavelengthLoss port => Sys2Proof.Machine.execWavelengthLoss port s
  | .lightLoss port => Sys2Proof.Machine.execLightLoss port s
  | .portDrained port => Sys2Proof.Machine.execPortDrained port s
  | .flitReceive port flit => Sys2Proof.Machine.execFlitReceive port flit s
  | .flitNak port seqno => Sys2Proof.Machine.execFlitNak port seqno s
  | .routeWrite value => Sys2Proof.Machine.execRouteWrite value s
  | .pkgidWrite value => Sys2Proof.Machine.execPkgidWrite value s
  | .collgo col slot desc => Sys2Proof.Machine.execCollgo col slot desc s
  | .collectiveComplete comm inst => Sys2Proof.Machine.execCollectiveComplete comm inst s
  | .evctlArm value => Sys2Proof.Machine.execEvctlArm value s
  | .gctlPreempt col slot force => Sys2Proof.Machine.execGctlPreempt col slot force s
  | .gctlMigrate col slot dest dwin => Sys2Proof.Machine.execGctlMigrate col slot dest dwin s
  | .gregdataWrite col value => Sys2Proof.Machine.execGregdataWrite col value s
  | .rngseedWrite col slot value => Sys2Proof.Machine.execRngseedWrite col slot value s
  | .qmapWrite col slot value => Sys2Proof.Machine.execQmapWrite col slot value s
  | .twinWrite col win value => Sys2Proof.Machine.execTwinWrite col win value s
  | .purge value => Sys2Proof.Machine.execPurge value s
  | .purgeComplete ctx tag => Sys2Proof.Machine.execPurgeComplete ctx tag s
  | .fwrst col => Sys2Proof.Machine.execFwrst col s
  | .microPcRecordArrival col slot => Sys2Proof.Machine.execMicroPcRecordArrival col slot s
  | .auditReplayPlace gid => Sys2Proof.Machine.execAuditReplayPlace gid s
  | .auditNoColumn gid => Sys2Proof.Machine.execAuditNoColumn gid s
  | .auditCompare gid => Sys2Proof.Machine.execAuditCompare gid s
  | .remapGo value => Sys2Proof.Machine.execRemapGo value s
  | .columnRetired col => Sys2Proof.Machine.execColumnRetired col s
  | .block quad => Sys2Proof.Machine.execBlock quad s
  | .quiesce quad => Sys2Proof.Machine.execQuiesce quad s
  | .unblock quad => Sys2Proof.Machine.execUnblock quad s
  | .qwake quad => Sys2Proof.Machine.execQwake quad s
  | .quadDrainComplete quad => Sys2Proof.Machine.execQuadDrainComplete quad s
  | .quadRailOff quad => Sys2Proof.Machine.execQuadRailOff quad s
  | .quadWakeComplete quad => Sys2Proof.Machine.execQuadWakeComplete quad s
  | .attestReport addr => Sys2Proof.Machine.execAttestReport addr s
  | .attestRemap addr => Sys2Proof.Machine.execAttestRemap addr s
  | .identityStoreRead offset count => Sys2Proof.Machine.execIdentityStoreRead offset count s
  | .bringUp image => Sys2Proof.Machine.execBringUp image s
  | .logicClockStop quad => Sys2Proof.Machine.execLogicClockStop quad s
  | .logicRailUp quad => Sys2Proof.Machine.execLogicRailUp quad s
  | .logicClockStart quad => Sys2Proof.Machine.execLogicClockStart quad s
  | .identityStoreWrite offset data => Sys2Proof.Machine.execIdentityStoreWrite offset data s
  | .capStep => Sys2Proof.Machine.execCapStep s
  | .queueAdmit => Sys2Proof.Machine.execQueueAdmit s
  | .queueActive => Sys2Proof.Machine.execQueueActive s
  | .queueSliceEnd => Sys2Proof.Machine.execQueueSliceEnd s
  | .queuePark => Sys2Proof.Machine.execQueuePark s
  | .queueUnpark => Sys2Proof.Machine.execQueueUnpark s
  | .launch => Sys2Proof.Machine.execLaunch s
  | .wait => Sys2Proof.Machine.execWait s
  | .waitReread => Sys2Proof.Machine.execWaitReread s
  | .waitTimeout => Sys2Proof.Machine.execWaitTimeout s
  | .signal => Sys2Proof.Machine.execSignal s
  | .markPacket => Sys2Proof.Machine.execMarkPacket s
  | .evict => Sys2Proof.Machine.execEvict s
  | .holdTimeout => Sys2Proof.Machine.execHoldTimeout s
  | .doorbellHalt => Sys2Proof.Machine.execDoorbellHalt s
  | .doorbellResume => Sys2Proof.Machine.execDoorbellResume s
  | .doorbellReset => Sys2Proof.Machine.execDoorbellReset s
  | .create => Sys2Proof.Machine.execCreate s
  | .switchout => Sys2Proof.Machine.execSwitchout s
  | .switchin => Sys2Proof.Machine.execSwitchin s
  | .teardown => Sys2Proof.Machine.execTeardown s
  | .switchoutDrainComplete => Sys2Proof.Machine.execSwitchoutDrainComplete s
  | .switchinRestoreComplete => Sys2Proof.Machine.execSwitchinRestoreComplete s
  | .teardownComplete => Sys2Proof.Machine.execTeardownComplete s
  | .faultRecordWrite => Sys2Proof.Machine.execFaultRecordWrite s
  | .pginvContext => Sys2Proof.Machine.execPginvContext s
  | .pginvAll => Sys2Proof.Machine.execPginvAll s
  | .invalidationComplete => Sys2Proof.Machine.execInvalidationComplete s
  | .scrubComplete => Sys2Proof.Machine.execScrubComplete s
  | .hostTrainingRequest => Sys2Proof.Machine.execHostTrainingRequest s
  | .lnkctlTrain => Sys2Proof.Machine.execLnkctlTrain s
  | .lnkctlDrain => Sys2Proof.Machine.execLnkctlDrain s
  | .lnkctlDown => Sys2Proof.Machine.execLnkctlDown s
  | .linkLaneFailure => Sys2Proof.Machine.execLinkLaneFailure s
  | .linkDrained => Sys2Proof.Machine.execLinkDrained s
  | .portctlTrain => Sys2Proof.Machine.execPortctlTrain s
  | .portctlDrain => Sys2Proof.Machine.execPortctlDrain s
  | .portctlDown => Sys2Proof.Machine.execPortctlDown s
  | .latchOpen => Sys2Proof.Machine.execLatchOpen s
  | .latchClose => Sys2Proof.Machine.execLatchClose s
  | .evctlFwdone => Sys2Proof.Machine.execEvctlFwdone s
  | .evictReserveAccept => Sys2Proof.Machine.execEvictReserveAccept s
  | .quiesceComplete => Sys2Proof.Machine.execQuiesceComplete s
  | .streamingComplete => Sys2Proof.Machine.execStreamingComplete s
  | .routeDrainComplete => Sys2Proof.Machine.execRouteDrainComplete s
  | .evictionFail => Sys2Proof.Machine.execEvictionFail s
  | .remapComplete => Sys2Proof.Machine.execRemapComplete s

end Sys2Proof.Machine
end

