-- ==== Sys2Proof/Machine/Cycle.lean ====
section
/-! DEFINITION. One cycle of the device: the fetch of a stream's next word (R73, R82), issue selection (R107, R108, R111), and
what happens at the end of every cycle (R46, R92, R133, R468). -/

namespace Sys2Proof.Machine

/-- The next word of a stream that may issue (R82). -/
def fetch (s : State) (k : Stream) : Fetch :=
  if !s.canIssue k then .none
  else if (s.engAt k.ek).codeMiss.isSome then .none
  else decodeHere k (s.engAt k.ek) (s.wordAt k)

/-- The word of a stream issues, if it can. -/
def issueWord (s : State) (k : Stream) : Out :=
  match fetch s k with
  | .none => .next s
  | .fault c i => faultNow { s with cur := k } c i
  | .word i => exec i { s with cur := k }

/-- A stream is ready: its next word would issue (R107). -/
def ready (s : State) (k : Stream) : Bool :=
  match issueWord s k with
  | .next t => t.issued.contains k
  | _ => true

/-- The streams of a column: three engines of four slots and of the firmware context. -/
def columnStreams (col : Nat) : List Stream :=
  [Eng.a, .x, .d].flatMap fun e => [0, 1, 2, 3, 4].map fun n => ⟨col, n, e⟩

/-- The best of a list by R108: the aged streams first, the greatest wait winning; else role, then slot. The list is in the order
of roles and slots. -/
def bestStream (s : State) (limit : Nat) (c : List Stream) : Option Stream :=
  let wait (k : Stream) : Nat := (s.engAt k.ek).wait
  let aged := c.filter fun k => decide (limit ≤ wait k)
  match aged with
  | [] => c.head?
  | a :: t => some (t.foldl (fun b k => if wait b < wait k then k else b) a)

/-- Every ready group stream of an engine is about to issue word 0 of a section (R111). -/
def atSectionStart (s : State) (l : List Stream) : Bool := l.all fun k => (s.engAt k.ek).idx == 0

/-- The firmware words that may issue ahead of or beside the group words (R111), in the order of roles. -/
def candidates (s : State) (col : Nat) (rdy : List Stream) (stamped : Bool) : List Stream :=
  let c := s.colAt col
  [Eng.a, .x, .d].flatMap fun e =>
    let grp := rdy.filter fun k => k.eng == e && !k.fw
    let fw := rdy.filter fun k => k.eng == e && k.fw
    let used := if c.contestedAt = s.cyc / 256 then c.contested.getD (engCode e) 0 else 0
    let share := decide (used < 256 / (bitsAt (c.ctlr 0x081) 4 0))
    if e == .x && stamped then grp
    else if grp.isEmpty then fw
    else if !fw.isEmpty && atSectionStart s grp && share then fw ++ grp
    else grp

/-- The streams of a column whose stamped command is due in this cycle (R103, R108): its target is this cycle; or its target has passed and it may not
slip, so that it ends in a fault now; or it belongs to a late quad operation, whose four words issue together (R104). -/
def stampedDue (s : State) (col : Nat) : List Stream :=
  ([0, 1, 2, 3].map fun n => (⟨col, n, .x⟩ : Stream)).filter fun k =>
    match (s.engAt k.ek).target with
    | none => false
    | some t => s.canIssue k && (t == s.cyc || (decide (t < s.cyc) && match rawDecode (s.wordAt k) with
        | some (.mmaq _ _) => true
        | some i => ((stampedOf i).map fun x => x.2.slip == 0 && !pinnedSlot s k).getD false
        | none => false))

/-- The words of a column that issue in this cycle (R108), in the order A, X, D. -/
def selectColumn (s : State) (col : Nat) : List Stream × List Stream :=
  let rdy := (columnStreams col).filter (ready s)
  let stamped := stampedDue s col
  let cs := candidates s col rdy (!stamped.isEmpty)
  let limit := bitsAt ((s.colAt col).ctlr 0x080) 15 0
  let first := (stamped.find? fun k => rdy.contains k).orElse fun _ => bestStream s limit cs
  match first with
  | none => ([], rdy)
  | some a =>
    match bestStream s limit (cs.filter fun k => k.eng != a.eng) with
    | none => ([a], rdy)
    | some b => (if engCode a.eng ≤ engCode b.eng then [a, b] else [b, a], rdy)

/-- The columns with work whose logic runs: a stream that stands at a word or waits for its section (R490). -/
def liveColumns (s : State) : List Nat :=
  if s.tripped then []
  else (s.engs.filter fun r => r.2.sec == .dispatched || r.2.sec == .running || r.2.sec == .waiting).foldl (fun l r =>
    if l.contains (r.1 / 15) || !(s.quadAt (quadOf (r.1 / 15))).clk then l else l ++ [r.1 / 15]) []

/-- Waits of R107 after a selection: ready streams that are not picked wait one more cycle, the others start anew; engines with a
word they cannot issue count the cycles for R366. Contested firmware cycles are counted (R111). -/
def countWaits (s : State) (col : Nat) (picked rdy : List Stream) : State :=
  let s := (columnStreams col).foldl (fun s k =>
    match s.engs.get? k.ek with
    | none => s
    | some e =>
      let busy := e.sec != .empty && e.sec != .faulted
      s.setEng k.ek { e with
        wait := if rdy.contains k && !picked.contains k then e.wait + 1 else 0,
        blocked := if busy && !rdy.contains k then e.blocked + 1 else 0 }) s
  picked.foldl (fun s k =>
    if k.fw && rdy.any (fun r => r.eng == k.eng && !r.fw) then
      let c := s.colAt col
      let used := if c.contestedAt = s.cyc / 256 then c.contested else []
      s.setCol col { c with contestedAt := s.cyc / 256,
                            contested := used.put (engCode k.eng) (used.getD (engCode k.eng) 0 + 1) }
    else s) s

/-- The streams of the groups of live columns. -/
def groupStreams (s : State) : List Stream :=
  (liveColumns s).flatMap fun c => [Eng.a, .x, .d].flatMap fun e => [0, 1, 2, 3].map fun n => ⟨c, n, e⟩

/-- A stream whose next word is not in its code store asks for the block (R344). -/
def State.missTick (s : State) (k : Stream) : State :=
  let e := s.engAt k.ek
  if !(s.slotAt k.sk).codeCached || e.codeMiss.isSome || !s.canIssue k then s
  else match s.missingBlock k.sk (e.wordOff e.idx) 12 with
    | some b => s.needBlock k b
    | none => s

/-- A word about the pool or a queue, whose order in a cycle goes by slot before engine (R353). -/
def isLaunchWord (s : State) (k : Stream) : Bool :=
  match rawDecode (s.wordAt k) with
  | some (.popw _ _) | some (.enqw _ _) | some (.enq _ _) => true
  | _ => false

/-- An ENQW, which comes after every pop of its cycle (R353). -/
def isEnqw (s : State) (k : Stream) : Bool :=
  match rawDecode (s.wordAt k) with
  | some (.enqw _ _) => true
  | _ => false

/-- A CTLWR to QMAP, which looks at what every word of its cycle reserves (R139). -/
def writesQmap (s : State) (k : Stream) : Bool :=
  match rawDecode (s.wordAt k) with
  | some (.ctlwr _ f) => f.csel == 0x012
  | _ => false

/-- The words of a column in the order in which they act. -/
def orderPicks (s : State) (l : List Stream) : List Stream :=
  match l with
  | [a, b] => if (isLaunchWord s a && isLaunchWord s b && decide (b.slot < a.slot)) || writesQmap s a then [b, a] else l
  | _ => l

/-- The start of a cycle: purges and safe points take hold, missing code is asked for, stamped commands fix their targets (R103), and every column selects
its words (R108). -/
def select (s0 : State) : State :=
  let s := s0.purgeTick.safeTick.quadTick
  let s := (groupStreams s).foldl (fun (s : State) k =>
    let s := (s.missTick k).noteLease k
    if k.eng = .x then (s.fixTarget k).readPin k else s) s
  let picks := (liveColumns s).map fun c => (c, selectColumn s c)
  let t := picks.foldl (fun t r => countWaits t r.1 r.2.1 r.2.2) s
  let picked := picks.flatMap fun r => orderPicks s r.2.1
  let picked := picked.filter (fun k => !isEnqw s k) ++ picked.filter (isEnqw s)
  let t := t.stallTick (picks.flatMap fun r => r.2.2) picked
  { t with picked := picked, chosen := true, dawn := s0.dawn.or (some s0.snapshot) }

/-- The flags raised in the cycle join FPSTAT after its writes, and mailboxes read with `.clr` are cleared before the cycle's messages land (R46, R133, R134). -/
def Slot.close (sl : Slot) : Slot :=
  let sl := if sl.flagsNow = 0 then sl else
    { (sl.setCtl 0x001 (sl.ctlr 0x001 ||| BitVec.ofNat 64 sl.flagsNow)) with flagsNow := 0 }
  let sl := if sl.mbClear.isEmpty then sl
    else { sl with mbs := sl.mbClear.foldl (fun m n => m.put n 0) sl.mbs, mbClear := [] }
  if sl.mbLand.isEmpty then sl
  else { sl with mbs := sl.mbLand.foldl (fun m x => m.put x.1 x.2) sl.mbs, mbLand := [] }

/-- FWPEND and QERR bits that were set in the cycle stay set when a write of the cycle clears them (R46, R92). -/
def State.keepSet (s : State) : State :=
  let s := (s.cols.filter fun r => r.2.pendNow != 0).foldl (fun s r =>
    s.setCol r.1 { (r.2.setCtl 0x134 (r.2.ctlr 0x134 ||| BitVec.ofNat 64 r.2.pendNow)) with pendNow := 0 }) s
  if s.pages.qerrNow then { s with pages := { s.pages with qerr := true, qerrNow := false } } else s

/-- Control-register writes of a cycle in the order of R92. -/
def orderedWrites (l : List CtlWrite) : List CtlWrite :=
  [0, 1, 2, 3].flatMap fun n => l.filter fun w => State.ctlOrder w.by_ == n

/-- The record of a health event (R468). -/
def HEvent.words (ev : HEvent) (seqno : Nat) : List Nat :=
  [seqno, ev.code * 2 ^ 56 + ev.ctx * 2 ^ 32 + ev.tag * 2 ^ 16, ev.loc, ev.info.toNat]

/-- One health event is written into the ring, or dropped when the ring is full (R468–R470). -/
def writeEvent (s : State) (ev : HEvent) : State :=
  let ring := s.devr 0x180
  let p := s.devr 0x181
  let size := 2 ^ (bitsAt ring 3 0 + 6)
  let head := bitsAt p 31 0
  let v := s.devr 0x182
  if (head + 2 ^ 32 - bitsAt p 63 32) % 2 ^ 32 = size then
    s.setDev 0x182 (setBits v 47 32 (min (bitsAt v 47 32 + 1) 0xFFFF))
  else
    let seqno := s.hevSeq + 1
    let s := s.storeWords (bitsAt ring 51 12 * 4096 + 32 * (head % size)) (ev.words seqno)
    let s := { (s.setDev 0x181 (setBits p 31 0 (head + 1))) with hevSeq := seqno }
    if bitsAt v 16 16 = 1 then s.raiseIrq (bitsAt v 15 0) else s

/-- Insertion of an event by code, then location (R470). -/
def insertEvent (ev : HEvent) : List HEvent → List HEvent
  | [] => [ev]
  | h :: t =>
    if ev.code < h.code ∨ (ev.code = h.code ∧ ev.loc / 2 ^ 49 < h.loc / 2 ^ 49) then ev :: h :: t
    else h :: insertEvent ev t

/-- The events of a cycle are written in the order of R470, behind those of earlier cycles that waited for the memory of their ring (R446). -/
def flushEvents (s : State) : State :=
  let l := s.link.events ++ s.hevents.foldl (fun l ev => insertEvent ev l) []
  if l.isEmpty || s.reachable (bitsAt (s.devr 0x180) 51 12 * 4096) then
    l.foldl writeEvent { s with hevents := [], link := { s.link with events := [] } }
  else { s with hevents := [], link := { s.link with events := l } }

/-- FOLDREC.BYPWAIT rises in every column whose last product waits for the bypass (R189, R191). -/
def countBypass (s : State) : State :=
  (s.cols.filter fun r => r.2.bypassAsk.isSome
      && (r.2.products.find? Product.unstarted).map Product.id == (r.2.products.getLast?).map Product.id).foldl (fun s r =>
    let c := s.colAt r.1
    let v := c.ctlr 0x030
    s.setCol r.1 (c.setCtl 0x030 (setBits v 47 32 (min 0xFFFF (bitsAt v 47 32 + 1))))) s

/-- What the front end, the walkers, the savers and the units of the plinth plan at the end of a cycle. -/
def State.plan (s : State) : State :=
  let s := s.planOrphans.takeEnqs.planQueues.countDowns.reloadCounters.planWalk.planPlace
  let s := s.dropReplays.planRetiring.planSaves.planMoves.planImages
  s.planColls.planEvict.planPoint.planCap.sendFlits.linkReplays.linkTick.portTick.sendIrqs

/-- The columns whose course storage or adders a fault takes in this cycle, and those that firmware retires by means that no rule names, leave service
(R88, R184, R470). -/
def loseCourses (s : State) : State :=
  (s.courseLosses.filter fun x => x.1 == s.cyc).foldl (fun s x => s.retireColumn x.2.1 x.2.2)
    { s with courseLosses := s.courseLosses.filter fun x => x.1 != s.cyc }

/-- The end of a cycle: the ports serve the requests of the cycle, the store queues move, engine faults are delivered, then hardware updates, then the
control-register writes in order, then sticky flags and mailboxes, then plans for the cycles to come, then health events; the next cycle begins. -/
def endCycle (s : State) : State :=
  let s := countBypass (s.servePorts.serveAsync.acceptFar.hostWritesLate.resnap.drainStores.deliverFaults.stopQuads.resetQuads)
  let s := { s with slots := s.slots.map fun (r : Nat × Slot) => (r.1, r.2.settle s.cyc) }
  let s := ((orderedWrites s.ctlq).foldl State.ctlApply { s with ctlq := [] }).noteLimits
  let s := { s with slots := s.slots.map fun (r : Nat × Slot) => (r.1, r.2.close) }
  let s := flushEvents (loseCourses s).plan.closeAnswers.keepSet
  { s with cyc := s.cyc + 1, chosen := false, dawn := some s.snapshot, picked := [], issued := [] }

/-- What comes about at the end of this cycle because its condition holds: retirements (R379), ends of pools and launches (R348, R353), empty Retiring columns (R88),
an admission (R398), the ends of purges (R472), drained quads and ports (R451, R490), and the phases of an eviction (R465). -/
def watch (s : State) : Option Instr :=
  ((s.groups.find? fun r => s.retireReady r.2).map fun r => Instr.groupRetire r.1).orElse fun _ =>
  ((s.launches.find? fun r => s.poolOver r.1 r.2).map fun r => Instr.poolTerminate r.1).orElse fun _ =>
  ((s.launches.find? fun r => (s.launchOver r.1 r.2).isSome).map fun r => Instr.launchRetire r.1).orElse fun _ =>
  ((s.cols.find? fun r => r.2.state == 3 && !(s.groups.any fun g => g.2.col == r.1 && g.2.state.resident)).map fun r => Instr.columnRetired r.1).orElse fun _ =>
  (if s.feFree ≠ 0 ∧ s.admitted ≠ some s.cyc ∧ !s.readyQueues.isEmpty then some Instr.queueAdmit else none).orElse fun _ =>
  ((s.purges.find? fun p => s.purgeDone p).map fun p => Instr.purgeComplete p.1 p.2.1).orElse fun _ =>
  ((s.quads.find? fun r => s.quadIdle r.1).map fun r => Instr.quadDrainComplete r.1).orElse fun _ =>
  ((s.fports.find? fun r => s.portEmpty r.1).map fun r => Instr.portDrained r.1).orElse fun _ =>
  if s.quiesced then some Instr.quiesceComplete else if s.routesDrained then some Instr.routeDrainComplete else none

/-- A due step of the agenda: the first of the lowest place among those of a phase whose cycle has come. -/
def dueNow (s : State) (late : Bool) : Option Due :=
  (s.agenda.filter fun d => decide (50 ≤ d.prio) == late && decide (d.at_ ≤ s.cyc)).foldl (fun b d =>
    match b with
    | none => some d
    | some c => if d.prio < c.prio then some d else some c) none

/-- The agenda without one entry. -/
def dropDue (s : State) (d : Due) : State := { s with agenda := s.agenda.erase d }

end Sys2Proof.Machine
end

