-- ==== Sys2Proof/Machine/Step.lean ====
section
/-! DEFINITION. One step: a due event of the start of the cycle, else the issue of the next picked word, else a due event of the
end of the cycle, else what the end of the cycle brings about, else the cycle ends. A step that reaches for a far address with no byte behind it faults (R426). -/

namespace Sys2Proof.Machine

/-- The step before the check of far addresses. -/
def stepOn (s : State) : Out :=
  match dueNow s false with
  | some d => exec d.ev { dropDue s d with subject := d.arg }
  | none =>
    let s := if s.chosen then s else select s
    match s.picked with
    | k :: rest => issueWord { s with picked := rest } k
    | [] =>
      match dueNow s true with
      | some d => exec d.ev { dropDue s d with subject := d.arg }
      | none =>
        match watch s with
        | some i => exec i { s with subject := 0 }
        | none => .next (endCycle s)

/-- A far address that names no byte ends the run (R426). -/
def holeFault : Out → Out
  | .next t => match t.hole with | none => .next t | some a => .fault (.farHole a)
  | r => r

/-- One step of the machine. -/
def step (s : State) : Host.Outcome State Fault Refusal := holeFault (stepOn s)

/-- The stream that `withFetchWord` gives a word to: an engine that may run it, of slot 0 of column 0, or of the firmware context
for a word that only firmware runs. -/
def fetchStream (w : Nat) : Stream :=
  match (rawDecode w).bind Instr.form with
  | some f => ⟨0, if f.opc = 0x2F then 4 else 0, f.engines.headD .a⟩
  | none => ⟨0, 0, .a⟩

/-- A group of context 1 placed in column 0, slot 0, with a window over the whole of its towers. -/
def State.placeFirst (s : State) : State :=
  let s := s.setCtx 1 { s.ctxAt 1 with state := 1, colmap := List.range 256, rootCols := 2 ^ 256 - 1, rootTower := 512 }
  let s := { s with groups := s.groups.put 1 { ctx := 1, state := .running, col := 0, slot := 0 } }
  let s := s.setCol 0 ((s.colAt 0).setCtl 0x121 (BitVec.ofNat 64 (2 ^ 63 + 2 ^ 32 + 512 * 2 ^ 16)))
  s.setSlot 0 { s.slotAt 0 with gid := some 1, stop := none }

/-- The state with an instruction's bits where the next step fetches: word 0 of a section of a stream of column 0 that has been
picked to issue. It stands for the loading of a program and the placement of its group. -/
def State.withFetchWord (s : State) (_nbits w : Nat) : State :=
  let k := fetchStream w
  let s := if k.slot = 0 then s.placeFirst else s
  let e : Engine := { s.engAt k.ek with
    base := 0, len := 2 ^ 24, pos := 0, hdr := { eng := engCode k.eng, tcnt := 8, len := 2 ^ 20 - 1 },
    targets := List.replicate 8 0, sec := .running, idx := 0, heldBy := none, heldTo := 0, atSafe := false, codeMiss := none,
    issueFrom := 0, target := none }
  let s := (s.setEng k.ek e).store (codeKey k.sk (e.wordOff 0)) 12 w
  { s with chosen := true, picked := [k], issued := s.issued.filter (· != k), agenda := s.agenda.filter fun d => decide (s.cyc < d.at_) }

end Sys2Proof.Machine
end

