-- ==== Sys2Proof/Safety.lean ====
section
/-! DEFINITION. What counts as a safe run and the terms that claims use: when a word issues, the effects it issues with, what the
machine keeps in every step, and what a run may end in. -/

namespace Sys2Proof.Machine

/-! ### A word issues -/

/-- Every condition of issue that is common to all words holds for a word of the current stream with these operand registers: its
engine may issue, FL holds, no register waits for a result, its pops are met, no fence holds it, its selector can act, and what it
pushes (`fifos` beside its pushes) has room (R62–R65, R79, R107, R119, R309). -/
def canGo (s : State) (i : Instr) (q : Seq) (regs : List Reg) (fifos : List Nat := []) : Bool :=
  s.canIssue s.cur && s.e.flHolds q && !s.blockedOn s.cur (regs ++ seqRegs s.e q) && s.popsMet s.cur q && !s.fenceHolds s.cur i q
    && (s.selFault s.cur q).isNone && ((s.atDawn.slotAt s.cur.sk).overCeiling (pushList q s.cur.eng ++ fifos) s.cyc).isNone

/-- A word issues with the effect `d`: it answers the state in which `d` has been done, its tokens are popped and reserved, its
selector has acted, and it has completed or is in flight (R61–R65, R79). -/
def issued (s : State) (i : Instr) (q : Seq) (d : Done) : Out := .next (s.finish i q d true)

/-- A word is turned away by a fault with code `c` and TRAPINFO `info` (R113, R116). -/
def faulted (s : State) (c : Nat) (info : Word) : Out := faultNow s c info

/-- The effect of a word whose only result is one scalar register, without a mark. -/
def scalarDone (s : State) (dst : Nat) (v : Word) (lat : Nat := 1) : Done := { st := s, lat := lat, writes := [.s dst { val := v }] }

/-- The effect of a word whose only result is one mask register. -/
def maskDone (s : State) (dst : Nat) (m : BitVec 256) (lat : Nat := 1) : Done := { st := s, lat := lat, writes := [.k dst m] }

/-- The effect of a word whose result is one vector register: flags join FPSTAT and generators move with it (R45, R49). -/
def vectorDone (s : State) (dst : Nat) (v : VReg) (flags : Nat) (gens : Option (List Nat)) (lat : Nat) : Done :=
  let sl := s.sl.raise flags
  { st := s.setSl (match gens with | some g => sl.setGens g | none => sl), lat := lat, writes := [.v dst v] }

/-- The checks of a vector word at issue find nothing: its sources have their tags, a destination written under a mask has the
result's tag, and no enabled lane it consumes is marked (R41, R146, R230). -/
def lanesOk (s : State) (srcs : List Src) (mask dst : Nat) (res : Option Nat) (consumed : List Nat) (m : BitVec 256) : Bool :=
  (tagFault s.sl srcs mask dst res).isNone && (laneMark s.sl m consumed).isNone

/-- The same for an element-wise word with `n` sources of the tag FMT (R149). -/
def elementsOk (s : State) (f : FmtA) (n : Nat) : Bool :=
  let regs := [f.oa, f.ob, f.oc].take n
  lanesOk s (regs.zipIdx.map fun r => ⟨r.1, f.fmt, r.2⟩) f.mask f.dst (some f.fmt) regs (s.sl.kreg f.mask)

/-- The effect of an element-wise word with `n` sources: each element of each enabled lane is `op` of the sources' elements (control,
draw, operands), the other lanes stay, and a word that rounds draws from the lanes' generators under RSN (R45, R49, R145,
R149). -/
def lanewise (s : State) (f : FmtA) (n : Nat) (rounds : Bool) (lat : Nat) (op : FCtl → Nat → List Nat → Nat × Nat) : Done :=
  let c := fctl (s.sl.ctlr 0) f.rnd
  let p := lanePass c rounds (tagWidth f.fmt) (op c) (s.sl.kreg f.mask) (([f.oa, f.ob, f.oc].take n).map s.sl.vreg) s.sl.genList
  vectorDone s f.dst (mergeV (s.sl.vreg f.dst) f.fmt (s.sl.kreg f.mask) p.lanes) p.flags
    (if rounds && c.rm == 4 then some p.gens else none) lat

/-- The effect of a word whose only act is an entry of its engine's store queue (R301, R303). -/
def stored (s : State) (op : StoreOp) (ps : List WPiece) : Done :=
  { st := { s with stores := s.stores ++ [{ id := s.nextId, by_ := s.cur, op := op, pieces := ps }] } }

/-! ### What a run keeps, and what it may end in -/

/-- The memory keeps its canonical form: equal memories are equal data. -/
def State.MemOk (s : State) : Prop := Memory.wf s.mem = true

/-- No far access has left the bytes that R426 names. -/
def State.InFar (s : State) : Prop := s.hole = none

/-- A run of `n` steps that no fault and no refusal ends. -/
def SafeRun (n : Nat) (s : State) : Prop := ∃ t, core.run n s = .next t

end Sys2Proof.Machine
end

