-- ==== Sys2Proof/Certificates/Slice0/Obligations.lean ====
section
/-! DEFINITION. The statements for the provers. A word's statement says, for every form of it, that in every state in which the word can go
(`canGo`, beside the conditions on its operands) `exec` answers the next state that the spec gives (`issued` with the effect named), or the fault
that it names; `IssueFrame` says once for all of them what an issue leaves unchanged. A statement about steps that come about by
themselves says what the step answers. -/

open Sys2Proof Sys2Proof.Machine

/-! ### Scalar words (ch. 5) -/

/-- R121: the register forms with two operands write the operation's result, after the latency of R120. -/
def Obligations.ScalarRegisterWords : Prop := ∀ (q : Sys2Proof.Seq) (f : FmtA) (s : State), s.markOf [f.oa, f.ob] = none →
  let a := s.sv f.oa
  let b := s.sv f.ob
  let n := (b.extractLsb' 0 6).toNat
  (canGo s (.add q f) q (regs3 f) → exec (.add q f) s = issued s (.add q f) q (scalarDone s f.dst (a + b))) ∧
  (canGo s (.sub q f) q (regs3 f) → exec (.sub q f) s = issued s (.sub q f) q (scalarDone s f.dst (a - b))) ∧
  (canGo s (.mul q f) q (regs3 f) → exec (.mul q f) s = issued s (.mul q f) q (scalarDone s f.dst (a * b) 3)) ∧
  (canGo s (.mulh q f) q (regs3 f) → exec (.mulh q f) s = issued s (.mulh q f) q (scalarDone s f.dst
    (if f.sub = 1 then (a.setWidth 128 * b.setWidth 128).extractLsb' 64 64 else (a.signExtend 128 * b.signExtend 128).extractLsb' 64 64) 3)) ∧
  (canGo s (.and q f) q (regs3 f) → exec (.and q f) s = issued s (.and q f) q (scalarDone s f.dst (a &&& b))) ∧
  (canGo s (.or q f) q (regs3 f) → exec (.or q f) s = issued s (.or q f) q (scalarDone s f.dst (a ||| b))) ∧
  (canGo s (.xor q f) q (regs3 f) → exec (.xor q f) s = issued s (.xor q f) q (scalarDone s f.dst (a ^^^ b))) ∧
  (canGo s (.shl q f) q (regs3 f) → exec (.shl q f) s = issued s (.shl q f) q (scalarDone s f.dst (a <<< n))) ∧
  (canGo s (.shr q f) q (regs3 f) → exec (.shr q f) s = issued s (.shr q f) q (scalarDone s f.dst (a >>> n))) ∧
  (canGo s (.sar q f) q (regs3 f) → exec (.sar q f) s = issued s (.sar q f) q (scalarDone s f.dst (a.sshiftRight n))) ∧
  (canGo s (.rol q f) q (regs3 f) → exec (.rol q f) s = issued s (.rol q f) q (scalarDone s f.dst ((a <<< n) ||| (a >>> (64 - n))))) ∧
  (canGo s (.min q f) q (regs3 f) → exec (.min q f) s = issued s (.min q f) q (scalarDone s f.dst
    (if f.sub = 1 then BitVec.ofNat 64 (min a.toNat b.toNat) else BitVec.ofInt 64 (min a.toInt b.toInt)))) ∧
  (canGo s (.max q f) q (regs3 f) → exec (.max q f) s = issued s (.max q f) q (scalarDone s f.dst
    (if f.sub = 1 then BitVec.ofNat 64 (max a.toNat b.toNat) else BitVec.ofInt 64 (max a.toInt b.toInt))))

/-- R121, R123, R126: CLZ, POPC, the compares and the bit fields, each described by the bits of its result. -/
def Obligations.ScalarBitWords : Prop := ∀ (q : Sys2Proof.Seq) (f : FmtA) (g : FmtB) (s : State),
  let a := s.sv f.oa
  let x := s.sv g.oa
  let pos := g.imm % 64
  let width := g.imm / 64 % 64 + 1
  (s.markOf [f.oa] = none → canGo s (.clz q f) q [.s f.dst, .s f.oa] → exec (.clz q f) s = issued s (.clz q f) q (scalarDone s f.dst
    (BitVec.ofNat 64 ((List.range 64).takeWhile fun i => !a.getMsbD i).length))) ∧
  (s.markOf [f.oa] = none → canGo s (.popc q f) q [.s f.dst, .s f.oa] → exec (.popc q f) s = issued s (.popc q f) q (scalarDone s f.dst
    (BitVec.ofNat 64 ((List.range 64).countP fun i => a.getLsbD i)))) ∧
  (s.markOf [f.oa, f.ob] = none → canGo s (.cmp q f) q (.cf :: regs3 f) → exec (.cmp q f) s = issued s (.cmp q f) q
    { st := s, writes := [.s f.dst { val := if condHolds f.sub a (s.sv f.ob) then 1 else 0 }, .cf (condHolds f.sub a (s.sv f.ob))] }) ∧
  (s.markOf [g.oa] = none → canGo s (.cmpi q g) q (.cf :: regsI g) → exec (.cmpi q g) s = issued s (.cmpi q g) q
    { st := s, writes := [.s g.dst { val := if condHolds g.sub x (imm g) then 1 else 0 }, .cf (condHolds g.sub x (imm g))] }) ∧
  (s.markOf [g.oa] = none → pos + width ≤ 64 → canGo s (.ext q g) q (regsI g) →
    ∃ r : Word, exec (.ext q g) s = issued s (.ext q g) q (scalarDone s g.dst r) ∧
      ∀ i < 64, r.getLsbD i = if i < width then x.getLsbD (pos + i) else g.sub == 1 && x.getLsbD (pos + width - 1)) ∧
  (s.markOf [g.oa, g.dst] = none → pos + width ≤ 64 → canGo s (.ins q g) q (regsI g) →
    ∃ r : Word, exec (.ins q g) s = issued s (.ins q g) q (scalarDone s g.dst r) ∧
      ∀ i < 64, r.getLsbD i = if pos ≤ i ∧ i < pos + width then x.getLsbD (i - pos) else (s.sv g.dst).getLsbD i)

/-- R121, R124, R125: the immediate forms, MOVI and LEA within a column. -/
def Obligations.ScalarImmediateWords : Prop := ∀ (q : Sys2Proof.Seq) (f : FmtB) (s : State),
  let a := s.sv f.oa
  let m : Word := ((BitVec.ofNat 48 f.imm).signExtend 64) <<< (16 * f.hi)
  (canGo s (.movi q f) q [.s f.dst] → exec (.movi q f) s = issued s (.movi q f) q (scalarDone s f.dst m)) ∧
  (s.markOf [f.oa] = none →
    (canGo s (.addi q f) q (regsI f) → exec (.addi q f) s = issued s (.addi q f) q (scalarDone s f.dst (a + m))) ∧
    (canGo s (.andi q f) q (regsI f) → exec (.andi q f) s = issued s (.andi q f) q (scalarDone s f.dst (a &&& m))) ∧
    (canGo s (.ori q f) q (regsI f) → exec (.ori q f) s = issued s (.ori q f) q (scalarDone s f.dst (a ||| m))) ∧
    (canGo s (.xori q f) q (regsI f) → exec (.xori q f) s = issued s (.xori q f) q (scalarDone s f.dst (a ^^^ m))) ∧
    (m.toNat < 64 →
      (canGo s (.shli q f) q (regsI f) → exec (.shli q f) s = issued s (.shli q f) q (scalarDone s f.dst (a <<< m.toNat))) ∧
      (canGo s (.shri q f) q (regsI f) → exec (.shri q f) s = issued s (.shri q f) q (scalarDone s f.dst (a >>> m.toNat))) ∧
      (canGo s (.sari q f) q (regsI f) → exec (.sari q f) s = issued s (.sari q f) q (scalarDone s f.dst (a.sshiftRight m.toNat))) ∧
      (canGo s (.roli q f) q (regsI f) → exec (.roli q f) s = issued s (.roli q f) q (scalarDone s f.dst
        ((a <<< m.toNat) ||| (a >>> (64 - m.toNat)))))) ∧
    (∀ c cc, neighbour s.cur.col f.sub = some c → (s.cur.fw = true ∧ cc = c ∨ s.cur.fw = false ∧ s.ctxCol (s.ctxOf s.cur) c = some cc) →
      (a + m).toNat < 2 ^ 26 → canGo s (.lea q f) q (regsI f) →
      exec (.lea q f) s = issued s (.lea q f) q (scalarDone s f.dst (BitVec.ofNat 64 (cc * 2 ^ 26 + (a + m).toNat)))))

/-- R122: DIV and REM round towards zero, the remainder takes the sign of the dividend, −2^63 / −1 gives −2^63 and 0, and a zero divisor raises
INTEGER_DIVIDE. -/
def Obligations.DivideWords : Prop := ∀ (q : Sys2Proof.Seq) (f : FmtA) (s : State), s.markOf [f.oa, f.ob] = none →
  let a := s.sv f.oa
  let b := s.sv f.ob
  (canGo s (.div q f) q (regs3 f) → b ≠ 0 → ∃ r : Word, exec (.div q f) s = issued s (.div q f) q (scalarDone s f.dst r 24) ∧
    (f.sub = 0 → a = BitVec.intMin 64 → b = -1 → r = BitVec.intMin 64) ∧
    (f.sub = 0 → ¬(a = BitVec.intMin 64 ∧ b = -1) → r.toInt = a.toInt.tdiv b.toInt) ∧
    (f.sub = 1 → r.toNat = a.toNat / b.toNat) ∧
    (a = -7 → b = 2 → (f.sub = 0 → r = -3) ∧ (f.sub = 1 → r = 0x7FFFFFFFFFFFFFFC))) ∧
  (canGo s (.rem q f) q (regs3 f) → b ≠ 0 → ∃ r : Word, exec (.rem q f) s = issued s (.rem q f) q (scalarDone s f.dst r 24) ∧
    (f.sub = 0 → r.toInt = a.toInt - a.toInt.tdiv b.toInt * b.toInt) ∧
    (f.sub = 1 → r.toNat = a.toNat - a.toNat / b.toNat * b.toNat) ∧
    (a = -7 → b = 2 → (f.sub = 0 → r = -1) ∧ (f.sub = 1 → r = 1))) ∧
  (b = 0 → (canGo s (.div q f) q (regs3 f) → exec (.div q f) s = faulted s 0x0C 0) ∧
    (canGo s (.rem q f) q (regs3 f) → exec (.rem q f) s = faulted s 0x0C 0))

/-- R121, R124, R127, R143: NOP does nothing, MOVI writes its immediate, MOV, SPILL and FILL carry a register with its mark, and the spill store has 512 slots of 8 bytes. -/
def Obligations.MoveAndSpillWords : Prop := ∀ (q : Sys2Proof.Seq) (f : FmtA) (g : FmtB) (s : State),
  (canGo s (.movi q g) q [.s g.dst] → exec (.movi q g) s = issued s (.movi q g) q (scalarDone s g.dst (imm g))) ∧
  (canGo s (.nop q f) q [] → exec (.nop q f) s = issued s (.nop q f) q { st := s }) ∧
  (canGo s (.mov q f) q [.s f.dst, .s f.oa] →
    exec (.mov q f) s = issued s (.mov q f) q { st := s, writes := [.s f.dst (s.e.sreg f.oa)] }) ∧
  (∀ n < 512, (imm g).toNat = 8 * n →
    (canGo s (.spill q g) q [.s g.oa] → exec (.spill q g) s = issued s (.spill q g) q
      { st := s.setE { s.e with spill := s.e.spill.put n (s.e.sreg g.oa) } }) ∧
    (canGo s (.fill q g) q [.s g.dst] → exec (.fill q g) s = issued s (.fill q g) q
      { st := s, writes := [.s g.dst ((s.e.spill.get? n).getD {})] })) ∧
  (4096 ≤ (imm g).toNat →
    (canGo s (.spill q g) q [.s g.oa] → exec (.spill q g) s = faulted s 0x0A (imm g &&& 0xFFFF)) ∧
    (canGo s (.fill q g) q [.s g.dst] → exec (.fill q g) s = faulted s 0x0A (imm g &&& 0xFFFF))) ∧
  ((imm g).toNat < 4096 → (imm g).toNat % 8 ≠ 0 →
    (canGo s (.spill q g) q [.s g.oa] → exec (.spill q g) s = faulted s 0x0B (imm g)) ∧
    (canGo s (.fill q g) q [.s g.dst] → exec (.fill q g) s = faulted s 0x0B (imm g)))

/-- R128, R129, R131: the loop words. -/
def Obligations.LoopWords : Prop := ∀ (q : Sys2Proof.Seq) (f : FmtB) (g : FmtF) (s : State),
  (s.markOf [f.oa] = none → canGo s (.lps q f) q [.s f.oa] → ∀ cnt : Int, cnt = (s.sv f.oa).toInt + (imm f).toInt →
    (s.e.level? f.dst = none → 1 ≤ cnt → cnt ≤ 2 ^ 32 - 1 →
      exec (.lps q f) s = issued s (.lps q f) q { st := s.setE { s.e with
        levels := { lvl := f.dst, head := s.e.idx + 1 + f.sub, count := cnt.toNat, iter := 0, desig := [] } :: s.e.levels } }) ∧
    ((s.e.level? f.dst ≠ none ∨ cnt < 1 ∨ 2 ^ 32 - 1 < cnt) → exec (.lps q f) s = faulted s 0x15 (BitVec.ofNat 64 f.dst))) ∧
  (canGo s (.lpst q f) q (if (q.sel == .endloop && s.e.levels.head?.any fun l => l.lvl == f.oa) = true then [.s f.dst] else []) →
    (∀ l, s.e.level? f.oa = some l → (l.desig.any fun d => d.1 == f.dst) = false → l.desig.length < 4 →
      exec (.lpst q f) s = issued s (.lpst q f) q { st := s.setE { s.e with levels := s.e.levels.map fun x =>
        if x.lvl == f.oa then { l with desig := l.desig ++ [(f.dst, (imm f).toInt)] } else x } }) ∧
    (s.e.level? f.oa = none → exec (.lpst q f) s = faulted s 0x15 (BitVec.ofNat 64 f.oa))) ∧
  (canGo s (.lcrd q g) q [.s g.dst] →
    (∀ l, s.e.level? g.oa = some l → exec (.lcrd q g) s = issued s (.lcrd q g) q (scalarDone s g.dst
      (BitVec.ofNat 64 (if g.sub = 1 then l.count else l.iter)))) ∧
    (s.e.level? g.oa = none → exec (.lcrd q g) s = issued s (.lcrd q g) q (scalarDone s g.dst 0)))

/-- R134–R137: mailboxes, queue registers, stamps and the cycle counter. -/
def Obligations.MailboxQueueAndTimeWords : Prop := ∀ (q : Sys2Proof.Seq) (f : FmtA) (b : FmtB) (g : FmtF) (s : State),
  (canGo s (.mbrd q g) q [.s g.dst] → exec (.mbrd q g) s = issued s (.mbrd q g) q
    (scalarDone (if g.sub = 1 then s.setSl { s.sl with mbClear := g.oa :: s.sl.mbClear } else s) g.dst (s.sl.mb g.oa))) ∧
  (f.sub = 0 → f.dst < 4 → s.sl.writerOf f.dst = engCode s.cur.eng → (s.sl.queue f.dst).hasRoom f.dst s.cyc →
    canGo s (.qput q f) q [.s f.oa] → exec (.qput q f) s = issued s (.qput q f) q
      { st := s.setSl (s.sl.reserveQueue f.dst), writes := [.q f.dst 2 (.s (s.e.sreg f.oa))] }) ∧
  (f.sub = 1 → 4 ≤ f.dst → s.cur.eng = .x → s.sl.writerOf f.dst = 1 → (s.sl.queue f.dst).hasRoom f.dst s.cyc →
    canGo s (.qput q f) q [.v f.oa] → exec (.qput q f) s = issued s (.qput q f) q
      { st := s.setSl (s.sl.reserveQueue f.dst), writes := [.q f.dst 3 (.v (s.sl.vreg f.oa))] }) ∧
  (f.sub = 0 → f.dst < 4 → s.sl.writerOf f.dst ≠ engCode s.cur.eng → canGo s (.qput q f) q [.s f.oa] →
    exec (.qput q f) s = faulted s 0x14 (BitVec.ofNat 64 (f.dst + 8))) ∧
  (∀ r, f.sub = 0 → f.oa < 4 → s.sl.readerOf f.oa = engCode s.cur.eng → (s.sl.queue f.oa).front s.cyc = some (.s r) →
    canGo s (.qget q f) q [.s f.dst] → exec (.qget q f) s = issued s (.qget q f) q
      { st := s.setSl (s.sl.setQueue f.oa ((s.sl.queue f.oa).dropFront s.cyc)), writes := [.s f.dst r] }) ∧
  (f.sub = 2 → f.oa < 4 → s.sl.readerOf f.oa = engCode s.cur.eng → (s.sl.queue f.oa).front s.cyc = none →
    canGo s (.qget q f) q [.s f.dst, .cf] → exec (.qget q f) s = issued s (.qget q f) q { st := s, writes := [.cf false] }) ∧
  (s.markOf [b.oa] = none → canGo s (.sbase q b) q [.s b.oa] → exec (.sbase q b) s = issued s (.sbase q b) q { st := { s with ctlq := s.ctlq ++
    [⟨s.cur, s.cur.slot, 0x021, if b.sub = 0 then BitVec.ofNat 64 s.cyc + (s.sv b.oa + imm b) else s.sv b.oa + imm b⟩] } }) ∧
  (canGo s (.rdcyc q g) q [.s g.dst] → exec (.rdcyc q g) s = issued s (.rdcyc q g) q (scalarDone s g.dst
    (if g.sub = 1 then BitVec.ofNat 64 s.cyc - s.sl.ctlr 0x021 else BitVec.ofNat 64 s.cyc)))

/-- R91, R92, R138, R139: reads and writes of the control space; a read gives what the register held at the start of the cycle; a group that reaches for a firmware-only register raises PRIVILEGE. -/
def Obligations.ControlSpaceWords : Prop := ∀ (q : Sys2Proof.Seq) (f : FmtF) (s : State),
  (s.ctlDenied f.csel false = none → canGo s (.ctlrd q f) q [.s f.dst] →
    exec (.ctlrd q f) s = issued s (.ctlrd q f) q (scalarDone s f.dst (s.atDawn.ctlRead s.cur f.csel) 2)) ∧
  (s.cur.fw = false → fwOnlyRead f.csel = true → canGo s (.ctlrd q f) q [.s f.dst] →
    exec (.ctlrd q f) s = faulted s 0x19 (BitVec.ofNat 64 f.csel)) ∧
  (∀ v, (f.sub = 0 ∧ v = s.sv f.oa ∧ s.markOf [f.oa] = none ∨ f.sub ≠ 0 ∧ v = s.ctlNew f) → canGo s (.ctlwr q f) q [.s f.oa] →
    (s.ctlDenied f.csel true = none → s.ctlBad s.cur f.csel v = none → s.ctlMisuse s.cur f.csel v = false → f.csel ≠ 0x17A →
      exec (.ctlwr q f) s = issued s (.ctlwr q f) q { st := s.ctlSchedule s.cur f.csel v }) ∧
    (s.cur.fw = false → fwOnlyWrite f.csel = true → exec (.ctlwr q f) s = faulted s 0x19 (BitVec.ofNat 64 f.csel)) ∧
    (s.ctlDenied f.csel true = none → v.toNat &&& reservedMask f.csel ≠ 0 →
      exec (.ctlwr q f) s = faulted s 0x02 (BitVec.ofNat 64 (lowBit (v.toNat &&& reservedMask f.csel)))))

/-- R140, R141: TRAP and BREAK raise their fault, and ERET in the firmware context resumes a Faulted group from the third cycle on, clears cf where
there is none, and raises PRIVILEGE in a group. -/
def Obligations.TrapAndReturnWords : Prop := ∀ (q : Sys2Proof.Seq) (f : FmtF) (s : State),
  (canGo s (.trap q f) q [] → exec (.trap q f) s = faulted s 0x17 (BitVec.ofNat 64 f.imm16)) ∧
  (canGo s (.brk q f) q [] → exec (.brk q f) s = faulted s 0x18 (BitVec.ofNat 64 f.imm16)) ∧
  (canGo s (.eret q f) q [.cf] →
    (s.cur.fw = false → exec (.eret q f) s = faulted s 0x19 0x2F) ∧
    (∀ n g, s.cur.fw = true → s.groupOf (slotKey s.cur.col (s.ctlSlot s.cur)) = some (n, g) → g.state = .faulted →
      exec (.eret q f) s = issued s (.eret q f) q
        { st := (s.resumeGroup s.cur.col (s.ctlSlot s.cur) (s.cyc + 3) (eretHow s s.cur.col (s.ctlSlot s.cur) (f.sub == 1))),
          writes := [.cf true] }) ∧
    (s.cur.fw = true → s.groupOf (slotKey s.cur.col (s.ctlSlot s.cur)) = none →
      exec (.eret q f) s = issued s (.eret q f) q { st := s, writes := [.cf false] }))

/-! ### Vector words (ch. 6) -/

/-- R149–R152: arithmetic and functions, element by element, for every tag the word has. -/
def Obligations.VectorArithmeticWords : Prop := ∀ (q : Sys2Proof.Seq) (f : FmtA) (s : State),
  let F := fmtOf f.fmt
  let int : Bool := f.fmt == 8 || f.fmt == 9
  let w := tagWidth f.fmt
  let two (fop : FFmt → FCtl → Nat → Nat → Nat → Nat × Nat) (iop : Int → Int → Int) (c : FCtl) (d : Nat) (x : List Nat) : Nat × Nat :=
    if int then intRes w (f.sub % 2 == 1) (iop (sint w (element x 0)) (sint w (element x 1))) else fop F c d (element x 0) (element x 1)
  (elementsOk s f 2 →
    (canGo s (.vadd q f) q (vregsA f 2) → exec (.vadd q f) s = issued s (.vadd q f) q
      (lanewise s f 2 (!int) 2 (two (fun F c d a b => fAdd F c d false a b) (· + ·)))) ∧
    (canGo s (.vsub q f) q (vregsA f 2) → exec (.vsub q f) s = issued s (.vsub q f) q
      (lanewise s f 2 (!int) 2 (two (fun F c d a b => fAdd F c d true a b) (· - ·)))) ∧
    (canGo s (.vmul q f) q (vregsA f 2) → exec (.vmul q f) s = issued s (.vmul q f) q (lanewise s f 2 (!int) 4 (two fMul (· * ·)))) ∧
    (canGo s (.vdiv q f) q (vregsA f 2) → exec (.vdiv q f) s = issued s (.vdiv q f) q
      (lanewise s f 2 true 14 fun c d x => fDiv F c d (element x 0) (element x 1))) ∧
    (canGo s (.vmin q f) q (vregsA f 2) → exec (.vmin q f) s = issued s (.vmin q f) q (lanewise s f 2 false 2 fun c _ x =>
      if int then (minMaxInt w (f.sub % 2 == 1) false (element x 0) (element x 1), 0) else fMinMax F c false (element x 0) (element x 1))) ∧
    (canGo s (.vmax q f) q (vregsA f 2) → exec (.vmax q f) s = issued s (.vmax q f) q (lanewise s f 2 false 2 fun c _ x =>
      if int then (minMaxInt w (f.sub % 2 == 1) true (element x 0) (element x 1), 0) else fMinMax F c true (element x 0) (element x 1)))) ∧
  (elementsOk s f 3 → canGo s (.vfma q f) q (vregsA f 3) → exec (.vfma q f) s = issued s (.vfma q f) q
    (lanewise s f 3 (!int) 4 fun c d x =>
      if int then
        let p := sint w (element x 0) * sint w (element x 1)
        intRes w false ((if f.sub % 2 = 1 then -p else p) + (if f.sub / 2 % 2 = 1 then -sint w (element x 2) else sint w (element x 2)))
      else fFma F c d (f.sub % 2 == 1) (f.sub / 2 % 2 == 1) (element x 0) (element x 1) (element x 2))) ∧
  (elementsOk s f 1 →
    (canGo s (.vsqrt q f) q (vregsA f 1) → exec (.vsqrt q f) s = issued s (.vsqrt q f) q
      (lanewise s f 1 true 14 fun c d x => fFn1 F c d .sqrt (element x 0))) ∧
    (canGo s (.vrsq q f) q (vregsA f 1) → exec (.vrsq q f) s = issued s (.vrsq q f) q
      (lanewise s f 1 true 10 fun c d x => fFn1 F c d .rsq (element x 0))) ∧
    (canGo s (.vrcp q f) q (vregsA f 1) → exec (.vrcp q f) s = issued s (.vrcp q f) q
      (lanewise s f 1 true 10 fun c d x => fFn1 F c d .rcp (element x 0))) ∧
    (canGo s (.vexp2 q f) q (vregsA f 1) → exec (.vexp2 q f) s = issued s (.vexp2 q f) q
      (lanewise s f 1 true 10 fun c d x => fFn1 F c d .exp2 (element x 0))) ∧
    (canGo s (.vlog2 q f) q (vregsA f 1) → exec (.vlog2 q f) s = issued s (.vlog2 q f) q
      (lanewise s f 1 true 10 fun c d x => fFn1 F c d .log2 (element x 0))))

/-- The 32-bit integers of ch. 6 lane by lane (R150, R151, R155): an enabled lane takes the operation of the sources' lanes modulo
2^32, a disabled lane stays, no flag is raised and no generator moves. -/
def Obligations.VectorIntegerLanes : Prop := ∀ (q : Sys2Proof.Seq) (f : FmtA) (s : State), f.fmt = 8 → f.sub = 0 →
  let a (l : Nat) : Lane := (s.sl.vreg f.oa).lanes.getD l 0
  let b (l : Nat) : Lane := (s.sl.vreg f.ob).lanes.getD l 0
  let result (i : Instr) (lat : Nat) (op : Nat → Lane) : Prop :=
    ∃ v : VReg, exec i s = issued s i q (vectorDone s f.dst v 0 none lat) ∧ v.tag = 8 ∧
      ∀ l < 256, v.lanes.getD l 0 = if (s.sl.kreg f.mask).getLsbD l then op l else (s.sl.vreg f.dst).lanes.getD l 0
  (elementsOk s f 2 →
    (canGo s (.vadd q f) q (vregsA f 2) → result (.vadd q f) 2 fun l => a l + b l) ∧
    (canGo s (.vsub q f) q (vregsA f 2) → result (.vsub q f) 2 fun l => a l - b l) ∧
    (canGo s (.vmul q f) q (vregsA f 2) → result (.vmul q f) 4 fun l => a l * b l) ∧
    (canGo s (.vmin q f) q (vregsA f 2) → result (.vmin q f) 2 fun l => if (a l).slt (b l) then a l else b l) ∧
    (canGo s (.vmax q f) q (vregsA f 2) → result (.vmax q f) 2 fun l => if (a l).slt (b l) then b l else a l) ∧
    (canGo s (.vshl q f) q (vregsA f 2) → result (.vshl q f) 2 fun l => a l <<< ((b l).toNat % 32)) ∧
    (canGo s (.vshr q f) q (vregsA f 2) → result (.vshr q f) 2 fun l => a l >>> ((b l).toNat % 32)) ∧
    (canGo s (.vsar q f) q (vregsA f 2) → result (.vsar q f) 2 fun l => (a l).sshiftRight ((b l).toNat % 32))) ∧
  (elementsOk s f 1 →
    (canGo s (.vneg q f) q (vregsA f 1) → result (.vneg q f) 2 fun l => -a l) ∧
    (canGo s (.vabs q f) q (vregsA f 1) → result (.vabs q f) 2 fun l => if (a l).msb then -a l else a l))

/-- R151, R155: signs and shifts for every tag the words have. -/
def Obligations.VectorSignAndShiftWords : Prop := ∀ (q : Sys2Proof.Seq) (f : FmtA) (s : State),
  let w := tagWidth f.fmt
  let int : Bool := f.fmt == 8 || f.fmt == 9
  (elementsOk s f 1 →
    (canGo s (.vabs q f) q (vregsA f 1) → exec (.vabs q f) s = issued s (.vabs q f) q (lanewise s f 1 false 2 fun _ _ x =>
      if int then intRes w (f.sub % 2 == 1) (sint w (element x 0)).natAbs else (element x 0 % 2 ^ (w - 1), 0))) ∧
    (canGo s (.vneg q f) q (vregsA f 1) → exec (.vneg q f) s = issued s (.vneg q f) q (lanewise s f 1 false 2 fun _ _ x =>
      if int then intRes w (f.sub % 2 == 1) (-sint w (element x 0)) else (element x 0 ^^^ 2 ^ (w - 1), 0)))) ∧
  (elementsOk s f 2 →
    (canGo s (.vshl q f) q (vregsA f 2) → exec (.vshl q f) s = issued s (.vshl q f) q
      (lanewise s f 2 false 2 fun _ _ x => (element x 0 * 2 ^ (element x 1 % w) % 2 ^ w, 0))) ∧
    (canGo s (.vshr q f) q (vregsA f 2) → exec (.vshr q f) s = issued s (.vshr q f) q
      (lanewise s f 2 false 2 fun _ _ x => (element x 0 / 2 ^ (element x 1 % w), 0))) ∧
    (canGo s (.vsar q f) q (vregsA f 2) → exec (.vsar q f) s = issued s (.vsar q f) q
      (lanewise s f 2 false 2 fun _ _ x => ((sint w (element x 0) / 2 ^ (element x 1 % w) % (2 ^ w : Nat)).toNat, 0))))

/-- R145, R153–R155, R161, R162: compares, selects, raw bits and moves. A disabled lane of a compare writes 0; a scaled tag acts group by group. -/
def Obligations.VectorSelectAndMoveWords : Prop := ∀ (q : Sys2Proof.Seq) (f : FmtA) (s : State),
  let m := s.sl.kreg f.mask
  let em := effMask m f.fmt
  let a := s.sl.vreg f.oa
  let b := s.sl.vreg f.ob
  let old := s.sl.vreg f.dst
  let bits (op : Lane → Lane → Lane) : Done := vectorDone s f.dst (mergeV old f.fmt em (List.zipWith op a.lanes b.lanes)) 0 none 2
  (lanesOk s [⟨f.oa, f.fmt, 0⟩, ⟨f.ob, f.fmt, 1⟩] 0 0 none [f.oa, f.ob] m → canGo s (.vcmp q f) q [.k f.mask, .k f.dst, .v f.oa, .v f.ob] →
    ∃ r : BitVec 256, ∃ fl : Nat,
      exec (.vcmp q f) s = issued s (.vcmp q f) q { st := s.setSl (s.sl.raise fl), lat := 2, writes := [.k f.dst r] } ∧
      (∀ l < 256, r.getLsbD l = (m.getLsbD l && if f.fmt = 8 then condHolds f.sub (a.lanes.getD l 0) (b.lanes.getD l 0)
        else (fCmp (fctl (s.sl.ctlr 0) f.rnd) f.sub (a.lanes.getD l 0).toNat (b.lanes.getD l 0).toNat).1)) ∧ (f.fmt = 8 → fl = 0)) ∧
  (lanesOk s (if f.fmt = 0 then [] else [⟨f.oa, f.fmt, 0⟩, ⟨f.ob, f.fmt, 1⟩]) f.mask f.dst (if f.fmt = 0 then none else some f.fmt) [f.oa, f.ob] em →
    canGo s (.vsel q f) q [.k f.mask, .k f.oc, .v f.dst, .v f.oa, .v f.ob] →
    exec (.vsel q f) s = issued s (.vsel q f) q (vectorDone s f.dst (mergeV old f.fmt em ((List.range 256).map fun l =>
      if (effMask (s.sl.kreg f.oc) f.fmt).getLsbD l then a.lanes.getD l 0 else b.lanes.getD l 0)) 0 none 2)) ∧
  (lanesOk s [] 0 0 none [f.oa, f.ob] em →
    (canGo s (.vand q f) q (vregsA f 2) → exec (.vand q f) s = issued s (.vand q f) q (bits (· &&& ·))) ∧
    (canGo s (.vor q f) q (vregsA f 2) → exec (.vor q f) s = issued s (.vor q f) q (bits (· ||| ·))) ∧
    (canGo s (.vxor q f) q (vregsA f 2) → exec (.vxor q f) s = issued s (.vxor q f) q (bits (· ^^^ ·)))) ∧
  (isScaled a.tag || !Use.legalTags.contains a.tag → canGo s (.vperm q f) q (vregsA f 2) →
    exec (.vperm q f) s = faulted s 0x04 (mismatchInfo 0 a.tag f.oa 0)) ∧
  (isScaled a.tag = false → Use.legalTags.contains a.tag → lanesOk s [⟨f.ob, 8, 1⟩] f.mask f.dst (some a.tag) [] m → a.marks = [] → b.marks = [] →
    canGo s (.vperm q f) q (vregsA f 2) → exec (.vperm q f) s = issued s (.vperm q f) q (vectorDone s f.dst (mergeV old a.tag m
      ((List.range 256).map fun l => a.lanes.getD ((b.lanes.getD l 0).toNat % 256) 0)) 0 none 8)) ∧
  (f.sub = 0 → lanesOk s [] f.mask f.dst (some a.tag) [] m → canGo s (.vmov q f) q [.k f.mask, .v f.dst, .v f.oa] →
    exec (.vmov q f) s = issued s (.vmov q f) q (vectorDone s f.dst (mergeV old a.tag m a.lanes a.marks) 0 none 2)) ∧
  (∀ v, f.sub = 1 → (s.sl.ports.getD f.oa {}).held.head? = some v → lanesOk s [] f.mask f.dst (some v.tag) [] m →
    canGo s (.vmov q f) q [.k f.mask, .v f.dst] → ∃ d : Done, exec (.vmov q f) s = issued s (.vmov q f) q d ∧
      d.writes = [.v f.dst (mergeV old v.tag m v.lanes v.marks)] ∧ (d.st.sl.ports.getD f.oa {}).held = (s.sl.ports.getD f.oa {}).held.drop 1) ∧
  (s.markOf [f.oa] = none →
    (lanesOk s [] f.mask f.dst (some f.fmt) [] 0 → canGo s (.vbcast q f) q [.k f.mask, .v f.dst, .s f.oa] →
      exec (.vbcast q f) s = issued s (.vbcast q f) q (vectorDone s f.dst (mergeV old f.fmt m (List.replicate 256
        (packLane (tagWidth f.fmt) (List.replicate (32 / tagWidth f.fmt) ((s.sv f.oa).toNat % 2 ^ tagWidth f.fmt))))) 0 none 2)) ∧
    (lanesOk s [] f.mask f.dst (some 8) [] 0 → canGo s (.vidx q f) q [.k f.mask, .v f.dst, .s f.oa] →
      exec (.vidx q f) s = issued s (.vidx q f) q (vectorDone s f.dst (mergeV old 8 m ((List.range 256).map fun l =>
        BitVec.ofNat 32 (l + (s.sv f.oa).toNat))) 0 none 2))) ∧
  (s.markOf [f.ob] = none → a.marks = [] → canGo s (.vext q f) q [.s f.dst, .v f.oa, .s f.ob] →
    let w := tagWidth f.fmt
    let n := (s.sv f.ob).toNat
    let e := element (elems w (a.lanes.getD (n / (32 / w)) 0)) (n % (32 / w))
    exec (.vext q f) s = issued s (.vext q f) q (scalarDone s f.dst
      (if 256 * (32 / w) ≤ n then 0 else if f.sub % 2 = 1 then BitVec.ofInt 64 (sint w e) else BitVec.ofNat 64 e) 4))

/-- R166: the mask words, and KPOPC, which writes the number of one bits. -/
def Obligations.MaskWords : Prop := ∀ (q : Sys2Proof.Seq) (f : FmtA) (s : State),
  (canGo s (.kand q f) q [.k f.dst, .k f.oa, .k f.ob] →
    exec (.kand q f) s = issued s (.kand q f) q (maskDone s f.dst (s.sl.kreg f.oa &&& s.sl.kreg f.ob))) ∧
  (canGo s (.kor q f) q [.k f.dst, .k f.oa, .k f.ob] →
    exec (.kor q f) s = issued s (.kor q f) q (maskDone s f.dst (s.sl.kreg f.oa ||| s.sl.kreg f.ob))) ∧
  (canGo s (.kxor q f) q [.k f.dst, .k f.oa, .k f.ob] →
    exec (.kxor q f) s = issued s (.kxor q f) q (maskDone s f.dst (s.sl.kreg f.oa ^^^ s.sl.kreg f.ob))) ∧
  (canGo s (.knot q f) q [.k f.dst, .k f.oa] → exec (.knot q f) s = issued s (.knot q f) q (maskDone s f.dst (~~~(s.sl.kreg f.oa)))) ∧
  (canGo s (.kpopc q f) q [.s f.dst, .k f.oa] → exec (.kpopc q f) s = issued s (.kpopc q f) q (scalarDone s f.dst
    (BitVec.ofNat 64 ((List.range 256).countP fun l => (s.sl.kreg f.oa).getLsbD l)) 2))

/-- R156–R160: conversions, reductions and scans, for every tag they have. A conversion converts each element of the enabled lanes (a scaled
destination group by group, a scaled source part by part) with one draw for each under RSN, writes its destination's tag and leaves the disabled
lanes; a reduction combines the elements of the enabled lanes in their order and gives its result to every enabled element or to a scalar, in index
form the lowest number of an element that equals it; a scan writes to each enabled element the reduction of those before it, with itself or without. -/
def Obligations.ConversionAndReductionWords : Prop := ∀ (q : Sys2Proof.Seq) (f : FmtA) (s : State),
  let m := s.sl.kreg f.mask
  let a := s.sl.vreg f.oa
  let old := s.sl.vreg f.dst
  let c := fctl (s.sl.ctlr 0) f.rnd
  let gens := s.sl.genList
  let w := tagWidth f.fmt
  let F := fmtOf f.fmt
  let src := f.oc % 32
  let part := f.sub % 8
  let keep : Bool := f.sub / 8 % 2 == 1
  let us : Bool := f.sub / 8 % 2 == 1
  let flagsOf (fl : Nat → Nat) : Nat := (List.range 256).foldl (fun n l => if m.getLsbD l then n ||| fl l else n) 0
  let moved (g : Nat → Nat) : Option (List Nat) :=
    if c.rm = 4 then some ((List.range 256).map fun l => if m.getLsbD l then g l else gens.getD l 0) else none
  let pairs := enabledElems w m a
  let es := pairs.map (·.2)
  let on : List Int := ((List.range 256).filter fun l => m.getLsbD l).map fun l => (a.lanes.getD l 0).toInt
  let scalar (fl : Nat) (g : Option (List Nat)) (x : Word) : Done := { vectorDone s f.dst {} fl g 12 with writes := [.s f.dst { val := x }] }
  let result (bits fl : Nat) (signed : Bool) (g : Option (List Nat)) : Done :=
    if f.sub % 2 = 1 then scalar fl g (if signed then BitVec.ofInt 64 (sint w bits) else BitVec.ofNat 64 bits)
    else vectorDone s f.dst (mergeV old f.fmt m (List.replicate 256 (packLane w (List.replicate (32 / w) bits)))) fl g 12
  (cvtDecode (.vcvt q f) f s = none → isScaled f.fmt = false → isScaled src = false →
    lanesOk s (⟨f.oa, src, 0⟩ :: if keep then [⟨f.dst, f.fmt, 3⟩] else []) f.mask f.dst (some f.fmt) (f.oa :: if keep then [f.dst] else []) m →
    canGo s (.vcvt q f) q [.k f.mask, .v f.dst, .v f.oa] →
    let x := 32 / tagWidth src
    let y := 32 / w
    let row (l : Nat) : List Nat × Nat × Nat :=
      let e := elems (tagWidth src) (a.lanes.getD l 0)
      elemPass c true (fun d z => cvtElem src f.fmt c d (element z 0)) ((if y < x then (e.drop (part * y)).take y else e).map fun z => [z])
        (gens.getD l 0)
    let base (l : Nat) : List Nat := if keep then elems w (old.lanes.getD l 0) else List.replicate y 0
    exec (.vcvt q f) s = issued s (.vcvt q f) q (vectorDone s f.dst (mergeV old f.fmt m ((List.range 256).map fun l => packLane w
      (if x < y then (base l).take (part * x) ++ (row l).1 ++ (base l).drop (part * x + x) else (row l).1)))
      (flagsOf fun l => (row l).2.1) (moved fun l => (row l).2.2) 4)) ∧
  (cvtDecode (.vcvt q f) f s = none → isScaled f.fmt = true →
    lanesOk s ((cvtRegs f).map fun r => ⟨r, 1, 0⟩) f.mask f.dst (some f.fmt) (cvtRegs f) (effMask m f.fmt) →
    canGo s (.vcvt q f) q (.k f.mask :: .v f.dst :: (cvtRegs f).map Reg.v) →
    let group (g : Nat) : List Nat × Nat × Nat := cvtGroup f c ((cvtRegs f).map s.sl.vreg) g (gens.getD (8 * g) 0)
    exec (.vcvt q f) s = issued s (.vcvt q f) q (vectorDone s f.dst (mergeV old f.fmt (effMask m f.fmt) ((List.range 256).map fun l =>
        (groupLanes (group (l / 8)).1).getD (l % 8) 0))
      ((List.range 32).foldl (fun n g => if m.getLsbD (8 * g) then n ||| (group g).2.1 else n) 0)
      (if c.rm = 4 then some ((List.range 256).map fun l => if l % 8 = 0 ∧ m.getLsbD l = true then (group (l / 8)).2.2 else gens.getD l 0)
        else none) 8)) ∧
  (cvtDecode (.vcvt q f) f s = none → isScaled f.fmt = false → isScaled src = true →
    lanesOk s [⟨f.oa, src, 0⟩] f.mask f.dst (some 1) [f.oa] m → canGo s (.vcvt q f) q [.k f.mask, .v f.dst, .v f.oa] →
    let from_ (l : Nat) : List FVal × Nat := cvtPart src part a (l / 8)
    let elem (l : Nat) : Nat × Nat := encodeVal fmtF32 c (drawOf (genStep c (gens.getD l 0))) ((from_ l).1.getD (l % 8) (.fin false 0 0))
    exec (.vcvt q f) s = issued s (.vcvt q f) q (vectorDone s f.dst (mergeV old 1 m ((List.range 256).map fun l => BitVec.ofNat 32 (elem l).1))
      (flagsOf fun l => (elem l).2 ||| (from_ l).2) (moved fun l => genStep c (gens.getD l 0)) 8)) ∧
  (lanesOk s [⟨f.oa, f.fmt, 0⟩] (if f.sub % 2 = 1 then 0 else f.mask) f.dst (if f.sub % 2 = 1 then none else some f.fmt) [f.oa] m →
    (canGo s (.vredsum q f) q (redRegs f) → exec (.vredsum q f) s = issued s (.vredsum q f) q (
      if f.fmt = 8 ∨ f.fmt = 9 then
        let r := intRes w (f.sub / 2 % 2 == 1) (es.foldl (fun i x => i + sint w x) 0)
        result r.1 r.2 true none
      else
        let g := genStep c (gens.getD 0 0)
        let r := (es.foldl (fun t x => t.add F (inVal F c x)) ({} : SumAcc)).out F c (drawOf g)
        result r.1 (r.2 ||| flushFlags f.fmt c es) false (if c.rm = 4 then some (gens.set 0 g) else none))) ∧
    (f.sub / 4 % 2 = 0 → canGo s (.vredmin q f) q (redRegs f) → exec (.vredmin q f) s = issued s (.vredmin q f) q
      (result (foldMinMax f.fmt c us false es) (flushFlags f.fmt c es) ((f.fmt == 8 || f.fmt == 9) && !us) none)) ∧
    (f.sub / 4 % 2 = 0 → canGo s (.vredmax q f) q (redRegs f) → exec (.vredmax q f) s = issued s (.vredmax q f) q
      (result (foldMinMax f.fmt c us true es) (flushFlags f.fmt c es) ((f.fmt == 8 || f.fmt == 9) && !us) none))) ∧
  (f.sub / 4 % 2 = 1 → lanesOk s [⟨f.oa, f.fmt, 0⟩] 0 0 none [f.oa] m →
    let index (i : Instr) (mx : Bool) : Prop :=
      let same (b : Nat) : Prop := (if f.fmt = 8 ∨ f.fmt = 9 then b else valBits F c (inVal F c b)) = foldMinMax f.fmt c us mx es
      ∃ n, exec i s = issued s i q (scalar (flushFlags f.fmt c es) none (if pairs = [] then BitVec.allOnes 64 else BitVec.ofNat 64 n)) ∧
        (pairs ≠ [] → ∃ b, (n, b) ∈ pairs ∧ same b ∧ ∀ x ∈ pairs, same x.2 → n ≤ x.1)
    (canGo s (.vredmin q f) q (redRegs f) → index (.vredmin q f) false) ∧ (canGo s (.vredmax q f) q (redRegs f) → index (.vredmax q f) true)) ∧
  (f.fmt = 8 → f.sub = 1 → lanesOk s [⟨f.oa, 8, 0⟩] 0 f.dst none [f.oa] m →
    (canGo s (.vredsum q f) q (redRegs f) → exec (.vredsum q f) s = issued s (.vredsum q f) q
      (scalar 0 none (BitVec.ofInt 64 (sint 32 (on.sum % (2 ^ 32 : Nat)).toNat)))) ∧
    (on ≠ [] → canGo s (.vredmin q f) q (redRegs f) → ∃ r ∈ on, (∀ x ∈ on, r ≤ x) ∧
      exec (.vredmin q f) s = issued s (.vredmin q f) q (scalar 0 none (BitVec.ofInt 64 r))) ∧
    (on ≠ [] → canGo s (.vredmax q f) q (redRegs f) → ∃ r ∈ on, (∀ x ∈ on, x ≤ r) ∧
      exec (.vredmax q f) s = issued s (.vredmax q f) q (scalar 0 none (BitVec.ofInt 64 r)))) ∧
  (lanesOk s [⟨f.oa, f.fmt, 0⟩] f.mask f.dst (some f.fmt) [f.oa] m → canGo s (.vscan q f) q (vregsA f 1) →
    let before (l i : Nat) : List Nat :=
      (pairs.filter fun x => decide (x.1 < l * (32 / w) + i) || (f.sub % 2 == 0 && x.1 == l * (32 / w) + i)).map (·.2)
    ∃ (lanes : List Lane) (fl : Nat) (g : Option (List Nat)),
      exec (.vscan q f) s = issued s (.vscan q f) q (vectorDone s f.dst (mergeV old f.fmt m lanes) fl g 16) ∧
      (∀ l < 256, ∀ i < 32 / w, m.getLsbD l = true → element (elems w (lanes.getD l 0)) i = (
        if f.sub / 2 % 4 ≠ 0 then
          ((before l i).foldl (fun o x => some (foldMinMax f.fmt c us (f.sub / 2 % 4 == 2) (o.toList ++ [x]))) none).getD
            (emptyMinMax f.fmt us (f.sub / 2 % 4 == 2))
        else if f.fmt = 8 ∨ f.fmt = 9 then (intRes w false ((before l i).foldl (fun t x => t + sint w x) 0)).1
        else (((before l i).foldl (fun t x => t.add F (inVal F c x)) ({} : SumAcc)).out F c
          (drawOf ((List.range (i + 1)).foldl (fun t _ => genStep c t) (gens.getD l 0)))).1) % 2 ^ w))

/-- R163–R169: rotations between cells, a column shift with no partner, and local pushes and pops of conditional streams. -/
def Obligations.ShiftAndStreamWords : Prop := ∀ (q : Sys2Proof.Seq) (f : FmtA) (s : State),
  let m := s.sl.kreg f.mask
  let a := s.sl.vreg f.oa
  let n := f.sub % 4
  let cs := s.sl.cstream n
  (lanesOk s [] f.mask f.dst (some a.tag) [] m → canGo s (.vshift q f) q (vregsA f 1) →
    (4 ≤ f.sub % 8 → ∃ v, exec (.vshift q f) s = issued s (.vshift q f) q (vectorDone s f.dst v 0 none 1) ∧ v.tag = a.tag ∧
      (isScaled a.tag = false → ∀ l < 256, v.lanes.getD l 0 = if m.getLsbD l
        then a.lanes.getD ((l + if f.sub % 8 = 4 then 240 else 16) % 256) 0 else (s.sl.vreg f.dst).lanes.getD l 0)) ∧
    (f.sub % 8 < 4 → shiftPartner s s.cur (neighbour s.cur.col (f.sub % 8 + 1)) = none →
      shiftPartner s s.cur (neighbour s.cur.col ((f.sub % 8 ^^^ 1) + 1)) = none →
      exec (.vshift q f) s = issued s (.vshift q f) q
        { st := s, lat := 2, writes := [.v f.dst (mergeV (s.sl.vreg f.dst) a.tag m (List.replicate 256 0))] })) ∧
  (f.fmt = a.tag → sharedStream s n = false → (cs.recs = [] ∨ cs.tag = f.fmt) → (laneMark s.sl m [f.oa]).isNone →
    cs.recs.length + (pushRecords s f).length ≤ 1024 → canGo s (.cspush q f) q [.k f.mask, .v f.oa] →
    ∃ d, exec (.cspush q f) s = issued s (.cspush q f) q d ∧ d.lat = 2 ∧ d.writes = [] ∧
      (d.st.sl.cstream n).recs = cs.recs ++ pushRecords s f) ∧
  (f.fmt = a.tag → sharedStream s n = false → (cs.recs = [] ∨ cs.tag = f.fmt) → (laneMark s.sl m [f.oa]).isNone →
    1024 < cs.recs.length + (pushRecords s f).length → canGo s (.cspush q f) q [.k f.mask, .v f.oa] → exec (.cspush q f) s = .next s) ∧
  (∀ t, f.sub / 8 % 2 = 0 → sharedStream s n = false → popCountOf f cs.recs.length = some t → (cs.recs = [] ∨ cs.tag = f.fmt) →
    canGo s (.cspop q f) q [.v f.dst, .k f.ob] → exec (.cspop q f) s = issued s (.cspop q f) q
      { st := s.setSl { s.sl with cstreams := s.sl.cstreams.put n { cs with recs := cs.recs.drop t } }, lat := 2,
        writes := popWrites f (cs.recs.take t) })

/-! ### Matrix words (ch. 7) -/

/-- R112, R202–R205: the lease, the fold state and MPERTURB: MLEASE takes a free lease for which no slot waits, keeps its own, tries or waits; MFREE releases
it, clears first where it is asked to, and waits for the slot's matrix work; MFOLD reads the fold state; MPERTURB arms the slot. Every matrix word of a slot that
does not hold the lease raises MATRIX_LEASE with the holder in TRAPINFO. -/
def Obligations.LeaseAndFoldWords : Prop := ∀ (q : Sys2Proof.Seq) (f : FmtF) (g : FmtD) (h : FmtC) (s : State),
  let k := s.cur
  let c := s.colAt k.col
  let held := s.e.leased.getD (s.atDawn.holdsLease k)
  (canGo s (.mlease q f) q [.cf] →
    ((regionOf s).matrix = false → exec (.mlease q f) s = faulted s 0x1B (s.leaseInfo k)) ∧
    ((regionOf s).matrix = true → c.lease = none → c.leaseWait = [] → exec (.mlease q f) s = issued s (.mlease q f) q
      { st := s.grantLease k.col k.slot, lat := s.leaseLatency k.col k.slot, writes := [.cf true], hold := s.leaseLatency k.col k.slot != 1 }) ∧
    ((regionOf s).matrix = true → c.lease = some k.slot → exec (.mlease q f) s = issued s (.mlease q f) q { st := s, writes := [.cf true] }) ∧
    (∀ n, (regionOf s).matrix = true → c.lease = some n → n ≠ k.slot → f.sub % 2 = 1 →
      exec (.mlease q f) s = issued s (.mlease q f) q { st := s, writes := [.cf false] }) ∧
    (∀ n, (regionOf s).matrix = true → c.lease = some n → n ≠ k.slot → f.sub % 2 = 0 → exec (.mlease q f) s = issued s (.mlease q f) q
      { st := s.setCol k.col { c with leaseWait := c.leaseWait ++ [(k.slot, (regionOf s).prio)] }, lat := 2, busy := [.cf], pend := .lease,
        hold := true })) ∧
  (held = true →
    (canGo s (.mfree q f) q [] →
      (s.matrixFlights k.col k.slot = [] → f.sub % 2 = 0 → exec (.mfree q f) s = issued s (.mfree q f) q { st := s.releaseLease k.col }) ∧
      (s.matrixFlights k.col k.slot = [] → f.sub % 2 = 1 → exec (.mfree q f) s = issued s (.mfree q f) q
        { st := s.clearMatrix k.col, lat := 4480, hold := true }) ∧
      (s.matrixFlights k.col k.slot ≠ [] → exec (.mfree q f) s = issued s (.mfree q f) q
        { st := s.due s.cyc 605 (.wordComplete s.nextId), lat := 2, pend := .matrix (s.matrixFlights k.col k.slot), hold := true })) ∧
    (s.markOf (if f.sub = 3 then [] else [f.oa]) = none → canGo s (.mfold q f) q [.s f.dst, .s f.oa, .cf] →
      let v := s.foldstat k.col
      let count (late : Nat) : Word := BitVec.ofNat 64 (occupancy (passPlan (foldOut v) late (foldJdeg v) (s.sv f.oa).toNat))
      ∃ out : Word, exec (.mfold q f) s = issued s (.mfold q f) q
        { st := s, writes := [.s f.dst { val := out }, .cf (foldOut v == 0 && foldJdeg v == 0)] } ∧
        (f.sub = 0 → out = count (foldOut v)) ∧
        (f.sub = 1 → out = count 0) ∧
        (f.sub = 2 → out = if foldOut v ≠ 0 ∨ foldJdeg v ≠ 0 then BitVec.allOnes 64 else count 0) ∧
        (f.sub = 3 → bitsAt out 3 0 = 15 - foldOut v ∧ bitsAt out 63 4 = bitsAt v 63 4)) ∧
    (s.markOf [g.ma] = none → canGo s (.mperturb q g) q [.s g.ma] →
      ((regionOf s).debug = true → s.replayOf k = none → exec (.mperturb q g) s = issued s (.mperturb q g) q { st := s.setSl { s.sl with
        perturb := some (g.acc % 32768, bitsAt (s.sv g.ma) 5 0, bitsAt (s.sv g.ma) 63 32) } }) ∧
      ((regionOf s).debug = true → s.replayOf k ≠ none → exec (.mperturb q g) s = issued s (.mperturb q g) q { st := s }) ∧
      ((regionOf s).debug = false → exec (.mperturb q g) s = faulted s 0x19 0x089))) ∧
  (held = false → s.canIssue k = true →
    let no (i : Instr) : Prop := exec i s = faulted s 0x1B (s.atDawn.leaseInfo k)
    no (.mfree q f) ∧ no (.mfold q f) ∧ no (.mperturb q g) ∧ no (.mld q h) ∧ no (.mzero q g) ∧ no (.mdrain q g) ∧ no (.mma q g) ∧
    no (.mmaq q g) ∧ no (.mmac q g))

/-- R174, R176, R197, R200, R201: loading, clearing and draining a tile or granules. -/
def Obligations.TileWords : Prop := ∀ (q : Sys2Proof.Seq) (f : FmtC) (g : FmtD) (s : State),
  let k := s.cur
  s.e.leased.getD (s.atDawn.holdsLease k) = true →
  (∀ w, s.markOf [f.base, f.aux] = none → s.loadCount k < 16 → s.tileRead k.col f.data = false →
    1 ≤ (s.sv f.aux).toNat → (s.sv f.aux).toNat ≤ 192 → (s.effAddr f).toNat % 64 = 0 → s.window k k.col = some w →
    (s.effAddr f).toNat + 64 * ((imageBytes f.fmt (s.sv f.aux).toNat + 255) / 256) ≤ w.size →
    (strictMode s = false ∨ (tilePieces s w (s.effAddr f).toNat (imageBytes f.fmt (s.sv f.aux).toNat)).all (fun p => !s.rowClosed p.key) = true) →
    canGo s (.mld q f) q [.s f.base, .s f.aux] →
    ∃ d, exec (.mld q f) s = issued s (.mld q f) q d ∧ d.pend = .tile [f.data, f.fmt, (s.sv f.aux).toNat] ∧
      d.pieces = tilePieces s w (s.effAddr f).toNat (imageBytes f.fmt (s.sv f.aux).toNat) ∧
      d.st.ctlq = s.ctlq ++ [⟨k, k.slot, 0x040 + f.data, BitVec.ofNat 64 ((s.sv f.aux).toNat * 256 + f.fmt)⟩]) ∧
  (g.sub % 2 = 1 → s.tileRead k.col g.md = false → s.tileAwaits k.col g.md = false → canGo s (.mzero q g) q [] →
    exec (.mzero q g) s = issued s (.mzero q g) q
      { st := s.due (s.cyc + 23) 600 (.wordComplete s.nextId), lat := 24, pend := .matrix [] }) ∧
  (∀ n, g.sub % 2 = 0 → s.markOf [g.ma] = none → n = (s.sv g.ma).toNat → 1 ≤ n → n ≤ 32768 →
    (List.range n).all (fun x => !s.granuleAwaits k.col (g.acc + x)) → canGo s (.mzero q g) q [.s g.ma] →
    exec (.mzero q g) s = issued s (.mzero q g) q
      { st := s.due (s.cyc + (n + 7) / 8 + 1) 600 (.wordComplete s.nextId), lat := (n + 7) / 8 + 2, pend := .matrix [n] }) ∧
  (∀ nr n rs ps, drainDec g s = none → s.markOf [g.ma, g.mb] = none → s.storeCount k < 16 → (s.colAt k.col).drainFree ≤ s.cyc →
    s.sv g.mb = BitVec.ofNat 64 (nr + n * 2 ^ 8 + rs * 2 ^ 16) → 1 ≤ nr → nr ≤ 96 → 1 ≤ n → n ≤ 192 → rs < 2 ^ 16 →
    (g.sub / 8 % 2 = 1 ∨ rs % 64 = 0) →
    (s.sv g.ma).toNat % 64 = 0 →
    ((List.range (nr * granulesOf n)).all fun x =>
      !s.granuleAwaits k.col ((g.acc + x) % 32768) && !s.accPoisoned k.col ((g.acc + x) % 32768)) →
    drainPieces s (drainBytes (s.sv g.ma).toNat rs nr n (g.md % 32) (g.sub / 8 % 2 == 1)
      ((List.range nr).map fun _ => (List.replicate n 0, List.replicate (if isScaled (g.md % 32) then (n + 23) / 24 else 0) 0)) ++
      if g.frec = 1 then recordBytes ((s.sv g.ma).toNat + nr * rs)
        ((List.range (nr * granulesOf n)).map fun x => (s.colAt k.col).recs.getD ((g.acc + x) % 32768) 0) else []) = .ok ps →
    canGo s (.mdrain q g) q [.s g.ma, .s g.mb] →
    ∃ d, exec (.mdrain q g) s = issued s (.mdrain q g) q d ∧ d.lat = nr * granulesOf n + 10 ∧
      d.st.stores = s.stores ++ [⟨s.nextId, k, .write, ps, none, false, []⟩] ∧
      (d.st.colAt k.col).drainFree = s.cyc + nr * granulesOf n)

/-- R103, R104, R179, R185, R191–R194, R198, R199, R206: a product whose target has come, whose slot has its lease, and whose operands, array and granules are
free issues: it joins the products of its column with the partial sums of its operands and the passes of R185, which wait for the bypass where a joint is
degraded; FOLDREC takes its record, MSEQ counts it, and MSLIP takes what it was late, but for a pinned product. Its granules are complete after O + 11 cycles,
MMAQ's after O + 13; MMAC's rows then go through the converter one granule a cycle, so that MD is complete after O + P + 20. A pinned product takes its late
set from its entry of the pin list, and faults where that entry cannot be read. -/
def Obligations.ProductWords : Prop := ∀ (q : Sys2Proof.Seq) (f : FmtD) (s : State),
  let k := s.cur
  let starts (kind : Nat) (i : Instr) : Prop :=
    let p := planProduct s k kind f s.nextId
    let a := (mOperands s k f (kind == 1)).1
    let b := (mOperands s k f (kind == 1)).2
    let jdeg := foldJdeg (s.foldstat k.col)
    let t := stampTarget s k f
    let pinned := pinnedSlot s k
    let n := ((s.slotAt k.sk).ctlr 0x112).toNat
    let o := occupancy p.passes
    canGo s i q [] → productDec kind f s = none → tagMismatch s k kind f = none → t ≤ s.cyc → productReady s k kind f = true →
    1 ≤ a.dim → a.dim ≤ 96 → 1 ≤ b.dim → foldUnavailable (s.foldstat k.col) f.fold pinned = false →
    (kind = 2 → mmacPoison s k p a b = none) →
    (kind = 1 → quadNotReady s k f = 0 ∧ quadClash s k f = none ∧ partnerFaults s k f = false) →
    ((t = s.cyc ∨ f.slip = 1 ∨ pinned = true) → (pinned = true → ∃ va late, (s.engAt k.ek).pin = some (0, va, late)) →
      ∃ d, exec i s = issued s i q d ∧ d.lat = o + (if kind = 0 then 11 else if kind = 1 then 13 else p.m * granulesOf p.n + 20) ∧
        d.pend = .matrix [] ∧ d.writes = [] ∧
        ((d.st.colAt k.col).products = (s.colAt k.col).products ++ [{ p with
          sums := (partials s a b (f.sub / 2 % 2)).1, flags := (partials s a b (f.sub / 2 % 2)).2,
          badA := (List.range p.m).filter (fun i => (s.colAt a.col).tileBad.contains (lineNo a.reg i)),
          badB := (List.range p.n).filter (fun i => (s.colAt b.col).tileBad.contains (lineNo b.reg i)),
          perturb := (s.slotAt k.sk).perturb.filter (fun x => (p.batchOf x.1).isSome),
          logAt := s.logEntry k.sk n,
          passes := if jdeg ≠ 0 then p.passes.map (fun x => { x with start := never }) else p.passes }]) ∧
        (d.st.colAt k.col).ctlr 0x030 = BitVec.ofNat 64 p.record ∧
        (d.st.slotAt k.sk).ctlr 0x112 = BitVec.ofNat 64 ((n + 1) % 2 ^ 32) ∧
        (d.st.slotAt k.sk).slipNow = (s.slotAt k.sk).slipNow + (if pinned = true then 0 else s.cyc - t) ∧
        (d.st.engAt k.ek).pin = none ∧ (∀ va late, pinned = true → (s.engAt k.ek).pin = some (0, va, late) → p.late = late) ∧
        (jdeg = 0 → (d.st.colAt k.col).arrayFree = s.cyc + o ∧
          ∃ e ∈ d.st.agenda, e.at_ = s.cyc + o + (if kind = 1 then 12 else 10) ∧ e.ev = .wordComplete s.nextId)) ∧
    (∀ c va late, pinned = true → (s.engAt k.ek).pin = some (c, va, late) → c ≠ 0 → exec i s = faulted s c (BitVec.ofNat 64 va))
  starts 0 (.mma q f) ∧ starts 1 (.mmaq q f) ∧ starts 2 (.mmac q f) ∧
  (∀ id fl p, s.flight id = some fl → ((s.colAt fl.at_.col).products.find? fun x => x.id == id) = some p → p.kind = 2 → p.endAt ≤ s.cyc →
    let col := fl.at_.col
    let from_ := max (s.cyc + 1) (s.colAt col).convFree
    ∃ t v, exec (.wordComplete id) s = .next t ∧ (t.colAt col).converts = (s.colAt col).converts ++ [v] ∧ v.id = id ∧ v.step = 0 ∧
      v.tag = p.mdTag ∧ (t.colAt col).convFree = from_ + p.m * granulesOf p.n ∧
      (∀ i < p.m, ∀ j < p.n, (v.rows.getD i []).getD j 0 = t.accAt col (p.acc + i * granulesOf p.n + j / 64) (j % 64)) ∧
      ∃ e ∈ t.agenda, e.at_ = from_ ∧ e.ev = .wordComplete id) ∧
  (∀ id fl v, s.flight id = some fl → ((s.colAt fl.at_.col).products.find? fun x => x.id == id) = none →
    ((s.colAt fl.at_.col).converts.find? fun x => x.id == id) = some v → fl.ins = .mmac q f → v.step < v.total →
    ∃ t, exec (.wordComplete id) s = .next t ∧
      ∃ e ∈ t.agenda, e.at_ = (if v.step + 1 < v.total then s.cyc + 1 else s.cyc + 9) ∧ e.ev = .wordComplete id)

/-! ### Tower words and port words (ch. 8, 11, 12) -/

/-- R211, R214, R217, R230, R237, R238: LD waits in the load queue for its bytes, with the latency of its place; ST enters the store queue
with its bytes and the mark of its data; an address outside the window raises TOWER_BOUNDS, one that is not a multiple of the width
ALIGNMENT, and a closed row in strict mode ROW_CLOSED. -/
def Obligations.ScalarTowerWords : Prop := ∀ (q : Sys2Proof.Seq) (f : FmtC) (s : State) (a : TAddr), s.markOf [f.base] = none →
  s.towerAddr (s.effAddr f) (globalBit f) f.col = .ok a →
  let n := 2 ^ f.sz
  let lat := if a.col = s.cur.col then (if a.cell = 0 then 6 else 10) else 16
  let dist := if a.col = s.cur.col then (if a.cell = 0 then 2 else 4) else 7
  (s.loadCount s.cur < 16 → canGo s (.ld q f) q [.s f.data, .s f.base] →
    (∀ key, towerRange s a n = .ok key → s.served a.col key = true → a.off % n = 0 → (strictMode s = false ∨ s.rowClosed key = false) →
      exec (.ld q f) s = issued s (.ld q f) q
        { st := s.request (pieceReqs s.cur s.nextId .load (opCtx s) [key]), lat := lat, busy := [.s f.data],
          pend := .loadS f.data (if f.sub % 2 = 1 then 8 * n else 0), pieces := [⟨0, key, a.prog, n, 0, false, 0, none⟩] }) ∧
    (∀ key, towerRange s a n = .ok key → s.served a.col key = true → a.off % n = 0 → strictMode s = true → s.rowClosed key = true →
      exec (.ld q f) s = faulted s 0x08 (BitVec.ofNat 64 a.prog)) ∧
    (∀ key, towerRange s a n = .ok key → s.served a.col key = true → a.off % n ≠ 0 →
      exec (.ld q f) s = faulted s 0x0B (BitVec.ofNat 64 a.prog)) ∧
    (∀ x, towerRange s a n = .error x → exec (.ld q f) s = faulted s 0x09 x)) ∧
  (s.storeCount s.cur < 16 →
    (canGo s (.st q f) q [.s f.data, .s f.base] →
      (∀ key, towerRange s a n = .ok key → s.served a.col key = true → a.off % n = 0 →
        exec (.st q f) s = issued s (.st q f) q (stored s .write [⟨dist, key, wordBytesOf (s.sv f.data) n, (s.e.sreg f.data).mark.isSome, 0⟩])) ∧
      (∀ key, towerRange s a n = .ok key → s.served a.col key = true → a.off % n ≠ 0 →
        exec (.st q f) s = faulted s 0x0B (BitVec.ofNat 64 a.prog)) ∧
      (∀ x, towerRange s a n = .error x → exec (.st q f) s = faulted s 0x09 x)) ∧
    (canGo s (.nst q f) q [.s f.data, .s f.base] → ∀ key, towerRange s a 1 = .ok key → s.served a.col key = true →
      exec (.nst q f) s = issued s (.nst q f) q (stored s (.nibble (f.sub % 2 == 1)) [⟨dist, key, [(s.sv f.data).toNat % 16], (s.e.sreg f.data).mark.isSome, 0⟩])) ∧
    (canGo s (.nst q f) q [.s f.data, .s f.base] → ∀ x, towerRange s a 1 = .error x → exec (.nst q f) s = faulted s 0x09 x))

/-- R237, R240: VLD reserves a place of its queue register and loads 256 lanes; VST takes the front of its queue register and stores its lanes, two to
a 64-bit word; a queue register that is none, or that another engine writes or reads, raises QUEUE_MISUSE, a vector with another tag FORMAT_MISMATCH, a
lane outside the window TOWER_BOUNDS, an offset that is not a multiple of 64 ALIGNMENT, and a closed row in strict mode ROW_CLOSED. -/
def Obligations.VectorTowerWords : Prop := ∀ (q : Sys2Proof.Seq) (f : FmtC) (s : State),
  let writer : Prop := 4 ≤ f.data ∧ s.sl.writerOf f.data = engCode s.cur.eng
  let reader : Prop := 4 ≤ f.data ∧ s.sl.readerOf f.data = engCode s.cur.eng
  (canGo s (.vld q f) q [.s f.base] → ¬writer → exec (.vld q f) s = faulted s 0x14 (BitVec.ofNat 64 (f.data + 8))) ∧
  (canGo s (.vst q f) q [.s f.base] → ¬reader → exec (.vst q f) s = faulted s 0x14 (BitVec.ofNat 64 f.data)) ∧
  (∀ a : TAddr, s.markOf [f.base] = none → s.towerAddr (s.effAddr f) (globalBit f) f.col = .ok a →
    (s.loadCount s.cur < 16 → writer → (s.sl.queue f.data).hasRoom f.data s.cyc = true → canGo s (.vld q f) q [.s f.base] →
      (∀ x, laneRange s a = .error x → exec (.vld q f) s = faulted s 0x09 x) ∧
      (∀ l, laneRange s a = .ok l →
        (a.off % 64 ≠ 0 → exec (.vld q f) s = faulted s 0x0B (BitVec.ofNat 64 a.prog)) ∧
        (a.off % 64 = 0 → (l.all fun x => s.served a.col x.2.2) = true →
          (∀ x, strictMode s = true → l.find? (fun x => s.rowClosed x.2.2) = some x →
            exec (.vld q f) s = faulted s 0x08 (BitVec.ofNat 64 x.2.1.prog)) ∧
          ((strictMode s = false ∨ ∀ x ∈ l, s.rowClosed x.2.2 = false) →
            ∃ t : State, exec (.vld q f) s = issued s (.vld q f) q
                { st := t.setSl (t.sl.reserveQueue f.data), lat := if a.col = s.cur.col then (if a.cell = 0 then 6 else 10) else 16,
                  pend := .loadQ f.data f.fmt, pieces := l.map fun x => ⟨x.1, x.2.2, x.2.1.prog, 4, 0, false, 0, none⟩ } ∧
              t = s.request (pieceReqs s.cur s.nextId .load (opCtx s) (l.map fun x => x.2.2)))))) ∧
    (∀ v, s.storeCount s.cur < 16 → reader → (s.sl.queue f.data).front s.cyc = some (.v v) → canGo s (.vst q f) q [.s f.base] →
      (f.fmt ≠ 0 → v.tag ≠ f.fmt → exec (.vst q f) s = faulted s 0x04 (mismatchInfo f.fmt v.tag f.data 0)) ∧
      ((f.fmt = 0 ∨ v.tag = f.fmt) →
        (∀ x, laneRange s a = .error x → exec (.vst q f) s = faulted s 0x09 x) ∧
        (∀ l, laneRange s a = .ok l →
          (a.off % 64 ≠ 0 → exec (.vst q f) s = faulted s 0x0B (BitVec.ofNat 64 a.prog)) ∧
          (a.off % 64 = 0 → (l.all fun x => s.served a.col x.2.2) = true → ∃ t : State, exec (.vst q f) s = issued s (.vst q f) q
              (stored t .write (vectorWrites s v l)) ∧
            t = s.setSl (s.sl.setQueue f.data ((s.sl.queue f.data).dropFront s.cyc)))))))

/-- R226, R241, R242, R491: ACT, PRE and REF ask the bank of their cell, or of all sixteen towers, for their row operation, 6 cycles later in a neighbour
column, and wait while that column's quad serves no access; REFHOLD writes LEFT of the slot's window and holds it, and REFREL ends the hold. -/
def Obligations.RowWords : Prop := ∀ (q : Sys2Proof.Seq) (f : FmtC) (g : FmtF) (s : State),
  (∀ a, s.markOf [f.base] = none → s.towerAddr (s.effAddr f) (globalBit f) f.col = .ok a →
    let to_ := if f.sub / 4 % 2 = 1 then { a with cell := 0 } else a
    let word (i : Instr) (op : RowOpKind) (lat : Nat) : Prop := canGo s i q [.s f.base] →
      (∀ x, towerRange s to_ 1 = .error x → exec i s = faulted s 0x09 x) ∧
      (∀ key, towerRange s to_ 1 = .ok key →
        let keys := if f.sub / 4 % 2 = 1 then (List.range 16).map fun c => key + c * 2 ^ 22 else [key]
        (a.col = s.cur.col → exec i s = issued s i q
          { st := s.request (pieceReqs s.cur s.nextId (.op op) (opCtx s) keys), lat := lat, pend := .rows }) ∧
        (a.col ≠ s.cur.col → s.quadServes a.col = true →
          let u := s.auditAway s.cur.sk ((i.form.map Form.opc).getD 0)
          exec i s = issued s i q { st := u.request (pieceReqs u.cur u.nextId (.op op) (opCtx u) keys), lat := lat + 6, pend := .rows }) ∧
        (a.col ≠ s.cur.col → s.quadServes a.col = false → exec i s = .next s))
    word (.act q f) .open_ 10 ∧ word (.pre q f) .close 4 ∧ word (.ref q f) .refresh 8) ∧
  (canGo s (.refhold q g) q [.s g.dst] → ∃ d, exec (.refhold q g) s = issued s (.refhold q g) q d ∧ d.st.sl.hold = true ∧ d.lat = 1 ∧
    d.writes = [.s g.dst { val := BitVec.ofNat 64 (s.windowLeft s.cur.col (windowOf (s.twin s.cur.col (bitsAt (s.sl.ctlr 0x120) 33 32)))) }]) ∧
  (canGo s (.refrel q g) q [] → exec (.refrel q g) s = issued s (.refrel q g) q { st := s.setSl { s.sl with hold := false } })

/-- R315, R316, R319, R320, R322: ATOM, RED and SEAL. ATOM and SEAL go to their port in the load's way and carry their captured operands there, RED enters the
store queue; an acquire word holds its engine until it completes; a release word waits for the earlier writes of its stream; an address that is not a multiple
of the width raises ALIGNMENT, a sum slot outside the window TOWER_BOUNDS. -/
def Obligations.PortWords : Prop := ∀ (q : Sys2Proof.Seq) (f : FmtC) (s : State) (a : TAddr) (key : Nat),
  let n := 2 ^ f.sz
  let cas : Bool := f.sub % 16 == 1
  let lat := if a.col = s.cur.col then (if a.cell = 0 then 6 else 10) else 16
  let op (w : Word) : Nat := w.toNat % 2 ^ (8 * n)
  s.markOf [f.base] = none → s.towerAddr (s.effAddr f) (f.sub / 16 % 2 == 1) f.col = .ok a → s.storeCount s.cur < 16 →
  (s.loadCount s.cur < 16 → towerRange s a n = .ok key → s.served a.col key = true → a.off % n = 0 →
    s.markOf ([f.base, f.aux] ++ if f.sub % 16 = 1 then [f.data] else []) = none →
    canGo s (.atom q f) q ([.s f.data, .s f.base, .s f.aux] ++ if f.sub % 16 = 1 then [.cf] else []) →
    (relWaits s f = false → (strictMode s = false ∨ s.rowClosed key = false) → exec (.atom q f) s = issued s (.atom q f) q
      { st := s.request (pieceReqs s.cur s.nextId .load (opCtx s) [key] (some (key / 8))), lat := lat,
        busy := .s f.data :: (if cas then [.cf] else []), pend := .port key [f.sub % 16, f.mask, op (s.sv f.aux), op (s.sv f.data)],
        pieces := [⟨0, key, a.prog, n, 0, false, 0, none⟩], hold := f.fmt % 2 == 1 }) ∧
    (relWaits s f = false → strictMode s = true → s.rowClosed key = true → exec (.atom q f) s = faulted s 0x08 (BitVec.ofNat 64 a.prog)) ∧
    (relWaits s f = true → exec (.atom q f) s = .next s)) ∧
  (relWaits s f = false → towerRange s a n = .ok key → s.served a.col key = true → a.off % n ≠ 0 →
    (s.loadCount s.cur < 16 → s.markOf ([f.base, f.aux] ++ if f.sub % 16 = 1 then [f.data] else []) = none →
      canGo s (.atom q f) q ([.s f.data, .s f.base, .s f.aux] ++ if f.sub % 16 = 1 then [.cf] else []) →
      exec (.atom q f) s = faulted s 0x0B (BitVec.ofNat 64 a.prog)) ∧
    (s.markOf [f.base, f.data] = none → (f.sub % 16 ≠ 13 ∨ slotWindow s a.col f.aux = true) → canGo s (.red q f) q [.s f.data, .s f.base] →
      exec (.red q f) s = faulted s 0x0B (BitVec.ofNat 64 a.prog))) ∧
  (relWaits s f = false → towerRange s a n = .ok key → s.served a.col key = true → a.off % n = 0 → s.markOf [f.base, f.data] = none →
    canGo s (.red q f) q [.s f.data, .s f.base] →
    (f.sub % 16 ≠ 13 → exec (.red q f) s = issued s (.red q f) q (stored s (.red (f.sub % 16) f.mask n (op (s.sv f.data))) [⟨storeDist s a.col 0 a.cell, key, List.replicate n 0, false, 0⟩])) ∧
    (f.sub % 16 = 13 → slotWindow s a.col f.aux = true → exec (.red q f) s = issued s (.red q f) q
      (stored s (.redx (keyTower key) f.aux f.mask (op (s.sv f.data))) [⟨storeDist s a.col 0 a.cell, key, List.replicate n 0, false, 0⟩])) ∧
    (f.sub % 16 = 13 → slotWindow s a.col f.aux = false → exec (.red q f) s = faulted s 0x09 (BitVec.ofNat 64 a.prog))) ∧
  (s.loadCount s.cur < 16 → relWaits s f = false → towerRange s a 4 = .ok key → s.served a.col key = true →
    canGo s (.seal q f) q [.s f.data, .s f.base] →
    (a.off % 4 = 0 → slotWindow s a.col f.aux = true → exec (.seal q f) s = issued s (.seal q f) q
      { st := s.request (pieceReqs s.cur s.nextId .plain none [key] (some (key / 8))), lat := lat, busy := [.s f.data],
        pend := .port key [f.aux, f.mask], pieces := [⟨0, key, a.prog, 4, 0, false, 0, none⟩], hold := f.fmt % 2 == 1 }) ∧
    (a.off % 4 ≠ 0 → slotWindow s a.col f.aux = true → exec (.seal q f) s = faulted s 0x0B (BitVec.ofNat 64 a.prog)) ∧
    (slotWindow s a.col f.aux = false → exec (.seal q f) s = faulted s 0x09 (BitVec.ofNat 64 a.prog)))

/-- R308, R309, R314: a fence that needs no wait issues: an ACQ fence once the loads of its stream have completed, REL, AR and SC fences with a wait for the
earlier writes where there are any; SC fences at COL, PIER and DEV take 0, 2 and 6 cycles more, at DOM and SYS a free number. MARK takes an entry of the store queue. -/
def Obligations.FenceWords : Prop := ∀ (q : Sys2Proof.Seq) (f : FmtF) (s : State),
  let delay := if f.sub % 4 = 3 then (if f.sub / 4 = 1 then 2 else if f.sub / 4 = 2 then 6 else 0) else 0
  (canGo s (.fence q f) q [] →
    (f.sub % 4 ≠ 1 → loadsPending s s.cur = true → exec (.fence q f) s = .next s) ∧
    ((f.sub % 4 = 1 ∨ loadsPending s s.cur = false) → (f.sub % 4 ≠ 3 ∨ f.sub / 4 ≤ 2) →
      (f.sub % 4 ≠ 0 → s.writesBefore s.cur s.nextId = true → exec (.fence q f) s = issued s (.fence q f) q
        { st := s, lat := delay + 1, pend := .fence (f.sub % 4) delay, hold := f.sub % 4 == 3 }) ∧
      ((f.sub % 4 = 0 ∨ s.writesBefore s.cur s.nextId = false) → exec (.fence q f) s = issued s (.fence q f) q
        { st := s, lat := delay + 1, hold := f.sub % 4 == 3 && decide (0 < delay) })) ∧
    (loadsPending s s.cur = false → f.sub % 4 = 3 → 2 < f.sub / 4 → ∃ n t, exec (.fence q f) s = issued s (.fence q f) q
      (if s.writesBefore s.cur s.nextId then { st := t, lat := n + 1, pend := .fence 3 n, hold := true }
       else { st := t, lat := n + 1, hold := decide (0 < n) }) ∧ t = { s with nextFree := s.nextFree + 1 })) ∧
  (canGo s (.mark q f) q [] → s.loadCount s.cur < 16 → s.storeCount s.cur < 16 → exec (.mark q f) s = issued s (.mark q f) q
    (stored s .mark []))

/-- R323, R330, R332, R337–R339: the barrier words go to the port of their 16-byte word with their captured operands, hold their engine until they complete, and
raise ALIGNMENT where the word is not at a multiple of 16; BINIT with a count of 0 or more than 65,535 and BEXPECT with 2^41 bytes or more
raise ILLEGAL_ENCODING. -/
def Obligations.BarrierWords : Prop := ∀ (q : Sys2Proof.Seq) (f : FmtC) (s : State) (a : TAddr) (key : Nat),
  let par := (s.sv f.aux).toNat % 2
  let regs : List Reg := [.s f.base, .s f.aux, .s f.data]
  let cnt := (s.sv f.aux).toNat
  let bytes := (s.sv f.data).toNat
  let goes (i : Instr) (busy : List Reg) (args : List Nat) : Prop := exec i s = issued s i q
    { st := s.request (pieceReqs s.cur s.nextId .plain none [key] (some (key / 8))), lat := loadLatency s a, busy := busy,
      pend := .port key args, pieces := [⟨0, key, a.prog, 16, never, false, 0, none⟩], hold := true }
  s.markOf [f.base, f.aux] = none → s.towerAddr (s.effAddr f) (f.sub / 16 % 2 == 1) f.col = .ok a → towerRange s a 16 = .ok key →
  s.served a.col key = true → s.loadCount s.cur < 16 → s.storeCount s.cur < 16 → relWaits s f = false →
  (a.off % 16 = 0 →
    (canGo s (.binit q f) q regs → 1 ≤ cnt → cnt ≤ 65535 → goes (.binit q f) [] [cnt]) ∧
    (canGo s (.arrive q f) q (.s f.data :: regs) → goes (.arrive q f) [.s f.data] [par]) ∧
    (canGo s (.arrdrop q f) q (.s f.data :: regs) → goes (.arrdrop q f) [.s f.data] [par]) ∧
    (s.markOf [f.base, f.aux, f.data] = none → canGo s (.bexpect q f) q regs → bytes < 2 ^ 41 → goes (.bexpect q f) [] [par, bytes]) ∧
    (canGo s (.btest q f) q (.s f.data :: .cf :: regs) → goes (.btest q f) [.s f.data, .cf] [par]) ∧
    (canGo s (.bwait q f) q (.s f.data :: regs) → goes (.bwait q f) [.s f.data] [par])) ∧
  (a.off % 16 ≠ 0 →
    let off (i : Instr) : Prop := exec i s = faulted s 0x0B (BitVec.ofNat 64 a.prog)
    (canGo s (.binit q f) q regs → 1 ≤ cnt → cnt ≤ 65535 → off (.binit q f)) ∧
    (canGo s (.arrive q f) q (.s f.data :: regs) → off (.arrive q f)) ∧
    (canGo s (.arrdrop q f) q (.s f.data :: regs) → off (.arrdrop q f)) ∧
    (s.markOf [f.base, f.aux, f.data] = none → canGo s (.bexpect q f) q regs → bytes < 2 ^ 41 → off (.bexpect q f)) ∧
    (canGo s (.btest q f) q (.s f.data :: .cf :: regs) → off (.btest q f)) ∧
    (canGo s (.bwait q f) q (.s f.data :: regs) → off (.bwait q f))) ∧
  ((cnt = 0 ∨ 65535 < cnt) → canGo s (.binit q f) q regs →
    exec (.binit q f) s = faulted s 0x01 (BitVec.ofNat 64 ((encodeWord (.binit q f)).getD 0 / 2 ^ 32))) ∧
  (2 ^ 41 ≤ bytes → s.markOf [f.base, f.aux, f.data] = none → canGo s (.bexpect q f) q regs →
    exec (.bexpect q f) s = faulted s 0x01 (BitVec.ofNat 64 ((encodeWord (.bexpect q f)).getD 0 / 2 ^ 32)))

/-! ### Handle words, channel words, work queues (ch. 9, 10, 13–15) -/

/-- R245, R246, R250, R251, R262, R265–R269: the words that act on a handle entry. HDEF reads its template or binds an entry that is not Free; HQUERY and
HWAIT read the entry; HCLOSE unbinds at once; HDEF, RELAY, close and seal hold their engine and act at completion: a template becomes a Free entry's
descriptor, a RELAY turns its entry to Converting and starts its job, a close leaves it Closed and a seal read-only. A register that is not bound raises
HANDLE_INVALID, RELAY's and HCLOSE's at completion. -/
def Obligations.HandleWords : Prop := ∀ (q : Sys2Proof.Seq) (f : FmtG) (s : State),
  let ctx := s.ctxOf s.cur
  let e := (s.sv f.c0).toNat
  let st (n : Nat) : Nat := (s.entry ctx n).state
  let bar : List Nat := if f.sub % 2 = 1 then [f.c2] else []
  let later (lat : Nat) (args : List Nat) : Done :=
    { st := s.due (s.cyc + lat - 1) 610 (.wordComplete s.nextId), lat := lat, pend := .handle args, hold := true }
  (f.sub % 2 = 1 → s.markOf [f.c0] = none → canGo s (.hdef q f) q [.s f.c0, .h f.h] →
    (e < 4096 → st e ≠ 0 → st e ≠ 4 → exec (.hdef q f) s = issued s (.hdef q f) q { st := s, lat := 2, writes := [.h f.h (some e)] }) ∧
    ((4096 ≤ e ∨ st e = 0 ∨ st e = 4) → exec (.hdef q f) s = faulted s 0x10 (handleInfo s s.cur f.h))) ∧
  (f.sub % 2 = 0 → s.loadCount s.cur < 16 → s.markOf [f.data, f.c0] = none → canGo s (.hdef q f) q [.s f.data, .s f.c0, .h f.h] →
    ((s.sv f.data).toNat % 64 ≠ 0 → exec (.hdef q f) s = faulted s 0x0B (BitVec.ofNat 64 ((s.sv f.data).toNat % 2 ^ 52))) ∧
    (∀ x, (s.sv f.data).toNat % 64 = 0 → s.towerAddr (s.sv f.data) true 0 = .error x → exec (.hdef q f) s = faulted s 0x09 x) ∧
    (∀ x, (s.sv f.data).toNat % 64 = 0 → s.towerAddr (s.sv f.data) true 0 = .ok x →
      (∀ i, towerRange s x 64 = .error i → exec (.hdef q f) s = faulted s 0x09 i) ∧
      (∀ key, towerRange s x 64 = .ok key → s.served x.col key = true →
        let ps : List Piece := (List.range 8).map fun n => ⟨n, key + 8 * n, x.prog + 8 * n, 8, 0, false, 0, none⟩
        ((strictMode s = false ∨ ∀ p ∈ ps, s.rowClosed p.key = false) → exec (.hdef q f) s = issued s (.hdef q f) q
          { st := s.request (pieceReqs s.cur s.nextId .load (opCtx s) (ps.map Piece.key)), lat := loadLatency s x + 4,
            pend := .handle [e], pieces := ps, hold := true }) ∧
        (∀ p, strictMode s = true → ps.find? (fun p => s.rowClosed p.key) = some p →
          exec (.hdef q f) s = faulted s 0x08 (BitVec.ofNat 64 p.prog))))) ∧
  (canGo s (.relay q f) q (([f.data, f.c0, f.c1] ++ bar).map Reg.s ++ [.h f.h]) → exec (.relay q f) s = issued s (.relay q f) q
    (later 4 (((s.markOf ([f.data, f.c0, f.c1] ++ bar)).map fun m => m.toNat + 1).getD 0
      :: ([f.data, f.c0, f.c1] ++ bar).map fun r => (s.sv r).toNat))) ∧
  (canGo s (.hclose q f) q [.h f.h] →
    (f.sub % 4 = 2 → exec (.hclose q f) s = issued s (.hclose q f) q { st := s, lat := 2, writes := [.h f.h none] }) ∧
    (f.sub % 4 ≠ 2 → exec (.hclose q f) s = issued s (.hclose q f) q (later 2 []))) ∧
  (canGo s (.hquery q f) q [.s f.data, .h f.h] →
    (∀ n, s.boundEntry s.cur f.h = some n → exec (.hquery q f) s = issued s (.hquery q f) q
      (scalarDone s f.data (BitVec.ofNat 64 (if st n = 0 then 0 else (s.entryWords ctx n).getD (f.sub % 8) 0)) 4)) ∧
    (s.boundEntry s.cur f.h = none → exec (.hquery q f) s = faulted s 0x10 (handleInfo s s.cur f.h))) ∧
  (canGo s (.hwait q f) q ([.s f.data, .h f.h] ++ if f.sub % 2 = 1 then [.cf] else []) →
    (s.boundEntry s.cur f.h = none → exec (.hwait q f) s = faulted s 0x10 (handleInfo s s.cur f.h)) ∧
    (∀ n, s.boundEntry s.cur f.h = some n →
      (f.sub % 2 = 1 → (st n = 2 ∨ st n = 4) → exec (.hwait q f) s = issued s (.hwait q f) q { st := s, writes := [.cf false] }) ∧
      (f.sub % 2 = 1 → st n ≠ 2 → st n ≠ 4 → exec (.hwait q f) s = issued s (.hwait q f) q
        { st := s, writes := [.cf true, .s f.data { val := BitVec.ofNat 64 (st n) }] }) ∧
      (f.sub % 2 = 0 → (st n = 2 ∨ st n = 4) → exec (.hwait q f) s = .next s) ∧
      (f.sub % 2 = 0 → st n ≠ 2 → st n ≠ 4 →
        exec (.hwait q f) s = issued s (.hwait q f) q (scalarDone s f.data (BitVec.ofNat 64 (st n)))))) ∧
  (∀ id fl, s.flight id = some fl → ((s.colAt fl.at_.col).products.find? fun p => p.id == id) = none →
    ((s.colAt fl.at_.col).converts.find? fun v => v.id == id) = none → handleBefore s fl = false →
    let k := fl.at_
    let own := s.ctxOf k
    let ends (t : State) : Prop := exec (.wordComplete id) s = .next (t.endWord fl)
    let bad (c : Nat) (i : Word) : Prop := exec (.wordComplete id) s = .next (s.lateFault fl c i)
    let invalid : Prop := bad 0x10 (handleInfo s k f.h)
    (∀ n, fl.ins = .hdef q f → fl.pend = .handle [n] →
      let words := fl.pieces.map Piece.got
      let d := Desc.ofWords words
      (∀ m, fl.pieces.findSome? Piece.mark = some m → bad 0x0D (BitVec.ofNat 64 m)) ∧
      (fl.pieces.findSome? Piece.mark = none →
        ((k.fw = true ∨ 4096 ≤ n ∨ (s.entry own n).state ≠ 0) → invalid) ∧
        (k.fw = false → n < 4096 → (s.entry own n).state = 0 →
          (∀ b, templateReserved words = some b → bad 0x02 (BitVec.ofNat 64 b)) ∧
          (templateReserved words = none → (d.illegal = true ∨ s.regionFits own d.lay none = false) → invalid) ∧
          (templateReserved words = none → d.illegal = false → s.regionFits own d.lay none = true →
            ends ((s.setEntry own n { d with state := if d.ro then 3 else 1 }.words).applyWrite k (.h f.h (some n))))))) ∧
    (∀ base lw map bars, fl.ins = .relay q f → fl.pend = .handle (0 :: base :: lw :: map :: bars) →
      (s.boundEntry k f.h = none → invalid) ∧
      (∀ n, s.boundEntry k f.h = some n →
        let d := s.entry own n
        let pier := k.col / 64
        let l := { d.lay with tag := lw % 8, space := lw / 8 % 2, base := base, th := lw / 256 % 256, tw := lw / 2 ^ 16 % 256 }
        let n' := { d with lay := l.dense d.ndim }
        let inside (x len : Nat) : Prop := x < 2 ^ 34 ∧ s.inWindow own (x / 2 ^ 26) (x % 2 ^ 22) len (some pier) = true
        (d.state ≠ 1 → d.state ≠ 3 → invalid) ∧
        ((d.state = 1 ∨ d.state = 3) → lw / 2 ^ 24 = 0 → lw / 16 % 16 = 0 → n'.lay.s1 < 2 ^ 32 → n'.lay.s2 < 2 ^ 32 → n'.lay.s3 < 2 ^ 32 →
          { n' with lay := { n'.lay with base := base / 64 * 64 } }.illegal = false → base < 2 ^ 52 →
          (base % 64 ≠ 0 → bad 0x0B (BitVec.ofNat 64 base)) ∧
          (base % 64 = 0 → map % 8 ≠ 0 → bad 0x0B (BitVec.ofNat 64 (map % 2 ^ 52))) ∧
          (base % 64 = 0 → map % 8 = 0 → (∀ b ∈ bars.head?, b % 16 = 0) → s.regionFits own n'.lay (some pier) = true →
            inside map (ceilDiv n'.tiles 4) → (∀ b ∈ bars.head?, inside b 16) →
            (d.lay.space = 0 → (s.physCol own d.lay.col).map (· / 64) = some pier) →
            ∃ j : Job, j.ctx = own ∧ j.entry = n ∧ j.pier = pier ∧ j.barrier.map (·.1) = bars.head? ∧ j.moving = false ∧
              let kept := { d with olayout := d.lay.tag, ospace := d.lay.space, obase := d.lay.base, oth := d.lay.th, otw := d.lay.tw }
              let new := { kept with state := 2, map := map, done := 0, lay := { l with s1 := d.lay.s1, s2 := d.lay.s2, s3 := d.lay.s3 } }
              let u := s.setEntry own n new.words
              ends ({ u with jobs := u.jobs ++ [j] }.relayTurn pier))))) ∧
    (∀ m a, fl.ins = .relay q f → m ≠ 0 → fl.pend = .handle (m :: a) → (∀ n, s.boundEntry k f.h = some n →
      ((s.entry own n).state = 1 ∨ (s.entry own n).state = 3) → bad 0x0D (BitVec.ofNat 64 (m - 1)))) ∧
    (∀ a, fl.ins = .hclose q f → fl.pend = .handle a →
      (s.boundEntry k f.h = none → invalid) ∧
      (∀ n, s.boundEntry k f.h = some n →
        let d := s.entry own n
        (f.sub % 4 = 1 → d.state = 1 → ends (s.setEntry own n { d with ro := true, state := 3 }.words)) ∧
        (f.sub % 4 = 1 → d.state = 2 → ends (s.setEntry own n { d with ro := true }.words)) ∧
        (f.sub % 4 = 1 → d.state ≠ 1 → d.state ≠ 2 → invalid) ∧
        (f.sub % 4 ≠ 1 → (d.state = 1 ∨ d.state = 3) → ends (((s.setEntry own n { d with state := 4 }.words).applyWrite k (.h f.h none)).due
          (s.cyc + 1) 605 (.handleEntryFree own n))) ∧
        (f.sub % 4 ≠ 1 → d.state ≠ 1 → d.state ≠ 3 → invalid))))

/-- R248, R256, R261, R263, R264, R270: HLD and HST through a bound entry in tower space reach the elements' places, those of the old layout for a tile that is
still OLD: HLD loads them, HST stores the low bits of its register, or the elements of the front of its queue register, with their marks. A register that is not
bound, or whose entry is Free, Closed or far, raises HANDLE_INVALID, the wrong engine for the queue register QUEUE_MISUSE, a coordinate outside its extent
COORD_BOUNDS with its number, an element outside the window TOWER_BOUNDS, and a store to a read-only or BITMAP entry PERMISSION. -/
def Obligations.ElementWords : Prop := ∀ (q : Sys2Proof.Seq) (f : FmtG) (s : State),
  let vec : Bool := f.sub / 2 % 2 == 1
  let regs : List Reg := [.s f.c0, .s f.c1, .s f.c2, .s f.c3, .h f.h] ++ if vec then [] else [.s f.data]
  let ctx := s.ctxOf s.cur
  let c := coords s f
  let unserved : Prop := s.boundEntry s.cur f.h = none ∨
    ∃ e, s.boundEntry s.cur f.h = some e ∧ ((s.entry ctx e).state = 0 ∨ (s.entry ctx e).state = 4 ∨ (s.entry ctx e).lay.space = 1)
  (unserved → (canGo s (.hld q f) q regs → exec (.hld q f) s = faulted s 0x10 (handleInfo s s.cur f.h)) ∧
    (canGo s (.hst q f) q regs → exec (.hst q f) s = faulted s 0x10 (handleInfo s s.cur f.h))) ∧
  (∀ e, s.boundEntry s.cur f.h = some e → (s.entry ctx e).state ≠ 0 → (s.entry ctx e).state ≠ 4 → (s.entry ctx e).lay.space ≠ 1 →
    let d := s.entry ctx e
    let w := d.lay.w
    let ext (k : Nat) : Nat := [d.lay.d0, d.lay.d1, d.lay.d2, d.lay.d3].getD k 0
    let inExtent : Prop := ∀ k < 4, c.getD k 0 < ext k
    let named (store : Bool) : Except Word (List ElemAcc) :=
      (wordElems d vec c).mapM fun (x : Nat × List Nat) => elemAcc s ctx e d store x.1 x.2
    let reached (l : List ElemAcc) : Prop :=
      (l.all fun x => x.parts.all fun p => s.served p.2.1.col p.2.2.1) = true ∧ l.any ElemAcc.wait = false
    let bounds (i : Instr) (store : Bool) : Prop :=
      (∀ m, s.markOf [f.c0, f.c1, f.c2, f.c3] = some m → exec i s = faulted s 0x0D m) ∧
      (∀ k < 4, s.markOf [f.c0, f.c1, f.c2, f.c3] = none → ext k ≤ c.getD k 0 → (∀ j < k, c.getD j 0 < ext j) →
        exec i s = faulted s 0x11 (BitVec.ofNat 64 (f.h + 16 * k))) ∧
      (∀ x, s.markOf [f.c0, f.c1, f.c2, f.c3] = none → inExtent → named store = .error x → exec i s = faulted s 0x09 x)
    (canGo s (.hld q f) q regs →
      (vec = true → (f.data < 4 ∨ s.sl.writerOf f.data ≠ engCode s.cur.eng) →
        exec (.hld q f) s = faulted s 0x14 (BitVec.ofNat 64 (f.data + 8))) ∧
      (s.loadCount s.cur < 16 →
        (vec = true → 4 ≤ f.data ∧ s.sl.writerOf f.data = engCode s.cur.eng ∧ (s.sl.queue f.data).hasRoom f.data s.cyc = true) →
        bounds (.hld q f) false ∧
        (∀ l, s.markOf [f.c0, f.c1, f.c2, f.c3] = none → inExtent → named false = .ok l → reached l →
          (strictMode s = false ∨ ∀ p ∈ hldPieces l, s.rowClosed p.key = false) →
          let t := s.request (pieceReqs s.cur s.nextId .load (opCtx s) ((hldPieces l).map Piece.key))
          exec (.hld q f) s = issued s (.hld q f) q (if vec then
            { st := t.setSl (t.sl.reserveQueue f.data), lat := hldLatency s l, pend := .elemV f.data d.fmt w, pieces := hldPieces l,
              uses := elemUses ctx e l, spots := l.filterMap ElemAcc.spot }
          else { st := t, lat := hldLatency s l, busy := [.s f.data],
                 pend := .elemS f.data w ((l.head?.map ElemAcc.nib).getD 0) (f.sub % 2 == 1), pieces := hldPieces l,
                 uses := elemUses ctx e l, spots := l.filterMap ElemAcc.spot })) ∧
        (∀ x p, x.parts = [p] → x.bits = [] → hldLatency s [x] = loadLatency s p.2.1 + 2))) ∧
    (canGo s (.hst q f) q regs →
      ((d.ro = true ∨ d.lay.tag = 4) → exec (.hst q f) s = faulted s 0x13 (hstPermission s ctx e d c)) ∧
      (d.ro = false → d.lay.tag ≠ 4 →
        (vec = true → (f.data < 4 ∨ s.sl.readerOf f.data ≠ engCode s.cur.eng) → exec (.hst q f) s = faulted s 0x14 (BitVec.ofNat 64 f.data)) ∧
        (vec = false → s.storeCount s.cur < 16 →
          bounds (.hst q f) true ∧
          (∀ l, s.markOf [f.c0, f.c1, f.c2, f.c3] = none → inExtent → named true = .ok l → reached l →
            exec (.hst q f) s = issued s (.hst q f) q { st := { s with stores := s.stores ++ [⟨s.nextId, s.cur, .write,
              hstPieces (joinNibbles (l.flatMap fun x => elemBytes s w 0 ((s.sv f.data).toNat % 2 ^ w) (s.e.sreg f.data).mark.isSome x)),
              none, true, elemUses ctx e l⟩] } })) ∧
        (∀ v, vec = true → 4 ≤ f.data → s.sl.readerOf f.data = engCode s.cur.eng → s.storeCount s.cur < 16 →
          (s.sl.queue f.data).front s.cyc = some (.v v) →
          (v.tag ≠ 0 → v.tag ≠ d.fmt → exec (.hst q f) s = faulted s 0x04 (mismatchInfo d.fmt v.tag f.data 0)) ∧
          ((v.tag = 0 ∨ v.tag = d.fmt) → bounds (.hst q f) true ∧
            (∀ l, s.markOf [f.c0, f.c1, f.c2, f.c3] = none → inExtent → named true = .ok l → reached l →
              let t := s.setSl (s.sl.setQueue f.data ((s.sl.queue f.data).dropFront s.cyc))
              exec (.hst q f) s = issued s (.hst q f) q { st := { t with stores := t.stores ++ [⟨t.nextId, t.cur, .write,
                hstPieces (joinNibbles (l.flatMap fun x =>
                  let lane := x.no / (32 / w)
                  elemBytes s w (lane / 16) (element (elems w (v.lanes.getD lane 0)) (x.no % (32 / w))) (v.marks.get? lane).isSome x)),
                none, true, elemUses ctx e l⟩] } }))))))

/-- R271, R272, R287–R296: a copy-and-stream word whose operands are in order and whose channel, port or queue register has room gives its channel a command
with the captured operands, and an idle column channel starts it in the next cycle; a full channel keeps the word waiting; wrong operands raise their
fault at issue. -/
def Obligations.ChannelWords : Prop := ∀ (q : Sys2Proof.Seq) (f : FmtE) (s : State),
  let x : Chan := .column s.cur.col s.cur.slot f.ch
  let gives (i : Instr) (kind : CKind) : Prop :=
    let c := commandOf s kind f
    let regs := (chanRegs kind f).map Reg.s
    s.markOf (chanRegs kind f) = none → chanRoom s kind f = true → (c.cmpl = 3 → s.sl.writerOf f.aux = engCode s.cur.eng) →
    ((kind = .chain ∨ (s.chanAt x).queue.length < 8) →
      (operandFault s s.cur c = none → canGo s i q regs (if f.cmpl = 0 ∧ kind ≠ .aatom then [f.ctgt % 8] else []) →
        ∃ d, exec i s = issued s i q d ∧ d.lat = 1 ∧ d.writes = [] ∧
          (kind ≠ .chain → (d.st.chanAt x).queue = (s.chanAt x).queue ++ [c] ∧
            ((s.chanAt x).queue = [] → ∃ b ∈ d.st.agenda, b.at_ = s.cyc + 1 ∧ b.ev = .channelCommandStart x)) ∧
          (kind = .chain → ∀ n, freePier s (s.cur.col / 64) = some n → (d.st.chanAt (.pier (s.cur.col / 64) n)).queue = [c] ∧
            ∃ b ∈ d.st.agenda, b.at_ = s.cyc + 1 ∧ b.ev = .chainRecord (s.cur.col / 64) n)) ∧
      (canGo s i q regs → operandFault s s.cur c = some (1, 0) → exec i s = faulted s 0x01 (illegalInfo i)) ∧
      (∀ k a, k ≠ 1 → canGo s i q regs → operandFault s s.cur c = some (k, a) → exec i s = faulted s k (BitVec.ofNat 64 a))) ∧
    (kind ≠ .chain → 8 ≤ (s.chanAt x).queue.length → canGo s i q regs → exec i s = .next s)
  gives (.copy q f) (if f.sub % 2 = 0 then .copy else if f.sub / 2 % 2 = 0 then .scaled else .pack) ∧
  gives (.chain q f) .chain ∧ gives (.gather q f) .gather ∧ gives (.scatter q f) .scatter ∧ gives (.cpyx q f) .cpyx ∧
  gives (.stbind q f) (.stbind (f.sub % 2 == 1)) ∧ gives (.aatom q f) .aatom

/-- R353, R357, R358: POPW takes the first item of its launch's pool, writes it and sets cf, reads 1 with cf 0 once the pool has ended, and waits or answers 0
while it is empty; ENQW adds an item behind those of its pool, which holds 65,536. -/
def Obligations.WorkQueueWords : Prop := ∀ (q : Sys2Proof.Seq) (f : FmtF) (s : State) (n : Nat) (l : Launch),
  let regs : List Reg := [.s f.dst, .cf] ++ if f.sub / 2 % 2 = 1 then (List.range 7).map fun n => .s (56 + n) else []
  s.ownLaunch s.cur = some (n, l) →
  (canGo s (.popw q f) q regs →
    (∀ x w, l.head s.cyc = some (x, w) → ∃ lat, 1 ≤ lat ∧ lat ≤ 24 ∧ exec (.popw q f) s = issued s (.popw q f) q
      { st := { s with nextFree := s.nextFree + 1 }.setLaunch n l.pop, lat := lat, writes := .s f.dst { val := x } :: .cf true ::
          (if f.sub / 2 % 2 = 1 then (itemIndices l x.toNat ++ [x.toNat]).zipIdx.map (fun i => .s (56 + i.2) { val := BitVec.ofNat 64 i.1 })
            else []), hold := w }) ∧
    (l.head s.cyc = none → (l.terminated = true ∨ f.sub % 2 = 1) → ∃ lat, 1 ≤ lat ∧ lat ≤ 24 ∧
      exec (.popw q f) s = issued s (.popw q f) q
        { st := { s with nextFree := s.nextFree + 1 }, lat := lat, writes := [.s f.dst { val := if l.terminated then 1 else 0 }, .cf false] }) ∧
    (l.head s.cyc = none → l.terminated = false → f.sub % 2 = 0 → exec (.popw q f) s = .next s)) ∧
  (s.writesBefore s.cur s.nextId = false → s.markOf [f.oa] = none → canGo s (.enqw q f) q (.s f.oa :: if f.sub % 2 = 1 then [.cf] else []) →
    (l.pool.length < 65536 → ∃ t, s.cyc < t ∧ t ≤ s.cyc + 24 ∧ exec (.enqw q f) s = issued s (.enqw q f) q
      { st := { s with nextFree := s.nextFree + 1 }.setLaunch n { l with pool := l.pool ++ [(⟨s.sv f.oa, s.cyc, s.cur.ek, t⟩ : PoolItem)] },
        writes := if f.sub % 2 = 1 then [.cf true] else [] }) ∧
    (65536 ≤ l.pool.length → f.sub % 2 = 1 → exec (.enqw q f) s = issued s (.enqw q f) q { st := s, writes := [.cf false] }) ∧
    (65536 ≤ l.pool.length → f.sub % 2 = 0 → exec (.enqw q f) s = .next s))

/-- R359, R360, R381–R383: ENQ hands 64 bytes of its window to a queue of its context, or answers 0 where its ring or the journal is full and it only tries,
within 18 cycles; an address that is not a multiple of 64 raises ALIGNMENT, one outside the window TOWER_BOUNDS, and a queue that is not defined PERMISSION.
YIELD asks for pre-emption and sets cf where it always does or a placement of no greater priority number waits for a slot of the column, and else clears cf and
asks for nothing; GSIG sends a message to a group of its launch. -/
def Obligations.PacketAndGroupWords : Prop := ∀ (q : Sys2Proof.Seq) (f : FmtF) (s : State),
  let k := queueIndex (s.ctxOf s.cur) (f.imm16 % 4096)
  (s.writesBefore s.cur s.nextId = false → s.markOf [f.oa] = none → (s.queueAt k).state ≠ 0 ∨ s.readDesc k ≠ some none →
    canGo s (.enq q f) q ([.s f.dst, .s f.oa] ++ if f.sub % 2 = 1 then [.cf] else []) →
    (∀ x, s.towerAddr (s.sv f.oa) true 0 = .error x → exec (.enq q f) s = faulted s 0x09 x) ∧
    (∀ a, s.towerAddr (s.sv f.oa) true 0 = .ok a →
      (∀ x, towerRange s a 64 = .error x → exec (.enq q f) s = faulted s 0x09 x) ∧
      (∀ key, towerRange s a 64 = .ok key →
        let desc := if (s.queueAt k).state = 0 then (s.readDesc k).bind id else some (s.queueAt k)
        (a.off % 64 ≠ 0 → exec (.enq q f) s = faulted s 0x0B (BitVec.ofNat 64 a.prog)) ∧
        (a.off % 64 = 0 → (s.ctxOf s.cur = 0 ∨ desc = none) → exec (.enq q f) s = faulted s 0x13 (BitVec.ofNat 64 a.prog)) ∧
        (∀ d, a.off % 64 = 0 → s.ctxOf s.cur ≠ 0 → desc = some d → s.served a.col key = true →
          (s.enqRoom k d = true → ∃ lat, 1 ≤ lat ∧ lat ≤ 18 ∧ exec (.enq q f) s = issued s (.enq q f) q
            { st := { s with nextFree := s.nextFree + 1 }.checkRead key 64, lat := lat,
              writes := .s f.dst {} :: (if f.sub % 2 = 1 then [.cf true] else []),
              pend := .enq k (s.readRun ((List.range 64).map fun i => key + i)) }) ∧
          (s.enqRoom k d = false → f.sub % 2 = 1 → ∃ lat, 1 ≤ lat ∧ lat ≤ 18 ∧ exec (.enq q f) s = issued s (.enq q f) q
            { st := { s with nextFree := s.nextFree + 1 }, lat := lat, writes := [.s f.dst {}, .cf false] }) ∧
          (s.enqRoom k d = false → f.sub % 2 = 0 → exec (.enq q f) s = .next s))))) ∧
  (canGo s (.yield q f) q [.cf] →
    (∀ g v, s.groupOf s.cur.sk = some (g, v) →
      ((f.sub % 2 = 1 ∨ ∃ p ∈ slotWaiters s s.cur.col, p ≤ v.region.prio) → exec (.yield q f) s = issued s (.yield q f) q
        { st := s.preemptGroup g false true, writes := [.cf true] }) ∧
      (f.sub % 2 = 0 → (∀ p ∈ slotWaiters s s.cur.col, v.region.prio < p) → exec (.yield q f) s = issued s (.yield q f) q
        { st := s, writes := [.cf false] })) ∧
    (s.groupOf s.cur.sk = none → exec (.yield q f) s = faulted s 0x14 0)) ∧
  ((f.sub % 2 = 0 ∨ s.writesBefore s.cur s.nextId = false) → s.markOf [f.dst, f.oa] = none → canGo s (.gsig q f) q [.s f.dst, .s f.oa, .cf] →
    (s.cur.fw = true → exec (.gsig q f) s = faulted s 0x14 0) ∧
    (s.cur.fw = false → ∃ lat, 1 ≤ lat ∧ lat ≤ 180 ∧
      let to_ := (s.sibling s.cur.sk (s.sv f.dst).toNat).getD (2 ^ 64)
      let t := { s with nextFree := s.nextFree + 1 }
      exec (.gsig q f) s = issued s (.gsig q f) q
        { st := t.due (s.cyc + lat - 1) 620 (.messageLand to_ (f.imm16 % 4) (s.sv f.oa).toNat s.nextId) ((s.cyc + lat - 1) * 1024 + s.cur.col),
          lat := lat, busy := [.cf], pend := .message (s.sv f.dst).toNat }))

/-! ### Steps that come about by themselves: sections, ports, barriers, the matrix unit -/

/-- R63, R77–R80, R103: a token becomes available; a Waiting section whose header is in order and whose waits are met is dispatched and can issue from
the next cycle; a section that retires gives L its number; a stamped command that is late and may not slip raises SCHEDULE_MISS, or a fault that R205
lists before it. -/
def Obligations.SectionSteps : Prop := ∀ (col slot fifo : Nat) (eng : Eng) (s : State),
  let k : Stream := ⟨col, slot, eng⟩
  let e := s.engAt k.ek
  let token (t : State) : Fifo := (t.slotAt (slotKey col slot)).fifo fifo
  (0 < (token s).arriving → ∃ t, exec (.tokenAvailable col slot fifo) s = .next t ∧
    (token t).avail = (token s).avail + 1 ∧ (token t).arriving + 1 = (token s).arriving ∧ t.mem = s.mem ∧ t.engs = s.engs) ∧
  (e.sec = .waiting → e.codeMiss = none →
    (∀ c i, s.hdrFault k = some (c, i) → (k.fw = false ∨ (s.slotAt k.sk).stop = none) →
      exec (.sectionDispatch col slot eng) s = .next (s.takeFault k c i true)) ∧
    (s.hdrFault k = none → s.waitsMet k = true → ∃ t, exec (.sectionDispatch col slot eng) s = .next t ∧
      (t.engAt k.ek).sec = .dispatched ∧ (t.engAt k.ek).issueFrom = max e.issueFrom (s.cyc + 1) ∧ t.slots = s.slots ∧ t.mem = s.mem) ∧
    (s.hdrFault k = none → s.waitsMet k = false → exec (.sectionDispatch col slot eng) s = .next s)) ∧
  (∀ last, e.sec = .retiring last → s.flights.any (fun f => f.at_ == k) = false → ∃ t, exec (.sectionRetire col slot eng) s = .next t ∧
    (t.engAt k.ek).lastRet = e.hdr.secno ∧ (t.engAt k.ek).levels = [] ∧ (t.engAt k.ek).rets = [] ∧
    ((t.engAt k.ek).sec = .empty ∨ (t.engAt k.ek).sec = .waiting) ∧ (last = true → (t.engAt k.ek).sec = .empty) ∧ t.mem = s.mem) ∧
  (∀ t kind f, let x : Stream := ⟨col, slot, .x⟩
    (s.engAt x.ek).target = some t → (rawDecode (s.wordAt x)).bind stampedOf = some (kind, f) → s.canIssue x = true →
    f.slip = 0 → pinnedSlot s x = false → t ≤ s.cyc →
    (kind ≠ 1 → productFault s x kind f = none →
      exec (.scheduleMiss col slot) s = .next { s.takeFault x 0x06 (missInfo x f 0) with issued := s.issued ++ [x] }) ∧
    (∀ c i, kind ≠ 1 → productFault s x kind f = some (c, i) →
      exec (.scheduleMiss col slot) s = .next { s.takeFault x c i with issued := s.issued ++ [x] }) ∧
    (kind = 1 → exec (.scheduleMiss col slot) s = .next (s.quadMiss x f (quadNotReady s x f))))

/-- R79, R172, R263, R303, R304, R307, R330: a word in flight whose pieces may all be performed has them performed in this cycle, and waits a cycle where an earlier
access holds one; an HLD through bitmap words then reads its elements where those words place them; a barrier word joins the update of its barrier; a word with
no piece of matrix or handle work left ends; a shared push or pop of a slot waits for the earlier accesses of its engine, a push for its earlier writes, and is
tried again until its ring lets it through, or faults on a ring that R172 refuses or on a poisoned record. -/
def Obligations.FlightSteps : Prop := ∀ (id : Nat) (f : Flight) (s : State), s.flight id = some f →
  let may : Prop := ∀ p ∈ f.pieces, p.isDue s.cyc = true → s.mayPerform f p = true
  let g := { f with pieces := f.pieces.map (fun p => if p.isDue s.cyc then s.perform f p else p), late := s.lateNow f }
  let u := (s.checkDue f).setFlight g
  let full : Bool := g.pieces.all Piece.done
  (isBarrierWord f.ins = false → may →
    (full = false → exec (.loadPerformed id) s = .next u) ∧
    (full = true → f.spots = [] → exec (.loadPerformed id) s = .next (finishLoad u g)) ∧
    (full = true → f.spots ≠ [] →
      let h := settleSpots u g
      let h' := { h with pieces := h.pieces.map (performNow u h) }
      exec (.loadPerformed id) s = .next (if h'.pieces.all Piece.done then finishLoad (u.checkDue h) h'
        else ((u.checkDue h).setFlight h').due (s.cyc + 1) 30 (.loadPerformed id)))) ∧
  (¬may → ∃ t, exec (.loadPerformed id) s = .next t ∧ ∃ b ∈ t.agenda, b.at_ = s.cyc + 1 ∧ b.ev = .loadPerformed id) ∧
  (∀ p, isBarrierWord f.ins = true → f.pieces.head? = some p → may → exec (.loadPerformed id) s = .next (s.due s.cyc 150 (.barrierUpdate p.key))) ∧
  ((s.colAt f.at_.col).products = [] → (s.colAt f.at_.col).converts = [] →
    f.pend = .none → (f.ins.form.map Form.opc).getD 0 < 0x80 → exec (.wordComplete id) s = .next (s.endWord f)) ∧
  (∀ desc fmt recs col slot, f.pend = .port desc (fmt :: recs) → f.at_ = ⟨col, slot, .x⟩ →
    s.flights.find? (fun f => f.at_ == ⟨col, slot, .x⟩ && (match f.pend, f.ins with
      | .port _ _, .cspush _ _ => true
      | .port _ _, .cspop _ _ => true
      | _, _ => false)) = some f →
    let run := exec (.csSharedRetry col slot) s
    let again : Prop := ∃ t, run = .next t ∧ t.mem = s.mem ∧ ∃ b ∈ t.agenda, b.at_ = s.cyc + 1 ∧ b.ev = .csSharedRetry col slot
    let v := s.checkRing f.at_ desc
    let ready : Prop := ringWaits s f desc = false
    (ringWaits s f desc = true → again) ∧
    (∀ q i, f.ins = .cspush q i →
      (ready → s.writesBefore f.at_ f.id = true → again) ∧
      (ready → s.writesBefore f.at_ f.id = false →
        (∀ c x, ringCheck v f.at_ desc fmt 3 = .error (c, x) → run = .next (ringFault v f c x)) ∧
        (∀ key ring d, ringCheck v f.at_ desc fmt 3 = .ok (key, ring, d) →
          let held := (d.tail + 2 ^ 32 - d.head) % 2 ^ 32
          (2 ^ d.log2 < held + recs.length → again) ∧
          (∀ x, held + recs.length ≤ 2 ^ d.log2 → ringPoison v desc ring d d.tail recs.length = some x → run = .next (ringFault v f 0x0D x)) ∧
          (held + recs.length ≤ 2 ^ d.log2 → ringPoison v desc ring d d.tail recs.length = none → recs ≠ [] → run = .next (ringDone
            ((recs.zipIdx.foldl (fun s r => s.portStore (ring + d.at_ (d.tail + r.2)) 4 r.1) v).portStore (key + 4) 4 ((d.tail + recs.length) % 2 ^ 32))
            f []))))) ∧
    (∀ q i, f.ins = .cspop q i → ready →
      (∀ c x, ringCheck v f.at_ desc fmt 0 = .error (c, x) → run = .next (ringFault v f c x)) ∧
      (∀ key ring d, ringCheck v f.at_ desc fmt 0 = .ok (key, ring, d) →
        let held := (d.tail + 2 ^ 32 - d.head) % 2 ^ 32
        (popCountOf i held = none → i.sub / 8 % 2 = 0 → again) ∧
        (popCountOf i held = none → i.sub / 8 % 2 = 1 → run = .next (ringDone v f [.cf false])) ∧
        (∀ n, popCountOf i held = some n → n ≠ 0 →
          let t := (List.range n).foldl (fun s j => s.checkRead (ring + d.at_ (d.head + j)) 4) v
          (∀ x, ringPoison t desc ring d d.head n = some x → run = .next (ringFault t f 0x0D x)) ∧
          (ringPoison t desc ring d d.head n = none → run = .next (ringDone (t.portStore key 4 ((d.head + n) % 2 ^ 32)) f
            (popWrites i ((List.range n).map fun j => BitVec.ofNat 32 (t.load (ring + d.at_ (d.head + j)) 4)))))))))

/-- R213, R216, R222–R226, R228, R229, R231, R233, R303: a row operation ends with its buffer and its restored row; the sequencer asks for its row unless it is open or held; an
old row is forced; a store's writes at one distance reach their ports; a write queue drains its oldest line; a read
that finds an error corrects it or poisons the word; a row takes its spare. -/
def Obligations.TowerSteps : Prop := ∀ (tower bank : Nat) (s : State),
  let b := s.bankAt tower bank
  let phys := (s.towerAt tower).physRow bank
  (∀ o rest, b.ops = o :: rest →
    (o.stop ≤ s.cyc + 1 → ∃ t, exec (.rowOperationEnd tower bank) s = .next t ∧ (t.bankAt tower bank).ops = rest ∧
      (o.kind = .open_ → (t.bankAt tower bank).buf = some o.row ∧ (t.bankAt tower bank).restored.get? (phys o.row) = some (s.cyc + 1)) ∧
      (o.kind = .close → (t.bankAt tower bank).buf = none ∧
        ∀ r, b.buf = some r → (t.bankAt tower bank).restored.get? (phys r) = some (s.cyc + 1)) ∧
      (o.kind = .refresh → (t.bankAt tower bank).buf = b.buf ∧ (t.bankAt tower bank).restored.get? (phys o.row) = some (s.cyc + 1)) ∧
      t.mem = s.mem) ∧
    (s.cyc + 1 < o.stop → exec (.rowOperationEnd tower bank) s = .next s)) ∧
  (let i := (s.towerAt tower).seqIdx
   let held := ((s.towerAt tower).logicalRow (i % 16) (i / 16)).any fun r => s.atDawn.rowHeld (tower / 16) r
   (s.rowOpen tower (i % 16) (i / 16) = false → held = false → ∃ t, exec (.backgroundRefresh tower) s = .next t ∧
     t.reqs = s.reqs ++ [⟨none, 3, 0, tower, i % 16, i / 16, .op .refresh, none, none⟩]) ∧
   ((s.rowOpen tower (i % 16) (i / 16) = true ∨ held = true) → ∃ t, exec (.backgroundRefresh tower) s = .next t ∧ t.reqs = s.reqs)) ∧
  (∀ row, s.rowOpen tower bank row = false → s.forceAge tower ≤ s.cyc - s.restoredAt tower bank row →
    b.ops.any (fun o => decide (o.start < s.cyc ∧ s.cyc < o.stop)) = false →
    s.reqs.any (fun r => r.step == 1 && r.tower == tower && r.bank == bank) = false →
    ∃ t, exec (.forcedRefresh tower bank row) s = .next t ∧ t.reqs = s.reqs ++ [⟨none, 1, 0, tower, bank, row, .op .refresh, none, none⟩] ∧
      (t.towerAt tower).forced = (s.towerAt tower).forced + 1) ∧
  (∀ id dist e, s.stores.find? (fun e => e.id == id) = some e →
    let ps := e.pieces.filter fun p => p.dist == dist
    s.stores.any (fun x => x.by_ == e.by_ && decide (x.id < id) && x.pieces.any fun p => ps.any fun r => keyTower p.key == keyTower r.key) = false →
    s.flights.any (fun f => f.at_ == e.by_ && decide (f.id < id) && isAtomic f.ins &&
      f.pieces.any fun p => !p.done && ps.any fun r => keyTower p.key == keyTower r.key) = false →
    ps.any (fun p => s.lineBlocked p.key) = false → ∃ t, exec (.storeReachPort id dist) s = .next t ∧
      t.mem = ((ps.foldl (fun s p => (s.applyPiece e.op p).queueLine p.key) s).carry e ps).mem) ∧
  (∀ l rest, (s.towerAt tower).queue = l :: rest → (s.towerAt tower).partly = [] → (s.towerAt tower).backs = [] →
    (s.bankAt tower (keyBank (l * 64))).freeAt ≤ s.cyc → (s.bankAt tower (keyBank (l * 64))).nextLoad ≤ s.cyc →
    (s.bankAt tower (keyBank (l * 64))).ops.any (fun o => decide (o.start ≤ s.cyc ∧ s.cyc < o.stop)) = false → s.reqs = [] →
    ∃ t, exec (.writeQueueDrain tower) s = .next t ∧ (t.towerAt tower).queue = rest ∧ t.mem = s.mem) ∧
  (∀ col value, let x : SpareReq := ⟨value / 2 ^ 13 % 16, value / 16 % 512, 2⟩
    let y := col * 16 + value / 2 ^ 17 % 16
    exec (.rowspareStart col value) s = .next ((s.setTower y { s.towerAt y with spareReqs := (s.towerAt y).spareReqs ++ [x] }).startSpare y)) ∧
  (∀ w, w % 8 = 0 → s.bitErrs.get? w = some 1 → s.lineBlocked w = false → (s.checkWord w).mem = s.mem ∧ (s.checkWord w).poison = s.poison ∧ (s.checkWord w).bitErrs.get? w = none ∧
    ∃ e ∈ (s.checkWord w).hevents, e.code = 0x01 ∧ e.info = BitVec.ofNat 64 ((w - towerBase) % 2 ^ 22)) ∧
  (∀ w, w % 8 = 0 → s.bitErrs.get? w = some 2 → (s.checkWord w).mem = s.mem ∧ (s.checkWord w).poisoned w = true ∧ (s.checkWord w).bitErrs.get? w = none ∧
    ∃ e ∈ (s.checkWord w).hevents, e.code = 0x02 ∧ e.info = BitVec.ofNat 64 ((w - towerBase) % 2 ^ 22)) ∧
  (∀ r sp, s.subject = 0 → (s.towerAt tower).spareNow = some (r, sp) →
    ((s.towerAt tower).spareReqs = [] → ∃ t, exec (.rowSpareCopyVerify tower true) s = .next t ∧
      (t.towerAt tower).spares.get? (r.bank * 512 + r.row) = some sp ∧ (t.towerAt tower).spareNow = none ∧
      t.hevents = s.hevents ++ [{ code := 0x05, loc := s.towerLoc tower r.bank r.row, info := BitVec.ofNat 64 sp }]) ∧
    (∀ n l, State.goodSpares { s.towerAt tower with badSpares := (s.towerAt tower).badSpares ++ [r.bank * 8 + (sp - 512)] } r.bank = n :: l →
      ∃ t, exec (.rowSpareCopyVerify tower false) s = .next t ∧ (t.towerAt tower).spareNow = some (r, n) ∧
        t.hevents = s.hevents ++ [{ code := 0x06, loc := s.towerLoc tower r.bank r.row, info := BitVec.ofNat 64 sp }]))

/-- R330: what one operation does to a barrier word that is neither poisoned nor malformed, and the phase that completes at the end of the cycle. -/
def Obligations.BarrierWordRules : Prop := ∀ (w : BWord) (p n b : Nat) (d : Bool), w.poison = false → w.malformed = false →
  (w.apply (.init n)).1 = ⟨n, 0, 0, 0, 0, false, false⟩ ∧
  (w.expected ≠ 0 → p = w.phase → w.apply (.expect p n) = ({ w with pending := (w.pending + n) % 2 ^ 48 }, .ok)) ∧
  ((w.expected = 0 ∨ p ≠ w.phase) → w.apply (.expect p n) = (w, .overrun)) ∧
  (w.expected ≠ 0 → p = w.phase → w.arrived < w.expected → ∃ x, w.apply (.arrive p b d) = (x, .ok) ∧ x.arrived = w.arrived + 1 ∧
    x.drop = w.drop + (if d then 1 else 0) ∧ (x.pending + b) % 2 ^ 48 = w.pending % 2 ^ 48 ∧ x.pending < 2 ^ 48 ∧
    x.expected = w.expected ∧ x.phase = w.phase) ∧
  ((w.expected = 0 ∨ p ≠ w.phase ∨ w.arrived = w.expected) → w.apply (.arrive p b d) = (w, .overrun)) ∧
  w.apply (.read p) = (w, .ok) ∧
  (w.expected ≠ 0 → w.arrived = w.expected → w.pending = 0 →
    w.close = ({ w with phase := 1 - w.phase, expected := w.expected - w.drop, arrived := 0, drop := 0 }, true)) ∧
  ((w.expected = 0 ∨ w.arrived ≠ w.expected ∨ w.pending ≠ 0) → w.close = (w, false))

/-- R330, R517: an arrival takes its bank in its place and reaches its port when it has it; alone in its cycle at a word that counts it, it leaves in memory the
word that the rules of R330 give. -/
def Obligations.BarrierSteps : Prop := ∀ (s : State),
  (∀ (a : Arrival) (r : ArrivalRec),
    r = (s.arrivals.find? fun r => r.id == s.subject && !r.reached && (r.remote == false || r.key == a.addr)).getD
      { id := s.subject, key := a.addr, prog := keyAddr a.addr, parity := a.parity, bytes := a.bytes, remote := true } → r.key = a.addr →
    let late := s.arrivalLate r (keyTower a.addr) (keyBank a.addr)
    (s.keyServed a.addr = false → exec (.barrierArrivalReach a) s = .next (s.due (s.cyc + 1) 140 (.barrierArrivalReach a) s.subject)) ∧
    (s.keyServed a.addr = true → (r.served = true ∨ late = 0) → ∃ t, exec (.barrierArrivalReach a) s = .next t ∧ t.mem = s.mem ∧
      (∃ x ∈ t.arrivals, x.id = s.subject ∧ x.reached = true) ∧ ∃ b ∈ t.agenda, b.at_ = s.cyc ∧ b.ev = .barrierUpdate a.addr) ∧
    (s.keyServed a.addr = true → r.served = false → 0 < late → ∃ t, exec (.barrierArrivalReach a) s = .next t ∧ t.mem = s.mem ∧
      (∃ x ∈ t.arrivals, x.id = s.subject ∧ x.served = true ∧ x.reached = r.reached) ∧
      ∃ b ∈ t.agenda, b.at_ = s.cyc + late ∧ b.ev = .barrierArrivalReach a)) ∧
  (∀ key, barrierReqs s key = [] → exec (.barrierUpdate key) s = .next s) ∧
  (∀ key pl p b a, let w := (s.checkRead key 16).bword key
    s.MemOk → barrierReqs s key = [⟨pl, .arrive p b false, none, some a⟩] →
    (∀ f ∈ s.flights, ∀ l, f.pend ≠ .bwait key l) → w.poison = false → w.malformed = false →
    w.expected ≠ 0 → p = w.phase → w.arrived < w.expected →
    ∃ t, exec (.barrierUpdate key) s = .next t ∧ t.bword key = ((w.apply (.arrive p b false)).1.close).1 ∧
      ∀ x, (x < key ∨ key + 16 ≤ x) → Memory.read t.mem x = Memory.read s.mem x)

/-- R112, R188–R190, R206: a free lease passes to the waiting slot that comes first, whose MLEASE completes; a batch that fails a joint degrades it, and its
product is replayed over the bypass where that serves; a bypass that fails loses the batches that have not reached their granules; a free bypass goes to the pass
that asked first, on a tie to the lower column. -/
def Obligations.BedSteps : Prop := ∀ (col : Nat) (s : State),
  (∀ w t, (s.colAt col).lease = none → (s.colAt col).leaseWait = w :: t → ∃ n ∈ w :: t, (∀ x ∈ w :: t, n.2 < x.2 ∨ (n.2 = x.2 ∧ n.1 ≤ x.1)) ∧
    ∃ u, exec (.leaseGrant col) s = .next u ∧ (u.colAt col).lease = some n.1 ∧
      (u.colAt col).leaseWait = (w :: t).filter (fun x => x.1 != n.1) ∧
      ∀ f ∈ s.flights, f.at_ = ⟨col, n.1, .x⟩ → f.pend = .lease →
        ∃ b ∈ u.agenda, b.at_ = s.cyc + s.leaseLatency col n.1 ∧ b.ev = .wordComplete f.id) ∧
  (((s.colAt col).lease ≠ none ∨ (s.colAt col).leaseWait = []) → exec (.leaseGrant col) s = .next s) ∧
  (∀ joint batch,
    (∀ p i, failingPass s col batch = some (p, i) → joint ≤ 2 → (foldJdeg (s.foldstat col)).testBit joint = false →
      ∃ u v, exec (.bedJointFailure col joint batch) s = .next u ∧ v ∈ u.hevents ∧ v.code = 0x0A ∧ v.info = BitVec.ofNat 64 joint ∧
        (u.foldstat col).getLsbD (16 + joint) = true ∧
        (p.replayed = false → foldBypbad (s.foldstat col) = false → ∃ x ∈ (u.colAt col).products, x.id = p.id ∧ x.replayed = true)) ∧
    ((failingPass s col batch = none ∨ 2 < joint ∨ (foldJdeg (s.foldstat col)).testBit joint = true) →
      exec (.bedJointFailure col joint batch) s = .next s)) ∧
  (bypassed s col ≠ [] → exec (.bypassFailure col) s = .next (loseBatches s col (bypassed s col))) ∧
  (bypassed s col = [] → exec (.bypassFailure col) s = .next s) ∧
  (let lo := min col (bypassPartner col)
   let hi := max col (bypassPartner col)
   let t := (s.askBypass lo).askBypass hi
   let isFree := (t.colAt lo).bypassTo ≤ s.cyc ∧ (t.colAt hi).bypassTo ≤ s.cyc
   (isFree → ∀ a, (t.colAt lo).bypassAsk = some a → (∀ b, (t.colAt hi).bypassAsk = some b → a ≤ b) →
     exec (.bypassGrant col) s = .next (t.startPass lo)) ∧
   (isFree → ∀ b, (t.colAt hi).bypassAsk = some b → (∀ a, (t.colAt lo).bypassAsk = some a → b < a) →
     exec (.bypassGrant col) s = .next (t.startPass hi)) ∧
   ((¬isFree ∨ ((t.colAt lo).bypassAsk = none ∧ (t.colAt hi).bypassAsk = none)) → exec (.bypassGrant col) s = .next t))

/-! ### Channels, groups, launches, queues -/

/-- R255, R271, R273, R276, R279, R280, R282–R284, R292, R294, R295, R446: how a channel goes on. A command that has written all its sectors ends; a sector that
runs moves the command on, 64 bytes a cycle; a translation fault suspends the channel, and a completion signals, once the writes are where they must be; a fault
gives its group an engine fault, or a chain its ERR; a record with OWN = 0 parks its channel, and one with OWN = 1 is performed. -/
def Obligations.ChannelSteps : Prop := ∀ (s : State),
  (∀ x c, s.chanCommand x = some c → c.started = true → (s.chanAt x).susp = none →
    (match x with | .pier .. => True | .column .. => chanFrozen s c = false) → c.kind ≠ .aatom →
    let u := s.setCommand x c
    (c.acq && acquireWaits u c) = false → collHolds u c = false →
    (c.sectors ≤ c.sector → (∀ b, c.kind ≠ .stbind b) → exec (.channelCommandStart x) s = .next (u.due (s.cyc + 1) 560 (.commandComplete x))) ∧
    (c.sector < c.sectors → (∀ b, c.kind ≠ .stbind b) →
      (∀ e v, sectorRun u x c = (.error e, v) → exec (.channelCommandStart x) s = .next (chanStop v x c e)) ∧
      (∀ bytes v, sectorRun u x c = (.ok bytes, v) →
        let e : Command := { c with sector := c.sector + 1, written := c.written + bytes }
        let busy := ceilDiv (c.written + bytes) 64 - ceilDiv c.written 64
        (e.sector < e.sectors → exec (.channelCommandStart x) s = .next ((v.setCommand x e).due (v.cyc + busy) 45 (chanEvent x))) ∧
        (e.sectors ≤ e.sector → ∃ t, exec (.channelCommandStart x) s = .next t ∧ t.mem = v.mem ∧
          ∃ d ∈ t.agenda, v.cyc + busy ≤ d.at_ ∧ d.ev = .commandComplete x))) ∧
    (c.sector < c.sectors → ∀ b, c.kind = .stbind b → portRoom u c = true → ∃ t, exec (.channelCommandStart x) s = .next t ∧
      ∃ d ∈ t.agenda, s.cyc < d.at_ ∧ d.ev = .streamPortVector x)) ∧
  (∀ x c, s.chanCommand x = some c → c.started = true → c.kind = .aatom → (s.chanAt x).susp = none →
    (match x with | .pier .. => True | .column .. => chanFrozen s c = false) →
    let u := s.setCommand x c
    (c.acq && acquireWaits u c) = false → collHolds u c = false → (∀ old v, aatomRun u x c = (.ok (some old), v) →
      ∃ t, exec (.channelCommandStart x) s = .next t ∧ t.mem = v.mem ∧ ∃ d ∈ t.agenda, v.cyc < d.at_ ∧ d.ev = .commandComplete x) ∧
    (∀ v, aatomRun u x c = (.ok none, v) → exec (.channelCommandStart x) s = .next v)) ∧
  (∀ x r, let here := s.unitReached (State.chanKey x) 5
    let open_ := s.pages.open_.any fun p => p.id == r && p.who.contains (.chan x)
    (here = true → open_ = true → ∃ t, exec (.translationFault x r) s = .next t ∧ (t.chanAt x).susp = some r ∧ (t.chanAt x).queue = (s.chanAt x).queue) ∧
    (here = true → open_ = false → exec (.translationFault x r) s = .next (s.resumeChan x)) ∧
    (here = false → exec (.translationFault x r) s = .next (s.due (s.cyc + 1) 47 (.translationFault x r)))) ∧
  (∀ col slot ch c, let x : Chan := .column col slot ch
    (s.chanAt x).queue.head? = some c →
      (s.unitReached (State.chanKey x) (if c.rel then c.scope else 5) c.since = true →
        exec (.commandComplete x) s = .next (chanNext (chanSignal s x c) x)) ∧
      (s.unitReached (State.chanKey x) (if c.rel then c.scope else 5) c.since = false →
        exec (.commandComplete x) s = .next (s.due (s.cyc + 1) 560 (.commandComplete x))) ∧
      (s.unitReached (State.chanKey x) 5 c.since = true →
        (∀ g code info, c.gid = some g → code ≠ 0x13 → exec (.engineFault x code info) s =
          .next (chanNext ((giveBack (endPort s c) c).engineFault g ⟨c.at_.eng, ch, code, BitVec.ofNat 64 info⟩) x)) ∧
        (∀ code info, c.gid = none → exec (.engineFault x code info) s =
          .next (chanNext ((giveBack (endPort s c) c).stopFirmware c.at_ code) x)))) ∧
  (∀ pier n c, let x : Chan := .pier pier n
    (s.chanAt x).queue.head? = some c →
    (∀ r, (s.chanAt x).inner = some r → (s.chanAt x).err = none → s.unitReached (State.chanKey x) (if r.rel then r.scope else 5) r.since = true →
      exec (.commandComplete x) s = .next (recordDone (if r.cmpl = 1 then chanArrive s x r else s) pier n 0)) ∧
    ((s.chanAt x).inner = none → (s.chanAt x).err = none → s.unitReached (State.chanKey x) (if c.rel then c.scope else 5) c.since = true →
      exec (.commandComplete x) s = .next ((chanSignal s x c).setChan x {})) ∧
    (∀ code info, s.unitReached (State.chanKey x) 5 = true → exec (.engineFault x code info) s =
      .next (recordDone s pier n (if code = 0x12 ∨ (code = 0x13 ∧ info < 2 ^ 52) then 3 else if code = 0x01 ∨ code = 0x04 then 1 else 2)))) ∧
  (∀ pier n c keys u words r, let x : Chan := .pier pier n
    let v := s.chanAt x
    v.queue = [c] → c.started = true → v.susp = none → v.inner = none → v.err = none → chanFrozen s { c with started := true } = false →
    (c.acq = false → recordKeys (s.setChan x { v with queue := [c], parked := false }) x c v.at_ 0 = (.ok keys, u) →
      readRecord u x v.at_ keys = (.ok words, r) →
      (words.getD 0 0 % 2 = 0 → ∃ t, exec (.chainRecord pier n) s = .next t ∧ (t.chanAt x).parked = true ∧
        ∃ d ∈ t.agenda, d.at_ = r.cyc + 1024 ∧ d.ev = .chainRecordPoll pier n) ∧
      (∀ z, words.getD 0 0 % 2 = 1 → recordCommand c words = some z →
        operandFault (r.setChan x { r.chanAt x with next := words.getD 1 0 }) c.at_ z = none →
        ∃ t, exec (.chainRecord pier n) s = .next t ∧ (t.chanAt x).inner = some z ∧
          ∃ d ∈ t.agenda, d.at_ = t.cyc + 1 ∧ d.ev = .channelCommandStart x)) ∧
    (v.parked = true → recordKeys s x c v.at_ 0 = (.ok keys, u) → readRecord u x v.at_ (keys.take 8) = (.ok words, r) → words.getD 0 0 % 2 = 0 →
      exec (.chainRecordPoll pier n) s = .next (r.due (r.cyc + 1024) 46 (.chainRecordPoll pier n)))) ∧
  (∀ x c src, s.chanCommand x = some c → EA.parse c.src = some src → portRoom s c = false →
    exec (.streamPortVector x) s = .next (s.due (s.cyc + 1) 45 (.streamPortVector x))) ∧
  (∀ x c src, s.chanCommand x = some c → EA.parse c.src = some src → c.kind = .stbind false → portRoom s c = true →
    let o := 1024 * c.sector
    let n := min 1024 (c.len - o)
    ∀ pages u, transPages s x c.at_ (eaPages (src.at_ o) n 0) [] = (.ok pages, u) → keysServed u (eaKeys u c.at_ pages (src.at_ o) n) = true →
      ∃ t, exec (.streamPortVector x) s = .next t ∧
        ((t.slotAt c.at_.sk).ports.getD (c.target % 16) {}).held.length = ((u.slotAt c.at_.sk).ports.getD (c.target % 16) {}).held.length + 1) ∧
  (∀ x t0 r, s.hostWaits.find? (fun w => w.1 == .chan x) = some (.chan x, t0, r) → s.hostUp = false → s.cyc < t0 + s.linkLimit →
    exec (.hostAccessTimeout x) s = .next (s.due (t0 + s.linkLimit) 44 (.hostAccessTimeout x)))

/-- R344, R361, R363, R366, R369–R379, R472, R474: what becomes of groups: placement, start, pre-emption, saves, migration, the watchdog, retirement,
firmware's writes into a Faulted group, and purges. -/
def Obligations.GroupSteps : Prop := ∀ (s : State),
  (∀ g col slot v, s.groups.get? g = some v → v.state = .queued → (s.ctxAt v.ctx).state = 1 → s.slotFree col slot = true →
    s.colOpen col (s.groupWinCtx v) = true → (s.purges.any fun p => p.1 == v.ctx && p.2.1 == v.reqtag) = false → v.gang = false →
    v.saved.isSome = true → ∃ t, exec (.groupPlace g col slot) s = .next t ∧
      ∃ d ∈ t.agenda, s.cyc < d.at_ ∧ d.ev = .codeStoreCopyComplete g) ∧
  (∀ g v, s.groups.get? g = some v →
    let unit := (s.gangOf g).filter fun h => ((s.groups.get? h).map Group.state) == some .placed
    (unit = [] → exec (.codeStoreCopyComplete g) s = .next s) ∧
    (∀ u, unit = [g] → s.copyCode g = (true, u) → (u.canRestore g).1 = true →
      exec (.codeStoreCopyComplete g) s = .next ((u.canRestore g).2.startGroup g))) ∧
  (∀ col slot block, s.groupOf (slotKey col slot) = none → exec (.codeBlockFetch col slot block) s = .next s) ∧
  (∀ col slot block g v u, s.groupOf (slotKey col slot) = some (g, v) →
    let who : Requester := .fetch (((State.slotStreams col slot).filter fun k => (s.engAt k.ek).codeMiss == some block).headD ⟨col, slot, .a⟩)
    let places := (List.range 1024).filterMap fun i => (imagePlace (s.launchOf v) (1024 * block + i)).map fun a => (1024 * block + i, a)
    s.transRange v.ctx 3 4 who (distinct (places.map fun (x : Nat × Nat) => x.2 / 65536)) = (.full, [], u) →
    exec (.codeBlockFetch col slot block) s = .next (u.due (u.cyc + 1) 26 (.codeBlockFetch col slot block))) ∧
  (∀ col slot block g v a pages u, s.groupOf (slotKey col slot) = some (g, v) →
    let who : Requester := .fetch (((State.slotStreams col slot).filter fun k => (s.engAt k.ek).codeMiss == some block).headD ⟨col, slot, .a⟩)
    let places := (List.range 1024).filterMap fun i => (imagePlace (s.launchOf v) (1024 * block + i)).map fun a => (1024 * block + i, a)
    s.transRange v.ctx 3 4 who (distinct (places.map fun (x : Nat × Nat) => x.2 / 65536)) = (.ok a, pages, u) →
    ∃ t, exec (.codeBlockFetch col slot block) s = .next t ∧ block ∈ (t.slotAt (slotKey col slot)).code) ∧
  (∀ col slot k, (State.slotStreams col slot).filter (fun k => (s.engAt k.ek).sec != .empty) = [k] →
    exec (.watchdog col slot) s = .next (s.groupFault k 0x1A (BitVec.ofNat 64 (engCode k.eng)) false 0)) ∧
  (∀ g v p, s.groups.get? g = some v → (s.slotAt (slotKey v.col v.slot)).preempt = some p →
    let due := p.at_ + (if p.force then 0 else v.region.plimit)
    ((v.state = .running ∨ v.state = .stalled ∨ v.state = .atSafe) → due ≤ s.cyc → exec (.forcedFullSave g) s = .next (s.beginSave g true)) ∧
    ((v.state = .running ∨ v.state = .stalled ∨ v.state = .atSafe) → s.cyc < due → exec (.forcedFullSave g) s = .next s) ∧
    (v.state = .placed → exec (.forcedFullSave g) s = .next (s.due (s.cyc + 1) 40 (.forcedFullSave g)))) ∧
  (∀ g v, s.groups.get? g = some v →
    ((s.saveUnit g v).all s.canSave = true → exec (.saveComplete g) s = .next ((s.saveUnit g v).foldl State.saveOne s)) ∧
    ((s.saveUnit g v).all s.canSave = false → exec (.saveComplete g) s = .next s) ∧
    (v.state = .preempting → v.frame = none → s.freeFrame v.ctx = none → ∃ t, exec (.saveFrameWait g) s = .next t ∧
      t.hevents = s.hevents ++ [{ code := 0x24, ctx := v.ctx, tag := v.reqtag }])) ∧
  (∀ g v, s.groups.get? g = some v → v.audit = none → ∃ t, exec (.groupRetire g) s = .next t ∧
    (t.groups.get? g).map Group.state = some .retired) ∧
  (∀ ctx src m, s.moves.find? (fun m => m.ctx == ctx && m.src == src && m.begun) = some m →
    ∃ t, exec (.migrationComplete ctx src) s = .next t ∧ (t.ctxAt ctx).colmap = (let map := (s.ctxAt ctx).colmap.set ((s.ctxCol ctx src).getD src) m.dest
      match s.ctxCol ctx m.dest with | some d => map.set d src | none => map)) ∧
  (∀ col slot force, (∀ g v, s.groupOf (slotKey col slot) = some (g, v) → exec (.gctlPreempt col slot force) s = .next (s.preemptGroup g force)) ∧
    (s.groupOf (slotKey col slot) = none → exec (.gctlPreempt col slot force) s = .next s)) ∧
  (∀ col slot dest dwin g v, s.groupOf (slotKey col slot) = some (g, v) → (s.slotAt (slotKey col slot)).preempt = none →
    s.migrationRefused v.ctx col dest dwin = true →
    ∃ t, exec (.gctlMigrate col slot dest dwin) s = .next t ∧ (t.slotAt (slotKey col slot)).preemptErr = true ∧ t.moves = s.moves) ∧
  (∀ col slot dest dwin g v, s.groupOf (slotKey col slot) = some (g, v) → (s.slotAt (slotKey col slot)).preempt = none →
    s.migrationRefused v.ctx col dest dwin = false → ∃ t, exec (.gctlMigrate col slot dest dwin) s = .next t ∧
      ∃ m ∈ t.moves, m.ctx = v.ctx ∧ m.src = col ∧ m.dest = dest ∧ m.dwin = dwin) ∧
  (∀ col value, let sk := slotKey col (bitsAt ((s.colAt col).ctlr 0x083) 1 0)
    let sel := (s.colAt col).ctlr 0x131
    let ek := sk * 3 + bitsAt sel 21 20
    ((s.groupOf sk).map fun g => g.2.state) = some .faulted →
    (bitsAt sel 19 18 = 0 → bitsAt sel 17 0 ≠ 0 → ∃ t, exec (.gregdataWrite col value) s = .next t ∧
      (t.engAt ek).sreg (bitsAt sel 17 0) = { val := BitVec.ofNat 64 value }) ∧
    (bitsAt sel 19 18 = 1 → ∃ t, exec (.gregdataWrite col value) s = .next t ∧ (t.engAt ek).cf = (BitVec.ofNat 64 value).getLsbD 0) ∧
    (bitsAt sel 19 18 = 2 → ∃ t, exec (.gregdataWrite col value) s = .next t ∧
      (t.engAt ek).spill.get? (bitsAt sel 17 0) = some { val := BitVec.ofNat 64 value })) ∧
  (∀ col slot, ((s.subject = 0 ∨ s.farTraffic = false) → ∃ t, exec (.microPcRecordArrival col slot) s = .next t ∧
      (t.colAt col).ctlr 0x134 = (s.colAt col).ctlr 0x134 ||| BitVec.ofNat 64 (2 ^ slot)) ∧
    (0 < s.subject → s.farTraffic = true → exec (.microPcRecordArrival col slot) s =
      .next (s.due (s.cyc + s.subject) 20 (.microPcRecordArrival col slot)))) ∧
  (∀ value, let c := value / 2 ^ 32 % 65536
    let st := (s.ctxAt c).state
    s.subject = 0 →
    (c ≠ 0 → 1 ≤ st → st ≤ 4 → (s.purges.any fun p => p.1 == c && p.2.1 == value % 65536) = false →
      exec (.purge value) s = .next { s with purgeErr := false, purges := s.purges ++ [(c, value % 65536, 0)] }) ∧
    ((c = 0 ∨ st = 0 ∨ 5 ≤ st) → exec (.purge value) s = .next { s with purgeErr := true })) ∧
  (∀ ctx tag p, s.purges.find? (fun p => p.1 == ctx && p.2.1 == tag) = some p → ∃ t, exec (.purgeComplete ctx tag) s = .next t ∧
    t.purges = s.purges.filter (fun q => !(q.1 == ctx && q.2.1 == tag)) ∧
    t.hevents = s.hevents ++ [{ code := 0x11, ctx := ctx, tag := tag, info := BitVec.ofNat 64 (p.2.2 - 1) }]) ∧
  (∀ col, exec (.fwrst col) s = .next (s.startFirmware col)) ∧
  (∀ gid mb value, s.flight (2 ^ 64) = none → s.subject = 0 →
    (∀ kept t, s.message gid mb (BitVec.ofNat 64 value) = some (kept, t) → exec (.messageLand gid mb value (2 ^ 64)) s = .next t) ∧
    (s.message gid mb (BitVec.ofNat 64 value) = none → exec (.messageLand gid mb value (2 ^ 64)) s =
      .next (s.due (s.cyc + 1) 620 (.messageLand gid mb value (2 ^ 64)) 0)))

/-- R348, R353, R355, R390, R413: the steps of a launch. In its first cycle its node is read: a broken node fails it, a node without an image retires it,
and any other begins its checks, which end later with the first status that does not hold or with Walking. It ends once its groups are gone and
their writes have arrived: Retired, or Failed with 6 where one was purged; its pool is then discarded. A terminated pool stays so. -/
def Obligations.LaunchSteps : Prop := ∀ (s : State) (lid : Nat) (l : Launch), s.launches.get? lid = some l →
  let w := s.nodeWords l.ctx l.node
  let a := (s.ctxAt l.ctx).graph + 32 * l.node
  let v : Launch := { l with
    reqtag := nbits (w.getD 1 0) 31 16, regionNode := nbits (w.getD 1 0) 63 48, image := nbits (w.getD 0 0) 51 0,
    succ := (List.range (nbits (w.getD 2 0) 62 60)).map fun j => nbits (w.getD 2 0) (12 * j + 11) (12 * j) }
  (l.state = .launched → (∀ n < 4, s.poisoned (a + 8 * n) = false) →
    (State.nodeBad w = true → exec (.launchCheck lid) s = .next ((s.setLaunch lid v).endLaunch lid 1)) ∧
    (State.nodeBad w = false → v.image = 0 → exec (.launchCheck lid) s = .next ((s.setLaunch lid v).endLaunch lid 0)) ∧
    (State.nodeBad w = false → v.image ≠ 0 → s.regionPoison (s.ctxAt l.ctx) (v.regionNode + 1) v.regionNode = none →
      ∃ t, exec (.launchCheck lid) s = .next t ∧
      (∃ x, t.launches.get? lid = some x ∧ x.state = .checking ∧ x.image = v.image ∧ x.reqtag = v.reqtag ∧ x.succ = v.succ ∧
        ∀ r, (s.region (s.ctxAt l.ctx) (v.regionNode + 1) v.regionNode).1 = some r → x.region = r) ∧
      (∀ n ≠ lid, t.launches.get? n = s.launches.get? n) ∧ ∃ d ∈ t.agenda, s.cyc < d.at_ ∧ d.ev = .launchCheck lid)) ∧
  (l.state = .checking →
    (∀ x t, s.checkLaunch lid l = (.ok x, t) → exec (.launchCheck lid) s = .next (t.setLaunch lid x)) ∧
    (∀ st t, s.checkLaunch lid l = (.error (some st), t) → exec (.launchCheck lid) s = .next (t.endLaunch lid st)) ∧
    (∀ t, s.checkLaunch lid l = (.error none, t) → exec (.launchCheck lid) s = .next t)) ∧
  (∀ st, l.ending = some st → exec (.launchRetire lid) s = .next (s.endLaunch lid st)) ∧
  (∀ st, l.ending = none → s.launchOver lid l = some st → exec (.launchRetire lid) s = .next (s.endLaunch lid st)) ∧
  (l.ending = none → s.launchOver lid l = none → exec (.launchRetire lid) s = .next (s.launchSignal lid)) ∧
  (l.state = .running → l.packet = none → l.signal = (0, 0, 0) → l.ending = none →
    (∀ r ∈ s.launchGroups lid, r.2.state = .retired ∧ s.writesDone r.1 r.2 = true) → ∃ t, exec (.launchRetire lid) s = .next t ∧
    (∃ x, t.launches.get? lid = some x ∧ x.state = .retired ∧ x.status = 0 ∧ x.pool = []) ∧ (∀ n ≠ lid, t.launches.get? n = s.launches.get? n) ∧
    t.downs = s.downs ++ [(l.ctx, l.node, l.succ)] ∧ t.mem = s.mem ∧ t.groups = s.groups) ∧
  (∃ t, exec (.poolTerminate lid) s = .next t ∧ (t.launches.get? lid).map Launch.terminated = some true ∧
    ∀ n ≠ lid, t.launches.get? n = s.launches.get? n)

/-- R384–R388, R398–R400: the front end: doorbells, admission to a hardware slot, the end of a slice, and parking. -/
def Obligations.QueueSteps : Prop := ∀ (s : State) (k : Nat), s.subject = k →
  let q := s.queueAt k
  let v := s.takeEnqs.openQueue k
  let x := v.queueAt k
  let below (a b : Nat) : Bool := decide (2 ^ 47 ≤ (a + 2 ^ 48 - b) % 2 ^ 48)
  (s.queuesLive (k / 4096) = false → (∀ ptr, exec (.doorbellAdvance k ptr) s = .next s) ∧ exec .doorbellHalt s = .next s ∧
    exec .doorbellResume s = .next s ∧ exec .doorbellReset s = .next s) ∧
  (s.queuesLive (k / 4096) = true →
    (x.state = 0 → (∀ ptr, exec (.doorbellAdvance k ptr) s = .next v) ∧ exec .doorbellReset s = .next v) ∧
    (x.state ≠ 0 →
      (∀ ptr, (below ptr x.wptr || below ((x.rptr + 2 ^ x.log2) % 2 ^ 48) ptr) = true → exec (.doorbellAdvance k ptr) s = .next (v.haltQueue k)) ∧
      (∀ ptr, (below ptr x.wptr || below ((x.rptr + 2 ^ x.log2) % 2 ^ 48) ptr) = false →
        let u := v.setQueue k { x with adv := if below ptr x.adv then x.adv else ptr }
        exec (.doorbellAdvance k ptr) s = .next (u.acceptAll k (State.owedPackets (u.queueAt k)))) ∧
      exec .doorbellReset s = .next ((v.setQueue k { x with reset := true }).tryReset k (x.seqs.length + 2))) ∧
    exec .doorbellHalt s = .next (v.haltQueue k) ∧
    (x.state = 6 → exec .doorbellResume s = .next (v.queueState k (if x.seqs.isEmpty then 1 else 2))) ∧
    (x.state ≠ 6 → exec .doorbellResume s = .next v)) ∧
  ((s.feFree = 0 ∨ admitted s = none) → exec .queueAdmit s = .next s) ∧
  (s.feFree ≠ 0 → ∀ n t, admitted s = some (n, t) → exec .queueAdmit s =
    .next { (t.due (t.cyc + 4) 48 .queueActive n) with feFree := t.feFree - 1, admitted := some t.cyc }) ∧
  ((q.state ≠ 2 ∨ (s.ctxAt (k / 4096)).state ≠ 1) → exec .queueActive s = .next { s with feFree := s.feFree + 1 }) ∧
  (q.state = 2 → (s.ctxAt (k / 4096)).state = 1 →
    let u := (s.setQueue k { q with slotAt := some s.cyc }).queueState k 3
    (q.cur = none → exec .queueActive s = .next (u.nextPacket k s.cyc)) ∧
    (∀ p, q.cur = some p → p.begun.isSome = true → exec .queueActive s = .next (u.due s.cyc 49 p.event k)) ∧
    (∀ p, q.cur = some p → p.begun = none → exec .queueActive s = .next (u.nextPacket k s.cyc))) ∧
  (q.slotAt.isSome = true → State.atBoundary q = true →
    exec .queueSliceEnd s = .next (((s.setQueue k (State.putBack q)).releaseSlot k).queueState k 2)) ∧
  (q.state = 4 → (q.cur.bind fun p => p.parkFrom).isSome = true → exec .queuePark s = .next (s.park k)) ∧
  (q.state = 5 → exec .queueUnpark s = .next { s.queueState k 2 with returned := s.returned ++ [k] })

/-- R389–R393, R396, R397, R464: packets in processing: a LAUNCH launches its node, a WAIT reads its word and ends with it in USER when its condition holds,
a SIGNAL operates on its word, a MARK ends with its USER value, an EVICT without PRIV ends with status 9 and one with PRIV sends its reservation and holds its
queue, a WAIT that times out ends with status 10, and a hold that has lasted its time goes on. While an eviction is in progress every packet of another queue
waits where it is. -/
def Obligations.PacketSteps : Prop := ∀ (s : State) (p : Packet) (t0 : Nat),
  let k := s.subject
  let w (n : Nat) : Nat := p.words.getD n 0
  (s.queueAt k).cur = some p → p.done = none →
  (p.begun = some t0 → s.evicting = true → k ≠ s.evict.queue →
    ∀ i ∈ [Instr.launch, Instr.wait, Instr.signal, Instr.markPacket, Instr.evict], exec i s = .next ((s.queueState k 4).due (s.cyc + 1) 49 p.event k)) ∧
  (p.begun = some t0 → (p.typ = 2 → exec .waitTimeout s = .next ((s.detach (.queue k)).endPacket k 10))) ∧
  (p.begun = some t0 → (s.evicting = true → k = s.evict.queue) →
    (p.typ = 1 → t0 = s.cyc → ∃ t, exec .launch s = .next t ∧ t.launches = s.launches ∧
      ∃ d ∈ t.agenda, s.cyc < d.at_ ∧ d.at_ ≤ s.cyc + 16 ∧ d.ev = .launch ∧ d.arg = k) ∧
    (p.typ = 1 → t0 ≠ s.cyc → exec .launch s = .next (
      let l : Launch := { packet := some (k % 4096, p.seqno), ridx := p.count, pflags := p.flags, fclass := nbits (w 0) 7 4,
                          stopfail := (w 0).testBit 10, signal := (w 2, w 3, w 4 % 4) }
      let u := s.launchNode (k / 4096) (w 1 % 4096) l
      (u.setQueue k { u.queueAt k with cur := none }).nextPacket k s.cyc)) ∧
    (exec .wait s = .next (s.waitRead k p)) ∧
    (p.typ = 2 → s.attached (.queue k) = false →
      (∀ a data u, s.readVirt (k / 4096) (w 1) 8 0 3 (.queue k) = (.ok a, data, u) → data.all (fun b => !b.2) = true →
        let x := ((wordsOf (data.map fun b => b.1)).head?).getD 0
        condMet (w 3 % 8) x (w 2) = true → exec .wait s =
          .next ((u.setQueue k { u.queueAt k with cur := some { p with user := x, parkFrom := none } }).endPacket k 0))) ∧
    (p.typ = 2 → ((s.queueAt k).state = 3 ∨ (s.queueAt k).state = 4) → exec .waitReread s = .next (s.waitRead k p)) ∧
    (p.typ = 3 → t0 ≠ s.cyc → s.attached (.queue k) = false →
      (∀ a u, s.signalWord (k / 4096) (w 1) (w 2) (w 3 % 4) (.queue k) = (.ok a, u) → exec .signal s =
        .next ((if (w 3).testBit 8 then u.raiseIrq (w 4) else u).endPacket k 0)) ∧
      (∀ u, s.signalWord (k / 4096) (w 1) (w 2) (w 3 % 4) (.queue k) = (.refused, u) → exec .signal s = .next (u.endPacket k 11))) ∧
    (p.typ = 4 → t0 ≠ s.cyc →
      exec .markPacket s = .next ((s.setQueue k { s.queueAt k with cur := some { p with user := w 1 } }).endPacket k 0)) ∧
    (p.typ = 5 → s.evicting = false → (s.queueAt k).priv = false → exec .evict s = .next (s.endPacket k 9)) ∧
    (p.typ = 5 → s.evicting = true → exec .evict s = .next s) ∧
    (p.typ = 5 → s.evicting = false → (s.queueAt k).priv = true → ∃ t, exec .evict s = .next t ∧ t.evict.phase = 1 ∧ t.evict.queue = k ∧
      t.evict.target = w 1 % 512 ∧ t.evict.startedAt = s.cyc ∧ t.evict.safe = false ∧ (t.queueAt k).state = 4)) ∧
  (p.begun = none → p.held.isSome = true → exec .holdTimeout s =
    .next ((s.setQueue k { s.queueAt k with cur := some { p with hto := true } }).due s.cyc 49 p.event k))

/-- R406–R411, R418–R423: contexts: what the commands answer and the states they lead to. -/
def Obligations.ContextSteps : Prop := ∀ (s : State), let c := s.subject
  let st := (s.ctxAt c).state
  (s.ctxBusy ≠ [] → exec .create s = .next (s.ctxAnswer c 1) ∧ exec .switchout s = .next (s.ctxAnswer c 1) ∧
    exec .switchin s = .next (s.ctxAnswer c 1)) ∧
  (s.ctxBusy = [] →
    (st ≠ 0 → exec .create s = .next (s.ctxAnswer c 2)) ∧
    (∀ e, st = 0 → s.readContext c = .error e → exec .create s = .next (s.ctxAnswer c e)) ∧
    (∀ v, st = 0 → s.readContext c = .ok v → s.windowsFit c v = false → exec .create s = .next (s.ctxAnswer c 4)) ∧
    (∀ v, st = 0 → s.readContext c = .ok v → s.windowsFit c v = true → ∃ t, exec .create s = .next t ∧
      let u := (s.setCtx c v).enterState c 1
      t = ((u.ctxWindows c).foldl (fun s x => s.zeroWindow x.2.1 x.2.2) u).ctxAnswer c 0) ∧
    (st ≠ 1 → exec .switchout s = .next (s.ctxAnswer c 2)) ∧ (st = 1 → exec .switchout s = .next ((s.switchOut c).ctxAnswer c 0)) ∧
    (st ≠ 3 → exec .switchin s = .next (s.ctxAnswer c 2)) ∧
    (∀ e, st = 3 → s.readContext c = .error e → exec .switchin s = .next (s.ctxAnswer c e)) ∧
    (∀ v, st = 3 → s.readContext c = .ok v → s.windowsFit c v = false → exec .switchin s = .next (s.ctxAnswer c 4)) ∧
    (∀ v, st = 3 → s.readContext c = .ok v → s.windowsFit c v = true → ∃ t, exec .switchin s = .next t ∧ (t.ctxAt c).state = 4 ∧
      (t.ctxAt c).nextSeq = (s.ctxAt c).nextSeq ∧ c ∈ t.ctxBusy ∧ t.ctxLast = c ∧ t.ctxErr = 0 ∧
      ∃ d ∈ t.agenda, s.cyc < d.at_ ∧ d.ev = .switchinRestoreComplete ∧ d.arg = c)) ∧
  (c < 65536 → (st = 0 ∨ st = 5) → exec .teardown s = .next (s.ctxAnswer c 2)) ∧
  (c < 65536 → st ≠ 0 → st ≠ 5 → ∃ t, exec .teardown s = .next t ∧ c ∈ t.ctxBusy ∧
    ∃ d ∈ t.agenda, d.at_ = s.cyc + 1 ∧ d.ev = .teardown ∧ d.arg = c + 2 ^ 17) ∧
  (∀ x, c = x + 2 ^ 17 → x < 65536 → exec .teardown s = .next (s.tearDown x)) ∧
  (st = 5 → s.ctxQuiet c = false → exec .teardownComplete s = .next (s.due (s.cyc + 1) 850 .teardownComplete c)) ∧
  (st = 5 → s.ctxQuiet c = true → ∃ t, exec .teardownComplete s = .next t ∧ t.ctxs.get? c = none ∧ c ∉ t.ctxBusy) ∧
  (∀ a n u b m v, st = 2 → (s.ctxAt c).imaging = true → s.attached (.image c) = false →
    s.inOrder (fun s x => s.writePart c x) (s.ctxAt c).imaged ((s.imageParts c).drop (s.ctxAt c).imaged) = (.ok a, n, u) →
    u.inOrder (fun s x => s.writeSums c x) 0 (u.ctxWindows c) = (.ok b, m, v) → ∃ t, exec .switchoutDrainComplete s = .next t ∧ (t.ctxAt c).state = 3 ∧ (t.ctxAt c).imaging = false ∧ c ∉ t.ctxBusy) ∧
  (∀ a n u b m v, st = 4 → s.attached (.image c) = false →
    s.inOrder (fun s x => s.readPart c x) 0 (s.imageParts c) = (.ok a, n, u) →
    u.inOrder (fun s x => s.readSums c x) 0 (u.ctxWindows c) = (.ok b, m, v) → ∃ t, exec .switchinRestoreComplete s = .next t ∧ (t.ctxAt c).state = 1 ∧ c ∉ t.ctxBusy)

/-- R250–R260, R429–R437: pages and handle entries: invalidations, quarantine, answers to page-fault records, the fault ring, and the
turns of a relayout. -/
def Obligations.PageAndHandleSteps : Prop := ∀ (s : State),
  (∀ ctx vpage, exec (.pginvPage ctx vpage) s = .next (s.invalidate fun c => c.ctx == ctx && c.mapsPage vpage)) ∧
  (exec .pginvContext s = .next (s.invalidate fun c => c.ctx == s.subject)) ∧ (exec .pginvAll s = .next (s.invalidate fun _ => true)) ∧
  (s.invalidating = false → ∃ t, exec .invalidationComplete s = .next t ∧ t.pages.invBusy = false ∧ t.mem = s.mem ∧ t.pages.cache = s.pages.cache) ∧
  (s.invalidating = true → exec .invalidationComplete s = .next (s.due (s.cyc + 1) 20 .invalidationComplete)) ∧
  (∀ id, exec (.pfrespRetry id) s = .next (s.answerRecord id none) ∧ exec (.pfrespRefusePageFault id) s = .next (s.answerRecord id (some 0x12)) ∧
    exec (.pfrespRefusePermission id) s = .next (s.answerRecord id (some 0x13))) ∧
  (∀ pier col w, ∃ t, exec (.pageWalk pier col w) s = .next t ∧
    t = (s.translate (if col < 256 then 4 + col else pier) w.ctx (w.vpage * 65536) w.kind (if w.kind = 3 then 4 else if col < 256 then 0 else 1) .walk).2) ∧
  (∀ page, s.pages.scrubbing = none → page < localPages →
    (s.quarState page = 0 → exec (.quarantine page) s = .next (s.quarantinePage page)) ∧
    (s.quarState page = 1 → ∃ t, exec (.scrub page) s = .next t ∧ t.pages.scrubbing = some page ∧
      ∃ d ∈ t.agenda, s.cyc < d.at_ ∧ d.ev = .scrubComplete) ∧
    (s.quarState page = 3 → exec (.release page) s = .next (s.setQuar page 0)) ∧
    (s.quarState page ≠ 0 → ∃ t, exec (.quarantine page) s = .next t ∧ t.pages.qerr = true ∧ t.mem = s.mem)) ∧
  (∀ p, s.pages.scrubbing = some p → ∃ t, exec .scrubComplete s = .next t ∧ t.pages.scrubbing = none) ∧
  (∀ r t, s.pages.open_.filter (fun r => !r.written) = r :: t → (∀ x ∈ t, r.seqno ≤ x.seqno) →
    let n := 2 ^ (bitsAt (s.devr 0x160) 3 0 + 6)
    let used := (bitsAt (s.devr 0x161) 31 0 + 2 ^ 32 - bitsAt (s.devr 0x161) 63 32) % 2 ^ 32
    let there := s.reachable (bitsAt (s.devr 0x160) 51 12 * 4096)
    ((n ≤ used ∨ there = false) → exec .faultRecordWrite s = .next (s.due (s.cyc + 1) 10 .faultRecordWrite)) ∧
    (used < n → there = true → ∃ u, exec .faultRecordWrite s = .next u ∧ bitsAt (u.devr 0x161) 31 0 = (bitsAt (s.devr 0x161) 31 0 + 1) % 2 ^ 32 ∧
      bitsAt (u.devr 0x161) 63 32 = bitsAt (s.devr 0x161) 63 32 ∧ ∀ x ∈ u.pages.open_, x.id = r.id → x.written = true)) ∧
  (∀ ctx entry j, s.jobOf ctx entry = some j →
    let d := s.entry ctx entry
    let id := ctx * 4096 + entry
    let busy := s.jobs.any fun o => o.pier == j.pier && o.moving
    ((s.ctxAt ctx).state = 1 → d.state = 2 → j.moving = false → d.done < d.tiles → busy = true → exec (.relayoutTileMoving ctx entry) s = .next s) ∧
    ((s.ctxAt ctx).state = 1 → d.state = 2 → j.moving = false → d.done < d.tiles → busy = false → jobServed s j d = false →
      exec (.relayoutTileMoving ctx entry) s = .next (s.due (s.cyc + 1) 580 (.relayoutTileMoving ctx entry))) ∧
    (∀ l u, (s.ctxAt ctx).state = 1 → d.state = 2 → j.moving = false → j.began = true → d.done < d.tiles → busy = false → jobServed s j d = true →
      holdPages s j ((farPages (d.oldBytes d.done)).map (fun v => (v, 0)) ++ (farPages (d.newSpan d.done)).map fun v => (v, 1)) [] = (.ok 0, l, u) →
      ∃ t, exec (.relayoutTileMoving ctx entry) s = .next t ∧ ∃ b ∈ t.agenda, u.cyc < b.at_ ∧ b.at_ ≤ u.cyc + 3500 ∧ b.ev = .relayoutTileNew ctx entry) ∧
    (j.moving = true → (s.stores.any (fun e => e.uses.contains (id, d.done + 1)) = true ∨ jobServed s j d = false) →
      exec (.relayoutTileNew ctx entry) s = .next (s.due (s.cyc + 1) 580 (.relayoutTileNew ctx entry))) ∧
    (j.moving = true → s.stores.any (fun e => e.uses.contains (id, d.done + 1)) = false → jobServed s j d = true →
      (j.wrote = false → exec (.relayoutTileNew ctx entry) s = .next (((s.asyncWrite 3 j.pier (relayUnit j.pier) j.gid
          ((tileWrites s j d d.done).map fun (x : Nat × Nat × Bool) => (x.1, x.2.1, x.2.2))
          ((tileScales s j d d.done).map fun (x : Nat × List Nat) => (x.1, x.2, false))).setJob { j with wrote := true }).due
        (s.cyc + 1) 580 (.relayoutTileNew ctx entry))) ∧
      (j.wrote = true → s.unitReached (relayUnit j.pier) 2 = false →
        exec (.relayoutTileNew ctx entry) s = .next (s.due (s.cyc + 1) 580 (.relayoutTileNew ctx entry))) ∧
      (j.wrote = true → s.unitReached (relayUnit j.pier) 2 = true → ∃ t, exec (.relayoutTileNew ctx entry) s = .next t ∧
        (∀ y, t.jobOf ctx entry = some y → y.moving = false) ∧
        (d.done + 1 = d.tiles → ∃ b ∈ t.agenda, b.at_ = s.cyc ∧ b.ev = .relayoutComplete ctx entry))) ∧
    (d.state = 2 → d.tiles ≤ d.done → s.usesOf id (· != 0) = false → j.barrier = none → ∃ t, exec (.relayoutComplete ctx entry) s = .next t ∧
      t.jobs = s.jobs.filter fun (x : Job) => !(x.ctx == ctx && x.entry == entry)) ∧
    exec (.relayoutTileRetry ctx entry) s = .next ((s.setJob { j with stuck := false }).relayTurn j.pier)) ∧
  (∀ ctx entry, (s.entry ctx entry).state = 4 →
    (s.usesOf (ctx * 4096 + entry) (fun _ => true) = false → exec (.handleEntryFree ctx entry) s = .next (s.setEntry ctx entry (List.replicate 8 0))) ∧
    (s.usesOf (ctx * 4096 + entry) (fun _ => true) = true → exec (.handleEntryFree ctx entry) s =
      .next (s.due (s.cyc + 1) 605 (.handleEntryFree ctx entry))))

/-! ### Host, link, ports, collectives, eviction, health, platform -/

/-- R441–R446: the host's reads, writes and messages, and the states of the link. -/
def Obligations.HostAndLinkSteps : Prop := ∀ (s : State),
  (∀ offset size data, s.link.state = 0 → exec (.hostRead offset size) s = .next s ∧ exec (.hostWrite offset data) s = .next s) ∧
  (∀ offset size data, s.link.state = 1 →
    (∃ t, exec (.hostRead offset size) s = .next t ∧ t.link.held = s.link.held ++ [.hostRead offset size] ∧ t.mem = s.mem ∧ t.answers = s.answers) ∧
    ∃ t, exec (.hostWrite offset data) s = .next t ∧ t.link.held = s.link.held ++ [.hostWrite offset data] ∧ t.mem = s.mem) ∧
  (∀ offset size, 2 ≤ s.link.state → s.hostRefused offset = false → s.hostQuarantined offset = false → offset + size ≤ hbmBytes →
    ∃ t, exec (.hostRead offset size) s = .next t ∧ t.mem = s.mem ∧
      t.answers = s.answers ++ [⟨(List.range size).map fun i => (Memory.read s.mem (s.pkg * 2 ^ 42 + offset + i)).toNat, false⟩]) ∧
  (∀ offset size, 2 ≤ s.link.state → (s.hostRefused offset = true ∨ s.hostQuarantined offset = true) →
    ∃ t, exec (.hostRead offset size) s = .next t ∧ t.answers = s.answers ++ [⟨[], true⟩]) ∧
  (∀ offset data, s.MemOk → 2 ≤ s.link.state → s.hostRefused offset = false → s.hostQuarantined offset = false → offset + data.length ≤ hbmBytes →
    ∃ t, exec (.hostWrite offset data) s = .next t ∧
      (∀ i < data.length, (Memory.read t.mem (s.pkg * 2 ^ 42 + offset + i)).toNat = data.getD i 0 % 256) ∧
      ∀ k, (k < s.pkg * 2 ^ 42 + offset ∨ s.pkg * 2 ^ 42 + offset + data.length ≤ k) → Memory.read t.mem k = Memory.read s.mem k) ∧
  (∀ value g, let w2 := s.subject / 2 ^ 64
    w2 < 2 ^ 30 → (s.groups.filter fun g => g.2.ctx == w2 % 2 ^ 16 && g.2.node == w2 / 2 ^ 16 % 2 ^ 12 &&
      g.2.num == s.subject % 2 ^ 48 && (g.2.audit.bind Audit.replayOf).isNone && g.2.state != .retired && g.2.state != .purged) = [g] →
    exec (.hostMessage value) s = .next (s.due s.cyc 620 (.messageLand g.1 (w2 / 2 ^ 28 % 4) value (2 ^ 64)) (s.cyc * 1024 + 256))) ∧
  (s.link.state = 0 → exec .lnkctlTrain s = .next s.linkTrain ∧
    (s.tripped = false → s.stuckAt = 0 → exec .hostTrainingRequest s = .next s.linkTrain)) ∧
  (s.link.state ≠ 0 → exec .lnkctlTrain s = .next s) ∧ (exec .lnkctlDrain s = .next s.linkDrain) ∧
  (∃ t, exec .lnkctlDown s = .next t ∧ t.link.state = 0 ∧ t.link.width = 3 ∧ t.mem = s.mem) ∧
  (∀ lanes, s.link.state = 1 →
    (32 ≤ lanes → ∃ t, exec (.linkTrained lanes) s = .next t ∧ t.link.state = 2 ∧ t.link.width = 0 ∧ t.link.held = [] ∧
      ∀ i ∈ s.link.held, ∃ d ∈ t.agenda, d.at_ = s.cyc ∧ d.ev = i) ∧
    (16 ≤ lanes → lanes < 32 → ∃ t, exec (.linkTrained lanes) s = .next t ∧ t.link.state = 3 ∧ t.link.width = 1) ∧
    (8 ≤ lanes → lanes < 16 → ∃ t, exec (.linkTrained lanes) s = .next t ∧ t.link.state = 3 ∧ t.link.width = 2) ∧
    (lanes < 8 → s.link.since + s.linkLimit ≤ s.cyc → ∃ t, exec (.linkTrained lanes) s = .next t ∧ t.link.state = 0 ∧
      t.hevents = s.hevents ++ [{ code := 0x27, info := 0xF }])) ∧
  ((s.link.state = 2 ∨ s.link.state = 3) → exec .linkLaneFailure s = .next s.linkTrain) ∧
  (s.link.state = 4 → s.linkQuiet = true → ∃ t, exec .linkDrained s = .next t ∧ t.link.state = 5) ∧
  (s.link.state = 4 → s.linkQuiet = false → exec .linkDrained s = .next (s.due (s.cyc + 1) 20 .linkDrained))

/-- R449–R455, R426: the fabric ports, their flits, routes, and the package number. -/
def Obligations.FabricSteps : Prop := ∀ (s : State) (port : Nat), let v := s.portAt port
  ((s.portAt s.selPort).state = 0 → exec .portctlTrain s = .next (s.portTrain s.selPort)) ∧
  (s.portUp s.selPort = true → ∃ t, exec .portctlDrain s = .next t ∧ (t.portAt s.selPort).state = 4) ∧
  (exec .portctlDown s = .next (s.portFall s.selPort)) ∧ (exec (.lightLoss port) s = .next (s.portFall port)) ∧
  (∀ n, v.state = 1 →
    (384 ≤ n → ∃ t, exec (.portTrained port n) s = .next t ∧ (t.portAt port).state = 2 ∧ (t.portAt port).lambda = 384) ∧
    (96 ≤ n → n < 384 → ∃ t, exec (.portTrained port n) s = .next t ∧ (t.portAt port).state = 3 ∧ (t.portAt port).lambda = n) ∧
    (n < 96 → v.since + s.linkLimit ≤ s.cyc →
      exec (.portTrained port n) s = .next ((s.portFall port).health { code := 0x27, info := BitVec.ofNat 64 port }))) ∧
  (s.portUp port = true → 97 ≤ v.lambda → ∃ t, exec (.wavelengthLoss port) s = .next t ∧ (t.portAt port).state = 3 ∧
    (t.portAt port).lambda = v.lambda - 1) ∧
  (s.portUp port = true → v.lambda ≤ 96 → exec (.wavelengthLoss port) s = .next (s.portFall port)) ∧
  (s.portEmpty port = true → ∃ t, exec (.portDrained port) s = .next t ∧ (t.portAt port).state = 5) ∧
  (exec .latchOpen s = .next (s.portsFrom 5 6)) ∧ (exec .latchClose s = .next (s.portsFrom 6 0)) ∧
  (∀ f : Flit, (s.portUp port = true ∨ v.state = 4) →
    (flitGood f = false → ∃ t, exec (.flitReceive port f) s = .next t ∧ (t.portAt port).naks = v.naks ++ [f.seqno] ∧ (t.portAt port).rxSeq = v.rxSeq) ∧
    (flitGood f = true → f.kind ≠ 5 → f.seqno ≠ v.rxSeq → exec (.flitReceive port f) s = .next s) ∧
    (flitGood f = true → f.kind < 5 → f.seqno = v.rxSeq → f.dst ≠ s.pkg → ∃ t, exec (.flitReceive port f) s = .next t ∧
      (t.portAt port).rxSeq = (v.rxSeq + 1) % 1024 ∧ t.flits = s.flits ++ [f])) ∧
  (∀ n, (s.portUp port = true ∨ v.state = 4) → v.replay.any (fun f => f.seqno == n) = true → (v.failSeq ≠ some n ∨ v.fails < 15) →
    ∃ t, exec (.flitNak port n) s = .next t ∧ (t.portAt port).failSeq = some n ∧ (t.portAt port).retry = min 0xFFFFFFFF (v.retry + 1)) ∧
  (∀ n, (s.portUp port = true ∨ v.state = 4) → v.replay.any (fun f => f.seqno == n) = true → v.failSeq = some n → 15 ≤ v.fails →
    exec (.flitNak port n) s = .next ((s.setPort port { v with failSeq := none, fails := 0 }).portTrain port)) ∧
  (∀ x, ∃ t, exec (.routeWrite x) s = .next t ∧ t.routes.get? (s.subject % 512) = some (x % 512)) ∧
  (∀ x, ∃ t, exec (.pkgidWrite x) s = .next t ∧ (t.devr 0x170).toNat = x % 512 ∧ (x % 512 = s.pkg → t.mem = s.mem))

/-- R457–R467: collectives and evictions: what a contribution answers when it cannot be taken, the completion of an instance, and the
phases of an eviction. -/
def Obligations.CollectiveAndEvictionSteps : Prop := ∀ (s : State),
  (∀ col slot desc, let ctx := s.ctxOf ⟨col, slot, .a⟩
    (s.collTower ctx desc = none → exec (.collgo col slot desc) s = .next s) ∧
    (∀ key key' n, s.collTower ctx desc = some key → s.collTower ctx (desc + 63) = some key' →
      let u := s.checkRead key 64
      (List.range 8).find? (fun n => u.poisoned (key + 8 * n)) = some n → exec (.collgo col slot desc) s = .next (u.collPoison ctx (desc + 8 * n)))) ∧
  (∀ col slot desc key key', let k : Stream := ⟨col, slot, .a⟩
    let ctx := s.ctxOf k
    let x0 : Contribution := { comm := 0, inst := 0, rank := 0, ctx := ctx, at_ := k, gid := (s.groupOf k.sk).map fun g => g.1, desc := desc, reading := true,
                               first := s.nextId }
    let u := s.checkRead key 64
    s.collTower ctx desc = some key → s.collTower ctx (desc + 63) = some key' → (∀ n < 8, u.poisoned (key + 8 * n) = false) →
    (u.readColl x0 key = none → exec (.collgo col slot desc) s = .next (u.writeErr ctx desc 1)) ∧
    ∀ x, u.readColl x0 key = some x →
      (∀ r, u.commReach x.comm = (.refused, r) → exec (.collgo col slot desc) s = .next (r.writeErr ctx desc 3)) ∧
      (∀ a r, u.commReach x.comm = (.ok a, r) →
        (∀ p, r.commPoison x.comm = some p → exec (.collgo col slot desc) s = .next (r.collPoison ctx (2 ^ 63 + p))) ∧
        (r.commPoison x.comm = none → r.readComm ctx x.comm = none → exec (.collgo col slot desc) s = .next (r.writeErr ctx desc 1)) ∧
        (∀ local_ list, r.commPoison x.comm = none → r.readComm ctx x.comm = some (local_, list) →
          let y : Contribution := { x with num := local_, list := list, inst := r.nextInst x.comm x.rank }
          let z := (r.readElems y).1
          let v := (r.readElems y).2
          let fits := ((EA.parse z.dst).map fun e => v.collFits ctx e (z.count * collWidth z.fmt))
          ((local_ ≤ x.rank ∨ r.collDiffers y = true) → exec (.collgo col slot desc) s = .next (r.writeErr ctx desc 1)) ∧
          (x.rank < local_ → r.collDiffers y = false → fits = some true →
            exec (.collgo col slot desc) s = .next ((v.joinColl z).dropDiffering (v.colls.length + 1)).spreadErr) ∧
          (x.rank < local_ → r.collDiffers y = false → fits ≠ some true →
            exec (.collgo col slot desc) s = .next ((v.joinColl { z with err := (if z.err = 0 then 2 else z.err), reading := false }).dropDiffering
              (v.colls.length + 1)).spreadErr)))) ∧
  (∀ comm inst, s.subject = 1 → exec (.collectiveComplete comm inst) s = .next (s.failColl comm inst)) ∧
  (∀ comm inst, s.subject ≠ 1 → s.instReady comm inst = false → exec (.collectiveComplete comm inst) s = .next s) ∧
  (∀ comm inst, let l := s.instColls comm inst
    s.subject ≠ 1 → s.instReady comm inst = true → l ≠ [] → s.collHeld (((l.head?).map fun x => x.ctx).getD 0) = false →
    ∀ keys u, s.collTargets l [] = (.ok keys, u) → ∃ t, exec (.collectiveComplete comm inst) s = .next t ∧
      ∀ x ∈ l, ∀ y ∈ t.colls, y.comm = x.comm → y.inst = x.inst → y.rank = x.rank → y.ended = true) ∧
  (∀ value, ∃ t, exec (.evctlArm value) s = .next t ∧ t.devr 0x17B = BitVec.ofNat 64 (value / 2 ^ 16 % 512 * 2 ^ 16 + value % 2)) ∧
  (s.evict.phase = 2 → ∃ t, exec .evctlFwdone s = .next t ∧ t.evict.fwDone = true) ∧
  (s.evict.phase = 1 → exec .evictReserveAccept s = .next { s with evict := { s.evict with phase := 2 } }.evictOut) ∧
  (s.quiesced = true → ∃ t, exec .quiesceComplete s = .next t ∧ t.evict.phase = 3) ∧
  (s.evict.phase = 3 → exec .streamingComplete s =
    .next ((({ s.streamOut with evict := { s.streamOut.evict with phase := 4 } }.portsFrom 2 4).portsFrom 3 4).linkDrain)) ∧
  (s.routesDrained = true → exec .routeDrainComplete s =
    .next ({ s with evict := { s.evict with phase := 5, safe := true } }.endPacket s.evict.queue 0)) ∧
  (s.evict.phase ≠ 0 → s.evict.phase < 5 → s.subject < 2 →
    let u := { s with evict := { s.evict with phase := 6 } }.endPacket s.evict.queue 12
    let v := (List.range 12).foldl (fun (s : State) p => if (s.portAt p).state = 4 ∨ (s.portAt p).state = 5 then s.portTrain p else s) u
    exec .evictionFail s = .next (if v.link.state = 4 ∨ v.link.state = 5 then v.linkTrain else v).evictBack) ∧
  ((s.evict.phase = 0 ∨ 5 ≤ s.evict.phase) → exec .evictionFail s = .next s)

/-- R475–R485: audits, retirement and sparing: what follows an audit's comparison, a retired column, a remap, and a low margin. -/
def Obligations.HealthSteps : Prop := ∀ (s : State),
  (∀ g, exec (.auditNoColumn g) s = .next (s.abandonAudit g 4 0)) ∧
  (∀ g v a, s.groups.get? g = some v → v.audit = some a → s.replayColumn v = none →
    (s.cyc < a.since + 2 ^ 20 → exec (.auditReplayPlace g) s = .next (s.due (s.cyc + 1) 20 (.auditReplayPlace g))) ∧
    (a.since + 2 ^ 20 ≤ s.cyc → exec (.auditReplayPlace g) s = .next (s.due s.cyc 20 (.auditNoColumn g)))) ∧
  (∀ g v a c n w, s.groups.get? g = some v → v.audit = some a → s.replayColumn v = some (c, n, w) → s.colOpen c (bitsAt (s.devr 0x186) 15 0) = false →
    exec (.auditReplayPlace g) s = .next (s.due (s.cyc + 1) 20 (.auditReplayPlace g))) ∧
  (∀ g v a c n w, s.groups.get? g = some v → v.audit = some a → s.replayColumn v = some (c, n, w) → s.colOpen c (bitsAt (s.devr 0x186) 15 0) = true → ∃ t, exec (.auditReplayPlace g) s = .next t ∧
    ∃ d ∈ t.agenda, s.cyc < d.at_ ∧ d.ev = .codeStoreCopyComplete s.nextId) ∧
  (∀ g r b o v a, s.groups.get? g = some r → r.audit = some b → b.replayOf = some o → o ≠ g → s.groups.get? o = some v → v.audit = some a →
    (a.sig = b.sig → ∃ t, exec (.auditCompare g) s = .next t ∧ t.hevents = s.hevents ∧ t.auditor.pending = s.auditor.pending - 1 ∧
      t.auditor.mismatch = s.auditor.mismatch) ∧
    (a.sig ≠ b.sig → ∃ t, exec (.auditCompare g) s = .next t ∧ t.auditor.mismatch = min 0xFFFF (s.auditor.mismatch + 1) ∧
      { code := 0x18, ctx := v.ctx, tag := v.reqtag, loc := a.site, info := BitVec.ofNat 64 r.col } ∈ t.hevents)) ∧
  (∀ col, (s.colAt col).state = 3 → ∃ t, exec (.columnRetired col) s = .next t ∧ (t.colAt col).state = 4) ∧
  (∀ value, let col := value / 2 ^ 12 % 256
    let sp := value / 2 ^ 20 % 4
    ((s.colAt col).state = 4 → (s.freeSpares (col / 64)).contains (64 + sp) = true → s.remapping = none →
      ∃ t, exec (.remapGo value) s = .next t ∧ t.remapping = some (col, sp) ∧ (t.colAt col).state = 5 ∧ t.remapErr = false ∧
        ∃ d ∈ t.agenda, s.cyc < d.at_ ∧ d.ev = .remapComplete) ∧
    ((s.colAt col).state ≠ 4 → exec (.remapGo value) s = .next { s with remapErr := true })) ∧
  (∀ col sp, s.remapping = some (col, sp) → ∃ t, exec .remapComplete s = .next t ∧ t.remapping = none ∧ t.sites.get? col = some (64 + sp) ∧
    (t.colAt col).state = 0 ∧ (t.colAt col).ctlr 0x121 = (s.colAt col).ctlr 0x121) ∧
  (∀ site course margin, let key := site / 128 * 512 + site % 128 * 4 + course % 4
    let thr := bitsAt (s.devr 0x188) 47 32
    ∃ t, exec (.ageingMarginLow site course margin) s = .next t ∧ (t.ages.get? key).map Prod.fst = some (min margin 0xFFFF) ∧
      (margin < thr → thr ≤ (s.ages.getD key (0xFFFF, 0xFFFF)).1 → ∃ e, t.hevents = s.hevents ++ [e] ∧ e.code = 0x0C) ∧
      (thr ≤ margin → thr ≤ 0xFFFF → t.hevents = s.hevents))

/-- R487–R491: the operating point, the thermal rules and the power states of a quad. -/
def Obligations.PowerSteps : Prop := ∀ (s : State) (quad : Nat), let q := s.quadAt quad
  (∀ n, (s.pointHeld (n % 16) = false → ∃ t, exec (.opPointChange n) s = .next t ∧ t.opPoint = n % 16) ∧
    (s.pointHeld (n % 16) = true → exec (.opPointChange n) s = .next (s.due (s.cyc + 1) 20 (.opPointChange n)))) ∧
  (∀ site course celsius col, s.siteCol site = some col → bitsAt (s.devr 0x195) 39 32 ≤ celsius → celsius < bitsAt (s.devr 0x195) 47 40 →
    bitsAt ((s.colAt col).ctlr 0x110) (4 + course % 4) (4 + course % 4) = 0 → ∃ t, exec (.thermalThrottle site course celsius) s = .next t ∧
      bitsAt ((t.colAt col).ctlr 0x110) (4 + course % 4) (4 + course % 4) = 1 ∧ ∃ e, t.hevents = s.hevents ++ [e] ∧ e.code = 0x0B) ∧
  ((s.subject = 0 ∨ s.subject = s.capTick) →
    (s.capMode = 1 → ∃ t, exec .capStep s = .next t ∧ t.opCap = s.opCap - 1) ∧ (s.capMode = 2 → ∃ t, exec .capStep s = .next t ∧ t.opCap = s.opCap + 1)) ∧
  (∀ site course celsius, (s.subject = 1 → exec (.thermalTrip site course celsius) s = .next s.afterTrip) ∧
    (s.subject ≠ 1 → bitsAt (s.devr 0x195) 47 40 ≤ celsius → ∃ t, exec (.thermalTrip site course celsius) s = .next t ∧ t.link.state = 0 ∧
      ∃ d ∈ t.agenda, s.cyc < d.at_ ∧ d.at_ ≤ s.cyc + 1750 ∧ d.ev = .thermalTrip site course celsius ∧ d.arg = 1) ∧
    (bitsAt (s.devr 0x195) 47 40 ≤ celsius → ∃ t, exec (.thermalThrottle site course celsius) s = .next t ∧ t.link.state = 0 ∧
      ∃ d ∈ t.agenda, s.cyc < d.at_ ∧ d.at_ ≤ s.cyc + 1750 ∧ d.ev = .thermalTrip site course celsius ∧ d.arg = 1)) ∧
  (q.state = 0 → exec (.block quad) s = .next ((s.groups.filter fun r => (quadCols quad).contains r.2.col && r.2.state.resident).foldl
    (fun (s : State) r => s.preemptGroup r.1 false) (s.quadState quad 1))) ∧
  (q.state ≠ 0 → exec (.block quad) s = .next (s.quadRefused quad)) ∧
  (q.state = 1 → exec (.unblock quad) s = .next (s.quadState quad 0)) ∧ (q.state ≠ 1 → exec (.unblock quad) s = .next (s.quadRefused quad)) ∧
  (q.state = 1 → s.quadOcc quad = 0 → exec (.quiesce quad) s = .next (s.quadState quad 2)) ∧
  ((q.state ≠ 1 ∨ s.quadOcc quad ≠ 0) → exec (.quiesce quad) s = .next (s.quadRefused quad)) ∧
  (s.quadIdle quad = true → ∃ t, exec (.quadDrainComplete quad) s = .next t ∧ (t.quadAt quad).state = 3 ∧ (t.quadAt quad).err = q.err ∧
    (∃ d ∈ t.agenda, d.at_ = s.cyc + 17 ∧ d.ev = .logicClockStop quad) ∧
    ∃ d ∈ t.agenda, s.cyc + 17 ≤ d.at_ ∧ d.at_ ≤ s.cyc + 17501 ∧ d.ev = .quadRailOff quad) ∧
  (s.quadDue quad 3 = true → (∃ t, exec (.logicClockStop quad) s = .next t ∧ (t.quadAt quad).clk = false ∧ (t.quadAt quad).state = q.state) ∧
    ∃ t, exec (.quadRailOff quad) s = .next t ∧ (t.quadAt quad).state = 4 ∧ (t.quadAt quad).rail = false) ∧
  (2 ≤ q.state → q.state ≤ 4 → ∃ t, exec (.qwake quad) s = .next t ∧ (t.quadAt quad).state = 5 ∧
    ∃ d ∈ t.agenda, s.cyc < d.at_ ∧ d.at_ ≤ s.cyc + 35000 ∧ d.ev = .quadWakeComplete quad) ∧
  ((q.state < 2 ∨ 4 < q.state) → exec (.qwake quad) s = .next (s.quadRefused quad)) ∧
  (s.quadDue quad 5 = true → (∃ t, exec (.logicRailUp quad) s = .next t ∧ (t.quadAt quad).rail = true) ∧
    (q.rail = true → ∃ t, exec (.logicClockStart quad) s = .next t ∧ (t.quadAt quad).clk = true) ∧
    ∃ t, exec (.quadWakeComplete quad) s = .next t ∧ (t.quadAt quad).state = 1)

/-- R50, R96, R209, R321, R454, R486, R495–R497: writes with an effect of their own, attestation, the identity store, and bring-up. -/
def Obligations.DeviceSteps : Prop := ∀ (s : State),
  (∀ col slot value, ∃ t, exec (.rngseedWrite col slot value) s = .next t ∧
    (t.slotAt (slotKey col slot)).ctlr 0x002 = BitVec.ofNat 64 (value % 2 ^ 32) ∧
    (t.slotAt (slotKey col slot)).genList = (List.range 256).map (seedLane (value % 2 ^ 32))) ∧
  (∀ col slot value, let v : Word := BitVec.ofNat 64 (value % 2 ^ 32)
    (s.queuesBusy (slotKey col slot) = false → State.qmapBad v = false → ∃ t, exec (.qmapWrite col slot value) s = .next t ∧
      (t.slotAt (slotKey col slot)).ctlr 0x012 = v) ∧
    ((s.queuesBusy (slotKey col slot) = true ∨ State.qmapBad v = true) → exec (.qmapWrite col slot value) s = .next s)) ∧
  (∀ col win value, ∃ t, exec (.twinWrite col win value) s = .next t ∧ (t.colAt col).ctlr (0x121 + win % 4) = BitVec.ofNat 64 value ∧ t.mem = s.mem) ∧
  (∀ addr, s.attesting = none → s.subject ≠ 1 →
    (∃ t, exec (.attestReport addr) s = .next t ∧ t.attesting = some addr ∧ ∃ d ∈ t.agenda, s.cyc < d.at_ ∧ d.ev = .attestReport addr ∧ d.arg = 1) ∧
    ∃ t, exec (.attestRemap addr) s = .next t ∧ t.attesting = some addr ∧ ∃ d ∈ t.agenda, s.cyc < d.at_ ∧ d.ev = .attestRemap addr ∧ d.arg = 1) ∧
  (∀ addr, s.subject = 1 → (∃ t, exec (.attestReport addr) s = .next t ∧ t.attesting = none) ∧
    ∃ t, exec (.attestRemap addr) s = .next t ∧ t.attesting = none) ∧
  (∀ offset count, ∃ t, exec (.identityStoreRead offset count) s = .next t ∧
    t.answers = s.answers ++ [⟨(List.range count).map fun i => s.idByte ((offset + i) % 65536), false⟩]) ∧
  (∀ offset b, 0x88 ≤ offset → offset < 65536 → ∃ t, exec (.identityStoreWrite offset [b]) s = .next t ∧ t.identity.get? offset = some (b % 256)) ∧
  (∀ offset b, offset < 0x88 → exec (.identityStoreWrite offset [b]) s = .next s) ∧
  (∀ image, (s.subject = 0 → s.bringUpStop image = 0 → exec (.bringUp image) s = .next (s.broughtUp image)) ∧
    (s.subject = 0 → s.bringUpStop image ≠ 0 → ∃ t, exec (.bringUp image) s = .next t ∧ t.stuckAt = s.bringUpStop image ∧
      ∀ q < 64, (t.quadAt q).state = 4 ∧ (t.quadAt q).rail = false) ∧
    (∀ n, 1 ≤ n → n ≤ 6 → s.subject = n → (s.bringUpStop image = 0 ∨ n < s.bringUpStop image) → ∃ t, exec (.bringUp image) s = .next t ∧ t.stuckAt = n))

/-! ### The machine as a whole: steps, the encoding, memory, what reset leaves, the frame of an issue, selectors, faults -/

/-- Every word and every event answers a next state in every state; a step answers a next state, or the one fault of this model, a far address
with no byte behind it (R426), and never refuses. -/
def Obligations.EveryStepAnswers : Prop :=
  (∀ (i : Instr) (s : State), ∃ t, exec i s = .next t) ∧
  (∀ s : State, (∃ t, step s = .next t ∧ t.hole = none) ∨ ∃ a, step s = .fault (.farHole a)) ∧
  (∀ (k : Stream) (s : State), ∃ t, issueWord s k = .next t)

/-- R59, R73, R79: a step that comes to a picked stream runs the instruction that its twelve code bytes decode to; a step due in the cycle is run first; with
nothing due, picked or watched for, the cycle ends. The step is the stop of R426 if it left a far address with no byte. -/
def Obligations.StepRunsTheDecodedWord : Prop := ∀ (s : State),
  (∀ k rest i, dueNow s false = none → s.chosen = true → s.picked = k :: rest → s.canIssue k = true →
    (s.engAt k.ek).codeMiss = none → (s.engAt k.ek).badSel = false →
    decode ((Memory.readBytes s.mem (codeKey k.sk ((s.engAt k.ek).wordOff (s.engAt k.ek).idx)) 12).map BitVec.toNat) = .ok (i, []) →
    illegalHere (s.engAt k.ek) i = false → (∃ w, i.form = some w ∧ k.eng ∈ w.engines) →
    step s = holeFault (exec i { s with picked := rest, cur := k })) ∧
  (∀ d, dueNow s false = some d → step s = holeFault (exec d.ev { dropDue s d with subject := d.arg })) ∧
  (∀ d, dueNow s false = none → s.chosen = true → s.picked = [] → dueNow s true = some d →
    step s = holeFault (exec d.ev { dropDue s d with subject := d.arg })) ∧
  (∀ i, dueNow s false = none → s.chosen = true → s.picked = [] → dueNow s true = none → watch s = some i →
    step s = holeFault (exec i { s with subject := 0 })) ∧
  (dueNow s false = none → s.chosen = true → s.picked = [] → dueNow s true = none → watch s = none →
    step s = holeFault (.next (endCycle s)))

/-- Words that the spec writes out decode to the instructions it gives them for, and some patterns that are none are refused by name. -/
def Obligations.DecodedWords : Prop :=
  let q : Sys2Proof.Seq := ⟨.next, false, false, false, false, 0, 0, 0⟩
  decodeWord 0x00001D140000000000000003 = .ok (.movi q ⟨5, 0, 0, 0, 0, 3⟩) ∧
  decodeWord 0x010002186000000000000040 = .ok (.addi { q with pushn := true } ⟨6, 6, 0, 0, 0, 64⟩) ∧
  decodeWord 0x10002C240000000000000000 = .ok (.lcrd { q with sel := .endloop } ⟨9, 0, 0, 0, 0, 0⟩) ∧
  decodeWord 0x50001B002100000000000000 = .ok (.cmpi { q with sel := .jc } ⟨0, 2, 1, 0, 0, 0⟩) ∧
  decodeWord 0x0000A2102010000000000000 = .ok (.vld q ⟨4, 2, 0, 1, 0, 0, 0, 0, 0, 0, 0⟩) ∧
  decodeWord 0x000081001080140000190000 = .ok (.mma q ⟨0, 1, 2, 40, 0, 0, 0, 0, 100, 0, 0⟩) ∧
  decodeWord 0x0000D0105180005000000000 = .ok (.copy q ⟨4, 5, 6, 0, 0, 0, 0, 1, 2, 0, 0, 0, 0⟩) ∧
  decodeWord 0x0000C32852CC000000000000 = .ok (.relay q ⟨10, 5, 11, 12, 0, 0, 0, 0, 0, 0⟩) ∧
  decodeWord 0x0000E0242000880000800400 = .ok (.atom q ⟨9, 2, 0, 0, 0, 0, 2, 8, 512, 2, 0⟩) ∧
  decodeWord 0x2000F2000000000008000000 = .ok (.yield { q with sel := .safe } ⟨0, 0, 0, 0, 1, 0⟩) ∧
  decodeWord 0x0000E3000000000058000000 = .ok (.fence q ⟨0, 0, 0, 0, 11, 0⟩) ∧
  decodeWord 1 = .error (.reserved 0) ∧ decodeWord (0xFF * 2 ^ 72) = .error .illegal ∧ decodeWord (12 * 2 ^ 92) = .error .illegal

/-- R59–R72, R81, R82: the bits of a well-formed instruction decode to it and to nothing else, and a pattern that the decoder reads as an
instruction is the encoding of that instruction, bit for bit. -/
def Obligations.DecodeAndEncodeAgree : Prop :=
  (∀ (i : Instr) (w : Nat) (rest : List Nat), i.wf = true → encodeWord i = some w →
    w < 2 ^ 96 ∧ decodeWord w = .ok i ∧ decode (wordBytes w ++ rest) = .ok (i, rest)) ∧
  (∀ (w : Nat) (i : Instr), w < 2 ^ 96 → decodeWord w = .ok i → encodeWord i = some w ∧ i.wf = true)

/-- The memory keeps its canonical form in every step: no cell is zero and keys rise. -/
def Obligations.MemoryStaysCanonical : Prop := ∀ s t : State, s.MemOk → step s = .next t → t.MemOk

/-- What reset leaves: the values that the spec's tables state (R44, R45, R91, R96, R98, R101, R110, R111, R366, R401); the registers that the
spec states no value for read zero (log 2), and memory lists nothing (log 1). -/
def Obligations.ResetState : Prop :=
  let s := State.reset
  s.MemOk ∧ s.mem = [] ∧ s.cyc = 0 ∧ s.groups = [] ∧ s.launches = [] ∧ s.flights = [] ∧ s.agenda = [] ∧
  (∀ k, (s.slotAt k).ctlr 0x000 = 0 ∧ (s.slotAt k).ctlr 0x001 = 0 ∧ (s.slotAt k).ctlr 0x010 = 0x888888 ∧
    (s.slotAt k).ctlr 0x012 = 0x99441294 ∧ (s.slotAt k).ctlr 0x133 = 0x6AD ∧ (s.slotAt k).gid = none) ∧
  (∀ c, (s.colAt c).ctlr 0x080 = 64 ∧ (s.colAt c).ctlr 0x081 = 16 ∧ (s.colAt c).lease = none ∧ (s.colAt c).state = 0) ∧
  s.devr 0x140 = 0x155CC ∧ s.devr 0x141 = 0x2AB98 ∧ s.devr 0x142 = 0x6AD ∧
  (∀ k n, ((s.engAt k).sreg n).val = 0 ∧ (s.engAt k).sec = .empty) ∧ (∀ k n, (s.slotAt k).kreg n = if n = 0 then BitVec.allOnes 256 else 0) ∧
  (∀ a, Memory.read s.mem a = 0)

/-- R3: memory reads what was last written at an address and is otherwise unchanged, equal contents are equal data, and numbers lie in it
with the least significant byte first. -/
def Obligations.MemoryReadsWhatWasWritten : Prop :=
  (∀ (m : Memory) (k j : Nat) (b : Byte), Memory.wf m = true →
    Memory.wf (Memory.write m k b) = true ∧ Memory.read (Memory.write m k b) j = if j = k then b else Memory.read m j) ∧
  (∀ m n : Memory, Memory.wf m = true → Memory.wf n = true → (∀ k, Memory.read m k = Memory.read n k) → m = n) ∧
  (∀ (s : State) (k n v : Nat), s.MemOk → (s.store k n v).load k n = v % 2 ^ (8 * n) ∧ (s.store k n v).MemOk ∧
    (∀ j < n, (Memory.read (s.store k n v).mem (k + j)).toNat = v / 2 ^ (8 * j) % 256) ∧
    ∀ j, (j < k ∨ k + n ≤ j) → Memory.read (s.store k n v).mem j = Memory.read s.mem j)

/-- R231, R303, R320, R330: where a store takes effect it changes the bytes of its pieces and no other byte. A plain write leaves its bytes in
memory; writes of half a byte keep the other half; a reduction changes its 4 or 8 bytes; a contribution to a sum slot and a MARK change none. -/
def Obligations.StoresWriteOnlyTheirBytes : Prop := ∀ (s : State), s.MemOk →
  let width (op : StoreOp) (p : WPiece) : Nat := match op with
    | .write => max 1 p.bytes.length
    | .nibble _ => 1
    | .red _ _ size _ => size
    | _ => 0
  (∀ (op : StoreOp) (p : WPiece) (a : Nat), (a < p.key ∨ p.key + width op p ≤ a) →
    Memory.read (s.applyPiece op p).mem a = Memory.read s.mem a) ∧
  (∀ (p : WPiece) (j : Nat), p.nib = 0 → j < p.bytes.length →
    Memory.read (s.applyPiece .write p).mem (p.key + j) = BitVec.ofNat 8 (p.bytes.getD j 0)) ∧
  (∀ (p : WPiece) (hi : Bool), p.bytes ≠ [] → (Memory.read (s.applyPiece (.nibble hi) p).mem p.key).toNat =
    if hi then (Memory.read s.mem p.key).toNat % 16 + p.bytes.headD 0 % 16 * 16
    else (Memory.read s.mem p.key).toNat / 16 * 16 + p.bytes.headD 0 % 16) ∧
  (∀ (id dist : Nat) (t : State) (a : Nat), exec (.storeReachPort id dist) s = .next t →
    (∀ e p, s.stores.find? (fun e => e.id == id) = some e → p ∈ e.pieces → p.dist = dist → (a < p.key ∨ p.key + width e.op p ≤ a)) →
    Memory.read t.mem a = Memory.read s.mem a) ∧
  (∀ (tower : Nat) (t : State), exec (.writeQueueDrain tower) s = .next t → t.mem = s.mem)

/-- R61, R79, R119: the frame of an issue. Beside the effect `d` that its statement names, a word that issues changes the registers that it writes
(and those an ENDLOOP strides) if it completes at once and no others, its own engine's place, its tokens, and the agenda: memory, control registers,
columns, towers, the other engines and the other slots are as `d` leaves them. -/
def Obligations.IssueFrame : Prop := ∀ (i : Instr) (q : Sys2Proof.Seq) (d : Done) (live : Bool) (s : State),
  let t := s.finish i q d live
  let strided := ((d.st.engAt s.cur.ek).loopStrides q).map (·.1)
  t.mem = d.st.mem ∧ t.poison = d.st.poison ∧ t.cols = d.st.cols ∧ t.towers = d.st.towers ∧ t.stores = d.st.stores ∧ t.reqs = d.st.reqs ∧
  t.ctlq = d.st.ctlq ∧ t.pierCtl = d.st.pierCtl ∧ t.devCtl = d.st.devCtl ∧ t.launches = d.st.launches ∧ t.ctxs = d.st.ctxs ∧
  t.chans = d.st.chans ∧ t.jobs = d.st.jobs ∧ t.cyc = d.st.cyc ∧ t.cur = d.st.cur ∧ t.hole = d.st.hole ∧
  (∀ j ≠ s.cur.ek, t.engAt j = d.st.engAt j) ∧ (∀ j ≠ s.cur.sk, t.slotAt j = d.st.slotAt j) ∧
  (∀ n, (∀ w ∈ d.writes, Reg.s n ∉ w.reg) → n ∉ strided → (t.engAt s.cur.ek).sreg n = (d.st.engAt s.cur.ek).sreg n) ∧
  (∀ n, (∀ w ∈ d.writes, Reg.v n ∉ w.reg) → (t.slotAt s.cur.sk).vreg n = (d.st.slotAt s.cur.sk).vreg n) ∧
  (∀ n, (∀ w ∈ d.writes, Reg.k n ∉ w.reg) → (t.slotAt s.cur.sk).kreg n = (d.st.slotAt s.cur.sk).kreg n) ∧
  (∀ n, (∀ w ∈ d.writes, Reg.h n ∉ w.reg) → (t.slotAt s.cur.sk).hregs.get? n = (d.st.slotAt s.cur.sk).hregs.get? n) ∧
  ((∀ w ∈ d.writes, Reg.cf ∉ w.reg) → (t.engAt s.cur.ek).cf = (d.st.engAt s.cur.ek).cf) ∧
  (t.slotAt s.cur.sk).ctl = (d.st.slotAt s.cur.sk).ctl ∧
  (((d.st.groupOf s.cur.sk).bind fun g => g.2.audit) = none → t.groups = d.st.groups ∧ t.hevents = d.st.hevents)

/-- R61, R65, R90, R130: a word that completes in its issue cycle leaves its result in its register (a write to s0 is discarded), with the stride of an
ENDLOOP added, and its selector leaves the engine at the word that the table of R61 names. -/
def Obligations.SelectorsAndResults : Prop := ∀ (i : Instr) (q : Sys2Proof.Seq) (dst : Nat) (v : Word) (s : State),
  let e := s.engAt s.cur.ek
  let u := (s.finish i q (scalarDone s dst v) true).engAt s.cur.ek
  let tgt := e.targets.getD q.tgt 0
  (u.sreg 0 = {}) ∧
  (dst ≠ 0 → dst ∉ (e.loopStrides q).map (·.1) → u.sreg dst = { val := v }) ∧
  (∀ x, e.loopStrides q = [(dst, x)] → dst ≠ 0 → u.sreg dst = { val := v + BitVec.ofInt 64 x }) ∧
  (q.sel = .next ∨ q.sel = .safe → u.idx = e.idx + 1 ∧ u.levels = e.levels ∧ u.rets = e.rets ∧ u.safeHere = (q.sel == .safe)) ∧
  (q.sel = .exit ∨ q.sel = .done → u.sec = .retiring (q.sel == .done) ∧ u.levels = [] ∧ u.rets = []) ∧
  (q.sel = .j → u.idx = tgt) ∧
  (q.sel = .jc → u.idx = if e.cf then tgt else e.idx + 1) ∧
  (q.sel = .jnc → u.idx = if e.cf then e.idx + 1 else tgt) ∧
  (q.sel = .ji → u.idx = ((s.engAt s.cur.ek).sreg (24 + q.tgt)).val.toNat) ∧
  (q.sel = .jm → u.idx = ((s.slotAt s.cur.sk).mb (q.tgt % 4)).toNat) ∧
  (q.sel = .call → u.idx = tgt ∧ u.rets = e.rets ++ [e.idx + 1]) ∧
  (∀ r l, q.sel = .ret → e.rets = l ++ [r] → u.idx = r ∧ u.rets = l) ∧
  (∀ l ls, q.sel = .endloop → e.levels = l :: ls →
    (l.iter + 1 < l.count → u.idx = l.head ∧ u.levels = { l with iter := l.iter + 1 } :: ls) ∧
    (l.count ≤ l.iter + 1 → u.idx = e.idx + 1 ∧ u.levels = ls)) ∧
  (q.sel ≠ .exit → q.sel ≠ .done → e.sec = .dispatched ∨ e.sec = .running → u.sec = .running)

/-- R113–R115, R142, R367, R471: taking a fault. A group's fault writes its trap record and micro-PC record, stops its slot in this cycle and makes the group
Faulted; its registers, its place and the other slots are as they were; consumed poison posts event 0x10 and purges the tag. A second fault of a stopped
slot has no effect, but one of the same cycle of an engine that comes first in the order A, X, D takes the record; an engine whose EXIT or DONE has issued stands at word 0 of
the section that follows (log 148); a fault of a firmware word stops the firmware context of the column and posts event 0x20. -/
def Obligations.TakingAFault : Prop := ∀ (k : Stream) (code : Nat) (info : Word) (hdr : Bool) (s : State),
  let t := s.takeFault k code info hdr
  let e := s.engAt k.ek
  let w := e.unissued
  (k.fw = true → (t.slotAt k.sk).stop = some s.cyc ∧ t.groups = s.groups ∧ t.mem = s.mem ∧ t.engs = s.engs ∧
    t.hevents = s.hevents ++ [{ code := 0x20, loc := s.colLoc k.col, info := BitVec.ofNat 64 (code + engCode k.eng * 64 + e.idx * 256) }]) ∧
  (k.fw = false → (s.slotAt k.sk).stop ≠ none → s.laterFault k.sk k.eng = false → t = s) ∧
  (∀ g v, k.fw = false → s.laterFault k.sk k.eng = true → s.groupOf k.sk = some (g, v) →
    let sl := t.slotAt k.sk
    sl.ctlr 0x60 = BitVec.ofNat 64 (code + engCode k.eng * 64 + hdr.toNat * 256) ∧ sl.ctlr 0x61 = BitVec.ofNat 64 w.hdr.secno ∧
    sl.ctlr 0x63 = info ∧ sl.ctlr 0x64 = BitVec.ofNat 64 (s.recordAddr k) ∧ sl.stop = some s.cyc) ∧
  (∀ g v, k.fw = false → (s.slotAt k.sk).stop = none → s.groupOf k.sk = some (g, v) →
    let sl := t.slotAt k.sk
    sl.ctlr 0x60 = BitVec.ofNat 64 (code + engCode k.eng * 64 + hdr.toNat * 256) ∧
    sl.ctlr 0x61 = BitVec.ofNat 64 w.hdr.secno ∧
    sl.ctlr 0x62 = BitVec.ofNat 64 ((if hdr then 0 else w.idx) + w.levelMask * 2 ^ 20 + w.rets.length * 2 ^ 26) ∧
    sl.ctlr 0x63 = info ∧ sl.ctlr 0x64 = BitVec.ofNat 64 (s.recordAddr k) ∧
    (∀ n, n ≠ 0x60 → n ≠ 0x61 → n ≠ 0x62 → n ≠ 0x63 → n ≠ 0x64 → n ≠ 0x135 → n ≠ 0x136 → sl.ctlr n = (s.slotAt k.sk).ctlr n) ∧
    sl.stop = some s.cyc ∧ (∀ n, sl.vreg n = (s.slotAt k.sk).vreg n ∧ sl.kreg n = (s.slotAt k.sk).kreg n) ∧
    (∃ x, t.groups.get? g = some x ∧ x.state = .faulted) ∧
    (∀ n, (t.engAt k.ek).sreg n = e.sreg n) ∧ (t.engAt k.ek).idx = e.idx ∧ (t.engAt k.ek).levels = e.levels ∧
    (t.engAt k.ek).rets = e.rets ∧ (t.engAt k.ek).cf = e.cf ∧ (code ≠ 0x1A → (t.engAt k.ek).sec = .faulted) ∧
    (∀ j ≠ k.ek, t.engAt j = s.engAt j) ∧ (∀ j ≠ k.sk, t.slotAt j = s.slotAt j) ∧ t.towers = s.towers ∧ t.cols = s.cols ∧
    (s.MemOk → farNamed (s.recordAddr k) = true → farNamed (s.recordAddr k + 511) = true →
      (∀ j < 64, t.load (s.recordAddr k + 8 * j) 8 = ((w.record k.eng hdr).getD j 0) % 2 ^ 64) ∧
      ∀ a, (a < s.recordAddr k ∨ s.recordAddr k + 512 ≤ a) → Memory.read t.mem a = Memory.read s.mem a) ∧
    (code ≠ 0x0D → t.hevents = s.hevents) ∧
    (code = 0x0D → t.hevents = s.hevents ++ [{ code := 0x10, ctx := v.ctx, tag := v.reqtag, loc := s.colLoc k.col, info := info }] ∧
      ∃ b ∈ t.agenda, b.at_ = s.cyc ∧ b.ev = .purge (v.ctx * 2 ^ 32 + v.reqtag)))
end

