-- ==== Sys2Proof/Laws/Issue.lean ====
section
/-! SUPPORT. What the issue of a word answers: the lemmas that later proofs cite instead of unfolding `wordIssue`. -/

namespace Sys2Proof.Machine

/-- The parts of `canGo`. -/
theorem canGo_iff (s : State) (i : Instr) (q : Seq) (regs : List Reg) (fifos : List Nat) :
    canGo s i q regs fifos = true ↔
      s.canIssue s.cur = true ∧ s.e.flHolds q = true ∧ s.blockedOn s.cur (regs ++ seqRegs s.e q) = false ∧
      s.popsMet s.cur q = true ∧ s.fenceHolds s.cur i q = false ∧ s.selFault s.cur q = none ∧
      (s.atDawn.slotAt s.cur.sk).overCeiling (pushList q s.cur.eng ++ fifos) s.cyc = none := by
  simp [canGo, and_assoc]

/-- A word that can go and whose own act is an effect issues with it. -/
theorem wordIssue_go {i : Instr} {q : Seq} {regs : List Reg} {own : State → Act} {s : State} {dec : State → Option (Nat × Word)}
    {d : Done} (h : canGo s i q regs d.fifos = true) (hd : dec s = none) (ho : own s = .go d) :
    wordIssue i q regs own s dec = issued s i q d := by
  obtain ⟨h1, h2, h3, h4, h5, h6, h7⟩ := (canGo_iff ..).1 h
  have h2' : (s.engAt s.cur.ek).flHolds q = true := h2
  have h3' : s.blockedOn s.cur (regs ++ seqRegs (s.engAt s.cur.ek) q) = false := h3
  unfold wordIssue issued
  simp only [h1, hd, h2', h3', h4, h5, ho, h6, h7, Bool.not_true, Bool.or_false, Bool.false_eq_true, if_false]

/-- A word that can go and whose own act is a fault is turned away by it. -/
theorem wordIssue_fault {i : Instr} {q : Seq} {regs : List Reg} {own : State → Act} {s : State} {dec : State → Option (Nat × Word)}
    {c : Nat} {info : Word} (h : canGo s i q regs = true) (hd : dec s = none) (ho : own s = .fault c info) :
    wordIssue i q regs own s dec = faulted s c info := by
  obtain ⟨h1, h2, h3, h4, h5, h6, h7⟩ := (canGo_iff ..).1 h
  have h2' : (s.engAt s.cur.ek).flHolds q = true := h2
  have h3' : s.blockedOn s.cur (regs ++ seqRegs (s.engAt s.cur.ek) q) = false := h3
  unfold wordIssue faulted
  simp only [h1, hd, h2', h3', h4, h5, ho, h6, Bool.not_true, Bool.or_false, Bool.false_eq_true, if_false]

/-- A word that can go and is not ready leaves the state as it is. -/
theorem wordIssue_wait {i : Instr} {q : Seq} {regs : List Reg} {own : State → Act} {s : State} {dec : State → Option (Nat × Word)}
    (h : canGo s i q regs = true) (hd : dec s = none) (ho : own s = .wait) : wordIssue i q regs own s dec = .next s := by
  obtain ⟨h1, h2, h3, h4, h5, h6, h7⟩ := (canGo_iff ..).1 h
  have h2' : (s.engAt s.cur.ek).flHolds q = true := h2
  have h3' : s.blockedOn s.cur (regs ++ seqRegs (s.engAt s.cur.ek) q) = false := h3
  unfold wordIssue
  simp only [h1, hd, h2', h3', h4, h5, ho, h6, Bool.not_true, Bool.or_false, Bool.false_eq_true, if_false]

/-- A word never refuses and never stops the machine. -/
theorem wordIssue_next (i : Instr) (q : Seq) (regs : List Reg) (own : State → Act) (s : State) (dec : State → Option (Nat × Word)) :
    ∃ t, wordIssue i q regs own s dec = .next t := by
  unfold wordIssue
  dsimp only
  repeat' split
  all_goals exact ⟨_, rfl⟩

/-- The stop of a fault is a next state. -/
theorem faulted_next (s : State) (c : Nat) (info : Word) : ∃ t, faulted s c info = .next t := ⟨_, rfl⟩

/-- A stream that may issue and stands at a legal word of its engine runs that word (R73, R82). -/
theorem issueWord_decoded {s : State} {k : Stream} {i : Instr} {w : Form} (h1 : s.canIssue k = true)
    (h2 : (s.engAt k.ek).codeMiss = none) (h3 : (s.engAt k.ek).badSel = false) (h4 : decodeWord (s.wordAt k) = .ok i)
    (h5 : illegalHere (s.engAt k.ek) i = false) (h6 : i.form = some w) (h7 : k.eng ∈ w.engines) :
    issueWord s k = exec i { s with cur := k } := by
  have h8 : w.illegal = false ∧ w.reserved = 0 ∧ rawDecode (s.wordAt k) = some i := by
    unfold decodeWord at h4
    cases hr : rawDecode (s.wordAt k) with
    | none => simp [hr] at h4
    | some j =>
      simp only [hr, checkForm] at h4
      cases hf : j.form with
      | none => simp [hf] at h4
      | some v =>
        simp only [hf] at h4
        split at h4
        · simp at h4
        · split at h4
          · simp at h4
          · rename_i e1 e2
            cases h4
            rw [h6] at hf
            cases hf
            exact ⟨by simpa using e1, by simpa using e2, rfl⟩
  obtain ⟨e1, e2, e3⟩ := h8
  have h9 : w.engines.contains k.eng = true := by simpa using h7
  unfold issueWord fetch decodeHere
  simp only [h1, h2, e3, h6, e1, h3, h5, e2, h9, Bool.not_true, Bool.false_eq_true, if_false, Option.isSome_none, Bool.or_self,
    ne_eq, not_true_eq_false]

end Sys2Proof.Machine
end

