-- ==== Sys2Proof/Laws/State.lean ====
section
/-! SUPPORT. What each update of the state leaves in each field, and what each accessor reads after each update, so that no proof unfolds a record
update. -/

namespace Sys2Proof.Machine

/-! ### Maps -/

/-- A key that has been put is there. -/
@[simp] theorem Map.get?_put_same {α : Type} (m : Map α) (k : Nat) (v : α) : (m.put k v).get? k = some v := by
  induction m with
  | nil => simp [Map.put, Map.get?]
  | cons h t ih =>
    unfold Map.put
    split
    · simp [Map.get?]
    · split
      · simp [Map.get?]
      · rename_i h2; simp [Map.get?, h2, ih]

/-- The other keys are as they were. -/
theorem Map.get?_put_ne {α : Type} (m : Map α) (k j : Nat) (v : α) (h : j ≠ k) : (m.put k v).get? j = m.get? j := by
  induction m with
  | nil => simp [Map.put, Map.get?, h.symm]
  | cons x t ih =>
    unfold Map.put
    split
    · simp [Map.get?, h.symm]
    · split
      · rename_i h2; subst h2; simp [Map.get?, h.symm]
      · simp only [Map.get?]; split <;> simp [ih]

@[simp] theorem Map.getD_put_same {α : Type} (m : Map α) (k : Nat) (v d : α) : (m.put k v).getD k d = v := by simp [Map.getD]

theorem Map.getD_put_ne {α : Type} (m : Map α) (k j : Nat) (v d : α) (h : j ≠ k) : (m.put k v).getD j d = m.getD j d := by
  simp [Map.getD, Map.get?_put_ne _ _ _ _ h]

/-- A key that has been deleted is gone. -/
@[simp] theorem Map.get?_del_same {α : Type} (m : Map α) (k : Nat) : (m.del k).get? k = none := by
  induction m with
  | nil => rfl
  | cons x t ih =>
    simp only [Map.del] at ih ⊢
    by_cases h : x.1 = k <;> simp [h, Map.get?, ih]

/-- Deletion leaves the other keys. -/
theorem Map.get?_del_ne {α : Type} (m : Map α) (k j : Nat) (h : j ≠ k) : (m.del k).get? j = m.get? j := by
  induction m with
  | nil => rfl
  | cons x t ih =>
    simp only [Map.del] at ih ⊢
    by_cases h1 : x.1 = k
    · simp [h1, Map.get?, ih, h.symm]
    · simp [h1, Map.get?, ih]


/-! ### setSlot -/

@[simp] theorem State.setSlot_cyc (s : State) (k : Nat) (v : Slot) : (s.setSlot k v).cyc = s.cyc := rfl
@[simp] theorem State.setSlot_cur (s : State) (k : Nat) (v : Slot) : (s.setSlot k v).cur = s.cur := rfl
@[simp] theorem State.setSlot_subject (s : State) (k : Nat) (v : Slot) : (s.setSlot k v).subject = s.subject := rfl
@[simp] theorem State.setSlot_picked (s : State) (k : Nat) (v : Slot) : (s.setSlot k v).picked = s.picked := rfl
@[simp] theorem State.setSlot_chosen (s : State) (k : Nat) (v : Slot) : (s.setSlot k v).chosen = s.chosen := rfl
@[simp] theorem State.setSlot_dawn (s : State) (k : Nat) (v : Slot) : (s.setSlot k v).dawn = s.dawn := rfl
@[simp] theorem State.setSlot_issued (s : State) (k : Nat) (v : Slot) : (s.setSlot k v).issued = s.issued := rfl
@[simp] theorem State.setSlot_agenda (s : State) (k : Nat) (v : Slot) : (s.setSlot k v).agenda = s.agenda := rfl
@[simp] theorem State.setSlot_nextId (s : State) (k : Nat) (v : Slot) : (s.setSlot k v).nextId = s.nextId := rfl
@[simp] theorem State.setSlot_nextFree (s : State) (k : Nat) (v : Slot) : (s.setSlot k v).nextFree = s.nextFree := rfl
@[simp] theorem State.setSlot_mem (s : State) (k : Nat) (v : Slot) : (s.setSlot k v).mem = s.mem := rfl
@[simp] theorem State.setSlot_poison (s : State) (k : Nat) (v : Slot) : (s.setSlot k v).poison = s.poison := rfl
@[simp] theorem State.setSlot_bitErrs (s : State) (k : Nat) (v : Slot) : (s.setSlot k v).bitErrs = s.bitErrs := rfl
@[simp] theorem State.setSlot_hbmMeta (s : State) (k : Nat) (v : Slot) : (s.setSlot k v).hbmMeta = s.hbmMeta := rfl
@[simp] theorem State.setSlot_hbmCheck (s : State) (k : Nat) (v : Slot) : (s.setSlot k v).hbmCheck = s.hbmCheck := rfl
@[simp] theorem State.setSlot_slots (s : State) (k : Nat) (v : Slot) : (s.setSlot k v).slots = s.slots.put k v := rfl
@[simp] theorem State.setSlot_engs (s : State) (k : Nat) (v : Slot) : (s.setSlot k v).engs = s.engs := rfl
@[simp] theorem State.setSlot_cols (s : State) (k : Nat) (v : Slot) : (s.setSlot k v).cols = s.cols := rfl
@[simp] theorem State.setSlot_towers (s : State) (k : Nat) (v : Slot) : (s.setSlot k v).towers = s.towers := rfl
@[simp] theorem State.setSlot_flights (s : State) (k : Nat) (v : Slot) : (s.setSlot k v).flights = s.flights := rfl
@[simp] theorem State.setSlot_stores (s : State) (k : Nat) (v : Slot) : (s.setSlot k v).stores = s.stores := rfl
@[simp] theorem State.setSlot_async (s : State) (k : Nat) (v : Slot) : (s.setSlot k v).async = s.async := rfl
@[simp] theorem State.setSlot_farHeld (s : State) (k : Nat) (v : Slot) : (s.setSlot k v).farHeld = s.farHeld := rfl
@[simp] theorem State.setSlot_privs (s : State) (k : Nat) (v : Slot) : (s.setSlot k v).privs = s.privs := rfl
@[simp] theorem State.setSlot_reqs (s : State) (k : Nat) (v : Slot) : (s.setSlot k v).reqs = s.reqs := rfl
@[simp] theorem State.setSlot_arrivals (s : State) (k : Nat) (v : Slot) : (s.setSlot k v).arrivals = s.arrivals := rfl
@[simp] theorem State.setSlot_ctlq (s : State) (k : Nat) (v : Slot) : (s.setSlot k v).ctlq = s.ctlq := rfl
@[simp] theorem State.setSlot_pierCtl (s : State) (k : Nat) (v : Slot) : (s.setSlot k v).pierCtl = s.pierCtl := rfl
@[simp] theorem State.setSlot_refLog (s : State) (k : Nat) (v : Slot) : (s.setSlot k v).refLog = s.refLog := rfl
@[simp] theorem State.setSlot_devCtl (s : State) (k : Nat) (v : Slot) : (s.setSlot k v).devCtl = s.devCtl := rfl
@[simp] theorem State.setSlot_groups (s : State) (k : Nat) (v : Slot) : (s.setSlot k v).groups = s.groups := rfl
@[simp] theorem State.setSlot_launches (s : State) (k : Nat) (v : Slot) : (s.setSlot k v).launches = s.launches := rfl
@[simp] theorem State.setSlot_downs (s : State) (k : Nat) (v : Slot) : (s.setSlot k v).downs = s.downs := rfl
@[simp] theorem State.setSlot_hevents (s : State) (k : Nat) (v : Slot) : (s.setSlot k v).hevents = s.hevents := rfl
@[simp] theorem State.setSlot_hevSeq (s : State) (k : Nat) (v : Slot) : (s.setSlot k v).hevSeq = s.hevSeq := rfl
@[simp] theorem State.setSlot_irqs (s : State) (k : Nat) (v : Slot) : (s.setSlot k v).irqs = s.irqs := rfl
@[simp] theorem State.setSlot_irqWaits (s : State) (k : Nat) (v : Slot) : (s.setSlot k v).irqWaits = s.irqWaits := rfl
@[simp] theorem State.setSlot_sites (s : State) (k : Nat) (v : Slot) : (s.setSlot k v).sites = s.sites := rfl
@[simp] theorem State.setSlot_ctxs (s : State) (k : Nat) (v : Slot) : (s.setSlot k v).ctxs = s.ctxs := rfl
@[simp] theorem State.setSlot_quads (s : State) (k : Nat) (v : Slot) : (s.setSlot k v).quads = s.quads := rfl
@[simp] theorem State.setSlot_link (s : State) (k : Nat) (v : Slot) : (s.setSlot k v).link = s.link := rfl
@[simp] theorem State.setSlot_fports (s : State) (k : Nat) (v : Slot) : (s.setSlot k v).fports = s.fports := rfl
@[simp] theorem State.setSlot_routes (s : State) (k : Nat) (v : Slot) : (s.setSlot k v).routes = s.routes := rfl
@[simp] theorem State.setSlot_pages (s : State) (k : Nat) (v : Slot) : (s.setSlot k v).pages = s.pages := rfl
@[simp] theorem State.setSlot_auditor (s : State) (k : Nat) (v : Slot) : (s.setSlot k v).auditor = s.auditor := rfl
@[simp] theorem State.setSlot_evict (s : State) (k : Nat) (v : Slot) : (s.setSlot k v).evict = s.evict := rfl
@[simp] theorem State.setSlot_ages (s : State) (k : Nat) (v : Slot) : (s.setSlot k v).ages = s.ages := rfl
@[simp] theorem State.setSlot_heats (s : State) (k : Nat) (v : Slot) : (s.setSlot k v).heats = s.heats := rfl
@[simp] theorem State.setSlot_purges (s : State) (k : Nat) (v : Slot) : (s.setSlot k v).purges = s.purges := rfl
@[simp] theorem State.setSlot_purgeErr (s : State) (k : Nat) (v : Slot) : (s.setSlot k v).purgeErr = s.purgeErr := rfl
@[simp] theorem State.setSlot_remapping (s : State) (k : Nat) (v : Slot) : (s.setSlot k v).remapping = s.remapping := rfl
@[simp] theorem State.setSlot_remapErr (s : State) (k : Nat) (v : Slot) : (s.setSlot k v).remapErr = s.remapErr := rfl
@[simp] theorem State.setSlot_ctxBusy (s : State) (k : Nat) (v : Slot) : (s.setSlot k v).ctxBusy = s.ctxBusy := rfl
@[simp] theorem State.setSlot_ctxLast (s : State) (k : Nat) (v : Slot) : (s.setSlot k v).ctxLast = s.ctxLast := rfl
@[simp] theorem State.setSlot_ctxErr (s : State) (k : Nat) (v : Slot) : (s.setSlot k v).ctxErr = s.ctxErr := rfl
@[simp] theorem State.setSlot_opPoint (s : State) (k : Nat) (v : Slot) : (s.setSlot k v).opPoint = s.opPoint := rfl
@[simp] theorem State.setSlot_opCap (s : State) (k : Nat) (v : Slot) : (s.setSlot k v).opCap = s.opCap := rfl
@[simp] theorem State.setSlot_feFree (s : State) (k : Nat) (v : Slot) : (s.setSlot k v).feFree = s.feFree := rfl
@[simp] theorem State.setSlot_chans (s : State) (k : Nat) (v : Slot) : (s.setSlot k v).chans = s.chans := rfl
@[simp] theorem State.setSlot_hole (s : State) (k : Nat) (v : Slot) : (s.setSlot k v).hole = s.hole := rfl
@[simp] theorem State.setSlot_jobs (s : State) (k : Nat) (v : Slot) : (s.setSlot k v).jobs = s.jobs := rfl
@[simp] theorem State.setSlot_fqueues (s : State) (k : Nat) (v : Slot) : (s.setSlot k v).fqueues = s.fqueues := rfl
@[simp] theorem State.setSlot_rr (s : State) (k : Nat) (v : Slot) : (s.setSlot k v).rr = s.rr := rfl
@[simp] theorem State.setSlot_returned (s : State) (k : Nat) (v : Slot) : (s.setSlot k v).returned = s.returned := rfl
@[simp] theorem State.setSlot_admitted (s : State) (k : Nat) (v : Slot) : (s.setSlot k v).admitted = s.admitted := rfl
@[simp] theorem State.setSlot_orphans (s : State) (k : Nat) (v : Slot) : (s.setSlot k v).orphans = s.orphans := rfl
@[simp] theorem State.setSlot_moves (s : State) (k : Nat) (v : Slot) : (s.setSlot k v).moves = s.moves := rfl
@[simp] theorem State.setSlot_colls (s : State) (k : Nat) (v : Slot) : (s.setSlot k v).colls = s.colls := rfl
@[simp] theorem State.setSlot_collNext (s : State) (k : Nat) (v : Slot) : (s.setSlot k v).collNext = s.collNext := rfl
@[simp] theorem State.setSlot_failedSites (s : State) (k : Nat) (v : Slot) : (s.setSlot k v).failedSites = s.failedSites := rfl
@[simp] theorem State.setSlot_remapTable (s : State) (k : Nat) (v : Slot) : (s.setSlot k v).remapTable = s.remapTable := rfl
@[simp] theorem State.setSlot_flits (s : State) (k : Nat) (v : Slot) : (s.setSlot k v).flits = s.flits := rfl
@[simp] theorem State.setSlot_inbox (s : State) (k : Nat) (v : Slot) : (s.setSlot k v).inbox = s.inbox := rfl
@[simp] theorem State.setSlot_answers (s : State) (k : Nat) (v : Slot) : (s.setSlot k v).answers = s.answers := rfl
@[simp] theorem State.setSlot_identity (s : State) (k : Nat) (v : Slot) : (s.setSlot k v).identity = s.identity := rfl
@[simp] theorem State.setSlot_fwImage (s : State) (k : Nat) (v : Slot) : (s.setSlot k v).fwImage = s.fwImage := rfl
@[simp] theorem State.setSlot_tripped (s : State) (k : Nat) (v : Slot) : (s.setSlot k v).tripped = s.tripped := rfl
@[simp] theorem State.setSlot_stuckAt (s : State) (k : Nat) (v : Slot) : (s.setSlot k v).stuckAt = s.stuckAt := rfl
@[simp] theorem State.setSlot_quoin (s : State) (k : Nat) (v : Slot) : (s.setSlot k v).quoin = s.quoin := rfl
@[simp] theorem State.setSlot_attesting (s : State) (k : Nat) (v : Slot) : (s.setSlot k v).attesting = s.attesting := rfl
@[simp] theorem State.setSlot_audits (s : State) (k : Nat) (v : Slot) : (s.setSlot k v).audits = s.audits := rfl
@[simp] theorem State.setSlot_hostWaits (s : State) (k : Nat) (v : Slot) : (s.setSlot k v).hostWaits = s.hostWaits := rfl
@[simp] theorem State.setSlot_denied (s : State) (k : Nat) (v : Slot) : (s.setSlot k v).denied = s.denied := rfl
@[simp] theorem State.setSlot_refCode (s : State) (k : Nat) (v : Slot) : (s.setSlot k v).refCode = s.refCode := rfl
@[simp] theorem State.setSlot_capTick (s : State) (k : Nat) (v : Slot) : (s.setSlot k v).capTick = s.capTick := rfl
@[simp] theorem State.setSlot_courseLosses (s : State) (k : Nat) (v : Slot) : (s.setSlot k v).courseLosses = s.courseLosses := rfl

/-! ### setEng -/

@[simp] theorem State.setEng_cyc (s : State) (k : Nat) (v : Engine) : (s.setEng k v).cyc = s.cyc := rfl
@[simp] theorem State.setEng_cur (s : State) (k : Nat) (v : Engine) : (s.setEng k v).cur = s.cur := rfl
@[simp] theorem State.setEng_subject (s : State) (k : Nat) (v : Engine) : (s.setEng k v).subject = s.subject := rfl
@[simp] theorem State.setEng_picked (s : State) (k : Nat) (v : Engine) : (s.setEng k v).picked = s.picked := rfl
@[simp] theorem State.setEng_chosen (s : State) (k : Nat) (v : Engine) : (s.setEng k v).chosen = s.chosen := rfl
@[simp] theorem State.setEng_dawn (s : State) (k : Nat) (v : Engine) : (s.setEng k v).dawn = s.dawn := rfl
@[simp] theorem State.setEng_issued (s : State) (k : Nat) (v : Engine) : (s.setEng k v).issued = s.issued := rfl
@[simp] theorem State.setEng_agenda (s : State) (k : Nat) (v : Engine) : (s.setEng k v).agenda = s.agenda := rfl
@[simp] theorem State.setEng_nextId (s : State) (k : Nat) (v : Engine) : (s.setEng k v).nextId = s.nextId := rfl
@[simp] theorem State.setEng_nextFree (s : State) (k : Nat) (v : Engine) : (s.setEng k v).nextFree = s.nextFree := rfl
@[simp] theorem State.setEng_mem (s : State) (k : Nat) (v : Engine) : (s.setEng k v).mem = s.mem := rfl
@[simp] theorem State.setEng_poison (s : State) (k : Nat) (v : Engine) : (s.setEng k v).poison = s.poison := rfl
@[simp] theorem State.setEng_bitErrs (s : State) (k : Nat) (v : Engine) : (s.setEng k v).bitErrs = s.bitErrs := rfl
@[simp] theorem State.setEng_hbmMeta (s : State) (k : Nat) (v : Engine) : (s.setEng k v).hbmMeta = s.hbmMeta := rfl
@[simp] theorem State.setEng_hbmCheck (s : State) (k : Nat) (v : Engine) : (s.setEng k v).hbmCheck = s.hbmCheck := rfl
@[simp] theorem State.setEng_slots (s : State) (k : Nat) (v : Engine) : (s.setEng k v).slots = s.slots := rfl
@[simp] theorem State.setEng_engs (s : State) (k : Nat) (v : Engine) : (s.setEng k v).engs = s.engs.put k v := rfl
@[simp] theorem State.setEng_cols (s : State) (k : Nat) (v : Engine) : (s.setEng k v).cols = s.cols := rfl
@[simp] theorem State.setEng_towers (s : State) (k : Nat) (v : Engine) : (s.setEng k v).towers = s.towers := rfl
@[simp] theorem State.setEng_flights (s : State) (k : Nat) (v : Engine) : (s.setEng k v).flights = s.flights := rfl
@[simp] theorem State.setEng_stores (s : State) (k : Nat) (v : Engine) : (s.setEng k v).stores = s.stores := rfl
@[simp] theorem State.setEng_async (s : State) (k : Nat) (v : Engine) : (s.setEng k v).async = s.async := rfl
@[simp] theorem State.setEng_farHeld (s : State) (k : Nat) (v : Engine) : (s.setEng k v).farHeld = s.farHeld := rfl
@[simp] theorem State.setEng_privs (s : State) (k : Nat) (v : Engine) : (s.setEng k v).privs = s.privs := rfl
@[simp] theorem State.setEng_reqs (s : State) (k : Nat) (v : Engine) : (s.setEng k v).reqs = s.reqs := rfl
@[simp] theorem State.setEng_arrivals (s : State) (k : Nat) (v : Engine) : (s.setEng k v).arrivals = s.arrivals := rfl
@[simp] theorem State.setEng_ctlq (s : State) (k : Nat) (v : Engine) : (s.setEng k v).ctlq = s.ctlq := rfl
@[simp] theorem State.setEng_pierCtl (s : State) (k : Nat) (v : Engine) : (s.setEng k v).pierCtl = s.pierCtl := rfl
@[simp] theorem State.setEng_refLog (s : State) (k : Nat) (v : Engine) : (s.setEng k v).refLog = s.refLog := rfl
@[simp] theorem State.setEng_devCtl (s : State) (k : Nat) (v : Engine) : (s.setEng k v).devCtl = s.devCtl := rfl
@[simp] theorem State.setEng_groups (s : State) (k : Nat) (v : Engine) : (s.setEng k v).groups = s.groups := rfl
@[simp] theorem State.setEng_launches (s : State) (k : Nat) (v : Engine) : (s.setEng k v).launches = s.launches := rfl
@[simp] theorem State.setEng_downs (s : State) (k : Nat) (v : Engine) : (s.setEng k v).downs = s.downs := rfl
@[simp] theorem State.setEng_hevents (s : State) (k : Nat) (v : Engine) : (s.setEng k v).hevents = s.hevents := rfl
@[simp] theorem State.setEng_hevSeq (s : State) (k : Nat) (v : Engine) : (s.setEng k v).hevSeq = s.hevSeq := rfl
@[simp] theorem State.setEng_irqs (s : State) (k : Nat) (v : Engine) : (s.setEng k v).irqs = s.irqs := rfl
@[simp] theorem State.setEng_irqWaits (s : State) (k : Nat) (v : Engine) : (s.setEng k v).irqWaits = s.irqWaits := rfl
@[simp] theorem State.setEng_sites (s : State) (k : Nat) (v : Engine) : (s.setEng k v).sites = s.sites := rfl
@[simp] theorem State.setEng_ctxs (s : State) (k : Nat) (v : Engine) : (s.setEng k v).ctxs = s.ctxs := rfl
@[simp] theorem State.setEng_quads (s : State) (k : Nat) (v : Engine) : (s.setEng k v).quads = s.quads := rfl
@[simp] theorem State.setEng_link (s : State) (k : Nat) (v : Engine) : (s.setEng k v).link = s.link := rfl
@[simp] theorem State.setEng_fports (s : State) (k : Nat) (v : Engine) : (s.setEng k v).fports = s.fports := rfl
@[simp] theorem State.setEng_routes (s : State) (k : Nat) (v : Engine) : (s.setEng k v).routes = s.routes := rfl
@[simp] theorem State.setEng_pages (s : State) (k : Nat) (v : Engine) : (s.setEng k v).pages = s.pages := rfl
@[simp] theorem State.setEng_auditor (s : State) (k : Nat) (v : Engine) : (s.setEng k v).auditor = s.auditor := rfl
@[simp] theorem State.setEng_evict (s : State) (k : Nat) (v : Engine) : (s.setEng k v).evict = s.evict := rfl
@[simp] theorem State.setEng_ages (s : State) (k : Nat) (v : Engine) : (s.setEng k v).ages = s.ages := rfl
@[simp] theorem State.setEng_heats (s : State) (k : Nat) (v : Engine) : (s.setEng k v).heats = s.heats := rfl
@[simp] theorem State.setEng_purges (s : State) (k : Nat) (v : Engine) : (s.setEng k v).purges = s.purges := rfl
@[simp] theorem State.setEng_purgeErr (s : State) (k : Nat) (v : Engine) : (s.setEng k v).purgeErr = s.purgeErr := rfl
@[simp] theorem State.setEng_remapping (s : State) (k : Nat) (v : Engine) : (s.setEng k v).remapping = s.remapping := rfl
@[simp] theorem State.setEng_remapErr (s : State) (k : Nat) (v : Engine) : (s.setEng k v).remapErr = s.remapErr := rfl
@[simp] theorem State.setEng_ctxBusy (s : State) (k : Nat) (v : Engine) : (s.setEng k v).ctxBusy = s.ctxBusy := rfl
@[simp] theorem State.setEng_ctxLast (s : State) (k : Nat) (v : Engine) : (s.setEng k v).ctxLast = s.ctxLast := rfl
@[simp] theorem State.setEng_ctxErr (s : State) (k : Nat) (v : Engine) : (s.setEng k v).ctxErr = s.ctxErr := rfl
@[simp] theorem State.setEng_opPoint (s : State) (k : Nat) (v : Engine) : (s.setEng k v).opPoint = s.opPoint := rfl
@[simp] theorem State.setEng_opCap (s : State) (k : Nat) (v : Engine) : (s.setEng k v).opCap = s.opCap := rfl
@[simp] theorem State.setEng_feFree (s : State) (k : Nat) (v : Engine) : (s.setEng k v).feFree = s.feFree := rfl
@[simp] theorem State.setEng_chans (s : State) (k : Nat) (v : Engine) : (s.setEng k v).chans = s.chans := rfl
@[simp] theorem State.setEng_hole (s : State) (k : Nat) (v : Engine) : (s.setEng k v).hole = s.hole := rfl
@[simp] theorem State.setEng_jobs (s : State) (k : Nat) (v : Engine) : (s.setEng k v).jobs = s.jobs := rfl
@[simp] theorem State.setEng_fqueues (s : State) (k : Nat) (v : Engine) : (s.setEng k v).fqueues = s.fqueues := rfl
@[simp] theorem State.setEng_rr (s : State) (k : Nat) (v : Engine) : (s.setEng k v).rr = s.rr := rfl
@[simp] theorem State.setEng_returned (s : State) (k : Nat) (v : Engine) : (s.setEng k v).returned = s.returned := rfl
@[simp] theorem State.setEng_admitted (s : State) (k : Nat) (v : Engine) : (s.setEng k v).admitted = s.admitted := rfl
@[simp] theorem State.setEng_orphans (s : State) (k : Nat) (v : Engine) : (s.setEng k v).orphans = s.orphans := rfl
@[simp] theorem State.setEng_moves (s : State) (k : Nat) (v : Engine) : (s.setEng k v).moves = s.moves := rfl
@[simp] theorem State.setEng_colls (s : State) (k : Nat) (v : Engine) : (s.setEng k v).colls = s.colls := rfl
@[simp] theorem State.setEng_collNext (s : State) (k : Nat) (v : Engine) : (s.setEng k v).collNext = s.collNext := rfl
@[simp] theorem State.setEng_failedSites (s : State) (k : Nat) (v : Engine) : (s.setEng k v).failedSites = s.failedSites := rfl
@[simp] theorem State.setEng_remapTable (s : State) (k : Nat) (v : Engine) : (s.setEng k v).remapTable = s.remapTable := rfl
@[simp] theorem State.setEng_flits (s : State) (k : Nat) (v : Engine) : (s.setEng k v).flits = s.flits := rfl
@[simp] theorem State.setEng_inbox (s : State) (k : Nat) (v : Engine) : (s.setEng k v).inbox = s.inbox := rfl
@[simp] theorem State.setEng_answers (s : State) (k : Nat) (v : Engine) : (s.setEng k v).answers = s.answers := rfl
@[simp] theorem State.setEng_identity (s : State) (k : Nat) (v : Engine) : (s.setEng k v).identity = s.identity := rfl
@[simp] theorem State.setEng_fwImage (s : State) (k : Nat) (v : Engine) : (s.setEng k v).fwImage = s.fwImage := rfl
@[simp] theorem State.setEng_tripped (s : State) (k : Nat) (v : Engine) : (s.setEng k v).tripped = s.tripped := rfl
@[simp] theorem State.setEng_stuckAt (s : State) (k : Nat) (v : Engine) : (s.setEng k v).stuckAt = s.stuckAt := rfl
@[simp] theorem State.setEng_quoin (s : State) (k : Nat) (v : Engine) : (s.setEng k v).quoin = s.quoin := rfl
@[simp] theorem State.setEng_attesting (s : State) (k : Nat) (v : Engine) : (s.setEng k v).attesting = s.attesting := rfl
@[simp] theorem State.setEng_audits (s : State) (k : Nat) (v : Engine) : (s.setEng k v).audits = s.audits := rfl
@[simp] theorem State.setEng_hostWaits (s : State) (k : Nat) (v : Engine) : (s.setEng k v).hostWaits = s.hostWaits := rfl
@[simp] theorem State.setEng_denied (s : State) (k : Nat) (v : Engine) : (s.setEng k v).denied = s.denied := rfl
@[simp] theorem State.setEng_refCode (s : State) (k : Nat) (v : Engine) : (s.setEng k v).refCode = s.refCode := rfl
@[simp] theorem State.setEng_capTick (s : State) (k : Nat) (v : Engine) : (s.setEng k v).capTick = s.capTick := rfl
@[simp] theorem State.setEng_courseLosses (s : State) (k : Nat) (v : Engine) : (s.setEng k v).courseLosses = s.courseLosses := rfl

/-! ### setCol -/

@[simp] theorem State.setCol_cyc (s : State) (k : Nat) (v : Column) : (s.setCol k v).cyc = s.cyc := rfl
@[simp] theorem State.setCol_cur (s : State) (k : Nat) (v : Column) : (s.setCol k v).cur = s.cur := rfl
@[simp] theorem State.setCol_subject (s : State) (k : Nat) (v : Column) : (s.setCol k v).subject = s.subject := rfl
@[simp] theorem State.setCol_picked (s : State) (k : Nat) (v : Column) : (s.setCol k v).picked = s.picked := rfl
@[simp] theorem State.setCol_chosen (s : State) (k : Nat) (v : Column) : (s.setCol k v).chosen = s.chosen := rfl
@[simp] theorem State.setCol_dawn (s : State) (k : Nat) (v : Column) : (s.setCol k v).dawn = s.dawn := rfl
@[simp] theorem State.setCol_issued (s : State) (k : Nat) (v : Column) : (s.setCol k v).issued = s.issued := rfl
@[simp] theorem State.setCol_agenda (s : State) (k : Nat) (v : Column) : (s.setCol k v).agenda = s.agenda := rfl
@[simp] theorem State.setCol_nextId (s : State) (k : Nat) (v : Column) : (s.setCol k v).nextId = s.nextId := rfl
@[simp] theorem State.setCol_nextFree (s : State) (k : Nat) (v : Column) : (s.setCol k v).nextFree = s.nextFree := rfl
@[simp] theorem State.setCol_mem (s : State) (k : Nat) (v : Column) : (s.setCol k v).mem = s.mem := rfl
@[simp] theorem State.setCol_poison (s : State) (k : Nat) (v : Column) : (s.setCol k v).poison = s.poison := rfl
@[simp] theorem State.setCol_bitErrs (s : State) (k : Nat) (v : Column) : (s.setCol k v).bitErrs = s.bitErrs := rfl
@[simp] theorem State.setCol_hbmMeta (s : State) (k : Nat) (v : Column) : (s.setCol k v).hbmMeta = s.hbmMeta := rfl
@[simp] theorem State.setCol_hbmCheck (s : State) (k : Nat) (v : Column) : (s.setCol k v).hbmCheck = s.hbmCheck := rfl
@[simp] theorem State.setCol_slots (s : State) (k : Nat) (v : Column) : (s.setCol k v).slots = s.slots := rfl
@[simp] theorem State.setCol_engs (s : State) (k : Nat) (v : Column) : (s.setCol k v).engs = s.engs := rfl
@[simp] theorem State.setCol_cols (s : State) (k : Nat) (v : Column) : (s.setCol k v).cols = s.cols.put k v := rfl
@[simp] theorem State.setCol_towers (s : State) (k : Nat) (v : Column) : (s.setCol k v).towers = s.towers := rfl
@[simp] theorem State.setCol_flights (s : State) (k : Nat) (v : Column) : (s.setCol k v).flights = s.flights := rfl
@[simp] theorem State.setCol_stores (s : State) (k : Nat) (v : Column) : (s.setCol k v).stores = s.stores := rfl
@[simp] theorem State.setCol_async (s : State) (k : Nat) (v : Column) : (s.setCol k v).async = s.async := rfl
@[simp] theorem State.setCol_farHeld (s : State) (k : Nat) (v : Column) : (s.setCol k v).farHeld = s.farHeld := rfl
@[simp] theorem State.setCol_privs (s : State) (k : Nat) (v : Column) : (s.setCol k v).privs = s.privs := rfl
@[simp] theorem State.setCol_reqs (s : State) (k : Nat) (v : Column) : (s.setCol k v).reqs = s.reqs := rfl
@[simp] theorem State.setCol_arrivals (s : State) (k : Nat) (v : Column) : (s.setCol k v).arrivals = s.arrivals := rfl
@[simp] theorem State.setCol_ctlq (s : State) (k : Nat) (v : Column) : (s.setCol k v).ctlq = s.ctlq := rfl
@[simp] theorem State.setCol_pierCtl (s : State) (k : Nat) (v : Column) : (s.setCol k v).pierCtl = s.pierCtl := rfl
@[simp] theorem State.setCol_refLog (s : State) (k : Nat) (v : Column) : (s.setCol k v).refLog = s.refLog := rfl
@[simp] theorem State.setCol_devCtl (s : State) (k : Nat) (v : Column) : (s.setCol k v).devCtl = s.devCtl := rfl
@[simp] theorem State.setCol_groups (s : State) (k : Nat) (v : Column) : (s.setCol k v).groups = s.groups := rfl
@[simp] theorem State.setCol_launches (s : State) (k : Nat) (v : Column) : (s.setCol k v).launches = s.launches := rfl
@[simp] theorem State.setCol_downs (s : State) (k : Nat) (v : Column) : (s.setCol k v).downs = s.downs := rfl
@[simp] theorem State.setCol_hevents (s : State) (k : Nat) (v : Column) : (s.setCol k v).hevents = s.hevents := rfl
@[simp] theorem State.setCol_hevSeq (s : State) (k : Nat) (v : Column) : (s.setCol k v).hevSeq = s.hevSeq := rfl
@[simp] theorem State.setCol_irqs (s : State) (k : Nat) (v : Column) : (s.setCol k v).irqs = s.irqs := rfl
@[simp] theorem State.setCol_irqWaits (s : State) (k : Nat) (v : Column) : (s.setCol k v).irqWaits = s.irqWaits := rfl
@[simp] theorem State.setCol_sites (s : State) (k : Nat) (v : Column) : (s.setCol k v).sites = s.sites := rfl
@[simp] theorem State.setCol_ctxs (s : State) (k : Nat) (v : Column) : (s.setCol k v).ctxs = s.ctxs := rfl
@[simp] theorem State.setCol_quads (s : State) (k : Nat) (v : Column) : (s.setCol k v).quads = s.quads := rfl
@[simp] theorem State.setCol_link (s : State) (k : Nat) (v : Column) : (s.setCol k v).link = s.link := rfl
@[simp] theorem State.setCol_fports (s : State) (k : Nat) (v : Column) : (s.setCol k v).fports = s.fports := rfl
@[simp] theorem State.setCol_routes (s : State) (k : Nat) (v : Column) : (s.setCol k v).routes = s.routes := rfl
@[simp] theorem State.setCol_pages (s : State) (k : Nat) (v : Column) : (s.setCol k v).pages = s.pages := rfl
@[simp] theorem State.setCol_auditor (s : State) (k : Nat) (v : Column) : (s.setCol k v).auditor = s.auditor := rfl
@[simp] theorem State.setCol_evict (s : State) (k : Nat) (v : Column) : (s.setCol k v).evict = s.evict := rfl
@[simp] theorem State.setCol_ages (s : State) (k : Nat) (v : Column) : (s.setCol k v).ages = s.ages := rfl
@[simp] theorem State.setCol_heats (s : State) (k : Nat) (v : Column) : (s.setCol k v).heats = s.heats := rfl
@[simp] theorem State.setCol_purges (s : State) (k : Nat) (v : Column) : (s.setCol k v).purges = s.purges := rfl
@[simp] theorem State.setCol_purgeErr (s : State) (k : Nat) (v : Column) : (s.setCol k v).purgeErr = s.purgeErr := rfl
@[simp] theorem State.setCol_remapping (s : State) (k : Nat) (v : Column) : (s.setCol k v).remapping = s.remapping := rfl
@[simp] theorem State.setCol_remapErr (s : State) (k : Nat) (v : Column) : (s.setCol k v).remapErr = s.remapErr := rfl
@[simp] theorem State.setCol_ctxBusy (s : State) (k : Nat) (v : Column) : (s.setCol k v).ctxBusy = s.ctxBusy := rfl
@[simp] theorem State.setCol_ctxLast (s : State) (k : Nat) (v : Column) : (s.setCol k v).ctxLast = s.ctxLast := rfl
@[simp] theorem State.setCol_ctxErr (s : State) (k : Nat) (v : Column) : (s.setCol k v).ctxErr = s.ctxErr := rfl
@[simp] theorem State.setCol_opPoint (s : State) (k : Nat) (v : Column) : (s.setCol k v).opPoint = s.opPoint := rfl
@[simp] theorem State.setCol_opCap (s : State) (k : Nat) (v : Column) : (s.setCol k v).opCap = s.opCap := rfl
@[simp] theorem State.setCol_feFree (s : State) (k : Nat) (v : Column) : (s.setCol k v).feFree = s.feFree := rfl
@[simp] theorem State.setCol_chans (s : State) (k : Nat) (v : Column) : (s.setCol k v).chans = s.chans := rfl
@[simp] theorem State.setCol_hole (s : State) (k : Nat) (v : Column) : (s.setCol k v).hole = s.hole := rfl
@[simp] theorem State.setCol_jobs (s : State) (k : Nat) (v : Column) : (s.setCol k v).jobs = s.jobs := rfl
@[simp] theorem State.setCol_fqueues (s : State) (k : Nat) (v : Column) : (s.setCol k v).fqueues = s.fqueues := rfl
@[simp] theorem State.setCol_rr (s : State) (k : Nat) (v : Column) : (s.setCol k v).rr = s.rr := rfl
@[simp] theorem State.setCol_returned (s : State) (k : Nat) (v : Column) : (s.setCol k v).returned = s.returned := rfl
@[simp] theorem State.setCol_admitted (s : State) (k : Nat) (v : Column) : (s.setCol k v).admitted = s.admitted := rfl
@[simp] theorem State.setCol_orphans (s : State) (k : Nat) (v : Column) : (s.setCol k v).orphans = s.orphans := rfl
@[simp] theorem State.setCol_moves (s : State) (k : Nat) (v : Column) : (s.setCol k v).moves = s.moves := rfl
@[simp] theorem State.setCol_colls (s : State) (k : Nat) (v : Column) : (s.setCol k v).colls = s.colls := rfl
@[simp] theorem State.setCol_collNext (s : State) (k : Nat) (v : Column) : (s.setCol k v).collNext = s.collNext := rfl
@[simp] theorem State.setCol_failedSites (s : State) (k : Nat) (v : Column) : (s.setCol k v).failedSites = s.failedSites := rfl
@[simp] theorem State.setCol_remapTable (s : State) (k : Nat) (v : Column) : (s.setCol k v).remapTable = s.remapTable := rfl
@[simp] theorem State.setCol_flits (s : State) (k : Nat) (v : Column) : (s.setCol k v).flits = s.flits := rfl
@[simp] theorem State.setCol_inbox (s : State) (k : Nat) (v : Column) : (s.setCol k v).inbox = s.inbox := rfl
@[simp] theorem State.setCol_answers (s : State) (k : Nat) (v : Column) : (s.setCol k v).answers = s.answers := rfl
@[simp] theorem State.setCol_identity (s : State) (k : Nat) (v : Column) : (s.setCol k v).identity = s.identity := rfl
@[simp] theorem State.setCol_fwImage (s : State) (k : Nat) (v : Column) : (s.setCol k v).fwImage = s.fwImage := rfl
@[simp] theorem State.setCol_tripped (s : State) (k : Nat) (v : Column) : (s.setCol k v).tripped = s.tripped := rfl
@[simp] theorem State.setCol_stuckAt (s : State) (k : Nat) (v : Column) : (s.setCol k v).stuckAt = s.stuckAt := rfl
@[simp] theorem State.setCol_quoin (s : State) (k : Nat) (v : Column) : (s.setCol k v).quoin = s.quoin := rfl
@[simp] theorem State.setCol_attesting (s : State) (k : Nat) (v : Column) : (s.setCol k v).attesting = s.attesting := rfl
@[simp] theorem State.setCol_audits (s : State) (k : Nat) (v : Column) : (s.setCol k v).audits = s.audits := rfl
@[simp] theorem State.setCol_hostWaits (s : State) (k : Nat) (v : Column) : (s.setCol k v).hostWaits = s.hostWaits := rfl
@[simp] theorem State.setCol_denied (s : State) (k : Nat) (v : Column) : (s.setCol k v).denied = s.denied := rfl
@[simp] theorem State.setCol_refCode (s : State) (k : Nat) (v : Column) : (s.setCol k v).refCode = s.refCode := rfl
@[simp] theorem State.setCol_capTick (s : State) (k : Nat) (v : Column) : (s.setCol k v).capTick = s.capTick := rfl
@[simp] theorem State.setCol_courseLosses (s : State) (k : Nat) (v : Column) : (s.setCol k v).courseLosses = s.courseLosses := rfl

/-! ### setTower -/

@[simp] theorem State.setTower_cyc (s : State) (k : Nat) (v : Tower) : (s.setTower k v).cyc = s.cyc := rfl
@[simp] theorem State.setTower_cur (s : State) (k : Nat) (v : Tower) : (s.setTower k v).cur = s.cur := rfl
@[simp] theorem State.setTower_subject (s : State) (k : Nat) (v : Tower) : (s.setTower k v).subject = s.subject := rfl
@[simp] theorem State.setTower_picked (s : State) (k : Nat) (v : Tower) : (s.setTower k v).picked = s.picked := rfl
@[simp] theorem State.setTower_chosen (s : State) (k : Nat) (v : Tower) : (s.setTower k v).chosen = s.chosen := rfl
@[simp] theorem State.setTower_dawn (s : State) (k : Nat) (v : Tower) : (s.setTower k v).dawn = s.dawn := rfl
@[simp] theorem State.setTower_issued (s : State) (k : Nat) (v : Tower) : (s.setTower k v).issued = s.issued := rfl
@[simp] theorem State.setTower_agenda (s : State) (k : Nat) (v : Tower) : (s.setTower k v).agenda = s.agenda := rfl
@[simp] theorem State.setTower_nextId (s : State) (k : Nat) (v : Tower) : (s.setTower k v).nextId = s.nextId := rfl
@[simp] theorem State.setTower_nextFree (s : State) (k : Nat) (v : Tower) : (s.setTower k v).nextFree = s.nextFree := rfl
@[simp] theorem State.setTower_mem (s : State) (k : Nat) (v : Tower) : (s.setTower k v).mem = s.mem := rfl
@[simp] theorem State.setTower_poison (s : State) (k : Nat) (v : Tower) : (s.setTower k v).poison = s.poison := rfl
@[simp] theorem State.setTower_bitErrs (s : State) (k : Nat) (v : Tower) : (s.setTower k v).bitErrs = s.bitErrs := rfl
@[simp] theorem State.setTower_hbmMeta (s : State) (k : Nat) (v : Tower) : (s.setTower k v).hbmMeta = s.hbmMeta := rfl
@[simp] theorem State.setTower_hbmCheck (s : State) (k : Nat) (v : Tower) : (s.setTower k v).hbmCheck = s.hbmCheck := rfl
@[simp] theorem State.setTower_slots (s : State) (k : Nat) (v : Tower) : (s.setTower k v).slots = s.slots := rfl
@[simp] theorem State.setTower_engs (s : State) (k : Nat) (v : Tower) : (s.setTower k v).engs = s.engs := rfl
@[simp] theorem State.setTower_cols (s : State) (k : Nat) (v : Tower) : (s.setTower k v).cols = s.cols := rfl
@[simp] theorem State.setTower_towers (s : State) (k : Nat) (v : Tower) : (s.setTower k v).towers = s.towers.put k v := rfl
@[simp] theorem State.setTower_flights (s : State) (k : Nat) (v : Tower) : (s.setTower k v).flights = s.flights := rfl
@[simp] theorem State.setTower_stores (s : State) (k : Nat) (v : Tower) : (s.setTower k v).stores = s.stores := rfl
@[simp] theorem State.setTower_async (s : State) (k : Nat) (v : Tower) : (s.setTower k v).async = s.async := rfl
@[simp] theorem State.setTower_farHeld (s : State) (k : Nat) (v : Tower) : (s.setTower k v).farHeld = s.farHeld := rfl
@[simp] theorem State.setTower_privs (s : State) (k : Nat) (v : Tower) : (s.setTower k v).privs = s.privs := rfl
@[simp] theorem State.setTower_reqs (s : State) (k : Nat) (v : Tower) : (s.setTower k v).reqs = s.reqs := rfl
@[simp] theorem State.setTower_arrivals (s : State) (k : Nat) (v : Tower) : (s.setTower k v).arrivals = s.arrivals := rfl
@[simp] theorem State.setTower_ctlq (s : State) (k : Nat) (v : Tower) : (s.setTower k v).ctlq = s.ctlq := rfl
@[simp] theorem State.setTower_pierCtl (s : State) (k : Nat) (v : Tower) : (s.setTower k v).pierCtl = s.pierCtl := rfl
@[simp] theorem State.setTower_refLog (s : State) (k : Nat) (v : Tower) : (s.setTower k v).refLog = s.refLog := rfl
@[simp] theorem State.setTower_devCtl (s : State) (k : Nat) (v : Tower) : (s.setTower k v).devCtl = s.devCtl := rfl
@[simp] theorem State.setTower_groups (s : State) (k : Nat) (v : Tower) : (s.setTower k v).groups = s.groups := rfl
@[simp] theorem State.setTower_launches (s : State) (k : Nat) (v : Tower) : (s.setTower k v).launches = s.launches := rfl
@[simp] theorem State.setTower_downs (s : State) (k : Nat) (v : Tower) : (s.setTower k v).downs = s.downs := rfl
@[simp] theorem State.setTower_hevents (s : State) (k : Nat) (v : Tower) : (s.setTower k v).hevents = s.hevents := rfl
@[simp] theorem State.setTower_hevSeq (s : State) (k : Nat) (v : Tower) : (s.setTower k v).hevSeq = s.hevSeq := rfl
@[simp] theorem State.setTower_irqs (s : State) (k : Nat) (v : Tower) : (s.setTower k v).irqs = s.irqs := rfl
@[simp] theorem State.setTower_irqWaits (s : State) (k : Nat) (v : Tower) : (s.setTower k v).irqWaits = s.irqWaits := rfl
@[simp] theorem State.setTower_sites (s : State) (k : Nat) (v : Tower) : (s.setTower k v).sites = s.sites := rfl
@[simp] theorem State.setTower_ctxs (s : State) (k : Nat) (v : Tower) : (s.setTower k v).ctxs = s.ctxs := rfl
@[simp] theorem State.setTower_quads (s : State) (k : Nat) (v : Tower) : (s.setTower k v).quads = s.quads := rfl
@[simp] theorem State.setTower_link (s : State) (k : Nat) (v : Tower) : (s.setTower k v).link = s.link := rfl
@[simp] theorem State.setTower_fports (s : State) (k : Nat) (v : Tower) : (s.setTower k v).fports = s.fports := rfl
@[simp] theorem State.setTower_routes (s : State) (k : Nat) (v : Tower) : (s.setTower k v).routes = s.routes := rfl
@[simp] theorem State.setTower_pages (s : State) (k : Nat) (v : Tower) : (s.setTower k v).pages = s.pages := rfl
@[simp] theorem State.setTower_auditor (s : State) (k : Nat) (v : Tower) : (s.setTower k v).auditor = s.auditor := rfl
@[simp] theorem State.setTower_evict (s : State) (k : Nat) (v : Tower) : (s.setTower k v).evict = s.evict := rfl
@[simp] theorem State.setTower_ages (s : State) (k : Nat) (v : Tower) : (s.setTower k v).ages = s.ages := rfl
@[simp] theorem State.setTower_heats (s : State) (k : Nat) (v : Tower) : (s.setTower k v).heats = s.heats := rfl
@[simp] theorem State.setTower_purges (s : State) (k : Nat) (v : Tower) : (s.setTower k v).purges = s.purges := rfl
@[simp] theorem State.setTower_purgeErr (s : State) (k : Nat) (v : Tower) : (s.setTower k v).purgeErr = s.purgeErr := rfl
@[simp] theorem State.setTower_remapping (s : State) (k : Nat) (v : Tower) : (s.setTower k v).remapping = s.remapping := rfl
@[simp] theorem State.setTower_remapErr (s : State) (k : Nat) (v : Tower) : (s.setTower k v).remapErr = s.remapErr := rfl
@[simp] theorem State.setTower_ctxBusy (s : State) (k : Nat) (v : Tower) : (s.setTower k v).ctxBusy = s.ctxBusy := rfl
@[simp] theorem State.setTower_ctxLast (s : State) (k : Nat) (v : Tower) : (s.setTower k v).ctxLast = s.ctxLast := rfl
@[simp] theorem State.setTower_ctxErr (s : State) (k : Nat) (v : Tower) : (s.setTower k v).ctxErr = s.ctxErr := rfl
@[simp] theorem State.setTower_opPoint (s : State) (k : Nat) (v : Tower) : (s.setTower k v).opPoint = s.opPoint := rfl
@[simp] theorem State.setTower_opCap (s : State) (k : Nat) (v : Tower) : (s.setTower k v).opCap = s.opCap := rfl
@[simp] theorem State.setTower_feFree (s : State) (k : Nat) (v : Tower) : (s.setTower k v).feFree = s.feFree := rfl
@[simp] theorem State.setTower_chans (s : State) (k : Nat) (v : Tower) : (s.setTower k v).chans = s.chans := rfl
@[simp] theorem State.setTower_hole (s : State) (k : Nat) (v : Tower) : (s.setTower k v).hole = s.hole := rfl
@[simp] theorem State.setTower_jobs (s : State) (k : Nat) (v : Tower) : (s.setTower k v).jobs = s.jobs := rfl
@[simp] theorem State.setTower_fqueues (s : State) (k : Nat) (v : Tower) : (s.setTower k v).fqueues = s.fqueues := rfl
@[simp] theorem State.setTower_rr (s : State) (k : Nat) (v : Tower) : (s.setTower k v).rr = s.rr := rfl
@[simp] theorem State.setTower_returned (s : State) (k : Nat) (v : Tower) : (s.setTower k v).returned = s.returned := rfl
@[simp] theorem State.setTower_admitted (s : State) (k : Nat) (v : Tower) : (s.setTower k v).admitted = s.admitted := rfl
@[simp] theorem State.setTower_orphans (s : State) (k : Nat) (v : Tower) : (s.setTower k v).orphans = s.orphans := rfl
@[simp] theorem State.setTower_moves (s : State) (k : Nat) (v : Tower) : (s.setTower k v).moves = s.moves := rfl
@[simp] theorem State.setTower_colls (s : State) (k : Nat) (v : Tower) : (s.setTower k v).colls = s.colls := rfl
@[simp] theorem State.setTower_collNext (s : State) (k : Nat) (v : Tower) : (s.setTower k v).collNext = s.collNext := rfl
@[simp] theorem State.setTower_failedSites (s : State) (k : Nat) (v : Tower) : (s.setTower k v).failedSites = s.failedSites := rfl
@[simp] theorem State.setTower_remapTable (s : State) (k : Nat) (v : Tower) : (s.setTower k v).remapTable = s.remapTable := rfl
@[simp] theorem State.setTower_flits (s : State) (k : Nat) (v : Tower) : (s.setTower k v).flits = s.flits := rfl
@[simp] theorem State.setTower_inbox (s : State) (k : Nat) (v : Tower) : (s.setTower k v).inbox = s.inbox := rfl
@[simp] theorem State.setTower_answers (s : State) (k : Nat) (v : Tower) : (s.setTower k v).answers = s.answers := rfl
@[simp] theorem State.setTower_identity (s : State) (k : Nat) (v : Tower) : (s.setTower k v).identity = s.identity := rfl
@[simp] theorem State.setTower_fwImage (s : State) (k : Nat) (v : Tower) : (s.setTower k v).fwImage = s.fwImage := rfl
@[simp] theorem State.setTower_tripped (s : State) (k : Nat) (v : Tower) : (s.setTower k v).tripped = s.tripped := rfl
@[simp] theorem State.setTower_stuckAt (s : State) (k : Nat) (v : Tower) : (s.setTower k v).stuckAt = s.stuckAt := rfl
@[simp] theorem State.setTower_quoin (s : State) (k : Nat) (v : Tower) : (s.setTower k v).quoin = s.quoin := rfl
@[simp] theorem State.setTower_attesting (s : State) (k : Nat) (v : Tower) : (s.setTower k v).attesting = s.attesting := rfl
@[simp] theorem State.setTower_audits (s : State) (k : Nat) (v : Tower) : (s.setTower k v).audits = s.audits := rfl
@[simp] theorem State.setTower_hostWaits (s : State) (k : Nat) (v : Tower) : (s.setTower k v).hostWaits = s.hostWaits := rfl
@[simp] theorem State.setTower_denied (s : State) (k : Nat) (v : Tower) : (s.setTower k v).denied = s.denied := rfl
@[simp] theorem State.setTower_refCode (s : State) (k : Nat) (v : Tower) : (s.setTower k v).refCode = s.refCode := rfl
@[simp] theorem State.setTower_capTick (s : State) (k : Nat) (v : Tower) : (s.setTower k v).capTick = s.capTick := rfl
@[simp] theorem State.setTower_courseLosses (s : State) (k : Nat) (v : Tower) : (s.setTower k v).courseLosses = s.courseLosses := rfl

/-! ### setE -/

@[simp] theorem State.setE_cyc (s : State) (v : Engine) : (s.setE v).cyc = s.cyc := rfl
@[simp] theorem State.setE_cur (s : State) (v : Engine) : (s.setE v).cur = s.cur := rfl
@[simp] theorem State.setE_subject (s : State) (v : Engine) : (s.setE v).subject = s.subject := rfl
@[simp] theorem State.setE_picked (s : State) (v : Engine) : (s.setE v).picked = s.picked := rfl
@[simp] theorem State.setE_chosen (s : State) (v : Engine) : (s.setE v).chosen = s.chosen := rfl
@[simp] theorem State.setE_dawn (s : State) (v : Engine) : (s.setE v).dawn = s.dawn := rfl
@[simp] theorem State.setE_issued (s : State) (v : Engine) : (s.setE v).issued = s.issued := rfl
@[simp] theorem State.setE_agenda (s : State) (v : Engine) : (s.setE v).agenda = s.agenda := rfl
@[simp] theorem State.setE_nextId (s : State) (v : Engine) : (s.setE v).nextId = s.nextId := rfl
@[simp] theorem State.setE_nextFree (s : State) (v : Engine) : (s.setE v).nextFree = s.nextFree := rfl
@[simp] theorem State.setE_mem (s : State) (v : Engine) : (s.setE v).mem = s.mem := rfl
@[simp] theorem State.setE_poison (s : State) (v : Engine) : (s.setE v).poison = s.poison := rfl
@[simp] theorem State.setE_bitErrs (s : State) (v : Engine) : (s.setE v).bitErrs = s.bitErrs := rfl
@[simp] theorem State.setE_hbmMeta (s : State) (v : Engine) : (s.setE v).hbmMeta = s.hbmMeta := rfl
@[simp] theorem State.setE_hbmCheck (s : State) (v : Engine) : (s.setE v).hbmCheck = s.hbmCheck := rfl
@[simp] theorem State.setE_slots (s : State) (v : Engine) : (s.setE v).slots = s.slots := rfl
@[simp] theorem State.setE_engs (s : State) (v : Engine) : (s.setE v).engs = s.engs.put s.cur.ek v := rfl
@[simp] theorem State.setE_cols (s : State) (v : Engine) : (s.setE v).cols = s.cols := rfl
@[simp] theorem State.setE_towers (s : State) (v : Engine) : (s.setE v).towers = s.towers := rfl
@[simp] theorem State.setE_flights (s : State) (v : Engine) : (s.setE v).flights = s.flights := rfl
@[simp] theorem State.setE_stores (s : State) (v : Engine) : (s.setE v).stores = s.stores := rfl
@[simp] theorem State.setE_async (s : State) (v : Engine) : (s.setE v).async = s.async := rfl
@[simp] theorem State.setE_farHeld (s : State) (v : Engine) : (s.setE v).farHeld = s.farHeld := rfl
@[simp] theorem State.setE_privs (s : State) (v : Engine) : (s.setE v).privs = s.privs := rfl
@[simp] theorem State.setE_reqs (s : State) (v : Engine) : (s.setE v).reqs = s.reqs := rfl
@[simp] theorem State.setE_arrivals (s : State) (v : Engine) : (s.setE v).arrivals = s.arrivals := rfl
@[simp] theorem State.setE_ctlq (s : State) (v : Engine) : (s.setE v).ctlq = s.ctlq := rfl
@[simp] theorem State.setE_pierCtl (s : State) (v : Engine) : (s.setE v).pierCtl = s.pierCtl := rfl
@[simp] theorem State.setE_refLog (s : State) (v : Engine) : (s.setE v).refLog = s.refLog := rfl
@[simp] theorem State.setE_devCtl (s : State) (v : Engine) : (s.setE v).devCtl = s.devCtl := rfl
@[simp] theorem State.setE_groups (s : State) (v : Engine) : (s.setE v).groups = s.groups := rfl
@[simp] theorem State.setE_launches (s : State) (v : Engine) : (s.setE v).launches = s.launches := rfl
@[simp] theorem State.setE_downs (s : State) (v : Engine) : (s.setE v).downs = s.downs := rfl
@[simp] theorem State.setE_hevents (s : State) (v : Engine) : (s.setE v).hevents = s.hevents := rfl
@[simp] theorem State.setE_hevSeq (s : State) (v : Engine) : (s.setE v).hevSeq = s.hevSeq := rfl
@[simp] theorem State.setE_irqs (s : State) (v : Engine) : (s.setE v).irqs = s.irqs := rfl
@[simp] theorem State.setE_irqWaits (s : State) (v : Engine) : (s.setE v).irqWaits = s.irqWaits := rfl
@[simp] theorem State.setE_sites (s : State) (v : Engine) : (s.setE v).sites = s.sites := rfl
@[simp] theorem State.setE_ctxs (s : State) (v : Engine) : (s.setE v).ctxs = s.ctxs := rfl
@[simp] theorem State.setE_quads (s : State) (v : Engine) : (s.setE v).quads = s.quads := rfl
@[simp] theorem State.setE_link (s : State) (v : Engine) : (s.setE v).link = s.link := rfl
@[simp] theorem State.setE_fports (s : State) (v : Engine) : (s.setE v).fports = s.fports := rfl
@[simp] theorem State.setE_routes (s : State) (v : Engine) : (s.setE v).routes = s.routes := rfl
@[simp] theorem State.setE_pages (s : State) (v : Engine) : (s.setE v).pages = s.pages := rfl
@[simp] theorem State.setE_auditor (s : State) (v : Engine) : (s.setE v).auditor = s.auditor := rfl
@[simp] theorem State.setE_evict (s : State) (v : Engine) : (s.setE v).evict = s.evict := rfl
@[simp] theorem State.setE_ages (s : State) (v : Engine) : (s.setE v).ages = s.ages := rfl
@[simp] theorem State.setE_heats (s : State) (v : Engine) : (s.setE v).heats = s.heats := rfl
@[simp] theorem State.setE_purges (s : State) (v : Engine) : (s.setE v).purges = s.purges := rfl
@[simp] theorem State.setE_purgeErr (s : State) (v : Engine) : (s.setE v).purgeErr = s.purgeErr := rfl
@[simp] theorem State.setE_remapping (s : State) (v : Engine) : (s.setE v).remapping = s.remapping := rfl
@[simp] theorem State.setE_remapErr (s : State) (v : Engine) : (s.setE v).remapErr = s.remapErr := rfl
@[simp] theorem State.setE_ctxBusy (s : State) (v : Engine) : (s.setE v).ctxBusy = s.ctxBusy := rfl
@[simp] theorem State.setE_ctxLast (s : State) (v : Engine) : (s.setE v).ctxLast = s.ctxLast := rfl
@[simp] theorem State.setE_ctxErr (s : State) (v : Engine) : (s.setE v).ctxErr = s.ctxErr := rfl
@[simp] theorem State.setE_opPoint (s : State) (v : Engine) : (s.setE v).opPoint = s.opPoint := rfl
@[simp] theorem State.setE_opCap (s : State) (v : Engine) : (s.setE v).opCap = s.opCap := rfl
@[simp] theorem State.setE_feFree (s : State) (v : Engine) : (s.setE v).feFree = s.feFree := rfl
@[simp] theorem State.setE_chans (s : State) (v : Engine) : (s.setE v).chans = s.chans := rfl
@[simp] theorem State.setE_hole (s : State) (v : Engine) : (s.setE v).hole = s.hole := rfl
@[simp] theorem State.setE_jobs (s : State) (v : Engine) : (s.setE v).jobs = s.jobs := rfl
@[simp] theorem State.setE_fqueues (s : State) (v : Engine) : (s.setE v).fqueues = s.fqueues := rfl
@[simp] theorem State.setE_rr (s : State) (v : Engine) : (s.setE v).rr = s.rr := rfl
@[simp] theorem State.setE_returned (s : State) (v : Engine) : (s.setE v).returned = s.returned := rfl
@[simp] theorem State.setE_admitted (s : State) (v : Engine) : (s.setE v).admitted = s.admitted := rfl
@[simp] theorem State.setE_orphans (s : State) (v : Engine) : (s.setE v).orphans = s.orphans := rfl
@[simp] theorem State.setE_moves (s : State) (v : Engine) : (s.setE v).moves = s.moves := rfl
@[simp] theorem State.setE_colls (s : State) (v : Engine) : (s.setE v).colls = s.colls := rfl
@[simp] theorem State.setE_collNext (s : State) (v : Engine) : (s.setE v).collNext = s.collNext := rfl
@[simp] theorem State.setE_failedSites (s : State) (v : Engine) : (s.setE v).failedSites = s.failedSites := rfl
@[simp] theorem State.setE_remapTable (s : State) (v : Engine) : (s.setE v).remapTable = s.remapTable := rfl
@[simp] theorem State.setE_flits (s : State) (v : Engine) : (s.setE v).flits = s.flits := rfl
@[simp] theorem State.setE_inbox (s : State) (v : Engine) : (s.setE v).inbox = s.inbox := rfl
@[simp] theorem State.setE_answers (s : State) (v : Engine) : (s.setE v).answers = s.answers := rfl
@[simp] theorem State.setE_identity (s : State) (v : Engine) : (s.setE v).identity = s.identity := rfl
@[simp] theorem State.setE_fwImage (s : State) (v : Engine) : (s.setE v).fwImage = s.fwImage := rfl
@[simp] theorem State.setE_tripped (s : State) (v : Engine) : (s.setE v).tripped = s.tripped := rfl
@[simp] theorem State.setE_stuckAt (s : State) (v : Engine) : (s.setE v).stuckAt = s.stuckAt := rfl
@[simp] theorem State.setE_quoin (s : State) (v : Engine) : (s.setE v).quoin = s.quoin := rfl
@[simp] theorem State.setE_attesting (s : State) (v : Engine) : (s.setE v).attesting = s.attesting := rfl
@[simp] theorem State.setE_audits (s : State) (v : Engine) : (s.setE v).audits = s.audits := rfl
@[simp] theorem State.setE_hostWaits (s : State) (v : Engine) : (s.setE v).hostWaits = s.hostWaits := rfl
@[simp] theorem State.setE_denied (s : State) (v : Engine) : (s.setE v).denied = s.denied := rfl
@[simp] theorem State.setE_refCode (s : State) (v : Engine) : (s.setE v).refCode = s.refCode := rfl
@[simp] theorem State.setE_capTick (s : State) (v : Engine) : (s.setE v).capTick = s.capTick := rfl
@[simp] theorem State.setE_courseLosses (s : State) (v : Engine) : (s.setE v).courseLosses = s.courseLosses := rfl

/-! ### setSl -/

@[simp] theorem State.setSl_cyc (s : State) (v : Slot) : (s.setSl v).cyc = s.cyc := rfl
@[simp] theorem State.setSl_cur (s : State) (v : Slot) : (s.setSl v).cur = s.cur := rfl
@[simp] theorem State.setSl_subject (s : State) (v : Slot) : (s.setSl v).subject = s.subject := rfl
@[simp] theorem State.setSl_picked (s : State) (v : Slot) : (s.setSl v).picked = s.picked := rfl
@[simp] theorem State.setSl_chosen (s : State) (v : Slot) : (s.setSl v).chosen = s.chosen := rfl
@[simp] theorem State.setSl_dawn (s : State) (v : Slot) : (s.setSl v).dawn = s.dawn := rfl
@[simp] theorem State.setSl_issued (s : State) (v : Slot) : (s.setSl v).issued = s.issued := rfl
@[simp] theorem State.setSl_agenda (s : State) (v : Slot) : (s.setSl v).agenda = s.agenda := rfl
@[simp] theorem State.setSl_nextId (s : State) (v : Slot) : (s.setSl v).nextId = s.nextId := rfl
@[simp] theorem State.setSl_nextFree (s : State) (v : Slot) : (s.setSl v).nextFree = s.nextFree := rfl
@[simp] theorem State.setSl_mem (s : State) (v : Slot) : (s.setSl v).mem = s.mem := rfl
@[simp] theorem State.setSl_poison (s : State) (v : Slot) : (s.setSl v).poison = s.poison := rfl
@[simp] theorem State.setSl_bitErrs (s : State) (v : Slot) : (s.setSl v).bitErrs = s.bitErrs := rfl
@[simp] theorem State.setSl_hbmMeta (s : State) (v : Slot) : (s.setSl v).hbmMeta = s.hbmMeta := rfl
@[simp] theorem State.setSl_hbmCheck (s : State) (v : Slot) : (s.setSl v).hbmCheck = s.hbmCheck := rfl
@[simp] theorem State.setSl_slots (s : State) (v : Slot) : (s.setSl v).slots = s.slots.put s.cur.sk v := rfl
@[simp] theorem State.setSl_engs (s : State) (v : Slot) : (s.setSl v).engs = s.engs := rfl
@[simp] theorem State.setSl_cols (s : State) (v : Slot) : (s.setSl v).cols = s.cols := rfl
@[simp] theorem State.setSl_towers (s : State) (v : Slot) : (s.setSl v).towers = s.towers := rfl
@[simp] theorem State.setSl_flights (s : State) (v : Slot) : (s.setSl v).flights = s.flights := rfl
@[simp] theorem State.setSl_stores (s : State) (v : Slot) : (s.setSl v).stores = s.stores := rfl
@[simp] theorem State.setSl_async (s : State) (v : Slot) : (s.setSl v).async = s.async := rfl
@[simp] theorem State.setSl_farHeld (s : State) (v : Slot) : (s.setSl v).farHeld = s.farHeld := rfl
@[simp] theorem State.setSl_privs (s : State) (v : Slot) : (s.setSl v).privs = s.privs := rfl
@[simp] theorem State.setSl_reqs (s : State) (v : Slot) : (s.setSl v).reqs = s.reqs := rfl
@[simp] theorem State.setSl_arrivals (s : State) (v : Slot) : (s.setSl v).arrivals = s.arrivals := rfl
@[simp] theorem State.setSl_ctlq (s : State) (v : Slot) : (s.setSl v).ctlq = s.ctlq := rfl
@[simp] theorem State.setSl_pierCtl (s : State) (v : Slot) : (s.setSl v).pierCtl = s.pierCtl := rfl
@[simp] theorem State.setSl_refLog (s : State) (v : Slot) : (s.setSl v).refLog = s.refLog := rfl
@[simp] theorem State.setSl_devCtl (s : State) (v : Slot) : (s.setSl v).devCtl = s.devCtl := rfl
@[simp] theorem State.setSl_groups (s : State) (v : Slot) : (s.setSl v).groups = s.groups := rfl
@[simp] theorem State.setSl_launches (s : State) (v : Slot) : (s.setSl v).launches = s.launches := rfl
@[simp] theorem State.setSl_downs (s : State) (v : Slot) : (s.setSl v).downs = s.downs := rfl
@[simp] theorem State.setSl_hevents (s : State) (v : Slot) : (s.setSl v).hevents = s.hevents := rfl
@[simp] theorem State.setSl_hevSeq (s : State) (v : Slot) : (s.setSl v).hevSeq = s.hevSeq := rfl
@[simp] theorem State.setSl_irqs (s : State) (v : Slot) : (s.setSl v).irqs = s.irqs := rfl
@[simp] theorem State.setSl_irqWaits (s : State) (v : Slot) : (s.setSl v).irqWaits = s.irqWaits := rfl
@[simp] theorem State.setSl_sites (s : State) (v : Slot) : (s.setSl v).sites = s.sites := rfl
@[simp] theorem State.setSl_ctxs (s : State) (v : Slot) : (s.setSl v).ctxs = s.ctxs := rfl
@[simp] theorem State.setSl_quads (s : State) (v : Slot) : (s.setSl v).quads = s.quads := rfl
@[simp] theorem State.setSl_link (s : State) (v : Slot) : (s.setSl v).link = s.link := rfl
@[simp] theorem State.setSl_fports (s : State) (v : Slot) : (s.setSl v).fports = s.fports := rfl
@[simp] theorem State.setSl_routes (s : State) (v : Slot) : (s.setSl v).routes = s.routes := rfl
@[simp] theorem State.setSl_pages (s : State) (v : Slot) : (s.setSl v).pages = s.pages := rfl
@[simp] theorem State.setSl_auditor (s : State) (v : Slot) : (s.setSl v).auditor = s.auditor := rfl
@[simp] theorem State.setSl_evict (s : State) (v : Slot) : (s.setSl v).evict = s.evict := rfl
@[simp] theorem State.setSl_ages (s : State) (v : Slot) : (s.setSl v).ages = s.ages := rfl
@[simp] theorem State.setSl_heats (s : State) (v : Slot) : (s.setSl v).heats = s.heats := rfl
@[simp] theorem State.setSl_purges (s : State) (v : Slot) : (s.setSl v).purges = s.purges := rfl
@[simp] theorem State.setSl_purgeErr (s : State) (v : Slot) : (s.setSl v).purgeErr = s.purgeErr := rfl
@[simp] theorem State.setSl_remapping (s : State) (v : Slot) : (s.setSl v).remapping = s.remapping := rfl
@[simp] theorem State.setSl_remapErr (s : State) (v : Slot) : (s.setSl v).remapErr = s.remapErr := rfl
@[simp] theorem State.setSl_ctxBusy (s : State) (v : Slot) : (s.setSl v).ctxBusy = s.ctxBusy := rfl
@[simp] theorem State.setSl_ctxLast (s : State) (v : Slot) : (s.setSl v).ctxLast = s.ctxLast := rfl
@[simp] theorem State.setSl_ctxErr (s : State) (v : Slot) : (s.setSl v).ctxErr = s.ctxErr := rfl
@[simp] theorem State.setSl_opPoint (s : State) (v : Slot) : (s.setSl v).opPoint = s.opPoint := rfl
@[simp] theorem State.setSl_opCap (s : State) (v : Slot) : (s.setSl v).opCap = s.opCap := rfl
@[simp] theorem State.setSl_feFree (s : State) (v : Slot) : (s.setSl v).feFree = s.feFree := rfl
@[simp] theorem State.setSl_chans (s : State) (v : Slot) : (s.setSl v).chans = s.chans := rfl
@[simp] theorem State.setSl_hole (s : State) (v : Slot) : (s.setSl v).hole = s.hole := rfl
@[simp] theorem State.setSl_jobs (s : State) (v : Slot) : (s.setSl v).jobs = s.jobs := rfl
@[simp] theorem State.setSl_fqueues (s : State) (v : Slot) : (s.setSl v).fqueues = s.fqueues := rfl
@[simp] theorem State.setSl_rr (s : State) (v : Slot) : (s.setSl v).rr = s.rr := rfl
@[simp] theorem State.setSl_returned (s : State) (v : Slot) : (s.setSl v).returned = s.returned := rfl
@[simp] theorem State.setSl_admitted (s : State) (v : Slot) : (s.setSl v).admitted = s.admitted := rfl
@[simp] theorem State.setSl_orphans (s : State) (v : Slot) : (s.setSl v).orphans = s.orphans := rfl
@[simp] theorem State.setSl_moves (s : State) (v : Slot) : (s.setSl v).moves = s.moves := rfl
@[simp] theorem State.setSl_colls (s : State) (v : Slot) : (s.setSl v).colls = s.colls := rfl
@[simp] theorem State.setSl_collNext (s : State) (v : Slot) : (s.setSl v).collNext = s.collNext := rfl
@[simp] theorem State.setSl_failedSites (s : State) (v : Slot) : (s.setSl v).failedSites = s.failedSites := rfl
@[simp] theorem State.setSl_remapTable (s : State) (v : Slot) : (s.setSl v).remapTable = s.remapTable := rfl
@[simp] theorem State.setSl_flits (s : State) (v : Slot) : (s.setSl v).flits = s.flits := rfl
@[simp] theorem State.setSl_inbox (s : State) (v : Slot) : (s.setSl v).inbox = s.inbox := rfl
@[simp] theorem State.setSl_answers (s : State) (v : Slot) : (s.setSl v).answers = s.answers := rfl
@[simp] theorem State.setSl_identity (s : State) (v : Slot) : (s.setSl v).identity = s.identity := rfl
@[simp] theorem State.setSl_fwImage (s : State) (v : Slot) : (s.setSl v).fwImage = s.fwImage := rfl
@[simp] theorem State.setSl_tripped (s : State) (v : Slot) : (s.setSl v).tripped = s.tripped := rfl
@[simp] theorem State.setSl_stuckAt (s : State) (v : Slot) : (s.setSl v).stuckAt = s.stuckAt := rfl
@[simp] theorem State.setSl_quoin (s : State) (v : Slot) : (s.setSl v).quoin = s.quoin := rfl
@[simp] theorem State.setSl_attesting (s : State) (v : Slot) : (s.setSl v).attesting = s.attesting := rfl
@[simp] theorem State.setSl_audits (s : State) (v : Slot) : (s.setSl v).audits = s.audits := rfl
@[simp] theorem State.setSl_hostWaits (s : State) (v : Slot) : (s.setSl v).hostWaits = s.hostWaits := rfl
@[simp] theorem State.setSl_denied (s : State) (v : Slot) : (s.setSl v).denied = s.denied := rfl
@[simp] theorem State.setSl_refCode (s : State) (v : Slot) : (s.setSl v).refCode = s.refCode := rfl
@[simp] theorem State.setSl_capTick (s : State) (v : Slot) : (s.setSl v).capTick = s.capTick := rfl
@[simp] theorem State.setSl_courseLosses (s : State) (v : Slot) : (s.setSl v).courseLosses = s.courseLosses := rfl

/-! ### due -/

@[simp] theorem State.due_cyc (s : State) (t p : Nat) (i : Instr) (a : Nat) : (s.due t p i a).cyc = s.cyc := rfl
@[simp] theorem State.due_cur (s : State) (t p : Nat) (i : Instr) (a : Nat) : (s.due t p i a).cur = s.cur := rfl
@[simp] theorem State.due_subject (s : State) (t p : Nat) (i : Instr) (a : Nat) : (s.due t p i a).subject = s.subject := rfl
@[simp] theorem State.due_picked (s : State) (t p : Nat) (i : Instr) (a : Nat) : (s.due t p i a).picked = s.picked := rfl
@[simp] theorem State.due_chosen (s : State) (t p : Nat) (i : Instr) (a : Nat) : (s.due t p i a).chosen = s.chosen := rfl
@[simp] theorem State.due_dawn (s : State) (t p : Nat) (i : Instr) (a : Nat) : (s.due t p i a).dawn = s.dawn := rfl
@[simp] theorem State.due_issued (s : State) (t p : Nat) (i : Instr) (a : Nat) : (s.due t p i a).issued = s.issued := rfl
@[simp] theorem State.due_agenda (s : State) (t p : Nat) (i : Instr) (a : Nat) : (s.due t p i a).agenda = s.agenda ++ [⟨t, p, i, a⟩] := rfl
@[simp] theorem State.due_nextId (s : State) (t p : Nat) (i : Instr) (a : Nat) : (s.due t p i a).nextId = s.nextId := rfl
@[simp] theorem State.due_nextFree (s : State) (t p : Nat) (i : Instr) (a : Nat) : (s.due t p i a).nextFree = s.nextFree := rfl
@[simp] theorem State.due_mem (s : State) (t p : Nat) (i : Instr) (a : Nat) : (s.due t p i a).mem = s.mem := rfl
@[simp] theorem State.due_poison (s : State) (t p : Nat) (i : Instr) (a : Nat) : (s.due t p i a).poison = s.poison := rfl
@[simp] theorem State.due_bitErrs (s : State) (t p : Nat) (i : Instr) (a : Nat) : (s.due t p i a).bitErrs = s.bitErrs := rfl
@[simp] theorem State.due_hbmMeta (s : State) (t p : Nat) (i : Instr) (a : Nat) : (s.due t p i a).hbmMeta = s.hbmMeta := rfl
@[simp] theorem State.due_hbmCheck (s : State) (t p : Nat) (i : Instr) (a : Nat) : (s.due t p i a).hbmCheck = s.hbmCheck := rfl
@[simp] theorem State.due_slots (s : State) (t p : Nat) (i : Instr) (a : Nat) : (s.due t p i a).slots = s.slots := rfl
@[simp] theorem State.due_engs (s : State) (t p : Nat) (i : Instr) (a : Nat) : (s.due t p i a).engs = s.engs := rfl
@[simp] theorem State.due_cols (s : State) (t p : Nat) (i : Instr) (a : Nat) : (s.due t p i a).cols = s.cols := rfl
@[simp] theorem State.due_towers (s : State) (t p : Nat) (i : Instr) (a : Nat) : (s.due t p i a).towers = s.towers := rfl
@[simp] theorem State.due_flights (s : State) (t p : Nat) (i : Instr) (a : Nat) : (s.due t p i a).flights = s.flights := rfl
@[simp] theorem State.due_stores (s : State) (t p : Nat) (i : Instr) (a : Nat) : (s.due t p i a).stores = s.stores := rfl
@[simp] theorem State.due_async (s : State) (t p : Nat) (i : Instr) (a : Nat) : (s.due t p i a).async = s.async := rfl
@[simp] theorem State.due_farHeld (s : State) (t p : Nat) (i : Instr) (a : Nat) : (s.due t p i a).farHeld = s.farHeld := rfl
@[simp] theorem State.due_privs (s : State) (t p : Nat) (i : Instr) (a : Nat) : (s.due t p i a).privs = s.privs := rfl
@[simp] theorem State.due_reqs (s : State) (t p : Nat) (i : Instr) (a : Nat) : (s.due t p i a).reqs = s.reqs := rfl
@[simp] theorem State.due_arrivals (s : State) (t p : Nat) (i : Instr) (a : Nat) : (s.due t p i a).arrivals = s.arrivals := rfl
@[simp] theorem State.due_ctlq (s : State) (t p : Nat) (i : Instr) (a : Nat) : (s.due t p i a).ctlq = s.ctlq := rfl
@[simp] theorem State.due_pierCtl (s : State) (t p : Nat) (i : Instr) (a : Nat) : (s.due t p i a).pierCtl = s.pierCtl := rfl
@[simp] theorem State.due_refLog (s : State) (t p : Nat) (i : Instr) (a : Nat) : (s.due t p i a).refLog = s.refLog := rfl
@[simp] theorem State.due_devCtl (s : State) (t p : Nat) (i : Instr) (a : Nat) : (s.due t p i a).devCtl = s.devCtl := rfl
@[simp] theorem State.due_groups (s : State) (t p : Nat) (i : Instr) (a : Nat) : (s.due t p i a).groups = s.groups := rfl
@[simp] theorem State.due_launches (s : State) (t p : Nat) (i : Instr) (a : Nat) : (s.due t p i a).launches = s.launches := rfl
@[simp] theorem State.due_downs (s : State) (t p : Nat) (i : Instr) (a : Nat) : (s.due t p i a).downs = s.downs := rfl
@[simp] theorem State.due_hevents (s : State) (t p : Nat) (i : Instr) (a : Nat) : (s.due t p i a).hevents = s.hevents := rfl
@[simp] theorem State.due_hevSeq (s : State) (t p : Nat) (i : Instr) (a : Nat) : (s.due t p i a).hevSeq = s.hevSeq := rfl
@[simp] theorem State.due_irqs (s : State) (t p : Nat) (i : Instr) (a : Nat) : (s.due t p i a).irqs = s.irqs := rfl
@[simp] theorem State.due_irqWaits (s : State) (t p : Nat) (i : Instr) (a : Nat) : (s.due t p i a).irqWaits = s.irqWaits := rfl
@[simp] theorem State.due_sites (s : State) (t p : Nat) (i : Instr) (a : Nat) : (s.due t p i a).sites = s.sites := rfl
@[simp] theorem State.due_ctxs (s : State) (t p : Nat) (i : Instr) (a : Nat) : (s.due t p i a).ctxs = s.ctxs := rfl
@[simp] theorem State.due_quads (s : State) (t p : Nat) (i : Instr) (a : Nat) : (s.due t p i a).quads = s.quads := rfl
@[simp] theorem State.due_link (s : State) (t p : Nat) (i : Instr) (a : Nat) : (s.due t p i a).link = s.link := rfl
@[simp] theorem State.due_fports (s : State) (t p : Nat) (i : Instr) (a : Nat) : (s.due t p i a).fports = s.fports := rfl
@[simp] theorem State.due_routes (s : State) (t p : Nat) (i : Instr) (a : Nat) : (s.due t p i a).routes = s.routes := rfl
@[simp] theorem State.due_pages (s : State) (t p : Nat) (i : Instr) (a : Nat) : (s.due t p i a).pages = s.pages := rfl
@[simp] theorem State.due_auditor (s : State) (t p : Nat) (i : Instr) (a : Nat) : (s.due t p i a).auditor = s.auditor := rfl
@[simp] theorem State.due_evict (s : State) (t p : Nat) (i : Instr) (a : Nat) : (s.due t p i a).evict = s.evict := rfl
@[simp] theorem State.due_ages (s : State) (t p : Nat) (i : Instr) (a : Nat) : (s.due t p i a).ages = s.ages := rfl
@[simp] theorem State.due_heats (s : State) (t p : Nat) (i : Instr) (a : Nat) : (s.due t p i a).heats = s.heats := rfl
@[simp] theorem State.due_purges (s : State) (t p : Nat) (i : Instr) (a : Nat) : (s.due t p i a).purges = s.purges := rfl
@[simp] theorem State.due_purgeErr (s : State) (t p : Nat) (i : Instr) (a : Nat) : (s.due t p i a).purgeErr = s.purgeErr := rfl
@[simp] theorem State.due_remapping (s : State) (t p : Nat) (i : Instr) (a : Nat) : (s.due t p i a).remapping = s.remapping := rfl
@[simp] theorem State.due_remapErr (s : State) (t p : Nat) (i : Instr) (a : Nat) : (s.due t p i a).remapErr = s.remapErr := rfl
@[simp] theorem State.due_ctxBusy (s : State) (t p : Nat) (i : Instr) (a : Nat) : (s.due t p i a).ctxBusy = s.ctxBusy := rfl
@[simp] theorem State.due_ctxLast (s : State) (t p : Nat) (i : Instr) (a : Nat) : (s.due t p i a).ctxLast = s.ctxLast := rfl
@[simp] theorem State.due_ctxErr (s : State) (t p : Nat) (i : Instr) (a : Nat) : (s.due t p i a).ctxErr = s.ctxErr := rfl
@[simp] theorem State.due_opPoint (s : State) (t p : Nat) (i : Instr) (a : Nat) : (s.due t p i a).opPoint = s.opPoint := rfl
@[simp] theorem State.due_opCap (s : State) (t p : Nat) (i : Instr) (a : Nat) : (s.due t p i a).opCap = s.opCap := rfl
@[simp] theorem State.due_feFree (s : State) (t p : Nat) (i : Instr) (a : Nat) : (s.due t p i a).feFree = s.feFree := rfl
@[simp] theorem State.due_chans (s : State) (t p : Nat) (i : Instr) (a : Nat) : (s.due t p i a).chans = s.chans := rfl
@[simp] theorem State.due_hole (s : State) (t p : Nat) (i : Instr) (a : Nat) : (s.due t p i a).hole = s.hole := rfl
@[simp] theorem State.due_jobs (s : State) (t p : Nat) (i : Instr) (a : Nat) : (s.due t p i a).jobs = s.jobs := rfl
@[simp] theorem State.due_fqueues (s : State) (t p : Nat) (i : Instr) (a : Nat) : (s.due t p i a).fqueues = s.fqueues := rfl
@[simp] theorem State.due_rr (s : State) (t p : Nat) (i : Instr) (a : Nat) : (s.due t p i a).rr = s.rr := rfl
@[simp] theorem State.due_returned (s : State) (t p : Nat) (i : Instr) (a : Nat) : (s.due t p i a).returned = s.returned := rfl
@[simp] theorem State.due_admitted (s : State) (t p : Nat) (i : Instr) (a : Nat) : (s.due t p i a).admitted = s.admitted := rfl
@[simp] theorem State.due_orphans (s : State) (t p : Nat) (i : Instr) (a : Nat) : (s.due t p i a).orphans = s.orphans := rfl
@[simp] theorem State.due_moves (s : State) (t p : Nat) (i : Instr) (a : Nat) : (s.due t p i a).moves = s.moves := rfl
@[simp] theorem State.due_colls (s : State) (t p : Nat) (i : Instr) (a : Nat) : (s.due t p i a).colls = s.colls := rfl
@[simp] theorem State.due_collNext (s : State) (t p : Nat) (i : Instr) (a : Nat) : (s.due t p i a).collNext = s.collNext := rfl
@[simp] theorem State.due_failedSites (s : State) (t p : Nat) (i : Instr) (a : Nat) : (s.due t p i a).failedSites = s.failedSites := rfl
@[simp] theorem State.due_remapTable (s : State) (t p : Nat) (i : Instr) (a : Nat) : (s.due t p i a).remapTable = s.remapTable := rfl
@[simp] theorem State.due_flits (s : State) (t p : Nat) (i : Instr) (a : Nat) : (s.due t p i a).flits = s.flits := rfl
@[simp] theorem State.due_inbox (s : State) (t p : Nat) (i : Instr) (a : Nat) : (s.due t p i a).inbox = s.inbox := rfl
@[simp] theorem State.due_answers (s : State) (t p : Nat) (i : Instr) (a : Nat) : (s.due t p i a).answers = s.answers := rfl
@[simp] theorem State.due_identity (s : State) (t p : Nat) (i : Instr) (a : Nat) : (s.due t p i a).identity = s.identity := rfl
@[simp] theorem State.due_fwImage (s : State) (t p : Nat) (i : Instr) (a : Nat) : (s.due t p i a).fwImage = s.fwImage := rfl
@[simp] theorem State.due_tripped (s : State) (t p : Nat) (i : Instr) (a : Nat) : (s.due t p i a).tripped = s.tripped := rfl
@[simp] theorem State.due_stuckAt (s : State) (t p : Nat) (i : Instr) (a : Nat) : (s.due t p i a).stuckAt = s.stuckAt := rfl
@[simp] theorem State.due_quoin (s : State) (t p : Nat) (i : Instr) (a : Nat) : (s.due t p i a).quoin = s.quoin := rfl
@[simp] theorem State.due_attesting (s : State) (t p : Nat) (i : Instr) (a : Nat) : (s.due t p i a).attesting = s.attesting := rfl
@[simp] theorem State.due_audits (s : State) (t p : Nat) (i : Instr) (a : Nat) : (s.due t p i a).audits = s.audits := rfl
@[simp] theorem State.due_hostWaits (s : State) (t p : Nat) (i : Instr) (a : Nat) : (s.due t p i a).hostWaits = s.hostWaits := rfl
@[simp] theorem State.due_denied (s : State) (t p : Nat) (i : Instr) (a : Nat) : (s.due t p i a).denied = s.denied := rfl
@[simp] theorem State.due_refCode (s : State) (t p : Nat) (i : Instr) (a : Nat) : (s.due t p i a).refCode = s.refCode := rfl
@[simp] theorem State.due_capTick (s : State) (t p : Nat) (i : Instr) (a : Nat) : (s.due t p i a).capTick = s.capTick := rfl
@[simp] theorem State.due_courseLosses (s : State) (t p : Nat) (i : Instr) (a : Nat) : (s.due t p i a).courseLosses = s.courseLosses := rfl

/-! ### health -/

@[simp] theorem State.health_cyc (s : State) (v : HEvent) : (s.health v).cyc = s.cyc := rfl
@[simp] theorem State.health_cur (s : State) (v : HEvent) : (s.health v).cur = s.cur := rfl
@[simp] theorem State.health_subject (s : State) (v : HEvent) : (s.health v).subject = s.subject := rfl
@[simp] theorem State.health_picked (s : State) (v : HEvent) : (s.health v).picked = s.picked := rfl
@[simp] theorem State.health_chosen (s : State) (v : HEvent) : (s.health v).chosen = s.chosen := rfl
@[simp] theorem State.health_dawn (s : State) (v : HEvent) : (s.health v).dawn = s.dawn := rfl
@[simp] theorem State.health_issued (s : State) (v : HEvent) : (s.health v).issued = s.issued := rfl
@[simp] theorem State.health_agenda (s : State) (v : HEvent) : (s.health v).agenda = s.agenda := rfl
@[simp] theorem State.health_nextId (s : State) (v : HEvent) : (s.health v).nextId = s.nextId := rfl
@[simp] theorem State.health_nextFree (s : State) (v : HEvent) : (s.health v).nextFree = s.nextFree := rfl
@[simp] theorem State.health_mem (s : State) (v : HEvent) : (s.health v).mem = s.mem := rfl
@[simp] theorem State.health_poison (s : State) (v : HEvent) : (s.health v).poison = s.poison := rfl
@[simp] theorem State.health_bitErrs (s : State) (v : HEvent) : (s.health v).bitErrs = s.bitErrs := rfl
@[simp] theorem State.health_hbmMeta (s : State) (v : HEvent) : (s.health v).hbmMeta = s.hbmMeta := rfl
@[simp] theorem State.health_hbmCheck (s : State) (v : HEvent) : (s.health v).hbmCheck = s.hbmCheck := rfl
@[simp] theorem State.health_slots (s : State) (v : HEvent) : (s.health v).slots = s.slots := rfl
@[simp] theorem State.health_engs (s : State) (v : HEvent) : (s.health v).engs = s.engs := rfl
@[simp] theorem State.health_cols (s : State) (v : HEvent) : (s.health v).cols = s.cols := rfl
@[simp] theorem State.health_towers (s : State) (v : HEvent) : (s.health v).towers = s.towers := rfl
@[simp] theorem State.health_flights (s : State) (v : HEvent) : (s.health v).flights = s.flights := rfl
@[simp] theorem State.health_stores (s : State) (v : HEvent) : (s.health v).stores = s.stores := rfl
@[simp] theorem State.health_async (s : State) (v : HEvent) : (s.health v).async = s.async := rfl
@[simp] theorem State.health_farHeld (s : State) (v : HEvent) : (s.health v).farHeld = s.farHeld := rfl
@[simp] theorem State.health_privs (s : State) (v : HEvent) : (s.health v).privs = s.privs := rfl
@[simp] theorem State.health_reqs (s : State) (v : HEvent) : (s.health v).reqs = s.reqs := rfl
@[simp] theorem State.health_arrivals (s : State) (v : HEvent) : (s.health v).arrivals = s.arrivals := rfl
@[simp] theorem State.health_ctlq (s : State) (v : HEvent) : (s.health v).ctlq = s.ctlq := rfl
@[simp] theorem State.health_pierCtl (s : State) (v : HEvent) : (s.health v).pierCtl = s.pierCtl := rfl
@[simp] theorem State.health_refLog (s : State) (v : HEvent) : (s.health v).refLog = s.refLog := rfl
@[simp] theorem State.health_devCtl (s : State) (v : HEvent) : (s.health v).devCtl = s.devCtl := rfl
@[simp] theorem State.health_groups (s : State) (v : HEvent) : (s.health v).groups = s.groups := rfl
@[simp] theorem State.health_launches (s : State) (v : HEvent) : (s.health v).launches = s.launches := rfl
@[simp] theorem State.health_downs (s : State) (v : HEvent) : (s.health v).downs = s.downs := rfl
@[simp] theorem State.health_hevents (s : State) (v : HEvent) : (s.health v).hevents = s.hevents ++ [v] := rfl
@[simp] theorem State.health_hevSeq (s : State) (v : HEvent) : (s.health v).hevSeq = s.hevSeq := rfl
@[simp] theorem State.health_irqs (s : State) (v : HEvent) : (s.health v).irqs = s.irqs := rfl
@[simp] theorem State.health_irqWaits (s : State) (v : HEvent) : (s.health v).irqWaits = s.irqWaits := rfl
@[simp] theorem State.health_sites (s : State) (v : HEvent) : (s.health v).sites = s.sites := rfl
@[simp] theorem State.health_ctxs (s : State) (v : HEvent) : (s.health v).ctxs = s.ctxs := rfl
@[simp] theorem State.health_quads (s : State) (v : HEvent) : (s.health v).quads = s.quads := rfl
@[simp] theorem State.health_link (s : State) (v : HEvent) : (s.health v).link = s.link := rfl
@[simp] theorem State.health_fports (s : State) (v : HEvent) : (s.health v).fports = s.fports := rfl
@[simp] theorem State.health_routes (s : State) (v : HEvent) : (s.health v).routes = s.routes := rfl
@[simp] theorem State.health_pages (s : State) (v : HEvent) : (s.health v).pages = s.pages := rfl
@[simp] theorem State.health_auditor (s : State) (v : HEvent) : (s.health v).auditor = s.auditor := rfl
@[simp] theorem State.health_evict (s : State) (v : HEvent) : (s.health v).evict = s.evict := rfl
@[simp] theorem State.health_ages (s : State) (v : HEvent) : (s.health v).ages = s.ages := rfl
@[simp] theorem State.health_heats (s : State) (v : HEvent) : (s.health v).heats = s.heats := rfl
@[simp] theorem State.health_purges (s : State) (v : HEvent) : (s.health v).purges = s.purges := rfl
@[simp] theorem State.health_purgeErr (s : State) (v : HEvent) : (s.health v).purgeErr = s.purgeErr := rfl
@[simp] theorem State.health_remapping (s : State) (v : HEvent) : (s.health v).remapping = s.remapping := rfl
@[simp] theorem State.health_remapErr (s : State) (v : HEvent) : (s.health v).remapErr = s.remapErr := rfl
@[simp] theorem State.health_ctxBusy (s : State) (v : HEvent) : (s.health v).ctxBusy = s.ctxBusy := rfl
@[simp] theorem State.health_ctxLast (s : State) (v : HEvent) : (s.health v).ctxLast = s.ctxLast := rfl
@[simp] theorem State.health_ctxErr (s : State) (v : HEvent) : (s.health v).ctxErr = s.ctxErr := rfl
@[simp] theorem State.health_opPoint (s : State) (v : HEvent) : (s.health v).opPoint = s.opPoint := rfl
@[simp] theorem State.health_opCap (s : State) (v : HEvent) : (s.health v).opCap = s.opCap := rfl
@[simp] theorem State.health_feFree (s : State) (v : HEvent) : (s.health v).feFree = s.feFree := rfl
@[simp] theorem State.health_chans (s : State) (v : HEvent) : (s.health v).chans = s.chans := rfl
@[simp] theorem State.health_hole (s : State) (v : HEvent) : (s.health v).hole = s.hole := rfl
@[simp] theorem State.health_jobs (s : State) (v : HEvent) : (s.health v).jobs = s.jobs := rfl
@[simp] theorem State.health_fqueues (s : State) (v : HEvent) : (s.health v).fqueues = s.fqueues := rfl
@[simp] theorem State.health_rr (s : State) (v : HEvent) : (s.health v).rr = s.rr := rfl
@[simp] theorem State.health_returned (s : State) (v : HEvent) : (s.health v).returned = s.returned := rfl
@[simp] theorem State.health_admitted (s : State) (v : HEvent) : (s.health v).admitted = s.admitted := rfl
@[simp] theorem State.health_orphans (s : State) (v : HEvent) : (s.health v).orphans = s.orphans := rfl
@[simp] theorem State.health_moves (s : State) (v : HEvent) : (s.health v).moves = s.moves := rfl
@[simp] theorem State.health_colls (s : State) (v : HEvent) : (s.health v).colls = s.colls := rfl
@[simp] theorem State.health_collNext (s : State) (v : HEvent) : (s.health v).collNext = s.collNext := rfl
@[simp] theorem State.health_failedSites (s : State) (v : HEvent) : (s.health v).failedSites = s.failedSites := rfl
@[simp] theorem State.health_remapTable (s : State) (v : HEvent) : (s.health v).remapTable = s.remapTable := rfl
@[simp] theorem State.health_flits (s : State) (v : HEvent) : (s.health v).flits = s.flits := rfl
@[simp] theorem State.health_inbox (s : State) (v : HEvent) : (s.health v).inbox = s.inbox := rfl
@[simp] theorem State.health_answers (s : State) (v : HEvent) : (s.health v).answers = s.answers := rfl
@[simp] theorem State.health_identity (s : State) (v : HEvent) : (s.health v).identity = s.identity := rfl
@[simp] theorem State.health_fwImage (s : State) (v : HEvent) : (s.health v).fwImage = s.fwImage := rfl
@[simp] theorem State.health_tripped (s : State) (v : HEvent) : (s.health v).tripped = s.tripped := rfl
@[simp] theorem State.health_stuckAt (s : State) (v : HEvent) : (s.health v).stuckAt = s.stuckAt := rfl
@[simp] theorem State.health_quoin (s : State) (v : HEvent) : (s.health v).quoin = s.quoin := rfl
@[simp] theorem State.health_attesting (s : State) (v : HEvent) : (s.health v).attesting = s.attesting := rfl
@[simp] theorem State.health_audits (s : State) (v : HEvent) : (s.health v).audits = s.audits := rfl
@[simp] theorem State.health_hostWaits (s : State) (v : HEvent) : (s.health v).hostWaits = s.hostWaits := rfl
@[simp] theorem State.health_denied (s : State) (v : HEvent) : (s.health v).denied = s.denied := rfl
@[simp] theorem State.health_refCode (s : State) (v : HEvent) : (s.health v).refCode = s.refCode := rfl
@[simp] theorem State.health_capTick (s : State) (v : HEvent) : (s.health v).capTick = s.capTick := rfl
@[simp] theorem State.health_courseLosses (s : State) (v : HEvent) : (s.health v).courseLosses = s.courseLosses := rfl

/-! ### setDev -/

@[simp] theorem State.setDev_cyc (s : State) (k : Nat) (v : Word) : (s.setDev k v).cyc = s.cyc := rfl
@[simp] theorem State.setDev_cur (s : State) (k : Nat) (v : Word) : (s.setDev k v).cur = s.cur := rfl
@[simp] theorem State.setDev_subject (s : State) (k : Nat) (v : Word) : (s.setDev k v).subject = s.subject := rfl
@[simp] theorem State.setDev_picked (s : State) (k : Nat) (v : Word) : (s.setDev k v).picked = s.picked := rfl
@[simp] theorem State.setDev_chosen (s : State) (k : Nat) (v : Word) : (s.setDev k v).chosen = s.chosen := rfl
@[simp] theorem State.setDev_dawn (s : State) (k : Nat) (v : Word) : (s.setDev k v).dawn = s.dawn := rfl
@[simp] theorem State.setDev_issued (s : State) (k : Nat) (v : Word) : (s.setDev k v).issued = s.issued := rfl
@[simp] theorem State.setDev_agenda (s : State) (k : Nat) (v : Word) : (s.setDev k v).agenda = s.agenda := rfl
@[simp] theorem State.setDev_nextId (s : State) (k : Nat) (v : Word) : (s.setDev k v).nextId = s.nextId := rfl
@[simp] theorem State.setDev_nextFree (s : State) (k : Nat) (v : Word) : (s.setDev k v).nextFree = s.nextFree := rfl
@[simp] theorem State.setDev_mem (s : State) (k : Nat) (v : Word) : (s.setDev k v).mem = s.mem := rfl
@[simp] theorem State.setDev_poison (s : State) (k : Nat) (v : Word) : (s.setDev k v).poison = s.poison := rfl
@[simp] theorem State.setDev_bitErrs (s : State) (k : Nat) (v : Word) : (s.setDev k v).bitErrs = s.bitErrs := rfl
@[simp] theorem State.setDev_hbmMeta (s : State) (k : Nat) (v : Word) : (s.setDev k v).hbmMeta = s.hbmMeta := rfl
@[simp] theorem State.setDev_hbmCheck (s : State) (k : Nat) (v : Word) : (s.setDev k v).hbmCheck = s.hbmCheck := rfl
@[simp] theorem State.setDev_slots (s : State) (k : Nat) (v : Word) : (s.setDev k v).slots = s.slots := rfl
@[simp] theorem State.setDev_engs (s : State) (k : Nat) (v : Word) : (s.setDev k v).engs = s.engs := rfl
@[simp] theorem State.setDev_cols (s : State) (k : Nat) (v : Word) : (s.setDev k v).cols = s.cols := rfl
@[simp] theorem State.setDev_towers (s : State) (k : Nat) (v : Word) : (s.setDev k v).towers = s.towers := rfl
@[simp] theorem State.setDev_flights (s : State) (k : Nat) (v : Word) : (s.setDev k v).flights = s.flights := rfl
@[simp] theorem State.setDev_stores (s : State) (k : Nat) (v : Word) : (s.setDev k v).stores = s.stores := rfl
@[simp] theorem State.setDev_async (s : State) (k : Nat) (v : Word) : (s.setDev k v).async = s.async := rfl
@[simp] theorem State.setDev_farHeld (s : State) (k : Nat) (v : Word) : (s.setDev k v).farHeld = s.farHeld := rfl
@[simp] theorem State.setDev_privs (s : State) (k : Nat) (v : Word) : (s.setDev k v).privs = s.privs := rfl
@[simp] theorem State.setDev_reqs (s : State) (k : Nat) (v : Word) : (s.setDev k v).reqs = s.reqs := rfl
@[simp] theorem State.setDev_arrivals (s : State) (k : Nat) (v : Word) : (s.setDev k v).arrivals = s.arrivals := rfl
@[simp] theorem State.setDev_ctlq (s : State) (k : Nat) (v : Word) : (s.setDev k v).ctlq = s.ctlq := rfl
@[simp] theorem State.setDev_pierCtl (s : State) (k : Nat) (v : Word) : (s.setDev k v).pierCtl = s.pierCtl := rfl
@[simp] theorem State.setDev_refLog (s : State) (k : Nat) (v : Word) : (s.setDev k v).refLog = s.refLog := rfl
@[simp] theorem State.setDev_devCtl (s : State) (k : Nat) (v : Word) : (s.setDev k v).devCtl = s.devCtl.put k v := rfl
@[simp] theorem State.setDev_groups (s : State) (k : Nat) (v : Word) : (s.setDev k v).groups = s.groups := rfl
@[simp] theorem State.setDev_launches (s : State) (k : Nat) (v : Word) : (s.setDev k v).launches = s.launches := rfl
@[simp] theorem State.setDev_downs (s : State) (k : Nat) (v : Word) : (s.setDev k v).downs = s.downs := rfl
@[simp] theorem State.setDev_hevents (s : State) (k : Nat) (v : Word) : (s.setDev k v).hevents = s.hevents := rfl
@[simp] theorem State.setDev_hevSeq (s : State) (k : Nat) (v : Word) : (s.setDev k v).hevSeq = s.hevSeq := rfl
@[simp] theorem State.setDev_irqs (s : State) (k : Nat) (v : Word) : (s.setDev k v).irqs = s.irqs := rfl
@[simp] theorem State.setDev_irqWaits (s : State) (k : Nat) (v : Word) : (s.setDev k v).irqWaits = s.irqWaits := rfl
@[simp] theorem State.setDev_sites (s : State) (k : Nat) (v : Word) : (s.setDev k v).sites = s.sites := rfl
@[simp] theorem State.setDev_ctxs (s : State) (k : Nat) (v : Word) : (s.setDev k v).ctxs = s.ctxs := rfl
@[simp] theorem State.setDev_quads (s : State) (k : Nat) (v : Word) : (s.setDev k v).quads = s.quads := rfl
@[simp] theorem State.setDev_link (s : State) (k : Nat) (v : Word) : (s.setDev k v).link = s.link := rfl
@[simp] theorem State.setDev_fports (s : State) (k : Nat) (v : Word) : (s.setDev k v).fports = s.fports := rfl
@[simp] theorem State.setDev_routes (s : State) (k : Nat) (v : Word) : (s.setDev k v).routes = s.routes := rfl
@[simp] theorem State.setDev_pages (s : State) (k : Nat) (v : Word) : (s.setDev k v).pages = s.pages := rfl
@[simp] theorem State.setDev_auditor (s : State) (k : Nat) (v : Word) : (s.setDev k v).auditor = s.auditor := rfl
@[simp] theorem State.setDev_evict (s : State) (k : Nat) (v : Word) : (s.setDev k v).evict = s.evict := rfl
@[simp] theorem State.setDev_ages (s : State) (k : Nat) (v : Word) : (s.setDev k v).ages = s.ages := rfl
@[simp] theorem State.setDev_heats (s : State) (k : Nat) (v : Word) : (s.setDev k v).heats = s.heats := rfl
@[simp] theorem State.setDev_purges (s : State) (k : Nat) (v : Word) : (s.setDev k v).purges = s.purges := rfl
@[simp] theorem State.setDev_purgeErr (s : State) (k : Nat) (v : Word) : (s.setDev k v).purgeErr = s.purgeErr := rfl
@[simp] theorem State.setDev_remapping (s : State) (k : Nat) (v : Word) : (s.setDev k v).remapping = s.remapping := rfl
@[simp] theorem State.setDev_remapErr (s : State) (k : Nat) (v : Word) : (s.setDev k v).remapErr = s.remapErr := rfl
@[simp] theorem State.setDev_ctxBusy (s : State) (k : Nat) (v : Word) : (s.setDev k v).ctxBusy = s.ctxBusy := rfl
@[simp] theorem State.setDev_ctxLast (s : State) (k : Nat) (v : Word) : (s.setDev k v).ctxLast = s.ctxLast := rfl
@[simp] theorem State.setDev_ctxErr (s : State) (k : Nat) (v : Word) : (s.setDev k v).ctxErr = s.ctxErr := rfl
@[simp] theorem State.setDev_opPoint (s : State) (k : Nat) (v : Word) : (s.setDev k v).opPoint = s.opPoint := rfl
@[simp] theorem State.setDev_opCap (s : State) (k : Nat) (v : Word) : (s.setDev k v).opCap = s.opCap := rfl
@[simp] theorem State.setDev_feFree (s : State) (k : Nat) (v : Word) : (s.setDev k v).feFree = s.feFree := rfl
@[simp] theorem State.setDev_chans (s : State) (k : Nat) (v : Word) : (s.setDev k v).chans = s.chans := rfl
@[simp] theorem State.setDev_hole (s : State) (k : Nat) (v : Word) : (s.setDev k v).hole = s.hole := rfl
@[simp] theorem State.setDev_jobs (s : State) (k : Nat) (v : Word) : (s.setDev k v).jobs = s.jobs := rfl
@[simp] theorem State.setDev_fqueues (s : State) (k : Nat) (v : Word) : (s.setDev k v).fqueues = s.fqueues := rfl
@[simp] theorem State.setDev_rr (s : State) (k : Nat) (v : Word) : (s.setDev k v).rr = s.rr := rfl
@[simp] theorem State.setDev_returned (s : State) (k : Nat) (v : Word) : (s.setDev k v).returned = s.returned := rfl
@[simp] theorem State.setDev_admitted (s : State) (k : Nat) (v : Word) : (s.setDev k v).admitted = s.admitted := rfl
@[simp] theorem State.setDev_orphans (s : State) (k : Nat) (v : Word) : (s.setDev k v).orphans = s.orphans := rfl
@[simp] theorem State.setDev_moves (s : State) (k : Nat) (v : Word) : (s.setDev k v).moves = s.moves := rfl
@[simp] theorem State.setDev_colls (s : State) (k : Nat) (v : Word) : (s.setDev k v).colls = s.colls := rfl
@[simp] theorem State.setDev_collNext (s : State) (k : Nat) (v : Word) : (s.setDev k v).collNext = s.collNext := rfl
@[simp] theorem State.setDev_failedSites (s : State) (k : Nat) (v : Word) : (s.setDev k v).failedSites = s.failedSites := rfl
@[simp] theorem State.setDev_remapTable (s : State) (k : Nat) (v : Word) : (s.setDev k v).remapTable = s.remapTable := rfl
@[simp] theorem State.setDev_flits (s : State) (k : Nat) (v : Word) : (s.setDev k v).flits = s.flits := rfl
@[simp] theorem State.setDev_inbox (s : State) (k : Nat) (v : Word) : (s.setDev k v).inbox = s.inbox := rfl
@[simp] theorem State.setDev_answers (s : State) (k : Nat) (v : Word) : (s.setDev k v).answers = s.answers := rfl
@[simp] theorem State.setDev_identity (s : State) (k : Nat) (v : Word) : (s.setDev k v).identity = s.identity := rfl
@[simp] theorem State.setDev_fwImage (s : State) (k : Nat) (v : Word) : (s.setDev k v).fwImage = s.fwImage := rfl
@[simp] theorem State.setDev_tripped (s : State) (k : Nat) (v : Word) : (s.setDev k v).tripped = s.tripped := rfl
@[simp] theorem State.setDev_stuckAt (s : State) (k : Nat) (v : Word) : (s.setDev k v).stuckAt = s.stuckAt := rfl
@[simp] theorem State.setDev_quoin (s : State) (k : Nat) (v : Word) : (s.setDev k v).quoin = s.quoin := rfl
@[simp] theorem State.setDev_attesting (s : State) (k : Nat) (v : Word) : (s.setDev k v).attesting = s.attesting := rfl
@[simp] theorem State.setDev_audits (s : State) (k : Nat) (v : Word) : (s.setDev k v).audits = s.audits := rfl
@[simp] theorem State.setDev_hostWaits (s : State) (k : Nat) (v : Word) : (s.setDev k v).hostWaits = s.hostWaits := rfl
@[simp] theorem State.setDev_denied (s : State) (k : Nat) (v : Word) : (s.setDev k v).denied = s.denied := rfl
@[simp] theorem State.setDev_refCode (s : State) (k : Nat) (v : Word) : (s.setDev k v).refCode = s.refCode := rfl
@[simp] theorem State.setDev_capTick (s : State) (k : Nat) (v : Word) : (s.setDev k v).capTick = s.capTick := rfl
@[simp] theorem State.setDev_courseLosses (s : State) (k : Nat) (v : Word) : (s.setDev k v).courseLosses = s.courseLosses := rfl

/-! ### setGroup -/

@[simp] theorem State.setGroup_cyc (s : State) (k : Nat) (v : Group) : (s.setGroup k v).cyc = s.cyc := rfl
@[simp] theorem State.setGroup_cur (s : State) (k : Nat) (v : Group) : (s.setGroup k v).cur = s.cur := rfl
@[simp] theorem State.setGroup_subject (s : State) (k : Nat) (v : Group) : (s.setGroup k v).subject = s.subject := rfl
@[simp] theorem State.setGroup_picked (s : State) (k : Nat) (v : Group) : (s.setGroup k v).picked = s.picked := rfl
@[simp] theorem State.setGroup_chosen (s : State) (k : Nat) (v : Group) : (s.setGroup k v).chosen = s.chosen := rfl
@[simp] theorem State.setGroup_dawn (s : State) (k : Nat) (v : Group) : (s.setGroup k v).dawn = s.dawn := rfl
@[simp] theorem State.setGroup_issued (s : State) (k : Nat) (v : Group) : (s.setGroup k v).issued = s.issued := rfl
@[simp] theorem State.setGroup_agenda (s : State) (k : Nat) (v : Group) : (s.setGroup k v).agenda = s.agenda := rfl
@[simp] theorem State.setGroup_nextId (s : State) (k : Nat) (v : Group) : (s.setGroup k v).nextId = s.nextId := rfl
@[simp] theorem State.setGroup_nextFree (s : State) (k : Nat) (v : Group) : (s.setGroup k v).nextFree = s.nextFree := rfl
@[simp] theorem State.setGroup_mem (s : State) (k : Nat) (v : Group) : (s.setGroup k v).mem = s.mem := rfl
@[simp] theorem State.setGroup_poison (s : State) (k : Nat) (v : Group) : (s.setGroup k v).poison = s.poison := rfl
@[simp] theorem State.setGroup_bitErrs (s : State) (k : Nat) (v : Group) : (s.setGroup k v).bitErrs = s.bitErrs := rfl
@[simp] theorem State.setGroup_hbmMeta (s : State) (k : Nat) (v : Group) : (s.setGroup k v).hbmMeta = s.hbmMeta := rfl
@[simp] theorem State.setGroup_hbmCheck (s : State) (k : Nat) (v : Group) : (s.setGroup k v).hbmCheck = s.hbmCheck := rfl
@[simp] theorem State.setGroup_slots (s : State) (k : Nat) (v : Group) : (s.setGroup k v).slots = s.slots := rfl
@[simp] theorem State.setGroup_engs (s : State) (k : Nat) (v : Group) : (s.setGroup k v).engs = s.engs := rfl
@[simp] theorem State.setGroup_cols (s : State) (k : Nat) (v : Group) : (s.setGroup k v).cols = s.cols := rfl
@[simp] theorem State.setGroup_towers (s : State) (k : Nat) (v : Group) : (s.setGroup k v).towers = s.towers := rfl
@[simp] theorem State.setGroup_flights (s : State) (k : Nat) (v : Group) : (s.setGroup k v).flights = s.flights := rfl
@[simp] theorem State.setGroup_stores (s : State) (k : Nat) (v : Group) : (s.setGroup k v).stores = s.stores := rfl
@[simp] theorem State.setGroup_async (s : State) (k : Nat) (v : Group) : (s.setGroup k v).async = s.async := rfl
@[simp] theorem State.setGroup_farHeld (s : State) (k : Nat) (v : Group) : (s.setGroup k v).farHeld = s.farHeld := rfl
@[simp] theorem State.setGroup_privs (s : State) (k : Nat) (v : Group) : (s.setGroup k v).privs = s.privs := rfl
@[simp] theorem State.setGroup_reqs (s : State) (k : Nat) (v : Group) : (s.setGroup k v).reqs = s.reqs := rfl
@[simp] theorem State.setGroup_arrivals (s : State) (k : Nat) (v : Group) : (s.setGroup k v).arrivals = s.arrivals := rfl
@[simp] theorem State.setGroup_ctlq (s : State) (k : Nat) (v : Group) : (s.setGroup k v).ctlq = s.ctlq := rfl
@[simp] theorem State.setGroup_pierCtl (s : State) (k : Nat) (v : Group) : (s.setGroup k v).pierCtl = s.pierCtl := rfl
@[simp] theorem State.setGroup_refLog (s : State) (k : Nat) (v : Group) : (s.setGroup k v).refLog = s.refLog := rfl
@[simp] theorem State.setGroup_devCtl (s : State) (k : Nat) (v : Group) : (s.setGroup k v).devCtl = s.devCtl := rfl
@[simp] theorem State.setGroup_groups (s : State) (k : Nat) (v : Group) : (s.setGroup k v).groups = s.groups.put k v := rfl
@[simp] theorem State.setGroup_launches (s : State) (k : Nat) (v : Group) : (s.setGroup k v).launches = s.launches := rfl
@[simp] theorem State.setGroup_downs (s : State) (k : Nat) (v : Group) : (s.setGroup k v).downs = s.downs := rfl
@[simp] theorem State.setGroup_hevents (s : State) (k : Nat) (v : Group) : (s.setGroup k v).hevents = s.hevents := rfl
@[simp] theorem State.setGroup_hevSeq (s : State) (k : Nat) (v : Group) : (s.setGroup k v).hevSeq = s.hevSeq := rfl
@[simp] theorem State.setGroup_irqs (s : State) (k : Nat) (v : Group) : (s.setGroup k v).irqs = s.irqs := rfl
@[simp] theorem State.setGroup_irqWaits (s : State) (k : Nat) (v : Group) : (s.setGroup k v).irqWaits = s.irqWaits := rfl
@[simp] theorem State.setGroup_sites (s : State) (k : Nat) (v : Group) : (s.setGroup k v).sites = s.sites := rfl
@[simp] theorem State.setGroup_ctxs (s : State) (k : Nat) (v : Group) : (s.setGroup k v).ctxs = s.ctxs := rfl
@[simp] theorem State.setGroup_quads (s : State) (k : Nat) (v : Group) : (s.setGroup k v).quads = s.quads := rfl
@[simp] theorem State.setGroup_link (s : State) (k : Nat) (v : Group) : (s.setGroup k v).link = s.link := rfl
@[simp] theorem State.setGroup_fports (s : State) (k : Nat) (v : Group) : (s.setGroup k v).fports = s.fports := rfl
@[simp] theorem State.setGroup_routes (s : State) (k : Nat) (v : Group) : (s.setGroup k v).routes = s.routes := rfl
@[simp] theorem State.setGroup_pages (s : State) (k : Nat) (v : Group) : (s.setGroup k v).pages = s.pages := rfl
@[simp] theorem State.setGroup_auditor (s : State) (k : Nat) (v : Group) : (s.setGroup k v).auditor = s.auditor := rfl
@[simp] theorem State.setGroup_evict (s : State) (k : Nat) (v : Group) : (s.setGroup k v).evict = s.evict := rfl
@[simp] theorem State.setGroup_ages (s : State) (k : Nat) (v : Group) : (s.setGroup k v).ages = s.ages := rfl
@[simp] theorem State.setGroup_heats (s : State) (k : Nat) (v : Group) : (s.setGroup k v).heats = s.heats := rfl
@[simp] theorem State.setGroup_purges (s : State) (k : Nat) (v : Group) : (s.setGroup k v).purges = s.purges := rfl
@[simp] theorem State.setGroup_purgeErr (s : State) (k : Nat) (v : Group) : (s.setGroup k v).purgeErr = s.purgeErr := rfl
@[simp] theorem State.setGroup_remapping (s : State) (k : Nat) (v : Group) : (s.setGroup k v).remapping = s.remapping := rfl
@[simp] theorem State.setGroup_remapErr (s : State) (k : Nat) (v : Group) : (s.setGroup k v).remapErr = s.remapErr := rfl
@[simp] theorem State.setGroup_ctxBusy (s : State) (k : Nat) (v : Group) : (s.setGroup k v).ctxBusy = s.ctxBusy := rfl
@[simp] theorem State.setGroup_ctxLast (s : State) (k : Nat) (v : Group) : (s.setGroup k v).ctxLast = s.ctxLast := rfl
@[simp] theorem State.setGroup_ctxErr (s : State) (k : Nat) (v : Group) : (s.setGroup k v).ctxErr = s.ctxErr := rfl
@[simp] theorem State.setGroup_opPoint (s : State) (k : Nat) (v : Group) : (s.setGroup k v).opPoint = s.opPoint := rfl
@[simp] theorem State.setGroup_opCap (s : State) (k : Nat) (v : Group) : (s.setGroup k v).opCap = s.opCap := rfl
@[simp] theorem State.setGroup_feFree (s : State) (k : Nat) (v : Group) : (s.setGroup k v).feFree = s.feFree := rfl
@[simp] theorem State.setGroup_chans (s : State) (k : Nat) (v : Group) : (s.setGroup k v).chans = s.chans := rfl
@[simp] theorem State.setGroup_hole (s : State) (k : Nat) (v : Group) : (s.setGroup k v).hole = s.hole := rfl
@[simp] theorem State.setGroup_jobs (s : State) (k : Nat) (v : Group) : (s.setGroup k v).jobs = s.jobs := rfl
@[simp] theorem State.setGroup_fqueues (s : State) (k : Nat) (v : Group) : (s.setGroup k v).fqueues = s.fqueues := rfl
@[simp] theorem State.setGroup_rr (s : State) (k : Nat) (v : Group) : (s.setGroup k v).rr = s.rr := rfl
@[simp] theorem State.setGroup_returned (s : State) (k : Nat) (v : Group) : (s.setGroup k v).returned = s.returned := rfl
@[simp] theorem State.setGroup_admitted (s : State) (k : Nat) (v : Group) : (s.setGroup k v).admitted = s.admitted := rfl
@[simp] theorem State.setGroup_orphans (s : State) (k : Nat) (v : Group) : (s.setGroup k v).orphans = s.orphans := rfl
@[simp] theorem State.setGroup_moves (s : State) (k : Nat) (v : Group) : (s.setGroup k v).moves = s.moves := rfl
@[simp] theorem State.setGroup_colls (s : State) (k : Nat) (v : Group) : (s.setGroup k v).colls = s.colls := rfl
@[simp] theorem State.setGroup_collNext (s : State) (k : Nat) (v : Group) : (s.setGroup k v).collNext = s.collNext := rfl
@[simp] theorem State.setGroup_failedSites (s : State) (k : Nat) (v : Group) : (s.setGroup k v).failedSites = s.failedSites := rfl
@[simp] theorem State.setGroup_remapTable (s : State) (k : Nat) (v : Group) : (s.setGroup k v).remapTable = s.remapTable := rfl
@[simp] theorem State.setGroup_flits (s : State) (k : Nat) (v : Group) : (s.setGroup k v).flits = s.flits := rfl
@[simp] theorem State.setGroup_inbox (s : State) (k : Nat) (v : Group) : (s.setGroup k v).inbox = s.inbox := rfl
@[simp] theorem State.setGroup_answers (s : State) (k : Nat) (v : Group) : (s.setGroup k v).answers = s.answers := rfl
@[simp] theorem State.setGroup_identity (s : State) (k : Nat) (v : Group) : (s.setGroup k v).identity = s.identity := rfl
@[simp] theorem State.setGroup_fwImage (s : State) (k : Nat) (v : Group) : (s.setGroup k v).fwImage = s.fwImage := rfl
@[simp] theorem State.setGroup_tripped (s : State) (k : Nat) (v : Group) : (s.setGroup k v).tripped = s.tripped := rfl
@[simp] theorem State.setGroup_stuckAt (s : State) (k : Nat) (v : Group) : (s.setGroup k v).stuckAt = s.stuckAt := rfl
@[simp] theorem State.setGroup_quoin (s : State) (k : Nat) (v : Group) : (s.setGroup k v).quoin = s.quoin := rfl
@[simp] theorem State.setGroup_attesting (s : State) (k : Nat) (v : Group) : (s.setGroup k v).attesting = s.attesting := rfl
@[simp] theorem State.setGroup_audits (s : State) (k : Nat) (v : Group) : (s.setGroup k v).audits = s.audits := rfl
@[simp] theorem State.setGroup_hostWaits (s : State) (k : Nat) (v : Group) : (s.setGroup k v).hostWaits = s.hostWaits := rfl
@[simp] theorem State.setGroup_denied (s : State) (k : Nat) (v : Group) : (s.setGroup k v).denied = s.denied := rfl
@[simp] theorem State.setGroup_refCode (s : State) (k : Nat) (v : Group) : (s.setGroup k v).refCode = s.refCode := rfl
@[simp] theorem State.setGroup_capTick (s : State) (k : Nat) (v : Group) : (s.setGroup k v).capTick = s.capTick := rfl
@[simp] theorem State.setGroup_courseLosses (s : State) (k : Nat) (v : Group) : (s.setGroup k v).courseLosses = s.courseLosses := rfl

/-! ### setFlight -/

@[simp] theorem State.setFlight_cyc (s : State) (f : Flight) : (s.setFlight f).cyc = s.cyc := rfl
@[simp] theorem State.setFlight_cur (s : State) (f : Flight) : (s.setFlight f).cur = s.cur := rfl
@[simp] theorem State.setFlight_subject (s : State) (f : Flight) : (s.setFlight f).subject = s.subject := rfl
@[simp] theorem State.setFlight_picked (s : State) (f : Flight) : (s.setFlight f).picked = s.picked := rfl
@[simp] theorem State.setFlight_chosen (s : State) (f : Flight) : (s.setFlight f).chosen = s.chosen := rfl
@[simp] theorem State.setFlight_dawn (s : State) (f : Flight) : (s.setFlight f).dawn = s.dawn := rfl
@[simp] theorem State.setFlight_issued (s : State) (f : Flight) : (s.setFlight f).issued = s.issued := rfl
@[simp] theorem State.setFlight_agenda (s : State) (f : Flight) : (s.setFlight f).agenda = s.agenda := rfl
@[simp] theorem State.setFlight_nextId (s : State) (f : Flight) : (s.setFlight f).nextId = s.nextId := rfl
@[simp] theorem State.setFlight_nextFree (s : State) (f : Flight) : (s.setFlight f).nextFree = s.nextFree := rfl
@[simp] theorem State.setFlight_mem (s : State) (f : Flight) : (s.setFlight f).mem = s.mem := rfl
@[simp] theorem State.setFlight_poison (s : State) (f : Flight) : (s.setFlight f).poison = s.poison := rfl
@[simp] theorem State.setFlight_bitErrs (s : State) (f : Flight) : (s.setFlight f).bitErrs = s.bitErrs := rfl
@[simp] theorem State.setFlight_hbmMeta (s : State) (f : Flight) : (s.setFlight f).hbmMeta = s.hbmMeta := rfl
@[simp] theorem State.setFlight_hbmCheck (s : State) (f : Flight) : (s.setFlight f).hbmCheck = s.hbmCheck := rfl
@[simp] theorem State.setFlight_slots (s : State) (f : Flight) : (s.setFlight f).slots = s.slots := rfl
@[simp] theorem State.setFlight_engs (s : State) (f : Flight) : (s.setFlight f).engs = s.engs := rfl
@[simp] theorem State.setFlight_cols (s : State) (f : Flight) : (s.setFlight f).cols = s.cols := rfl
@[simp] theorem State.setFlight_towers (s : State) (f : Flight) : (s.setFlight f).towers = s.towers := rfl
@[simp] theorem State.setFlight_flights (s : State) (f : Flight) : (s.setFlight f).flights = s.flights.map fun g => if g.id == f.id then f else g := rfl
@[simp] theorem State.setFlight_stores (s : State) (f : Flight) : (s.setFlight f).stores = s.stores := rfl
@[simp] theorem State.setFlight_async (s : State) (f : Flight) : (s.setFlight f).async = s.async := rfl
@[simp] theorem State.setFlight_farHeld (s : State) (f : Flight) : (s.setFlight f).farHeld = s.farHeld := rfl
@[simp] theorem State.setFlight_privs (s : State) (f : Flight) : (s.setFlight f).privs = s.privs := rfl
@[simp] theorem State.setFlight_reqs (s : State) (f : Flight) : (s.setFlight f).reqs = s.reqs := rfl
@[simp] theorem State.setFlight_arrivals (s : State) (f : Flight) : (s.setFlight f).arrivals = s.arrivals := rfl
@[simp] theorem State.setFlight_ctlq (s : State) (f : Flight) : (s.setFlight f).ctlq = s.ctlq := rfl
@[simp] theorem State.setFlight_pierCtl (s : State) (f : Flight) : (s.setFlight f).pierCtl = s.pierCtl := rfl
@[simp] theorem State.setFlight_refLog (s : State) (f : Flight) : (s.setFlight f).refLog = s.refLog := rfl
@[simp] theorem State.setFlight_devCtl (s : State) (f : Flight) : (s.setFlight f).devCtl = s.devCtl := rfl
@[simp] theorem State.setFlight_groups (s : State) (f : Flight) : (s.setFlight f).groups = s.groups := rfl
@[simp] theorem State.setFlight_launches (s : State) (f : Flight) : (s.setFlight f).launches = s.launches := rfl
@[simp] theorem State.setFlight_downs (s : State) (f : Flight) : (s.setFlight f).downs = s.downs := rfl
@[simp] theorem State.setFlight_hevents (s : State) (f : Flight) : (s.setFlight f).hevents = s.hevents := rfl
@[simp] theorem State.setFlight_hevSeq (s : State) (f : Flight) : (s.setFlight f).hevSeq = s.hevSeq := rfl
@[simp] theorem State.setFlight_irqs (s : State) (f : Flight) : (s.setFlight f).irqs = s.irqs := rfl
@[simp] theorem State.setFlight_irqWaits (s : State) (f : Flight) : (s.setFlight f).irqWaits = s.irqWaits := rfl
@[simp] theorem State.setFlight_sites (s : State) (f : Flight) : (s.setFlight f).sites = s.sites := rfl
@[simp] theorem State.setFlight_ctxs (s : State) (f : Flight) : (s.setFlight f).ctxs = s.ctxs := rfl
@[simp] theorem State.setFlight_quads (s : State) (f : Flight) : (s.setFlight f).quads = s.quads := rfl
@[simp] theorem State.setFlight_link (s : State) (f : Flight) : (s.setFlight f).link = s.link := rfl
@[simp] theorem State.setFlight_fports (s : State) (f : Flight) : (s.setFlight f).fports = s.fports := rfl
@[simp] theorem State.setFlight_routes (s : State) (f : Flight) : (s.setFlight f).routes = s.routes := rfl
@[simp] theorem State.setFlight_pages (s : State) (f : Flight) : (s.setFlight f).pages = s.pages := rfl
@[simp] theorem State.setFlight_auditor (s : State) (f : Flight) : (s.setFlight f).auditor = s.auditor := rfl
@[simp] theorem State.setFlight_evict (s : State) (f : Flight) : (s.setFlight f).evict = s.evict := rfl
@[simp] theorem State.setFlight_ages (s : State) (f : Flight) : (s.setFlight f).ages = s.ages := rfl
@[simp] theorem State.setFlight_heats (s : State) (f : Flight) : (s.setFlight f).heats = s.heats := rfl
@[simp] theorem State.setFlight_purges (s : State) (f : Flight) : (s.setFlight f).purges = s.purges := rfl
@[simp] theorem State.setFlight_purgeErr (s : State) (f : Flight) : (s.setFlight f).purgeErr = s.purgeErr := rfl
@[simp] theorem State.setFlight_remapping (s : State) (f : Flight) : (s.setFlight f).remapping = s.remapping := rfl
@[simp] theorem State.setFlight_remapErr (s : State) (f : Flight) : (s.setFlight f).remapErr = s.remapErr := rfl
@[simp] theorem State.setFlight_ctxBusy (s : State) (f : Flight) : (s.setFlight f).ctxBusy = s.ctxBusy := rfl
@[simp] theorem State.setFlight_ctxLast (s : State) (f : Flight) : (s.setFlight f).ctxLast = s.ctxLast := rfl
@[simp] theorem State.setFlight_ctxErr (s : State) (f : Flight) : (s.setFlight f).ctxErr = s.ctxErr := rfl
@[simp] theorem State.setFlight_opPoint (s : State) (f : Flight) : (s.setFlight f).opPoint = s.opPoint := rfl
@[simp] theorem State.setFlight_opCap (s : State) (f : Flight) : (s.setFlight f).opCap = s.opCap := rfl
@[simp] theorem State.setFlight_feFree (s : State) (f : Flight) : (s.setFlight f).feFree = s.feFree := rfl
@[simp] theorem State.setFlight_chans (s : State) (f : Flight) : (s.setFlight f).chans = s.chans := rfl
@[simp] theorem State.setFlight_hole (s : State) (f : Flight) : (s.setFlight f).hole = s.hole := rfl
@[simp] theorem State.setFlight_jobs (s : State) (f : Flight) : (s.setFlight f).jobs = s.jobs := rfl
@[simp] theorem State.setFlight_fqueues (s : State) (f : Flight) : (s.setFlight f).fqueues = s.fqueues := rfl
@[simp] theorem State.setFlight_rr (s : State) (f : Flight) : (s.setFlight f).rr = s.rr := rfl
@[simp] theorem State.setFlight_returned (s : State) (f : Flight) : (s.setFlight f).returned = s.returned := rfl
@[simp] theorem State.setFlight_admitted (s : State) (f : Flight) : (s.setFlight f).admitted = s.admitted := rfl
@[simp] theorem State.setFlight_orphans (s : State) (f : Flight) : (s.setFlight f).orphans = s.orphans := rfl
@[simp] theorem State.setFlight_moves (s : State) (f : Flight) : (s.setFlight f).moves = s.moves := rfl
@[simp] theorem State.setFlight_colls (s : State) (f : Flight) : (s.setFlight f).colls = s.colls := rfl
@[simp] theorem State.setFlight_collNext (s : State) (f : Flight) : (s.setFlight f).collNext = s.collNext := rfl
@[simp] theorem State.setFlight_failedSites (s : State) (f : Flight) : (s.setFlight f).failedSites = s.failedSites := rfl
@[simp] theorem State.setFlight_remapTable (s : State) (f : Flight) : (s.setFlight f).remapTable = s.remapTable := rfl
@[simp] theorem State.setFlight_flits (s : State) (f : Flight) : (s.setFlight f).flits = s.flits := rfl
@[simp] theorem State.setFlight_inbox (s : State) (f : Flight) : (s.setFlight f).inbox = s.inbox := rfl
@[simp] theorem State.setFlight_answers (s : State) (f : Flight) : (s.setFlight f).answers = s.answers := rfl
@[simp] theorem State.setFlight_identity (s : State) (f : Flight) : (s.setFlight f).identity = s.identity := rfl
@[simp] theorem State.setFlight_fwImage (s : State) (f : Flight) : (s.setFlight f).fwImage = s.fwImage := rfl
@[simp] theorem State.setFlight_tripped (s : State) (f : Flight) : (s.setFlight f).tripped = s.tripped := rfl
@[simp] theorem State.setFlight_stuckAt (s : State) (f : Flight) : (s.setFlight f).stuckAt = s.stuckAt := rfl
@[simp] theorem State.setFlight_quoin (s : State) (f : Flight) : (s.setFlight f).quoin = s.quoin := rfl
@[simp] theorem State.setFlight_attesting (s : State) (f : Flight) : (s.setFlight f).attesting = s.attesting := rfl
@[simp] theorem State.setFlight_audits (s : State) (f : Flight) : (s.setFlight f).audits = s.audits := rfl
@[simp] theorem State.setFlight_hostWaits (s : State) (f : Flight) : (s.setFlight f).hostWaits = s.hostWaits := rfl
@[simp] theorem State.setFlight_denied (s : State) (f : Flight) : (s.setFlight f).denied = s.denied := rfl
@[simp] theorem State.setFlight_refCode (s : State) (f : Flight) : (s.setFlight f).refCode = s.refCode := rfl
@[simp] theorem State.setFlight_capTick (s : State) (f : Flight) : (s.setFlight f).capTick = s.capTick := rfl
@[simp] theorem State.setFlight_courseLosses (s : State) (f : Flight) : (s.setFlight f).courseLosses = s.courseLosses := rfl

/-! ### dropFlight -/

@[simp] theorem State.dropFlight_cyc (s : State) (n : Nat) : (s.dropFlight n).cyc = s.cyc := rfl
@[simp] theorem State.dropFlight_cur (s : State) (n : Nat) : (s.dropFlight n).cur = s.cur := rfl
@[simp] theorem State.dropFlight_subject (s : State) (n : Nat) : (s.dropFlight n).subject = s.subject := rfl
@[simp] theorem State.dropFlight_picked (s : State) (n : Nat) : (s.dropFlight n).picked = s.picked := rfl
@[simp] theorem State.dropFlight_chosen (s : State) (n : Nat) : (s.dropFlight n).chosen = s.chosen := rfl
@[simp] theorem State.dropFlight_dawn (s : State) (n : Nat) : (s.dropFlight n).dawn = s.dawn := rfl
@[simp] theorem State.dropFlight_issued (s : State) (n : Nat) : (s.dropFlight n).issued = s.issued := rfl
@[simp] theorem State.dropFlight_agenda (s : State) (n : Nat) : (s.dropFlight n).agenda = s.agenda := rfl
@[simp] theorem State.dropFlight_nextId (s : State) (n : Nat) : (s.dropFlight n).nextId = s.nextId := rfl
@[simp] theorem State.dropFlight_nextFree (s : State) (n : Nat) : (s.dropFlight n).nextFree = s.nextFree := rfl
@[simp] theorem State.dropFlight_mem (s : State) (n : Nat) : (s.dropFlight n).mem = s.mem := rfl
@[simp] theorem State.dropFlight_poison (s : State) (n : Nat) : (s.dropFlight n).poison = s.poison := rfl
@[simp] theorem State.dropFlight_bitErrs (s : State) (n : Nat) : (s.dropFlight n).bitErrs = s.bitErrs := rfl
@[simp] theorem State.dropFlight_hbmMeta (s : State) (n : Nat) : (s.dropFlight n).hbmMeta = s.hbmMeta := rfl
@[simp] theorem State.dropFlight_hbmCheck (s : State) (n : Nat) : (s.dropFlight n).hbmCheck = s.hbmCheck := rfl
@[simp] theorem State.dropFlight_slots (s : State) (n : Nat) : (s.dropFlight n).slots = s.slots := rfl
@[simp] theorem State.dropFlight_engs (s : State) (n : Nat) : (s.dropFlight n).engs = s.engs := rfl
@[simp] theorem State.dropFlight_cols (s : State) (n : Nat) : (s.dropFlight n).cols = s.cols := rfl
@[simp] theorem State.dropFlight_towers (s : State) (n : Nat) : (s.dropFlight n).towers = s.towers := rfl
@[simp] theorem State.dropFlight_flights (s : State) (n : Nat) : (s.dropFlight n).flights = s.flights.filter fun f => f.id != n := rfl
@[simp] theorem State.dropFlight_stores (s : State) (n : Nat) : (s.dropFlight n).stores = s.stores := rfl
@[simp] theorem State.dropFlight_async (s : State) (n : Nat) : (s.dropFlight n).async = s.async := rfl
@[simp] theorem State.dropFlight_farHeld (s : State) (n : Nat) : (s.dropFlight n).farHeld = s.farHeld := rfl
@[simp] theorem State.dropFlight_privs (s : State) (n : Nat) : (s.dropFlight n).privs = s.privs := rfl
@[simp] theorem State.dropFlight_reqs (s : State) (n : Nat) : (s.dropFlight n).reqs = s.reqs := rfl
@[simp] theorem State.dropFlight_arrivals (s : State) (n : Nat) : (s.dropFlight n).arrivals = s.arrivals := rfl
@[simp] theorem State.dropFlight_ctlq (s : State) (n : Nat) : (s.dropFlight n).ctlq = s.ctlq := rfl
@[simp] theorem State.dropFlight_pierCtl (s : State) (n : Nat) : (s.dropFlight n).pierCtl = s.pierCtl := rfl
@[simp] theorem State.dropFlight_refLog (s : State) (n : Nat) : (s.dropFlight n).refLog = s.refLog := rfl
@[simp] theorem State.dropFlight_devCtl (s : State) (n : Nat) : (s.dropFlight n).devCtl = s.devCtl := rfl
@[simp] theorem State.dropFlight_groups (s : State) (n : Nat) : (s.dropFlight n).groups = s.groups := rfl
@[simp] theorem State.dropFlight_launches (s : State) (n : Nat) : (s.dropFlight n).launches = s.launches := rfl
@[simp] theorem State.dropFlight_downs (s : State) (n : Nat) : (s.dropFlight n).downs = s.downs := rfl
@[simp] theorem State.dropFlight_hevents (s : State) (n : Nat) : (s.dropFlight n).hevents = s.hevents := rfl
@[simp] theorem State.dropFlight_hevSeq (s : State) (n : Nat) : (s.dropFlight n).hevSeq = s.hevSeq := rfl
@[simp] theorem State.dropFlight_irqs (s : State) (n : Nat) : (s.dropFlight n).irqs = s.irqs := rfl
@[simp] theorem State.dropFlight_irqWaits (s : State) (n : Nat) : (s.dropFlight n).irqWaits = s.irqWaits := rfl
@[simp] theorem State.dropFlight_sites (s : State) (n : Nat) : (s.dropFlight n).sites = s.sites := rfl
@[simp] theorem State.dropFlight_ctxs (s : State) (n : Nat) : (s.dropFlight n).ctxs = s.ctxs := rfl
@[simp] theorem State.dropFlight_quads (s : State) (n : Nat) : (s.dropFlight n).quads = s.quads := rfl
@[simp] theorem State.dropFlight_link (s : State) (n : Nat) : (s.dropFlight n).link = s.link := rfl
@[simp] theorem State.dropFlight_fports (s : State) (n : Nat) : (s.dropFlight n).fports = s.fports := rfl
@[simp] theorem State.dropFlight_routes (s : State) (n : Nat) : (s.dropFlight n).routes = s.routes := rfl
@[simp] theorem State.dropFlight_pages (s : State) (n : Nat) : (s.dropFlight n).pages = s.pages := rfl
@[simp] theorem State.dropFlight_auditor (s : State) (n : Nat) : (s.dropFlight n).auditor = s.auditor := rfl
@[simp] theorem State.dropFlight_evict (s : State) (n : Nat) : (s.dropFlight n).evict = s.evict := rfl
@[simp] theorem State.dropFlight_ages (s : State) (n : Nat) : (s.dropFlight n).ages = s.ages := rfl
@[simp] theorem State.dropFlight_heats (s : State) (n : Nat) : (s.dropFlight n).heats = s.heats := rfl
@[simp] theorem State.dropFlight_purges (s : State) (n : Nat) : (s.dropFlight n).purges = s.purges := rfl
@[simp] theorem State.dropFlight_purgeErr (s : State) (n : Nat) : (s.dropFlight n).purgeErr = s.purgeErr := rfl
@[simp] theorem State.dropFlight_remapping (s : State) (n : Nat) : (s.dropFlight n).remapping = s.remapping := rfl
@[simp] theorem State.dropFlight_remapErr (s : State) (n : Nat) : (s.dropFlight n).remapErr = s.remapErr := rfl
@[simp] theorem State.dropFlight_ctxBusy (s : State) (n : Nat) : (s.dropFlight n).ctxBusy = s.ctxBusy := rfl
@[simp] theorem State.dropFlight_ctxLast (s : State) (n : Nat) : (s.dropFlight n).ctxLast = s.ctxLast := rfl
@[simp] theorem State.dropFlight_ctxErr (s : State) (n : Nat) : (s.dropFlight n).ctxErr = s.ctxErr := rfl
@[simp] theorem State.dropFlight_opPoint (s : State) (n : Nat) : (s.dropFlight n).opPoint = s.opPoint := rfl
@[simp] theorem State.dropFlight_opCap (s : State) (n : Nat) : (s.dropFlight n).opCap = s.opCap := rfl
@[simp] theorem State.dropFlight_feFree (s : State) (n : Nat) : (s.dropFlight n).feFree = s.feFree := rfl
@[simp] theorem State.dropFlight_chans (s : State) (n : Nat) : (s.dropFlight n).chans = s.chans := rfl
@[simp] theorem State.dropFlight_hole (s : State) (n : Nat) : (s.dropFlight n).hole = s.hole := rfl
@[simp] theorem State.dropFlight_jobs (s : State) (n : Nat) : (s.dropFlight n).jobs = s.jobs := rfl
@[simp] theorem State.dropFlight_fqueues (s : State) (n : Nat) : (s.dropFlight n).fqueues = s.fqueues := rfl
@[simp] theorem State.dropFlight_rr (s : State) (n : Nat) : (s.dropFlight n).rr = s.rr := rfl
@[simp] theorem State.dropFlight_returned (s : State) (n : Nat) : (s.dropFlight n).returned = s.returned := rfl
@[simp] theorem State.dropFlight_admitted (s : State) (n : Nat) : (s.dropFlight n).admitted = s.admitted := rfl
@[simp] theorem State.dropFlight_orphans (s : State) (n : Nat) : (s.dropFlight n).orphans = s.orphans := rfl
@[simp] theorem State.dropFlight_moves (s : State) (n : Nat) : (s.dropFlight n).moves = s.moves := rfl
@[simp] theorem State.dropFlight_colls (s : State) (n : Nat) : (s.dropFlight n).colls = s.colls := rfl
@[simp] theorem State.dropFlight_collNext (s : State) (n : Nat) : (s.dropFlight n).collNext = s.collNext := rfl
@[simp] theorem State.dropFlight_failedSites (s : State) (n : Nat) : (s.dropFlight n).failedSites = s.failedSites := rfl
@[simp] theorem State.dropFlight_remapTable (s : State) (n : Nat) : (s.dropFlight n).remapTable = s.remapTable := rfl
@[simp] theorem State.dropFlight_flits (s : State) (n : Nat) : (s.dropFlight n).flits = s.flits := rfl
@[simp] theorem State.dropFlight_inbox (s : State) (n : Nat) : (s.dropFlight n).inbox = s.inbox := rfl
@[simp] theorem State.dropFlight_answers (s : State) (n : Nat) : (s.dropFlight n).answers = s.answers := rfl
@[simp] theorem State.dropFlight_identity (s : State) (n : Nat) : (s.dropFlight n).identity = s.identity := rfl
@[simp] theorem State.dropFlight_fwImage (s : State) (n : Nat) : (s.dropFlight n).fwImage = s.fwImage := rfl
@[simp] theorem State.dropFlight_tripped (s : State) (n : Nat) : (s.dropFlight n).tripped = s.tripped := rfl
@[simp] theorem State.dropFlight_stuckAt (s : State) (n : Nat) : (s.dropFlight n).stuckAt = s.stuckAt := rfl
@[simp] theorem State.dropFlight_quoin (s : State) (n : Nat) : (s.dropFlight n).quoin = s.quoin := rfl
@[simp] theorem State.dropFlight_attesting (s : State) (n : Nat) : (s.dropFlight n).attesting = s.attesting := rfl
@[simp] theorem State.dropFlight_audits (s : State) (n : Nat) : (s.dropFlight n).audits = s.audits := rfl
@[simp] theorem State.dropFlight_hostWaits (s : State) (n : Nat) : (s.dropFlight n).hostWaits = s.hostWaits := rfl
@[simp] theorem State.dropFlight_denied (s : State) (n : Nat) : (s.dropFlight n).denied = s.denied := rfl
@[simp] theorem State.dropFlight_refCode (s : State) (n : Nat) : (s.dropFlight n).refCode = s.refCode := rfl
@[simp] theorem State.dropFlight_capTick (s : State) (n : Nat) : (s.dropFlight n).capTick = s.capTick := rfl
@[simp] theorem State.dropFlight_courseLosses (s : State) (n : Nat) : (s.dropFlight n).courseLosses = s.courseLosses := rfl

/-! ### store -/

@[simp] theorem State.store_cyc (s : State) (k n v : Nat) : (s.store k n v).cyc = s.cyc := rfl
@[simp] theorem State.store_cur (s : State) (k n v : Nat) : (s.store k n v).cur = s.cur := rfl
@[simp] theorem State.store_subject (s : State) (k n v : Nat) : (s.store k n v).subject = s.subject := rfl
@[simp] theorem State.store_picked (s : State) (k n v : Nat) : (s.store k n v).picked = s.picked := rfl
@[simp] theorem State.store_chosen (s : State) (k n v : Nat) : (s.store k n v).chosen = s.chosen := rfl
@[simp] theorem State.store_dawn (s : State) (k n v : Nat) : (s.store k n v).dawn = s.dawn := rfl
@[simp] theorem State.store_issued (s : State) (k n v : Nat) : (s.store k n v).issued = s.issued := rfl
@[simp] theorem State.store_agenda (s : State) (k n v : Nat) : (s.store k n v).agenda = s.agenda := rfl
@[simp] theorem State.store_nextId (s : State) (k n v : Nat) : (s.store k n v).nextId = s.nextId := rfl
@[simp] theorem State.store_nextFree (s : State) (k n v : Nat) : (s.store k n v).nextFree = s.nextFree := rfl
@[simp] theorem State.store_mem (s : State) (k n v : Nat) : (s.store k n v).mem = Memory.writeBytes s.mem k (leBytes n v) := rfl
@[simp] theorem State.store_poison (s : State) (k n v : Nat) : (s.store k n v).poison = s.poison := rfl
@[simp] theorem State.store_bitErrs (s : State) (k n v : Nat) : (s.store k n v).bitErrs = s.bitErrs := rfl
@[simp] theorem State.store_hbmMeta (s : State) (k n v : Nat) : (s.store k n v).hbmMeta = s.hbmMeta := rfl
@[simp] theorem State.store_hbmCheck (s : State) (k n v : Nat) : (s.store k n v).hbmCheck = s.hbmCheck := rfl
@[simp] theorem State.store_slots (s : State) (k n v : Nat) : (s.store k n v).slots = s.slots := rfl
@[simp] theorem State.store_engs (s : State) (k n v : Nat) : (s.store k n v).engs = s.engs := rfl
@[simp] theorem State.store_cols (s : State) (k n v : Nat) : (s.store k n v).cols = s.cols := rfl
@[simp] theorem State.store_towers (s : State) (k n v : Nat) : (s.store k n v).towers = s.towers := rfl
@[simp] theorem State.store_flights (s : State) (k n v : Nat) : (s.store k n v).flights = s.flights := rfl
@[simp] theorem State.store_stores (s : State) (k n v : Nat) : (s.store k n v).stores = s.stores := rfl
@[simp] theorem State.store_async (s : State) (k n v : Nat) : (s.store k n v).async = s.async := rfl
@[simp] theorem State.store_farHeld (s : State) (k n v : Nat) : (s.store k n v).farHeld = s.farHeld := rfl
@[simp] theorem State.store_privs (s : State) (k n v : Nat) : (s.store k n v).privs = s.privs := rfl
@[simp] theorem State.store_reqs (s : State) (k n v : Nat) : (s.store k n v).reqs = s.reqs := rfl
@[simp] theorem State.store_arrivals (s : State) (k n v : Nat) : (s.store k n v).arrivals = s.arrivals := rfl
@[simp] theorem State.store_ctlq (s : State) (k n v : Nat) : (s.store k n v).ctlq = s.ctlq := rfl
@[simp] theorem State.store_pierCtl (s : State) (k n v : Nat) : (s.store k n v).pierCtl = s.pierCtl := rfl
@[simp] theorem State.store_refLog (s : State) (k n v : Nat) : (s.store k n v).refLog = s.refLog := rfl
@[simp] theorem State.store_devCtl (s : State) (k n v : Nat) : (s.store k n v).devCtl = s.devCtl := rfl
@[simp] theorem State.store_groups (s : State) (k n v : Nat) : (s.store k n v).groups = s.groups := rfl
@[simp] theorem State.store_launches (s : State) (k n v : Nat) : (s.store k n v).launches = s.launches := rfl
@[simp] theorem State.store_downs (s : State) (k n v : Nat) : (s.store k n v).downs = s.downs := rfl
@[simp] theorem State.store_hevents (s : State) (k n v : Nat) : (s.store k n v).hevents = s.hevents := rfl
@[simp] theorem State.store_hevSeq (s : State) (k n v : Nat) : (s.store k n v).hevSeq = s.hevSeq := rfl
@[simp] theorem State.store_irqs (s : State) (k n v : Nat) : (s.store k n v).irqs = s.irqs := rfl
@[simp] theorem State.store_irqWaits (s : State) (k n v : Nat) : (s.store k n v).irqWaits = s.irqWaits := rfl
@[simp] theorem State.store_sites (s : State) (k n v : Nat) : (s.store k n v).sites = s.sites := rfl
@[simp] theorem State.store_ctxs (s : State) (k n v : Nat) : (s.store k n v).ctxs = s.ctxs := rfl
@[simp] theorem State.store_quads (s : State) (k n v : Nat) : (s.store k n v).quads = s.quads := rfl
@[simp] theorem State.store_link (s : State) (k n v : Nat) : (s.store k n v).link = s.link := rfl
@[simp] theorem State.store_fports (s : State) (k n v : Nat) : (s.store k n v).fports = s.fports := rfl
@[simp] theorem State.store_routes (s : State) (k n v : Nat) : (s.store k n v).routes = s.routes := rfl
@[simp] theorem State.store_pages (s : State) (k n v : Nat) : (s.store k n v).pages = s.pages := rfl
@[simp] theorem State.store_auditor (s : State) (k n v : Nat) : (s.store k n v).auditor = s.auditor := rfl
@[simp] theorem State.store_evict (s : State) (k n v : Nat) : (s.store k n v).evict = s.evict := rfl
@[simp] theorem State.store_ages (s : State) (k n v : Nat) : (s.store k n v).ages = s.ages := rfl
@[simp] theorem State.store_heats (s : State) (k n v : Nat) : (s.store k n v).heats = s.heats := rfl
@[simp] theorem State.store_purges (s : State) (k n v : Nat) : (s.store k n v).purges = s.purges := rfl
@[simp] theorem State.store_purgeErr (s : State) (k n v : Nat) : (s.store k n v).purgeErr = s.purgeErr := rfl
@[simp] theorem State.store_remapping (s : State) (k n v : Nat) : (s.store k n v).remapping = s.remapping := rfl
@[simp] theorem State.store_remapErr (s : State) (k n v : Nat) : (s.store k n v).remapErr = s.remapErr := rfl
@[simp] theorem State.store_ctxBusy (s : State) (k n v : Nat) : (s.store k n v).ctxBusy = s.ctxBusy := rfl
@[simp] theorem State.store_ctxLast (s : State) (k n v : Nat) : (s.store k n v).ctxLast = s.ctxLast := rfl
@[simp] theorem State.store_ctxErr (s : State) (k n v : Nat) : (s.store k n v).ctxErr = s.ctxErr := rfl
@[simp] theorem State.store_opPoint (s : State) (k n v : Nat) : (s.store k n v).opPoint = s.opPoint := rfl
@[simp] theorem State.store_opCap (s : State) (k n v : Nat) : (s.store k n v).opCap = s.opCap := rfl
@[simp] theorem State.store_feFree (s : State) (k n v : Nat) : (s.store k n v).feFree = s.feFree := rfl
@[simp] theorem State.store_chans (s : State) (k n v : Nat) : (s.store k n v).chans = s.chans := rfl
@[simp] theorem State.store_hole (s : State) (k n v : Nat) : (s.store k n v).hole = s.hole := rfl
@[simp] theorem State.store_jobs (s : State) (k n v : Nat) : (s.store k n v).jobs = s.jobs := rfl
@[simp] theorem State.store_fqueues (s : State) (k n v : Nat) : (s.store k n v).fqueues = s.fqueues := rfl
@[simp] theorem State.store_rr (s : State) (k n v : Nat) : (s.store k n v).rr = s.rr := rfl
@[simp] theorem State.store_returned (s : State) (k n v : Nat) : (s.store k n v).returned = s.returned := rfl
@[simp] theorem State.store_admitted (s : State) (k n v : Nat) : (s.store k n v).admitted = s.admitted := rfl
@[simp] theorem State.store_orphans (s : State) (k n v : Nat) : (s.store k n v).orphans = s.orphans := rfl
@[simp] theorem State.store_moves (s : State) (k n v : Nat) : (s.store k n v).moves = s.moves := rfl
@[simp] theorem State.store_colls (s : State) (k n v : Nat) : (s.store k n v).colls = s.colls := rfl
@[simp] theorem State.store_collNext (s : State) (k n v : Nat) : (s.store k n v).collNext = s.collNext := rfl
@[simp] theorem State.store_failedSites (s : State) (k n v : Nat) : (s.store k n v).failedSites = s.failedSites := rfl
@[simp] theorem State.store_remapTable (s : State) (k n v : Nat) : (s.store k n v).remapTable = s.remapTable := rfl
@[simp] theorem State.store_flits (s : State) (k n v : Nat) : (s.store k n v).flits = s.flits := rfl
@[simp] theorem State.store_inbox (s : State) (k n v : Nat) : (s.store k n v).inbox = s.inbox := rfl
@[simp] theorem State.store_answers (s : State) (k n v : Nat) : (s.store k n v).answers = s.answers := rfl
@[simp] theorem State.store_identity (s : State) (k n v : Nat) : (s.store k n v).identity = s.identity := rfl
@[simp] theorem State.store_fwImage (s : State) (k n v : Nat) : (s.store k n v).fwImage = s.fwImage := rfl
@[simp] theorem State.store_tripped (s : State) (k n v : Nat) : (s.store k n v).tripped = s.tripped := rfl
@[simp] theorem State.store_stuckAt (s : State) (k n v : Nat) : (s.store k n v).stuckAt = s.stuckAt := rfl
@[simp] theorem State.store_quoin (s : State) (k n v : Nat) : (s.store k n v).quoin = s.quoin := rfl
@[simp] theorem State.store_attesting (s : State) (k n v : Nat) : (s.store k n v).attesting = s.attesting := rfl
@[simp] theorem State.store_audits (s : State) (k n v : Nat) : (s.store k n v).audits = s.audits := rfl
@[simp] theorem State.store_hostWaits (s : State) (k n v : Nat) : (s.store k n v).hostWaits = s.hostWaits := rfl
@[simp] theorem State.store_denied (s : State) (k n v : Nat) : (s.store k n v).denied = s.denied := rfl
@[simp] theorem State.store_refCode (s : State) (k n v : Nat) : (s.store k n v).refCode = s.refCode := rfl
@[simp] theorem State.store_capTick (s : State) (k n v : Nat) : (s.store k n v).capTick = s.capTick := rfl
@[simp] theorem State.store_courseLosses (s : State) (k n v : Nat) : (s.store k n v).courseLosses = s.courseLosses := rfl

/-! ### Accessors after updates -/

@[simp] theorem State.slotAt_setSlot_same (s : State) (k : Nat) (v : Slot) : (s.setSlot k v).slotAt k = v := by simp [State.slotAt]
theorem State.slotAt_setSlot_ne (s : State) (k j : Nat) (v : Slot) (h : j ≠ k) : (s.setSlot k v).slotAt j = s.slotAt j := by
  simp [State.slotAt, Map.getD_put_ne _ _ _ _ _ h]
@[simp] theorem State.slotAt_setEng (s : State) (k : Nat) (v : Engine) (j : Nat) : (s.setEng k v).slotAt j = s.slotAt j := rfl
@[simp] theorem State.slotAt_setCol (s : State) (k : Nat) (v : Column) (j : Nat) : (s.setCol k v).slotAt j = s.slotAt j := rfl
@[simp] theorem State.slotAt_setTower (s : State) (k : Nat) (v : Tower) (j : Nat) : (s.setTower k v).slotAt j = s.slotAt j := rfl
@[simp] theorem State.slotAt_setE (s : State) (v : Engine) (j : Nat) : (s.setE v).slotAt j = s.slotAt j := rfl
@[simp] theorem State.slotAt_due (s : State) (t p : Nat) (i : Instr) (a : Nat) (j : Nat) : (s.due t p i a).slotAt j = s.slotAt j := rfl
@[simp] theorem State.slotAt_health (s : State) (v : HEvent) (j : Nat) : (s.health v).slotAt j = s.slotAt j := rfl
@[simp] theorem State.slotAt_setDev (s : State) (k : Nat) (v : Word) (j : Nat) : (s.setDev k v).slotAt j = s.slotAt j := rfl
@[simp] theorem State.slotAt_setGroup (s : State) (k : Nat) (v : Group) (j : Nat) : (s.setGroup k v).slotAt j = s.slotAt j := rfl
@[simp] theorem State.slotAt_setFlight (s : State) (f : Flight) (j : Nat) : (s.setFlight f).slotAt j = s.slotAt j := rfl
@[simp] theorem State.slotAt_dropFlight (s : State) (n : Nat) (j : Nat) : (s.dropFlight n).slotAt j = s.slotAt j := rfl
@[simp] theorem State.slotAt_store (s : State) (k n v : Nat) (j : Nat) : (s.store k n v).slotAt j = s.slotAt j := rfl
@[simp] theorem State.engAt_setEng_same (s : State) (k : Nat) (v : Engine) : (s.setEng k v).engAt k = v := by simp [State.engAt]
theorem State.engAt_setEng_ne (s : State) (k j : Nat) (v : Engine) (h : j ≠ k) : (s.setEng k v).engAt j = s.engAt j := by
  simp [State.engAt, Map.getD_put_ne _ _ _ _ _ h]
@[simp] theorem State.engAt_setSlot (s : State) (k : Nat) (v : Slot) (j : Nat) : (s.setSlot k v).engAt j = s.engAt j := rfl
@[simp] theorem State.engAt_setCol (s : State) (k : Nat) (v : Column) (j : Nat) : (s.setCol k v).engAt j = s.engAt j := rfl
@[simp] theorem State.engAt_setTower (s : State) (k : Nat) (v : Tower) (j : Nat) : (s.setTower k v).engAt j = s.engAt j := rfl
@[simp] theorem State.engAt_setSl (s : State) (v : Slot) (j : Nat) : (s.setSl v).engAt j = s.engAt j := rfl
@[simp] theorem State.engAt_due (s : State) (t p : Nat) (i : Instr) (a : Nat) (j : Nat) : (s.due t p i a).engAt j = s.engAt j := rfl
@[simp] theorem State.engAt_health (s : State) (v : HEvent) (j : Nat) : (s.health v).engAt j = s.engAt j := rfl
@[simp] theorem State.engAt_setDev (s : State) (k : Nat) (v : Word) (j : Nat) : (s.setDev k v).engAt j = s.engAt j := rfl
@[simp] theorem State.engAt_setGroup (s : State) (k : Nat) (v : Group) (j : Nat) : (s.setGroup k v).engAt j = s.engAt j := rfl
@[simp] theorem State.engAt_setFlight (s : State) (f : Flight) (j : Nat) : (s.setFlight f).engAt j = s.engAt j := rfl
@[simp] theorem State.engAt_dropFlight (s : State) (n : Nat) (j : Nat) : (s.dropFlight n).engAt j = s.engAt j := rfl
@[simp] theorem State.engAt_store (s : State) (k n v : Nat) (j : Nat) : (s.store k n v).engAt j = s.engAt j := rfl
@[simp] theorem State.colAt_setCol_same (s : State) (k : Nat) (v : Column) : (s.setCol k v).colAt k = v := by simp [State.colAt]
theorem State.colAt_setCol_ne (s : State) (k j : Nat) (v : Column) (h : j ≠ k) : (s.setCol k v).colAt j = s.colAt j := by
  simp [State.colAt, Map.getD_put_ne _ _ _ _ _ h]
@[simp] theorem State.colAt_setSlot (s : State) (k : Nat) (v : Slot) (j : Nat) : (s.setSlot k v).colAt j = s.colAt j := rfl
@[simp] theorem State.colAt_setEng (s : State) (k : Nat) (v : Engine) (j : Nat) : (s.setEng k v).colAt j = s.colAt j := rfl
@[simp] theorem State.colAt_setTower (s : State) (k : Nat) (v : Tower) (j : Nat) : (s.setTower k v).colAt j = s.colAt j := rfl
@[simp] theorem State.colAt_setE (s : State) (v : Engine) (j : Nat) : (s.setE v).colAt j = s.colAt j := rfl
@[simp] theorem State.colAt_setSl (s : State) (v : Slot) (j : Nat) : (s.setSl v).colAt j = s.colAt j := rfl
@[simp] theorem State.colAt_due (s : State) (t p : Nat) (i : Instr) (a : Nat) (j : Nat) : (s.due t p i a).colAt j = s.colAt j := rfl
@[simp] theorem State.colAt_health (s : State) (v : HEvent) (j : Nat) : (s.health v).colAt j = s.colAt j := rfl
@[simp] theorem State.colAt_setDev (s : State) (k : Nat) (v : Word) (j : Nat) : (s.setDev k v).colAt j = s.colAt j := rfl
@[simp] theorem State.colAt_setGroup (s : State) (k : Nat) (v : Group) (j : Nat) : (s.setGroup k v).colAt j = s.colAt j := rfl
@[simp] theorem State.colAt_setFlight (s : State) (f : Flight) (j : Nat) : (s.setFlight f).colAt j = s.colAt j := rfl
@[simp] theorem State.colAt_dropFlight (s : State) (n : Nat) (j : Nat) : (s.dropFlight n).colAt j = s.colAt j := rfl
@[simp] theorem State.colAt_store (s : State) (k n v : Nat) (j : Nat) : (s.store k n v).colAt j = s.colAt j := rfl
@[simp] theorem State.towerAt_setTower_same (s : State) (k : Nat) (v : Tower) : (s.setTower k v).towerAt k = v := by simp [State.towerAt]
theorem State.towerAt_setTower_ne (s : State) (k j : Nat) (v : Tower) (h : j ≠ k) : (s.setTower k v).towerAt j = s.towerAt j := by
  simp [State.towerAt, Map.getD_put_ne _ _ _ _ _ h]
@[simp] theorem State.towerAt_setSlot (s : State) (k : Nat) (v : Slot) (j : Nat) : (s.setSlot k v).towerAt j = s.towerAt j := rfl
@[simp] theorem State.towerAt_setEng (s : State) (k : Nat) (v : Engine) (j : Nat) : (s.setEng k v).towerAt j = s.towerAt j := rfl
@[simp] theorem State.towerAt_setCol (s : State) (k : Nat) (v : Column) (j : Nat) : (s.setCol k v).towerAt j = s.towerAt j := rfl
@[simp] theorem State.towerAt_setE (s : State) (v : Engine) (j : Nat) : (s.setE v).towerAt j = s.towerAt j := rfl
@[simp] theorem State.towerAt_setSl (s : State) (v : Slot) (j : Nat) : (s.setSl v).towerAt j = s.towerAt j := rfl
@[simp] theorem State.towerAt_due (s : State) (t p : Nat) (i : Instr) (a : Nat) (j : Nat) : (s.due t p i a).towerAt j = s.towerAt j := rfl
@[simp] theorem State.towerAt_health (s : State) (v : HEvent) (j : Nat) : (s.health v).towerAt j = s.towerAt j := rfl
@[simp] theorem State.towerAt_setDev (s : State) (k : Nat) (v : Word) (j : Nat) : (s.setDev k v).towerAt j = s.towerAt j := rfl
@[simp] theorem State.towerAt_setGroup (s : State) (k : Nat) (v : Group) (j : Nat) : (s.setGroup k v).towerAt j = s.towerAt j := rfl
@[simp] theorem State.towerAt_setFlight (s : State) (f : Flight) (j : Nat) : (s.setFlight f).towerAt j = s.towerAt j := rfl
@[simp] theorem State.towerAt_dropFlight (s : State) (n : Nat) (j : Nat) : (s.dropFlight n).towerAt j = s.towerAt j := rfl
@[simp] theorem State.towerAt_store (s : State) (k n v : Nat) (j : Nat) : (s.store k n v).towerAt j = s.towerAt j := rfl

@[simp] theorem Engine.sreg_zero (e : Engine) : e.sreg 0 = {} := rfl
@[simp] theorem Engine.setS_zero (e : Engine) (r : SReg) : e.setS 0 r = e := rfl
@[simp] theorem Engine.sreg_setS_same (e : Engine) (n : Nat) (r : SReg) (h : n ≠ 0) : (e.setS n r).sreg n = r := by
  simp [Engine.sreg, Engine.setS, h]
theorem Engine.sreg_setS_ne (e : Engine) (n j : Nat) (r : SReg) (h : j ≠ n) : (e.setS n r).sreg j = e.sreg j := by
  unfold Engine.sreg Engine.setS
  by_cases h0 : n = 0 <;> simp [h0, Map.getD_put_ne _ _ _ _ _ h]
@[simp] theorem Slot.kreg_zero (l : Slot) : l.kreg 0 = BitVec.allOnes 256 := rfl
@[simp] theorem Slot.setK_zero (l : Slot) (m : BitVec 256) : l.setK 0 m = l := rfl
@[simp] theorem Slot.kreg_setK_same (l : Slot) (n : Nat) (m : BitVec 256) (h : n ≠ 0) : (l.setK n m).kreg n = m := by
  simp [Slot.kreg, Slot.setK, h]
theorem Slot.kreg_setK_ne (l : Slot) (n j : Nat) (m : BitVec 256) (h : j ≠ n) : (l.setK n m).kreg j = l.kreg j := by
  unfold Slot.kreg Slot.setK
  by_cases h0 : n = 0 <;> simp [h0, Map.getD_put_ne _ _ _ _ _ h]
@[simp] theorem Slot.vreg_setV_same (l : Slot) (n : Nat) (r : VReg) : (l.setV n r).vreg n = r := Map.getD_put_same _ _ _ _
theorem Slot.vreg_setV_ne (l : Slot) (n j : Nat) (r : VReg) (h : j ≠ n) : (l.setV n r).vreg j = l.vreg j :=
  Map.getD_put_ne _ _ _ _ _ h
@[simp] theorem Slot.ctlr_setCtl_same (l : Slot) (n : Nat) (v : Word) : (l.setCtl n v).ctlr n = v := by simp [Slot.ctlr, Slot.setCtl]
theorem Slot.ctlr_setCtl_ne (l : Slot) (n j : Nat) (v : Word) (h : j ≠ n) : (l.setCtl n v).ctlr j = l.ctlr j := by
  simp [Slot.ctlr, Slot.setCtl, Map.getD_put_ne _ _ _ _ _ h]
@[simp] theorem Column.ctlr_setCtl_same (c : Column) (n : Nat) (v : Word) : (c.setCtl n v).ctlr n = v := by
  simp [Column.ctlr, Column.setCtl]
theorem Column.ctlr_setCtl_ne (c : Column) (n j : Nat) (v : Word) (h : j ≠ n) : (c.setCtl n v).ctlr j = c.ctlr j := by
  simp [Column.ctlr, Column.setCtl, Map.getD_put_ne _ _ _ _ _ h]
@[simp] theorem State.devr_setDev_same (s : State) (n : Nat) (v : Word) : (s.setDev n v).devr n = v := by simp [State.devr]
theorem State.devr_setDev_ne (s : State) (n j : Nat) (v : Word) (h : j ≠ n) : (s.setDev n v).devr j = s.devr j := by
  simp [State.devr, Map.getD_put_ne _ _ _ _ _ h]
@[simp] theorem Slot.fifo_setFifo_same (l : Slot) (n : Nat) (f : Fifo) : (l.setFifo n f).fifo n = f := by simp [Slot.fifo, Slot.setFifo]
@[simp] theorem Slot.queue_setQueue_same (l : Slot) (n : Nat) (q : QReg) : (l.setQueue n q).queue n = q := by
  simp [Slot.queue, Slot.setQueue]

/-! ### Fields of a slot, an engine and a column after their updates -/

@[simp] theorem Slot.setV_gid (l : Slot) (n : Nat) (r : VReg) : (l.setV n r).gid = l.gid := rfl
@[simp] theorem Slot.setV_stop (l : Slot) (n : Nat) (r : VReg) : (l.setV n r).stop = l.stop := rfl
@[simp] theorem Slot.setV_vregs (l : Slot) (n : Nat) (r : VReg) : (l.setV n r).vregs = l.vregs.put n r := rfl
@[simp] theorem Slot.setV_kregs (l : Slot) (n : Nat) (r : VReg) : (l.setV n r).kregs = l.kregs := rfl
@[simp] theorem Slot.setV_queues (l : Slot) (n : Nat) (r : VReg) : (l.setV n r).queues = l.queues := rfl
@[simp] theorem Slot.setV_fifos (l : Slot) (n : Nat) (r : VReg) : (l.setV n r).fifos = l.fifos := rfl
@[simp] theorem Slot.setV_ports (l : Slot) (n : Nat) (r : VReg) : (l.setV n r).ports = l.ports := rfl
@[simp] theorem Slot.setV_hregs (l : Slot) (n : Nat) (r : VReg) : (l.setV n r).hregs = l.hregs := rfl
@[simp] theorem Slot.setV_mbs (l : Slot) (n : Nat) (r : VReg) : (l.setV n r).mbs = l.mbs := rfl
@[simp] theorem Slot.setV_mbClear (l : Slot) (n : Nat) (r : VReg) : (l.setV n r).mbClear = l.mbClear := rfl
@[simp] theorem Slot.setV_ctl (l : Slot) (n : Nat) (r : VReg) : (l.setV n r).ctl = l.ctl := rfl
@[simp] theorem Slot.setV_flagsNow (l : Slot) (n : Nat) (r : VReg) : (l.setV n r).flagsNow = l.flagsNow := rfl
@[simp] theorem Slot.setV_slipNow (l : Slot) (n : Nat) (r : VReg) : (l.setV n r).slipNow = l.slipNow := rfl
@[simp] theorem Slot.setV_lates (l : Slot) (n : Nat) (r : VReg) : (l.setV n r).lates = l.lates := rfl
@[simp] theorem Slot.setV_gens (l : Slot) (n : Nat) (r : VReg) : (l.setV n r).gens = l.gens := rfl
@[simp] theorem Slot.setV_latches (l : Slot) (n : Nat) (r : VReg) : (l.setV n r).latches = l.latches := rfl
@[simp] theorem Slot.setV_cstreams (l : Slot) (n : Nat) (r : VReg) : (l.setV n r).cstreams = l.cstreams := rfl
@[simp] theorem Slot.setV_hold (l : Slot) (n : Nat) (r : VReg) : (l.setV n r).hold = l.hold := rfl
@[simp] theorem Slot.setV_perturb (l : Slot) (n : Nat) (r : VReg) : (l.setV n r).perturb = l.perturb := rfl
@[simp] theorem Slot.setV_stoppedBy (l : Slot) (n : Nat) (r : VReg) : (l.setV n r).stoppedBy = l.stoppedBy := rfl
@[simp] theorem Slot.setV_quadWith (l : Slot) (n : Nat) (r : VReg) : (l.setV n r).quadWith = l.quadWith := rfl
@[simp] theorem Slot.setV_resumed (l : Slot) (n : Nat) (r : VReg) : (l.setV n r).resumed = l.resumed := rfl
@[simp] theorem Slot.setV_wdogCount (l : Slot) (n : Nat) (r : VReg) : (l.setV n r).wdogCount = l.wdogCount := rfl
@[simp] theorem Slot.setV_preempt (l : Slot) (n : Nat) (r : VReg) : (l.setV n r).preempt = l.preempt := rfl
@[simp] theorem Slot.setV_preemptErr (l : Slot) (n : Nat) (r : VReg) : (l.setV n r).preemptErr = l.preemptErr := rfl
@[simp] theorem Slot.setV_engFaults (l : Slot) (n : Nat) (r : VReg) : (l.setV n r).engFaults = l.engFaults := rfl
@[simp] theorem Slot.setV_code (l : Slot) (n : Nat) (r : VReg) : (l.setV n r).code = l.code := rfl
@[simp] theorem Slot.setV_codeCached (l : Slot) (n : Nat) (r : VReg) : (l.setV n r).codeCached = l.codeCached := rfl
@[simp] theorem Slot.setV_owed (l : Slot) (n : Nat) (r : VReg) : (l.setV n r).owed = l.owed := rfl
@[simp] theorem Slot.setV_mbLand (l : Slot) (n : Nat) (r : VReg) : (l.setV n r).mbLand = l.mbLand := rfl
@[simp] theorem Slot.setCtl_gid (l : Slot) (n : Nat) (v : Word) : (l.setCtl n v).gid = l.gid := rfl
@[simp] theorem Slot.setCtl_stop (l : Slot) (n : Nat) (v : Word) : (l.setCtl n v).stop = l.stop := rfl
@[simp] theorem Slot.setCtl_vregs (l : Slot) (n : Nat) (v : Word) : (l.setCtl n v).vregs = l.vregs := rfl
@[simp] theorem Slot.setCtl_kregs (l : Slot) (n : Nat) (v : Word) : (l.setCtl n v).kregs = l.kregs := rfl
@[simp] theorem Slot.setCtl_queues (l : Slot) (n : Nat) (v : Word) : (l.setCtl n v).queues = l.queues := rfl
@[simp] theorem Slot.setCtl_fifos (l : Slot) (n : Nat) (v : Word) : (l.setCtl n v).fifos = l.fifos := rfl
@[simp] theorem Slot.setCtl_ports (l : Slot) (n : Nat) (v : Word) : (l.setCtl n v).ports = l.ports := rfl
@[simp] theorem Slot.setCtl_hregs (l : Slot) (n : Nat) (v : Word) : (l.setCtl n v).hregs = l.hregs := rfl
@[simp] theorem Slot.setCtl_mbs (l : Slot) (n : Nat) (v : Word) : (l.setCtl n v).mbs = l.mbs := rfl
@[simp] theorem Slot.setCtl_mbClear (l : Slot) (n : Nat) (v : Word) : (l.setCtl n v).mbClear = l.mbClear := rfl
@[simp] theorem Slot.setCtl_ctl (l : Slot) (n : Nat) (v : Word) : (l.setCtl n v).ctl = l.ctl.put n v := rfl
@[simp] theorem Slot.setCtl_flagsNow (l : Slot) (n : Nat) (v : Word) : (l.setCtl n v).flagsNow = l.flagsNow := rfl
@[simp] theorem Slot.setCtl_slipNow (l : Slot) (n : Nat) (v : Word) : (l.setCtl n v).slipNow = l.slipNow := rfl
@[simp] theorem Slot.setCtl_lates (l : Slot) (n : Nat) (v : Word) : (l.setCtl n v).lates = l.lates := rfl
@[simp] theorem Slot.setCtl_gens (l : Slot) (n : Nat) (v : Word) : (l.setCtl n v).gens = l.gens := rfl
@[simp] theorem Slot.setCtl_latches (l : Slot) (n : Nat) (v : Word) : (l.setCtl n v).latches = l.latches := rfl
@[simp] theorem Slot.setCtl_cstreams (l : Slot) (n : Nat) (v : Word) : (l.setCtl n v).cstreams = l.cstreams := rfl
@[simp] theorem Slot.setCtl_hold (l : Slot) (n : Nat) (v : Word) : (l.setCtl n v).hold = l.hold := rfl
@[simp] theorem Slot.setCtl_perturb (l : Slot) (n : Nat) (v : Word) : (l.setCtl n v).perturb = l.perturb := rfl
@[simp] theorem Slot.setCtl_stoppedBy (l : Slot) (n : Nat) (v : Word) : (l.setCtl n v).stoppedBy = l.stoppedBy := rfl
@[simp] theorem Slot.setCtl_quadWith (l : Slot) (n : Nat) (v : Word) : (l.setCtl n v).quadWith = l.quadWith := rfl
@[simp] theorem Slot.setCtl_resumed (l : Slot) (n : Nat) (v : Word) : (l.setCtl n v).resumed = l.resumed := rfl
@[simp] theorem Slot.setCtl_wdogCount (l : Slot) (n : Nat) (v : Word) : (l.setCtl n v).wdogCount = l.wdogCount := rfl
@[simp] theorem Slot.setCtl_preempt (l : Slot) (n : Nat) (v : Word) : (l.setCtl n v).preempt = l.preempt := rfl
@[simp] theorem Slot.setCtl_preemptErr (l : Slot) (n : Nat) (v : Word) : (l.setCtl n v).preemptErr = l.preemptErr := rfl
@[simp] theorem Slot.setCtl_engFaults (l : Slot) (n : Nat) (v : Word) : (l.setCtl n v).engFaults = l.engFaults := rfl
@[simp] theorem Slot.setCtl_code (l : Slot) (n : Nat) (v : Word) : (l.setCtl n v).code = l.code := rfl
@[simp] theorem Slot.setCtl_codeCached (l : Slot) (n : Nat) (v : Word) : (l.setCtl n v).codeCached = l.codeCached := rfl
@[simp] theorem Slot.setCtl_owed (l : Slot) (n : Nat) (v : Word) : (l.setCtl n v).owed = l.owed := rfl
@[simp] theorem Slot.setCtl_mbLand (l : Slot) (n : Nat) (v : Word) : (l.setCtl n v).mbLand = l.mbLand := rfl
@[simp] theorem Slot.setFifo_gid (l : Slot) (n : Nat) (f : Fifo) : (l.setFifo n f).gid = l.gid := rfl
@[simp] theorem Slot.setFifo_stop (l : Slot) (n : Nat) (f : Fifo) : (l.setFifo n f).stop = l.stop := rfl
@[simp] theorem Slot.setFifo_vregs (l : Slot) (n : Nat) (f : Fifo) : (l.setFifo n f).vregs = l.vregs := rfl
@[simp] theorem Slot.setFifo_kregs (l : Slot) (n : Nat) (f : Fifo) : (l.setFifo n f).kregs = l.kregs := rfl
@[simp] theorem Slot.setFifo_queues (l : Slot) (n : Nat) (f : Fifo) : (l.setFifo n f).queues = l.queues := rfl
@[simp] theorem Slot.setFifo_fifos (l : Slot) (n : Nat) (f : Fifo) : (l.setFifo n f).fifos = l.fifos.put n f := rfl
@[simp] theorem Slot.setFifo_ports (l : Slot) (n : Nat) (f : Fifo) : (l.setFifo n f).ports = l.ports := rfl
@[simp] theorem Slot.setFifo_hregs (l : Slot) (n : Nat) (f : Fifo) : (l.setFifo n f).hregs = l.hregs := rfl
@[simp] theorem Slot.setFifo_mbs (l : Slot) (n : Nat) (f : Fifo) : (l.setFifo n f).mbs = l.mbs := rfl
@[simp] theorem Slot.setFifo_mbClear (l : Slot) (n : Nat) (f : Fifo) : (l.setFifo n f).mbClear = l.mbClear := rfl
@[simp] theorem Slot.setFifo_ctl (l : Slot) (n : Nat) (f : Fifo) : (l.setFifo n f).ctl = l.ctl := rfl
@[simp] theorem Slot.setFifo_flagsNow (l : Slot) (n : Nat) (f : Fifo) : (l.setFifo n f).flagsNow = l.flagsNow := rfl
@[simp] theorem Slot.setFifo_slipNow (l : Slot) (n : Nat) (f : Fifo) : (l.setFifo n f).slipNow = l.slipNow := rfl
@[simp] theorem Slot.setFifo_lates (l : Slot) (n : Nat) (f : Fifo) : (l.setFifo n f).lates = l.lates := rfl
@[simp] theorem Slot.setFifo_gens (l : Slot) (n : Nat) (f : Fifo) : (l.setFifo n f).gens = l.gens := rfl
@[simp] theorem Slot.setFifo_latches (l : Slot) (n : Nat) (f : Fifo) : (l.setFifo n f).latches = l.latches := rfl
@[simp] theorem Slot.setFifo_cstreams (l : Slot) (n : Nat) (f : Fifo) : (l.setFifo n f).cstreams = l.cstreams := rfl
@[simp] theorem Slot.setFifo_hold (l : Slot) (n : Nat) (f : Fifo) : (l.setFifo n f).hold = l.hold := rfl
@[simp] theorem Slot.setFifo_perturb (l : Slot) (n : Nat) (f : Fifo) : (l.setFifo n f).perturb = l.perturb := rfl
@[simp] theorem Slot.setFifo_stoppedBy (l : Slot) (n : Nat) (f : Fifo) : (l.setFifo n f).stoppedBy = l.stoppedBy := rfl
@[simp] theorem Slot.setFifo_quadWith (l : Slot) (n : Nat) (f : Fifo) : (l.setFifo n f).quadWith = l.quadWith := rfl
@[simp] theorem Slot.setFifo_resumed (l : Slot) (n : Nat) (f : Fifo) : (l.setFifo n f).resumed = l.resumed := rfl
@[simp] theorem Slot.setFifo_wdogCount (l : Slot) (n : Nat) (f : Fifo) : (l.setFifo n f).wdogCount = l.wdogCount := rfl
@[simp] theorem Slot.setFifo_preempt (l : Slot) (n : Nat) (f : Fifo) : (l.setFifo n f).preempt = l.preempt := rfl
@[simp] theorem Slot.setFifo_preemptErr (l : Slot) (n : Nat) (f : Fifo) : (l.setFifo n f).preemptErr = l.preemptErr := rfl
@[simp] theorem Slot.setFifo_engFaults (l : Slot) (n : Nat) (f : Fifo) : (l.setFifo n f).engFaults = l.engFaults := rfl
@[simp] theorem Slot.setFifo_code (l : Slot) (n : Nat) (f : Fifo) : (l.setFifo n f).code = l.code := rfl
@[simp] theorem Slot.setFifo_codeCached (l : Slot) (n : Nat) (f : Fifo) : (l.setFifo n f).codeCached = l.codeCached := rfl
@[simp] theorem Slot.setFifo_owed (l : Slot) (n : Nat) (f : Fifo) : (l.setFifo n f).owed = l.owed := rfl
@[simp] theorem Slot.setFifo_mbLand (l : Slot) (n : Nat) (f : Fifo) : (l.setFifo n f).mbLand = l.mbLand := rfl
@[simp] theorem Slot.setQueue_gid (l : Slot) (n : Nat) (q : QReg) : (l.setQueue n q).gid = l.gid := rfl
@[simp] theorem Slot.setQueue_stop (l : Slot) (n : Nat) (q : QReg) : (l.setQueue n q).stop = l.stop := rfl
@[simp] theorem Slot.setQueue_vregs (l : Slot) (n : Nat) (q : QReg) : (l.setQueue n q).vregs = l.vregs := rfl
@[simp] theorem Slot.setQueue_kregs (l : Slot) (n : Nat) (q : QReg) : (l.setQueue n q).kregs = l.kregs := rfl
@[simp] theorem Slot.setQueue_queues (l : Slot) (n : Nat) (q : QReg) : (l.setQueue n q).queues = l.queues.put n q := rfl
@[simp] theorem Slot.setQueue_fifos (l : Slot) (n : Nat) (q : QReg) : (l.setQueue n q).fifos = l.fifos := rfl
@[simp] theorem Slot.setQueue_ports (l : Slot) (n : Nat) (q : QReg) : (l.setQueue n q).ports = l.ports := rfl
@[simp] theorem Slot.setQueue_hregs (l : Slot) (n : Nat) (q : QReg) : (l.setQueue n q).hregs = l.hregs := rfl
@[simp] theorem Slot.setQueue_mbs (l : Slot) (n : Nat) (q : QReg) : (l.setQueue n q).mbs = l.mbs := rfl
@[simp] theorem Slot.setQueue_mbClear (l : Slot) (n : Nat) (q : QReg) : (l.setQueue n q).mbClear = l.mbClear := rfl
@[simp] theorem Slot.setQueue_ctl (l : Slot) (n : Nat) (q : QReg) : (l.setQueue n q).ctl = l.ctl := rfl
@[simp] theorem Slot.setQueue_flagsNow (l : Slot) (n : Nat) (q : QReg) : (l.setQueue n q).flagsNow = l.flagsNow := rfl
@[simp] theorem Slot.setQueue_slipNow (l : Slot) (n : Nat) (q : QReg) : (l.setQueue n q).slipNow = l.slipNow := rfl
@[simp] theorem Slot.setQueue_lates (l : Slot) (n : Nat) (q : QReg) : (l.setQueue n q).lates = l.lates := rfl
@[simp] theorem Slot.setQueue_gens (l : Slot) (n : Nat) (q : QReg) : (l.setQueue n q).gens = l.gens := rfl
@[simp] theorem Slot.setQueue_latches (l : Slot) (n : Nat) (q : QReg) : (l.setQueue n q).latches = l.latches := rfl
@[simp] theorem Slot.setQueue_cstreams (l : Slot) (n : Nat) (q : QReg) : (l.setQueue n q).cstreams = l.cstreams := rfl
@[simp] theorem Slot.setQueue_hold (l : Slot) (n : Nat) (q : QReg) : (l.setQueue n q).hold = l.hold := rfl
@[simp] theorem Slot.setQueue_perturb (l : Slot) (n : Nat) (q : QReg) : (l.setQueue n q).perturb = l.perturb := rfl
@[simp] theorem Slot.setQueue_stoppedBy (l : Slot) (n : Nat) (q : QReg) : (l.setQueue n q).stoppedBy = l.stoppedBy := rfl
@[simp] theorem Slot.setQueue_quadWith (l : Slot) (n : Nat) (q : QReg) : (l.setQueue n q).quadWith = l.quadWith := rfl
@[simp] theorem Slot.setQueue_resumed (l : Slot) (n : Nat) (q : QReg) : (l.setQueue n q).resumed = l.resumed := rfl
@[simp] theorem Slot.setQueue_wdogCount (l : Slot) (n : Nat) (q : QReg) : (l.setQueue n q).wdogCount = l.wdogCount := rfl
@[simp] theorem Slot.setQueue_preempt (l : Slot) (n : Nat) (q : QReg) : (l.setQueue n q).preempt = l.preempt := rfl
@[simp] theorem Slot.setQueue_preemptErr (l : Slot) (n : Nat) (q : QReg) : (l.setQueue n q).preemptErr = l.preemptErr := rfl
@[simp] theorem Slot.setQueue_engFaults (l : Slot) (n : Nat) (q : QReg) : (l.setQueue n q).engFaults = l.engFaults := rfl
@[simp] theorem Slot.setQueue_code (l : Slot) (n : Nat) (q : QReg) : (l.setQueue n q).code = l.code := rfl
@[simp] theorem Slot.setQueue_codeCached (l : Slot) (n : Nat) (q : QReg) : (l.setQueue n q).codeCached = l.codeCached := rfl
@[simp] theorem Slot.setQueue_owed (l : Slot) (n : Nat) (q : QReg) : (l.setQueue n q).owed = l.owed := rfl
@[simp] theorem Slot.setQueue_mbLand (l : Slot) (n : Nat) (q : QReg) : (l.setQueue n q).mbLand = l.mbLand := rfl
@[simp] theorem Column.setCtl_state (c : Column) (n : Nat) (v : Word) : (c.setCtl n v).state = c.state := rfl
@[simp] theorem Column.setCtl_ctl (c : Column) (n : Nat) (v : Word) : (c.setCtl n v).ctl = c.ctl.put n v := rfl
@[simp] theorem Column.setCtl_contested (c : Column) (n : Nat) (v : Word) : (c.setCtl n v).contested = c.contested := rfl
@[simp] theorem Column.setCtl_contestedAt (c : Column) (n : Nat) (v : Word) : (c.setCtl n v).contestedAt = c.contestedAt := rfl
@[simp] theorem Column.setCtl_lease (c : Column) (n : Nat) (v : Word) : (c.setCtl n v).lease = c.lease := rfl
@[simp] theorem Column.setCtl_leaseWait (c : Column) (n : Nat) (v : Word) : (c.setCtl n v).leaseWait = c.leaseWait := rfl
@[simp] theorem Column.setCtl_quadCount (c : Column) (n : Nat) (v : Word) : (c.setCtl n v).quadCount = c.quadCount := rfl
@[simp] theorem Column.setCtl_tileBad (c : Column) (n : Nat) (v : Word) : (c.setCtl n v).tileBad = c.tileBad := rfl
@[simp] theorem Column.setCtl_accBad (c : Column) (n : Nat) (v : Word) : (c.setCtl n v).accBad = c.accBad := rfl
@[simp] theorem Column.setCtl_recs (c : Column) (n : Nat) (v : Word) : (c.setCtl n v).recs = c.recs := rfl
@[simp] theorem Column.setCtl_products (c : Column) (n : Nat) (v : Word) : (c.setCtl n v).products = c.products := rfl
@[simp] theorem Column.setCtl_converts (c : Column) (n : Nat) (v : Word) : (c.setCtl n v).converts = c.converts := rfl
@[simp] theorem Column.setCtl_arrayFree (c : Column) (n : Nat) (v : Word) : (c.setCtl n v).arrayFree = c.arrayFree := rfl
@[simp] theorem Column.setCtl_drainFree (c : Column) (n : Nat) (v : Word) : (c.setCtl n v).drainFree = c.drainFree := rfl
@[simp] theorem Column.setCtl_convFree (c : Column) (n : Nat) (v : Word) : (c.setCtl n v).convFree = c.convFree := rfl
@[simp] theorem Column.setCtl_drains (c : Column) (n : Nat) (v : Word) : (c.setCtl n v).drains = c.drains := rfl
@[simp] theorem Column.setCtl_bypassTo (c : Column) (n : Nat) (v : Word) : (c.setCtl n v).bypassTo = c.bypassTo := rfl
@[simp] theorem Column.setCtl_bypassAsk (c : Column) (n : Nat) (v : Word) : (c.setCtl n v).bypassAsk = c.bypassAsk := rfl
@[simp] theorem Column.setCtl_written (c : Column) (n : Nat) (v : Word) : (c.setCtl n v).written = c.written := rfl
@[simp] theorem Engine.setS_cf (e : Engine) (n : Nat) (r : SReg) : (e.setS n r).cf = e.cf := by unfold Engine.setS; split <;> rfl
@[simp] theorem Engine.setS_spill (e : Engine) (n : Nat) (r : SReg) : (e.setS n r).spill = e.spill := by unfold Engine.setS; split <;> rfl
@[simp] theorem Engine.setS_base (e : Engine) (n : Nat) (r : SReg) : (e.setS n r).base = e.base := by unfold Engine.setS; split <;> rfl
@[simp] theorem Engine.setS_len (e : Engine) (n : Nat) (r : SReg) : (e.setS n r).len = e.len := by unfold Engine.setS; split <;> rfl
@[simp] theorem Engine.setS_pos (e : Engine) (n : Nat) (r : SReg) : (e.setS n r).pos = e.pos := by unfold Engine.setS; split <;> rfl
@[simp] theorem Engine.setS_hdr (e : Engine) (n : Nat) (r : SReg) : (e.setS n r).hdr = e.hdr := by unfold Engine.setS; split <;> rfl
@[simp] theorem Engine.setS_targets (e : Engine) (n : Nat) (r : SReg) : (e.setS n r).targets = e.targets := by unfold Engine.setS; split <;> rfl
@[simp] theorem Engine.setS_sec (e : Engine) (n : Nat) (r : SReg) : (e.setS n r).sec = e.sec := by unfold Engine.setS; split <;> rfl
@[simp] theorem Engine.setS_idx (e : Engine) (n : Nat) (r : SReg) : (e.setS n r).idx = e.idx := by unfold Engine.setS; split <;> rfl
@[simp] theorem Engine.setS_lastRet (e : Engine) (n : Nat) (r : SReg) : (e.setS n r).lastRet = e.lastRet := by unfold Engine.setS; split <;> rfl
@[simp] theorem Engine.setS_levels (e : Engine) (n : Nat) (r : SReg) : (e.setS n r).levels = e.levels := by unfold Engine.setS; split <;> rfl
@[simp] theorem Engine.setS_rets (e : Engine) (n : Nat) (r : SReg) : (e.setS n r).rets = e.rets := by unfold Engine.setS; split <;> rfl
@[simp] theorem Engine.setS_issueFrom (e : Engine) (n : Nat) (r : SReg) : (e.setS n r).issueFrom = e.issueFrom := by unfold Engine.setS; split <;> rfl
@[simp] theorem Engine.setS_wait (e : Engine) (n : Nat) (r : SReg) : (e.setS n r).wait = e.wait := by unfold Engine.setS; split <;> rfl
@[simp] theorem Engine.setS_blocked (e : Engine) (n : Nat) (r : SReg) : (e.setS n r).blocked = e.blocked := by unfold Engine.setS; split <;> rfl
@[simp] theorem Engine.setS_heldBy (e : Engine) (n : Nat) (r : SReg) : (e.setS n r).heldBy = e.heldBy := by unfold Engine.setS; split <;> rfl
@[simp] theorem Engine.setS_heldTo (e : Engine) (n : Nat) (r : SReg) : (e.setS n r).heldTo = e.heldTo := by unfold Engine.setS; split <;> rfl
@[simp] theorem Engine.setS_target (e : Engine) (n : Nat) (r : SReg) : (e.setS n r).target = e.target := by unfold Engine.setS; split <;> rfl
@[simp] theorem Engine.setS_quadNo (e : Engine) (n : Nat) (r : SReg) : (e.setS n r).quadNo = e.quadNo := by unfold Engine.setS; split <;> rfl
@[simp] theorem Engine.setS_atSafe (e : Engine) (n : Nat) (r : SReg) : (e.setS n r).atSafe = e.atSafe := by unfold Engine.setS; split <;> rfl
@[simp] theorem Engine.setS_codeMiss (e : Engine) (n : Nat) (r : SReg) : (e.setS n r).codeMiss = e.codeMiss := by unfold Engine.setS; split <;> rfl
@[simp] theorem Engine.setS_badSel (e : Engine) (n : Nat) (r : SReg) : (e.setS n r).badSel = e.badSel := by unfold Engine.setS; split <;> rfl
@[simp] theorem Engine.setS_pin (e : Engine) (n : Nat) (r : SReg) : (e.setS n r).pin = e.pin := by unfold Engine.setS; split <;> rfl
@[simp] theorem Engine.setS_pinAt (e : Engine) (n : Nat) (r : SReg) : (e.setS n r).pinAt = e.pinAt := by unfold Engine.setS; split <;> rfl
@[simp] theorem Engine.setS_leased (e : Engine) (n : Nat) (r : SReg) : (e.setS n r).leased = e.leased := by unfold Engine.setS; split <;> rfl
@[simp] theorem Engine.setS_shapes (e : Engine) (n : Nat) (r : SReg) : (e.setS n r).shapes = e.shapes := by unfold Engine.setS; split <;> rfl
@[simp] theorem Engine.setS_safeHere (e : Engine) (n : Nat) (r : SReg) : (e.setS n r).safeHere = e.safeHere := by unfold Engine.setS; split <;> rfl

end Sys2Proof.Machine
end

