-- ==== Sys2Proof/Laws/Memory.lean ====
section
/-! SUPPORT. The laws of memory: every operation keeps the canonical form, memory reads what was last written and is otherwise
unchanged. -/

namespace Sys2Proof.Machine

namespace Memory

/-- A key above a floor. -/
def Above (lo : Option Nat) (k : Nat) : Prop := ∀ n, lo = some n → n < k

theorem wfFrom_cons (j : Nat) (b : Byte) (t : Memory) (lo : Option Nat) :
    wfFrom ((j, b) :: t) lo = true ↔ Above lo j ∧ b ≠ 0 ∧ wfFrom t (some j) = true := by
  cases lo <;> simp [wfFrom, Above, and_assoc]

/-- A lower floor is a weaker claim. -/
theorem wfFrom_mono {m : Memory} {lo hi : Option Nat} (h : wfFrom m hi = true) (hl : ∀ n, lo = some n → ∃ k, hi = some k ∧ n ≤ k) :
    wfFrom m lo = true := by
  cases m with
  | nil => rfl
  | cons c t =>
    obtain ⟨j, b⟩ := c
    rw [wfFrom_cons] at h ⊢
    refine ⟨fun n hn => ?_, h.2⟩
    obtain ⟨k, hk, hle⟩ := hl n hn
    exact Nat.lt_of_le_of_lt hle (h.1 k hk)

theorem wfFrom_none {m : Memory} {lo : Option Nat} (h : wfFrom m lo = true) : wf m = true :=
  wfFrom_mono h (by simp)

/-- A memory whose keys lie above `n` reads zero up to `n`. -/
theorem read_below {m : Memory} {k n : Nat} (h : wfFrom m (some n) = true) (hk : k ≤ n) : read m k = 0 := by
  cases m with
  | nil => rfl
  | cons c t =>
    obtain ⟨j, b⟩ := c
    obtain ⟨h1, -, -⟩ := (wfFrom_cons ..).1 h
    have := h1 n rfl
    simp [read, show j ≠ k by omega, show k < j by omega]

/-- A write keeps the canonical form. -/
theorem wfFrom_write (m : Memory) (lo : Option Nat) (k : Nat) (b : Byte) (h : wfFrom m lo = true) (hk : Above lo k) :
    wfFrom (write m k b) lo = true := by
  induction m generalizing lo with
  | nil =>
    unfold write
    split
    · rfl
    · rename_i hb; exact (wfFrom_cons ..).2 ⟨hk, hb, rfl⟩
  | cons c t ih =>
    obtain ⟨j, d⟩ := c
    obtain ⟨h1, h2, h3⟩ := (wfFrom_cons ..).1 h
    unfold write
    split
    · split
      · exact h
      · rename_i hkj hb
        exact (wfFrom_cons ..).2 ⟨hk, hb, (wfFrom_cons ..).2 ⟨fun n hn => by cases hn; exact hkj, h2, h3⟩⟩
    · split
      · rename_i hjk
        subst hjk
        split
        · exact wfFrom_mono h3 fun n hn => ⟨j, rfl, Nat.le_of_lt (hk n hn)⟩
        · rename_i hb; exact (wfFrom_cons ..).2 ⟨hk, hb, h3⟩
      · refine (wfFrom_cons ..).2 ⟨h1, h2, ih _ h3 fun n hn => ?_⟩
        cases hn; omega

theorem wf_write {m : Memory} (k : Nat) (b : Byte) (h : wf m = true) : wf (write m k b) = true :=
  wfFrom_write m none k b h (by simp [Above])

/-- Memory reads what was last written. -/
theorem read_write_same {m : Memory} {lo : Option Nat} (k : Nat) (b : Byte) (h : wfFrom m lo = true) : read (write m k b) k = b := by
  induction m generalizing lo with
  | nil =>
    unfold write
    split
    · rename_i hb; simp [hb, read]
    · simp [read]
  | cons c t ih =>
    obtain ⟨j, d⟩ := c
    obtain ⟨-, -, h3⟩ := (wfFrom_cons ..).1 h
    unfold write
    split
    · split
      · rename_i hkj hb; simp [read, hb, hkj, show j ≠ k by omega]
      · simp [read]
    · split
      · rename_i hjk
        subst hjk
        split
        · rename_i hb; simp [hb, read_below h3 (Nat.le_refl _)]
        · simp [read]
      · rename_i h1 h2
        simp [read, h1, h2, ih h3]

/-- The other bytes are unchanged. -/
theorem read_write_ne {m : Memory} {lo : Option Nat} (k j : Nat) (b : Byte) (h : wfFrom m lo = true) (hj : j ≠ k) :
    read (write m k b) j = read m j := by
  induction m generalizing lo with
  | nil => unfold write; split <;> simp [read, hj.symm]
  | cons c t ih =>
    obtain ⟨i, d⟩ := c
    obtain ⟨h1, h2, h3⟩ := (wfFrom_cons ..).1 h
    unfold write
    split
    · split
      · rfl
      · rename_i hki hb
        simp only [read, hj.symm, if_false]
        split
        · rw [if_neg (by omega), if_pos (by omega)]
        · rfl
    · split
      · rename_i hik
        subst hik
        split
        · simp only [read, hj.symm, if_false]
          split
          · exact read_below h3 (by omega)
          · rfl
        · simp [read, hj.symm]
      · simp only [read, ih h3]

theorem wf_writeBytes {m : Memory} (k : Nat) (l : List Byte) (h : wf m = true) : wf (writeBytes m k l) = true := by
  induction l generalizing m k with
  | nil => exact h
  | cons b t ih => exact ih _ (wf_write _ _ h)

/-- Bytes outside those written are unchanged. -/
theorem read_writeBytes_ne {m : Memory} (k j : Nat) (l : List Byte) (h : wf m = true) (hj : j < k ∨ k + l.length ≤ j) :
    read (writeBytes m k l) j = read m j := by
  induction l generalizing m k with
  | nil => rfl
  | cons b t ih =>
    have hl : (b :: t).length = t.length + 1 := rfl
    rw [hl] at hj
    rw [writeBytes, ih _ (wf_write _ _ h) (by omega), read_write_ne _ _ _ h (by omega)]

/-- The bytes written are there. -/
theorem read_writeBytes_at {m : Memory} (k i : Nat) (l : List Byte) (h : wf m = true) (hi : i < l.length) :
    read (writeBytes m k l) (k + i) = l[i] := by
  induction l generalizing m k i with
  | nil => simp at hi
  | cons b t ih =>
    rw [writeBytes]
    cases i with
    | zero =>
      rw [read_writeBytes_ne _ _ _ (wf_write _ _ h) (by omega)]
      exact read_write_same _ _ h
    | succ n =>
      rw [show k + (n + 1) = k + 1 + n by omega]
      exact ih (k + 1) n (wf_write _ _ h) (by simpa using hi)

/-- Leaving cells out keeps the form. -/
theorem wfFrom_filter (m : Memory) (p : Host.Cell → Bool) (lo : Option Nat) (h : wfFrom m lo = true) : wfFrom (m.filter p) lo = true := by
  induction m generalizing lo with
  | nil => rfl
  | cons c t ih =>
    obtain ⟨j, b⟩ := c
    obtain ⟨h1, h2, h3⟩ := (wfFrom_cons ..).1 h
    rw [List.filter_cons]
    split
    · exact (wfFrom_cons ..).2 ⟨h1, h2, ih _ h3⟩
    · exact wfFrom_mono (ih _ h3) fun n hn => ⟨j, rfl, Nat.le_of_lt (h1 n hn)⟩

theorem wf_filter {m : Memory} (p : Host.Cell → Bool) (h : wf m = true) : wf (m.filter p) = true := wfFrom_filter m p none h

/-- A fold of writes keeps the form. -/
theorem wf_foldl_write {α : Type} (l : List α) (key : α → Nat) (byte : α → Byte) {m : Memory} (h : wf m = true) :
    wf (l.foldl (fun m x => write m (key x) (byte x)) m) = true := by
  induction l generalizing m with
  | nil => exact h
  | cons a t ih => exact ih (wf_write _ _ h)

end Memory

/-- What keeps the memory's form in each step of a fold keeps it in the fold. -/
theorem memOk_foldl {α : Type} (l : List α) (f : State → α → State) (hf : ∀ s a, s.MemOk → (f s a).MemOk) {s : State} (h : s.MemOk) :
    (l.foldl f s).MemOk := by
  induction l generalizing s with
  | nil => exact h
  | cons a t ih => exact ih (hf _ _ h)

/-- An update that leaves memory alone keeps its form. -/
theorem memOk_of_eq {s t : State} (h : s.MemOk) (e : t.mem = s.mem) : t.MemOk := by simpa [State.MemOk, e] using h

theorem memOk_reset : State.reset.MemOk := rfl

theorem memOk_store {s : State} (k n v : Nat) (h : s.MemOk) : (s.store k n v).MemOk := Memory.wf_writeBytes _ _ h

@[simp] theorem setPoison_mem (s : State) (k : Nat) (b : Bool) : (s.setPoison k b).mem = s.mem := rfl

theorem foldl_mem_eq {α : Type} (l : List α) (f : State → α → State) (hf : ∀ s a, (f s a).mem = s.mem) (s : State) :
    (l.foldl f s).mem = s.mem := by
  induction l generalizing s with
  | nil => rfl
  | cons a t ih => rw [List.foldl_cons, ih, hf]

/-- Writing a run of bytes at far addresses sets those bytes and nothing else of memory. -/
theorem writeRun_mem (s : State) (l : List (Nat × Nat × Bool)) :
    (s.writeRun l).mem = l.foldl (fun m x => Memory.write m x.1 (BitVec.ofNat 8 x.2.1)) s.mem := by
  have hr : ∀ (t : State) (u : Nat), (t.renewCheck u).mem = t.mem := by
    intro t u
    unfold State.renewCheck
    dsimp only
    split
    · exact foldl_mem_eq _ _ (fun s _ => setPoison_mem s _ true) t
    · rfl
  unfold State.writeRun
  dsimp only
  rw [foldl_mem_eq]
  · dsimp only
    rw [foldl_mem_eq _ _ hr]
  · intro s u
    have hu : (if markUnit u = 64 then { s with hbmMeta := s.hbmMeta.del u } else s : State).mem = s.mem := by split <;> rfl
    split
    · rw [foldl_mem_eq _ _ fun s a => setPoison_mem s a true, hu]
    · split
      · rw [foldl_mem_eq _ _ fun s a => setPoison_mem s a false, hu]
      · exact hu

theorem memOk_writeRun {s : State} (l : List (Nat × Nat × Bool)) (h : s.MemOk) : (s.writeRun l).MemOk := by
  unfold State.MemOk
  rw [writeRun_mem]
  exact Memory.wf_foldl_write l _ _ h

/-- What changes nothing but memory and its marks in each step of a fold changes nothing else in the fold. -/
theorem foldl_only {α : Type} (l : List α) (f : State → α → State)
    (hf : ∀ s a, ∃ m p b h c, f s a = { s with mem := m, poison := p, bitErrs := b, hbmMeta := h, hbmCheck := c }) (s : State) :
    ∃ m p b h c, l.foldl f s = { s with mem := m, poison := p, bitErrs := b, hbmMeta := h, hbmCheck := c } := by
  induction l generalizing s with
  | nil => exact ⟨s.mem, s.poison, s.bitErrs, s.hbmMeta, s.hbmCheck, rfl⟩
  | cons a t ih =>
    obtain ⟨m, p, b, h, c, e⟩ := ih (f s a)
    obtain ⟨m', p', b', h', c', e'⟩ := hf s a
    exact ⟨m, p, b, h, c, by rw [List.foldl_cons, e, e']⟩

/-- A run of far bytes changes memory, its marks and its checks, and nothing else of the state. -/
theorem writeRun_only (s : State) (l : List (Nat × Nat × Bool)) :
    ∃ m p b h c, s.writeRun l = { s with mem := m, poison := p, bitErrs := b, hbmMeta := h, hbmCheck := c } := by
  have hp : ∀ (v : Bool) (l : List Nat) (g : Nat → Nat) (t : State), ∃ m p b h c,
      l.foldl (fun t w => t.setPoison (g w) v) t = { t with mem := m, poison := p, bitErrs := b, hbmMeta := h, hbmCheck := c } :=
    fun v l g t => foldl_only l _ (fun t w => ⟨t.mem, _, _, t.hbmMeta, t.hbmCheck, rfl⟩) t
  have hr : ∀ (t : State) (u : Nat), ∃ m p b h c, t.renewCheck u = { t with mem := m, poison := p, bitErrs := b, hbmMeta := h, hbmCheck := c } := by
    intro t u
    unfold State.renewCheck
    dsimp only
    split
    · obtain ⟨m, p, b, h, c, e⟩ := hp true (List.range 8) (fun w => u + 8 * w) t
      rw [e]
      exact ⟨m, p, b, h, _, rfl⟩
    · exact ⟨t.mem, t.poison, t.bitErrs, t.hbmMeta, _, rfl⟩
  unfold State.writeRun
  dsimp only
  obtain ⟨m1, p1, b1, h1, c1, e1⟩ := foldl_only (distinct ((l.filter fun x => decide (x.1 < 2 ^ 51)).map fun x => x.1 / 64 * 64)) _ hr s
  rw [e1]
  refine (foldl_only _ _ ?_ _).imp fun m h => h
  intro t u
  have hm : ∃ h, (if markUnit u = 64 then { t with hbmMeta := t.hbmMeta.del u } else t : State) = { t with hbmMeta := h } := by
    split
    · exact ⟨_, rfl⟩
    · exact ⟨t.hbmMeta, rfl⟩
  obtain ⟨h, e⟩ := hm
  rw [e]
  split
  · obtain ⟨m, p, b, h, c, e⟩ := hp true ((List.range (markUnit u / 8)).map fun w => u + 8 * w) id { t with hbmMeta := h }
    exact ⟨m, p, b, h, c, e⟩
  · split
    · obtain ⟨m, p, b, h, c, e⟩ := hp false ((List.range (markUnit u / 8)).map fun w => u + 8 * w) id { t with hbmMeta := h }
      exact ⟨m, p, b, h, c, e⟩
    · exact ⟨t.mem, t.poison, t.bitErrs, h, t.hbmCheck, rfl⟩

/-- A store at a physical far address changes memory, its marks and its checks, or notes an address with no byte. -/
theorem farStore_only (s : State) (pa n v : Nat) :
    ∃ m p b h c x, s.farStore pa n v = { s with mem := m, poison := p, bitErrs := b, hbmMeta := h, hbmCheck := c, hole := x } := by
  unfold State.farStore
  split
  · obtain ⟨m, p, b, h, c, e⟩ := writeRun_only s ((leBytes n v).zipIdx.map fun b => (pa + b.2, b.1.toNat, false))
    exact ⟨m, p, b, h, c, s.hole, e⟩
  · exact ⟨s.mem, s.poison, s.bitErrs, s.hbmMeta, s.hbmCheck, _, rfl⟩

theorem memOk_rightRun {s : State} (r : Bool) (l : List (Nat × Nat × Bool)) (h : s.MemOk) : (s.rightRun r l).MemOk :=
  memOk_of_eq (s := s.writeRun l) (memOk_writeRun l h) rfl

theorem memOk_farStore {s : State} (pa n v : Nat) (h : s.MemOk) : (s.farStore pa n v).MemOk := by
  unfold State.farStore
  split
  · exact memOk_writeRun _ h
  · exact h

@[simp] theorem queueLine_mem (s : State) (k : Nat) : (s.queueLine k).mem = s.mem := by
  simp only [State.queueLine, apply_ite State.mem, State.due_mem, State.setTower_mem, ite_self]

@[simp] theorem writeBack_mem (s : State) (w : Nat) : (s.writeBack w).mem = s.mem := by
  simp only [State.writeBack, apply_ite State.mem, queueLine_mem, State.setTower_mem, ite_self]

/-- Finding an error of a tower word changes no byte (R228, R229). -/
@[simp] theorem checkWord_mem (s : State) (w : Nat) : (s.checkWord w).mem = s.mem := by
  unfold State.checkWord
  cases h : s.bitErrs.get? w with
  | none => rfl
  | some e =>
    generalize hc : (e == 2) = bad
    simp only [hc, apply_ite State.mem, State.due_mem, State.health_mem, State.setTower_mem, writeBack_mem, ite_self]

@[simp] theorem checkRead_mem (s : State) (k n : Nat) : (s.checkRead k n).mem = s.mem := by
  unfold State.checkRead
  exact foldl_mem_eq _ _ (fun t (e : Nat × Nat) => checkWord_mem t e.1) s

@[simp] theorem checkKeys_mem (s : State) (l : List Nat) : (s.checkKeys l).mem = s.mem := by
  unfold State.checkKeys
  exact foldl_mem_eq _ _ (fun t (e : Nat × Nat) => checkWord_mem t e.1) s

@[simp] theorem partWrite_mem (s : State) (w m : Nat) : (s.partWrite w m).mem = s.mem := by
  unfold State.partWrite
  split
  · rfl
  · simp only [apply_ite State.mem, State.setTower_mem, ite_self]

@[simp] theorem checkDue_mem (s : State) (f : Flight) : (s.checkDue f).mem = s.mem := by
  unfold State.checkDue
  refine foldl_mem_eq _ _ (fun t p => ?_) s
  split <;> simp

theorem memOk_storeWords {s : State} (k : Nat) (l : List Nat) (h : s.MemOk) : (s.storeWords k l).MemOk := by
  induction l generalizing s k with
  | nil => exact h
  | cons a t ih => exact ih _ (memOk_farStore _ _ _ h)

end Sys2Proof.Machine
end

