-- ==== Sys2Proof/Laws/Matrix.lean ====
section
/-! SUPPORT. The matrix unit: how long a schedule of passes takes, and what the start of a product does. -/

namespace Sys2Proof.Machine

/-- The cycles of passes add up. -/
theorem occupancy_from (l : List MPass) (a b : Nat) :
    l.foldl (fun n x => n + x.step * (x.hi - x.lo)) (a + b) = a + l.foldl (fun n x => n + x.step * (x.hi - x.lo)) b := by
  induction l generalizing b with
  | nil => rfl
  | cons x t ih => simp [Nat.add_assoc, ih]

theorem occupancy_cons (x : MPass) (l : List MPass) : occupancy (x :: l) = x.step * (x.hi - x.lo) + occupancy l := by
  have h := occupancy_from l (x.step * (x.hi - x.lo)) 0
  simpa [occupancy] using h

/-- A schedule keeps the occupancy of its passes (R185). -/
theorem occupancy_schedule (l : List MPass) (t : Nat) : occupancy (MPass.schedule l t) = occupancy l := by
  induction l generalizing t with
  | nil => rfl
  | cons x r ih => rw [MPass.schedule, occupancy_cons, occupancy_cons, ih]

/-- The last pass of a schedule ends when all cycles are over (R185). -/
theorem schedule_end (l : List MPass) (t : Nat) (h : l ≠ []) :
    (((MPass.schedule l t).getLast?).map fun x => x.start + x.step * (x.hi - x.lo)).getD 0 = t + occupancy l := by
  induction l generalizing t with
  | nil => contradiction
  | cons x r ih =>
    cases r with
    | nil => simp [MPass.schedule, occupancy]
    | cons y r =>
      have e := ih (t + x.step * (x.hi - x.lo)) (by simp)
      simp only [MPass.schedule, List.getLast?_cons_cons] at e ⊢
      rw [e, occupancy_cons x, Nat.add_assoc]

/-- A product has a pass, whatever courses are out (R185). -/
theorem passPlan_ne_nil (u late j p : Nat) : passPlan u late j p ≠ [] := by
  intro h
  simp only [passPlan, List.append_eq_nil_iff, List.map_eq_nil_iff, List.filter_eq_nil_iff] at h
  obtain ⟨h1, h2⟩ := h
  have hl : ∀ c, c < 4 → late.testBit c = false := fun c hc => by simpa using h2 c (by simp [hc])
  simp [List.zipIdx_eq_nil_iff, earlyPasses, hl 0 (by omega), hl 1 (by omega), hl 2 (by omega), hl 3 (by omega)] at h1
  revert h1
  repeat' split
  all_goals simp

/-- The record of an audited product changes memory, its marks and its checks at most (R476). -/
theorem logRecord_only (s : State) (at_ : Option Nat) (r : Nat) :
    ∃ m p b h c x, s.logRecord at_ r = { s with mem := m, poison := p, bitErrs := b, hbmMeta := h, hbmCheck := c, hole := x } := by
  unfold State.logRecord
  split
  · exact farStore_only ..
  · exact ⟨s.mem, s.poison, s.bitErrs, s.hbmMeta, s.hbmCheck, s.hole, rfl⟩

/-- The product that `startProduct` adds to its column. -/
def startedProduct (s : State) (k : Stream) (p : Product) (a b : MOperand) (half : Nat) : Product :=
  { p with
    sums := (partials s a b half).1, flags := (partials s a b half).2,
    badA := (List.range p.m).filter fun i => (s.colAt a.col).tileBad.contains (lineNo a.reg i),
    badB := (List.range p.n).filter fun i => (s.colAt b.col).tileBad.contains (lineNo b.reg i),
    perturb := (s.slotAt k.sk).perturb.filter fun x => (p.batchOf x.1).isSome,
    logAt := s.logEntry k.sk ((s.slotAt k.sk).ctlr 0x112).toNat,
    passes := if foldJdeg (s.foldstat k.col) ≠ 0 then p.passes.map fun x => { x with start := never } else p.passes }

/-- What the start of a product does to its column and its slot (R185, R191, R198). -/
theorem startProduct_effect (s : State) (k : Stream) (p : Product) (a b : MOperand) (half : Nat) :
    let t := startProduct s k p a b half
    let q := startedProduct s k p a b half
    t.colAt k.col = { (s.colAt k.col).setCtl 0x030 (BitVec.ofNat 64 p.record) with
      products := (s.colAt k.col).products ++ [q], arrayFree := q.free } ∧
    t.slotAt k.sk = { (s.slotAt k.sk).setCtl 0x112 (BitVec.ofNat 64 ((((s.slotAt k.sk).ctlr 0x112).toNat + 1) % 2 ^ 32)) with perturb := none } ∧
    t.engs = s.engs ∧ t.cyc = s.cyc := by
  obtain ⟨m, pn, b', h, c, x, e⟩ := logRecord_only s (s.logEntry k.sk ((s.slotAt k.sk).ctlr 0x112).toNat) p.record
  have ec : (s.logRecord (s.logEntry k.sk ((s.slotAt k.sk).ctlr 0x112).toNat) p.record).colAt k.col = s.colAt k.col := by rw [e]; rfl
  have ee : (s.logRecord (s.logEntry k.sk ((s.slotAt k.sk).ctlr 0x112).toNat) p.record).engs = s.engs := by rw [e]
  have ey : (s.logRecord (s.logEntry k.sk ((s.slotAt k.sk).ctlr 0x112).toNat) p.record).cyc = s.cyc := by rw [e]
  unfold startProduct
  by_cases hj : foldJdeg (s.foldstat k.col) = 0
  · simp only [hj, bne_self_eq_false, Bool.false_eq_true, if_false, ne_eq, not_true_eq_false, startedProduct]
    simp [ec, ee, ey]
  · have hj' : (foldJdeg (s.foldstat k.col) != 0) = true := by simpa using hj
    simp only [hj', if_true, startedProduct, hj, ne_eq, not_false_eq_true]
    simp [ec, ee, ey]

end Sys2Proof.Machine
end

