-- ==== Sys2Proof/Laws/PerInstr.lean ====
section
/-! SUPPORT. Each operand format is read back from the bits it packs into, and each opcode names its word: one lemma for every
constructor of `Instr` (an event has no word). -/

namespace Sys2Proof

/-- The fields of format A are read back from their 72 bits. -/
theorem Form.unpackA_packA (f : FmtA) (h : Form.inRangeA f = true) : Form.unpackA (Form.packA f) = f ∧ Form.packA f < 2 ^ 72 := by
  obtain ⟨x0, x1, x2, x3, x4, x5, x6, x7, x8⟩ := f
  simp only [Form.inRangeA, Bool.and_eq_true, decide_eq_true_eq] at h
  simp only [Form.unpackA, Form.packA, FmtA.mk.injEq]
  omega

/-- The fields of format B are read back from their 72 bits. -/
theorem Form.unpackB_packB (f : FmtB) (h : Form.inRangeB f = true) : Form.unpackB (Form.packB f) = f ∧ Form.packB f < 2 ^ 72 := by
  obtain ⟨x0, x1, x2, x3, x4, x5⟩ := f
  simp only [Form.inRangeB, Bool.and_eq_true, decide_eq_true_eq] at h
  simp only [Form.unpackB, Form.packB, FmtB.mk.injEq]
  omega

/-- The fields of format C are read back from their 72 bits. -/
theorem Form.unpackC_packC (f : FmtC) (h : Form.inRangeC f = true) : Form.unpackC (Form.packC f) = f ∧ Form.packC f < 2 ^ 72 := by
  obtain ⟨x0, x1, x2, x3, x4, x5, x6, x7, x8, x9, x10⟩ := f
  simp only [Form.inRangeC, Bool.and_eq_true, decide_eq_true_eq] at h
  simp only [Form.unpackC, Form.packC, FmtC.mk.injEq]
  omega

/-- The fields of format D are read back from their 72 bits. -/
theorem Form.unpackD_packD (f : FmtD) (h : Form.inRangeD f = true) : Form.unpackD (Form.packD f) = f ∧ Form.packD f < 2 ^ 72 := by
  obtain ⟨x0, x1, x2, x3, x4, x5, x6, x7, x8, x9, x10⟩ := f
  simp only [Form.inRangeD, Bool.and_eq_true, decide_eq_true_eq] at h
  simp only [Form.unpackD, Form.packD, FmtD.mk.injEq]
  omega

/-- The fields of format E are read back from their 72 bits. -/
theorem Form.unpackE_packE (f : FmtE) (h : Form.inRangeE f = true) : Form.unpackE (Form.packE f) = f ∧ Form.packE f < 2 ^ 72 := by
  obtain ⟨x0, x1, x2, x3, x4, x5, x6, x7, x8, x9, x10, x11, x12⟩ := f
  simp only [Form.inRangeE, Bool.and_eq_true, decide_eq_true_eq] at h
  simp only [Form.unpackE, Form.packE, FmtE.mk.injEq]
  omega

/-- The fields of format F are read back from their 72 bits. -/
theorem Form.unpackF_packF (f : FmtF) (h : Form.inRangeF f = true) : Form.unpackF (Form.packF f) = f ∧ Form.packF f < 2 ^ 72 := by
  obtain ⟨x0, x1, x2, x3, x4, x5⟩ := f
  simp only [Form.inRangeF, Bool.and_eq_true, decide_eq_true_eq] at h
  simp only [Form.unpackF, Form.packF, FmtF.mk.injEq]
  omega

/-- The fields of format G are read back from their 72 bits. -/
theorem Form.unpackG_packG (f : FmtG) (h : Form.inRangeG f = true) : Form.unpackG (Form.packG f) = f ∧ Form.packG f < 2 ^ 72 := by
  obtain ⟨x0, x1, x2, x3, x4, x5, x6, x7, x8, x9⟩ := f
  simp only [Form.inRangeG, Bool.and_eq_true, decide_eq_true_eq] at h
  simp only [Form.unpackG, Form.packG, FmtG.mk.injEq]
  omega

namespace Laws.FieldsRoundTrip

/-- The opcode and the operand bits of an instruction whose fields fit name it again; an event has no word. -/
def Statement (i : Instr) : Prop := i.inRange = true → ∀ w, i.form = some w →
  ofOpcode w.opc w.seq w.payload = some i ∧ w.payload < 2 ^ 72 ∧ w.opc < 2 ^ 8 ∧ w.seq.inRange = true

/-- A word of format A. -/
theorem formatA {q : Seq} {f : FmtA} {i : Instr} {w : Form} (hr : (q.inRange && Form.inRangeA f) = true) (hs : w.seq = q)
    (hp : w.payload = Form.packA f) (ho : ∀ n, Form.unpackA n = f → ofOpcode w.opc q n = some i) (hb : w.opc < 2 ^ 8) :
    ofOpcode w.opc w.seq w.payload = some i ∧ w.payload < 2 ^ 72 ∧ w.opc < 2 ^ 8 ∧ w.seq.inRange = true := by
  obtain ⟨h1, h2⟩ := Bool.and_eq_true_iff.1 hr
  obtain ⟨h3, h4⟩ := Form.unpackA_packA f h2
  exact ⟨by rw [hs, hp]; exact ho _ h3, by rw [hp]; exact h4, hb, by rw [hs]; exact h1⟩

/-- A word of format B. -/
theorem formatB {q : Seq} {f : FmtB} {i : Instr} {w : Form} (hr : (q.inRange && Form.inRangeB f) = true) (hs : w.seq = q)
    (hp : w.payload = Form.packB f) (ho : ∀ n, Form.unpackB n = f → ofOpcode w.opc q n = some i) (hb : w.opc < 2 ^ 8) :
    ofOpcode w.opc w.seq w.payload = some i ∧ w.payload < 2 ^ 72 ∧ w.opc < 2 ^ 8 ∧ w.seq.inRange = true := by
  obtain ⟨h1, h2⟩ := Bool.and_eq_true_iff.1 hr
  obtain ⟨h3, h4⟩ := Form.unpackB_packB f h2
  exact ⟨by rw [hs, hp]; exact ho _ h3, by rw [hp]; exact h4, hb, by rw [hs]; exact h1⟩

/-- A word of format C. -/
theorem formatC {q : Seq} {f : FmtC} {i : Instr} {w : Form} (hr : (q.inRange && Form.inRangeC f) = true) (hs : w.seq = q)
    (hp : w.payload = Form.packC f) (ho : ∀ n, Form.unpackC n = f → ofOpcode w.opc q n = some i) (hb : w.opc < 2 ^ 8) :
    ofOpcode w.opc w.seq w.payload = some i ∧ w.payload < 2 ^ 72 ∧ w.opc < 2 ^ 8 ∧ w.seq.inRange = true := by
  obtain ⟨h1, h2⟩ := Bool.and_eq_true_iff.1 hr
  obtain ⟨h3, h4⟩ := Form.unpackC_packC f h2
  exact ⟨by rw [hs, hp]; exact ho _ h3, by rw [hp]; exact h4, hb, by rw [hs]; exact h1⟩

/-- A word of format D. -/
theorem formatD {q : Seq} {f : FmtD} {i : Instr} {w : Form} (hr : (q.inRange && Form.inRangeD f) = true) (hs : w.seq = q)
    (hp : w.payload = Form.packD f) (ho : ∀ n, Form.unpackD n = f → ofOpcode w.opc q n = some i) (hb : w.opc < 2 ^ 8) :
    ofOpcode w.opc w.seq w.payload = some i ∧ w.payload < 2 ^ 72 ∧ w.opc < 2 ^ 8 ∧ w.seq.inRange = true := by
  obtain ⟨h1, h2⟩ := Bool.and_eq_true_iff.1 hr
  obtain ⟨h3, h4⟩ := Form.unpackD_packD f h2
  exact ⟨by rw [hs, hp]; exact ho _ h3, by rw [hp]; exact h4, hb, by rw [hs]; exact h1⟩

/-- A word of format E. -/
theorem formatE {q : Seq} {f : FmtE} {i : Instr} {w : Form} (hr : (q.inRange && Form.inRangeE f) = true) (hs : w.seq = q)
    (hp : w.payload = Form.packE f) (ho : ∀ n, Form.unpackE n = f → ofOpcode w.opc q n = some i) (hb : w.opc < 2 ^ 8) :
    ofOpcode w.opc w.seq w.payload = some i ∧ w.payload < 2 ^ 72 ∧ w.opc < 2 ^ 8 ∧ w.seq.inRange = true := by
  obtain ⟨h1, h2⟩ := Bool.and_eq_true_iff.1 hr
  obtain ⟨h3, h4⟩ := Form.unpackE_packE f h2
  exact ⟨by rw [hs, hp]; exact ho _ h3, by rw [hp]; exact h4, hb, by rw [hs]; exact h1⟩

/-- A word of format F. -/
theorem formatF {q : Seq} {f : FmtF} {i : Instr} {w : Form} (hr : (q.inRange && Form.inRangeF f) = true) (hs : w.seq = q)
    (hp : w.payload = Form.packF f) (ho : ∀ n, Form.unpackF n = f → ofOpcode w.opc q n = some i) (hb : w.opc < 2 ^ 8) :
    ofOpcode w.opc w.seq w.payload = some i ∧ w.payload < 2 ^ 72 ∧ w.opc < 2 ^ 8 ∧ w.seq.inRange = true := by
  obtain ⟨h1, h2⟩ := Bool.and_eq_true_iff.1 hr
  obtain ⟨h3, h4⟩ := Form.unpackF_packF f h2
  exact ⟨by rw [hs, hp]; exact ho _ h3, by rw [hp]; exact h4, hb, by rw [hs]; exact h1⟩

/-- A word of format G. -/
theorem formatG {q : Seq} {f : FmtG} {i : Instr} {w : Form} (hr : (q.inRange && Form.inRangeG f) = true) (hs : w.seq = q)
    (hp : w.payload = Form.packG f) (ho : ∀ n, Form.unpackG n = f → ofOpcode w.opc q n = some i) (hb : w.opc < 2 ^ 8) :
    ofOpcode w.opc w.seq w.payload = some i ∧ w.payload < 2 ^ 72 ∧ w.opc < 2 ^ 8 ∧ w.seq.inRange = true := by
  obtain ⟨h1, h2⟩ := Bool.and_eq_true_iff.1 hr
  obtain ⟨h3, h4⟩ := Form.unpackG_packG f h2
  exact ⟨by rw [hs, hp]; exact ho _ h3, by rw [hp]; exact h4, hb, by rw [hs]; exact h1⟩

theorem nop (q : Seq) (f : FmtA) : Statement (.nop q f) := fun hr w hw => by
  cases hw; exact formatA hr rfl rfl (fun n h => by subst h; rfl) (Nat.le_of_ble_eq_true rfl)
theorem add (q : Seq) (f : FmtA) : Statement (.add q f) := fun hr w hw => by
  cases hw; exact formatA hr rfl rfl (fun n h => by subst h; rfl) (Nat.le_of_ble_eq_true rfl)
theorem sub (q : Seq) (f : FmtA) : Statement (.sub q f) := fun hr w hw => by
  cases hw; exact formatA hr rfl rfl (fun n h => by subst h; rfl) (Nat.le_of_ble_eq_true rfl)
theorem mul (q : Seq) (f : FmtA) : Statement (.mul q f) := fun hr w hw => by
  cases hw; exact formatA hr rfl rfl (fun n h => by subst h; rfl) (Nat.le_of_ble_eq_true rfl)
theorem mulh (q : Seq) (f : FmtA) : Statement (.mulh q f) := fun hr w hw => by
  cases hw; exact formatA hr rfl rfl (fun n h => by subst h; rfl) (Nat.le_of_ble_eq_true rfl)
theorem div (q : Seq) (f : FmtA) : Statement (.div q f) := fun hr w hw => by
  cases hw; exact formatA hr rfl rfl (fun n h => by subst h; rfl) (Nat.le_of_ble_eq_true rfl)
theorem rem (q : Seq) (f : FmtA) : Statement (.rem q f) := fun hr w hw => by
  cases hw; exact formatA hr rfl rfl (fun n h => by subst h; rfl) (Nat.le_of_ble_eq_true rfl)
theorem and (q : Seq) (f : FmtA) : Statement (.and q f) := fun hr w hw => by
  cases hw; exact formatA hr rfl rfl (fun n h => by subst h; rfl) (Nat.le_of_ble_eq_true rfl)
theorem or (q : Seq) (f : FmtA) : Statement (.or q f) := fun hr w hw => by
  cases hw; exact formatA hr rfl rfl (fun n h => by subst h; rfl) (Nat.le_of_ble_eq_true rfl)
theorem xor (q : Seq) (f : FmtA) : Statement (.xor q f) := fun hr w hw => by
  cases hw; exact formatA hr rfl rfl (fun n h => by subst h; rfl) (Nat.le_of_ble_eq_true rfl)
theorem shl (q : Seq) (f : FmtA) : Statement (.shl q f) := fun hr w hw => by
  cases hw; exact formatA hr rfl rfl (fun n h => by subst h; rfl) (Nat.le_of_ble_eq_true rfl)
theorem shr (q : Seq) (f : FmtA) : Statement (.shr q f) := fun hr w hw => by
  cases hw; exact formatA hr rfl rfl (fun n h => by subst h; rfl) (Nat.le_of_ble_eq_true rfl)
theorem sar (q : Seq) (f : FmtA) : Statement (.sar q f) := fun hr w hw => by
  cases hw; exact formatA hr rfl rfl (fun n h => by subst h; rfl) (Nat.le_of_ble_eq_true rfl)
theorem rol (q : Seq) (f : FmtA) : Statement (.rol q f) := fun hr w hw => by
  cases hw; exact formatA hr rfl rfl (fun n h => by subst h; rfl) (Nat.le_of_ble_eq_true rfl)
theorem clz (q : Seq) (f : FmtA) : Statement (.clz q f) := fun hr w hw => by
  cases hw; exact formatA hr rfl rfl (fun n h => by subst h; rfl) (Nat.le_of_ble_eq_true rfl)
theorem popc (q : Seq) (f : FmtA) : Statement (.popc q f) := fun hr w hw => by
  cases hw; exact formatA hr rfl rfl (fun n h => by subst h; rfl) (Nat.le_of_ble_eq_true rfl)
theorem min (q : Seq) (f : FmtA) : Statement (.min q f) := fun hr w hw => by
  cases hw; exact formatA hr rfl rfl (fun n h => by subst h; rfl) (Nat.le_of_ble_eq_true rfl)
theorem max (q : Seq) (f : FmtA) : Statement (.max q f) := fun hr w hw => by
  cases hw; exact formatA hr rfl rfl (fun n h => by subst h; rfl) (Nat.le_of_ble_eq_true rfl)
theorem cmp (q : Seq) (f : FmtA) : Statement (.cmp q f) := fun hr w hw => by
  cases hw; exact formatA hr rfl rfl (fun n h => by subst h; rfl) (Nat.le_of_ble_eq_true rfl)
theorem mov (q : Seq) (f : FmtA) : Statement (.mov q f) := fun hr w hw => by
  cases hw; exact formatA hr rfl rfl (fun n h => by subst h; rfl) (Nat.le_of_ble_eq_true rfl)
theorem qput (q : Seq) (f : FmtA) : Statement (.qput q f) := fun hr w hw => by
  cases hw; exact formatA hr rfl rfl (fun n h => by subst h; rfl) (Nat.le_of_ble_eq_true rfl)
theorem qget (q : Seq) (f : FmtA) : Statement (.qget q f) := fun hr w hw => by
  cases hw; exact formatA hr rfl rfl (fun n h => by subst h; rfl) (Nat.le_of_ble_eq_true rfl)
theorem addi (q : Seq) (f : FmtB) : Statement (.addi q f) := fun hr w hw => by
  cases hw; exact formatB hr rfl rfl (fun n h => by subst h; rfl) (Nat.le_of_ble_eq_true rfl)
theorem andi (q : Seq) (f : FmtB) : Statement (.andi q f) := fun hr w hw => by
  cases hw; exact formatB hr rfl rfl (fun n h => by subst h; rfl) (Nat.le_of_ble_eq_true rfl)
theorem ori (q : Seq) (f : FmtB) : Statement (.ori q f) := fun hr w hw => by
  cases hw; exact formatB hr rfl rfl (fun n h => by subst h; rfl) (Nat.le_of_ble_eq_true rfl)
theorem xori (q : Seq) (f : FmtB) : Statement (.xori q f) := fun hr w hw => by
  cases hw; exact formatB hr rfl rfl (fun n h => by subst h; rfl) (Nat.le_of_ble_eq_true rfl)
theorem shli (q : Seq) (f : FmtB) : Statement (.shli q f) := fun hr w hw => by
  cases hw; exact formatB hr rfl rfl (fun n h => by subst h; rfl) (Nat.le_of_ble_eq_true rfl)
theorem shri (q : Seq) (f : FmtB) : Statement (.shri q f) := fun hr w hw => by
  cases hw; exact formatB hr rfl rfl (fun n h => by subst h; rfl) (Nat.le_of_ble_eq_true rfl)
theorem sari (q : Seq) (f : FmtB) : Statement (.sari q f) := fun hr w hw => by
  cases hw; exact formatB hr rfl rfl (fun n h => by subst h; rfl) (Nat.le_of_ble_eq_true rfl)
theorem roli (q : Seq) (f : FmtB) : Statement (.roli q f) := fun hr w hw => by
  cases hw; exact formatB hr rfl rfl (fun n h => by subst h; rfl) (Nat.le_of_ble_eq_true rfl)
theorem cmpi (q : Seq) (f : FmtB) : Statement (.cmpi q f) := fun hr w hw => by
  cases hw; exact formatB hr rfl rfl (fun n h => by subst h; rfl) (Nat.le_of_ble_eq_true rfl)
theorem movi (q : Seq) (f : FmtB) : Statement (.movi q f) := fun hr w hw => by
  cases hw; exact formatB hr rfl rfl (fun n h => by subst h; rfl) (Nat.le_of_ble_eq_true rfl)
theorem lea (q : Seq) (f : FmtB) : Statement (.lea q f) := fun hr w hw => by
  cases hw; exact formatB hr rfl rfl (fun n h => by subst h; rfl) (Nat.le_of_ble_eq_true rfl)
theorem ext (q : Seq) (f : FmtB) : Statement (.ext q f) := fun hr w hw => by
  cases hw; exact formatB hr rfl rfl (fun n h => by subst h; rfl) (Nat.le_of_ble_eq_true rfl)
theorem ins (q : Seq) (f : FmtB) : Statement (.ins q f) := fun hr w hw => by
  cases hw; exact formatB hr rfl rfl (fun n h => by subst h; rfl) (Nat.le_of_ble_eq_true rfl)
theorem spill (q : Seq) (f : FmtB) : Statement (.spill q f) := fun hr w hw => by
  cases hw; exact formatB hr rfl rfl (fun n h => by subst h; rfl) (Nat.le_of_ble_eq_true rfl)
theorem fill (q : Seq) (f : FmtB) : Statement (.fill q f) := fun hr w hw => by
  cases hw; exact formatB hr rfl rfl (fun n h => by subst h; rfl) (Nat.le_of_ble_eq_true rfl)
theorem lps (q : Seq) (f : FmtB) : Statement (.lps q f) := fun hr w hw => by
  cases hw; exact formatB hr rfl rfl (fun n h => by subst h; rfl) (Nat.le_of_ble_eq_true rfl)
theorem lpst (q : Seq) (f : FmtB) : Statement (.lpst q f) := fun hr w hw => by
  cases hw; exact formatB hr rfl rfl (fun n h => by subst h; rfl) (Nat.le_of_ble_eq_true rfl)
theorem sbase (q : Seq) (f : FmtB) : Statement (.sbase q f) := fun hr w hw => by
  cases hw; exact formatB hr rfl rfl (fun n h => by subst h; rfl) (Nat.le_of_ble_eq_true rfl)
theorem rdcyc (q : Seq) (f : FmtF) : Statement (.rdcyc q f) := fun hr w hw => by
  cases hw; exact formatF hr rfl rfl (fun n h => by subst h; rfl) (Nat.le_of_ble_eq_true rfl)
theorem ctlrd (q : Seq) (f : FmtF) : Statement (.ctlrd q f) := fun hr w hw => by
  cases hw; exact formatF hr rfl rfl (fun n h => by subst h; rfl) (Nat.le_of_ble_eq_true rfl)
theorem ctlwr (q : Seq) (f : FmtF) : Statement (.ctlwr q f) := fun hr w hw => by
  cases hw; exact formatF hr rfl rfl (fun n h => by subst h; rfl) (Nat.le_of_ble_eq_true rfl)
theorem mbrd (q : Seq) (f : FmtF) : Statement (.mbrd q f) := fun hr w hw => by
  cases hw; exact formatF hr rfl rfl (fun n h => by subst h; rfl) (Nat.le_of_ble_eq_true rfl)
theorem lcrd (q : Seq) (f : FmtF) : Statement (.lcrd q f) := fun hr w hw => by
  cases hw; exact formatF hr rfl rfl (fun n h => by subst h; rfl) (Nat.le_of_ble_eq_true rfl)
theorem trap (q : Seq) (f : FmtF) : Statement (.trap q f) := fun hr w hw => by
  cases hw; exact formatF hr rfl rfl (fun n h => by subst h; rfl) (Nat.le_of_ble_eq_true rfl)
theorem brk (q : Seq) (f : FmtF) : Statement (.brk q f) := fun hr w hw => by
  cases hw; exact formatF hr rfl rfl (fun n h => by subst h; rfl) (Nat.le_of_ble_eq_true rfl)
theorem eret (q : Seq) (f : FmtF) : Statement (.eret q f) := fun hr w hw => by
  cases hw; exact formatF hr rfl rfl (fun n h => by subst h; rfl) (Nat.le_of_ble_eq_true rfl)
theorem vadd (q : Seq) (f : FmtA) : Statement (.vadd q f) := fun hr w hw => by
  cases hw; exact formatA hr rfl rfl (fun n h => by subst h; rfl) (Nat.le_of_ble_eq_true rfl)
theorem vsub (q : Seq) (f : FmtA) : Statement (.vsub q f) := fun hr w hw => by
  cases hw; exact formatA hr rfl rfl (fun n h => by subst h; rfl) (Nat.le_of_ble_eq_true rfl)
theorem vmul (q : Seq) (f : FmtA) : Statement (.vmul q f) := fun hr w hw => by
  cases hw; exact formatA hr rfl rfl (fun n h => by subst h; rfl) (Nat.le_of_ble_eq_true rfl)
theorem vfma (q : Seq) (f : FmtA) : Statement (.vfma q f) := fun hr w hw => by
  cases hw; exact formatA hr rfl rfl (fun n h => by subst h; rfl) (Nat.le_of_ble_eq_true rfl)
theorem vmin (q : Seq) (f : FmtA) : Statement (.vmin q f) := fun hr w hw => by
  cases hw; exact formatA hr rfl rfl (fun n h => by subst h; rfl) (Nat.le_of_ble_eq_true rfl)
theorem vmax (q : Seq) (f : FmtA) : Statement (.vmax q f) := fun hr w hw => by
  cases hw; exact formatA hr rfl rfl (fun n h => by subst h; rfl) (Nat.le_of_ble_eq_true rfl)
theorem vdiv (q : Seq) (f : FmtA) : Statement (.vdiv q f) := fun hr w hw => by
  cases hw; exact formatA hr rfl rfl (fun n h => by subst h; rfl) (Nat.le_of_ble_eq_true rfl)
theorem vabs (q : Seq) (f : FmtA) : Statement (.vabs q f) := fun hr w hw => by
  cases hw; exact formatA hr rfl rfl (fun n h => by subst h; rfl) (Nat.le_of_ble_eq_true rfl)
theorem vneg (q : Seq) (f : FmtA) : Statement (.vneg q f) := fun hr w hw => by
  cases hw; exact formatA hr rfl rfl (fun n h => by subst h; rfl) (Nat.le_of_ble_eq_true rfl)
theorem vcmp (q : Seq) (f : FmtA) : Statement (.vcmp q f) := fun hr w hw => by
  cases hw; exact formatA hr rfl rfl (fun n h => by subst h; rfl) (Nat.le_of_ble_eq_true rfl)
theorem vsel (q : Seq) (f : FmtA) : Statement (.vsel q f) := fun hr w hw => by
  cases hw; exact formatA hr rfl rfl (fun n h => by subst h; rfl) (Nat.le_of_ble_eq_true rfl)
theorem vand (q : Seq) (f : FmtA) : Statement (.vand q f) := fun hr w hw => by
  cases hw; exact formatA hr rfl rfl (fun n h => by subst h; rfl) (Nat.le_of_ble_eq_true rfl)
theorem vor (q : Seq) (f : FmtA) : Statement (.vor q f) := fun hr w hw => by
  cases hw; exact formatA hr rfl rfl (fun n h => by subst h; rfl) (Nat.le_of_ble_eq_true rfl)
theorem vxor (q : Seq) (f : FmtA) : Statement (.vxor q f) := fun hr w hw => by
  cases hw; exact formatA hr rfl rfl (fun n h => by subst h; rfl) (Nat.le_of_ble_eq_true rfl)
theorem vshl (q : Seq) (f : FmtA) : Statement (.vshl q f) := fun hr w hw => by
  cases hw; exact formatA hr rfl rfl (fun n h => by subst h; rfl) (Nat.le_of_ble_eq_true rfl)
theorem vshr (q : Seq) (f : FmtA) : Statement (.vshr q f) := fun hr w hw => by
  cases hw; exact formatA hr rfl rfl (fun n h => by subst h; rfl) (Nat.le_of_ble_eq_true rfl)
theorem vsar (q : Seq) (f : FmtA) : Statement (.vsar q f) := fun hr w hw => by
  cases hw; exact formatA hr rfl rfl (fun n h => by subst h; rfl) (Nat.le_of_ble_eq_true rfl)
theorem vcvt (q : Seq) (f : FmtA) : Statement (.vcvt q f) := fun hr w hw => by
  cases hw; exact formatA hr rfl rfl (fun n h => by subst h; rfl) (Nat.le_of_ble_eq_true rfl)
theorem vsqrt (q : Seq) (f : FmtA) : Statement (.vsqrt q f) := fun hr w hw => by
  cases hw; exact formatA hr rfl rfl (fun n h => by subst h; rfl) (Nat.le_of_ble_eq_true rfl)
theorem vrsq (q : Seq) (f : FmtA) : Statement (.vrsq q f) := fun hr w hw => by
  cases hw; exact formatA hr rfl rfl (fun n h => by subst h; rfl) (Nat.le_of_ble_eq_true rfl)
theorem vrcp (q : Seq) (f : FmtA) : Statement (.vrcp q f) := fun hr w hw => by
  cases hw; exact formatA hr rfl rfl (fun n h => by subst h; rfl) (Nat.le_of_ble_eq_true rfl)
theorem vexp2 (q : Seq) (f : FmtA) : Statement (.vexp2 q f) := fun hr w hw => by
  cases hw; exact formatA hr rfl rfl (fun n h => by subst h; rfl) (Nat.le_of_ble_eq_true rfl)
theorem vlog2 (q : Seq) (f : FmtA) : Statement (.vlog2 q f) := fun hr w hw => by
  cases hw; exact formatA hr rfl rfl (fun n h => by subst h; rfl) (Nat.le_of_ble_eq_true rfl)
theorem vredsum (q : Seq) (f : FmtA) : Statement (.vredsum q f) := fun hr w hw => by
  cases hw; exact formatA hr rfl rfl (fun n h => by subst h; rfl) (Nat.le_of_ble_eq_true rfl)
theorem vredmin (q : Seq) (f : FmtA) : Statement (.vredmin q f) := fun hr w hw => by
  cases hw; exact formatA hr rfl rfl (fun n h => by subst h; rfl) (Nat.le_of_ble_eq_true rfl)
theorem vredmax (q : Seq) (f : FmtA) : Statement (.vredmax q f) := fun hr w hw => by
  cases hw; exact formatA hr rfl rfl (fun n h => by subst h; rfl) (Nat.le_of_ble_eq_true rfl)
theorem vscan (q : Seq) (f : FmtA) : Statement (.vscan q f) := fun hr w hw => by
  cases hw; exact formatA hr rfl rfl (fun n h => by subst h; rfl) (Nat.le_of_ble_eq_true rfl)
theorem vperm (q : Seq) (f : FmtA) : Statement (.vperm q f) := fun hr w hw => by
  cases hw; exact formatA hr rfl rfl (fun n h => by subst h; rfl) (Nat.le_of_ble_eq_true rfl)
theorem vshift (q : Seq) (f : FmtA) : Statement (.vshift q f) := fun hr w hw => by
  cases hw; exact formatA hr rfl rfl (fun n h => by subst h; rfl) (Nat.le_of_ble_eq_true rfl)
theorem vmov (q : Seq) (f : FmtA) : Statement (.vmov q f) := fun hr w hw => by
  cases hw; exact formatA hr rfl rfl (fun n h => by subst h; rfl) (Nat.le_of_ble_eq_true rfl)
theorem vbcast (q : Seq) (f : FmtA) : Statement (.vbcast q f) := fun hr w hw => by
  cases hw; exact formatA hr rfl rfl (fun n h => by subst h; rfl) (Nat.le_of_ble_eq_true rfl)
theorem vext (q : Seq) (f : FmtA) : Statement (.vext q f) := fun hr w hw => by
  cases hw; exact formatA hr rfl rfl (fun n h => by subst h; rfl) (Nat.le_of_ble_eq_true rfl)
theorem vidx (q : Seq) (f : FmtA) : Statement (.vidx q f) := fun hr w hw => by
  cases hw; exact formatA hr rfl rfl (fun n h => by subst h; rfl) (Nat.le_of_ble_eq_true rfl)
theorem kand (q : Seq) (f : FmtA) : Statement (.kand q f) := fun hr w hw => by
  cases hw; exact formatA hr rfl rfl (fun n h => by subst h; rfl) (Nat.le_of_ble_eq_true rfl)
theorem kor (q : Seq) (f : FmtA) : Statement (.kor q f) := fun hr w hw => by
  cases hw; exact formatA hr rfl rfl (fun n h => by subst h; rfl) (Nat.le_of_ble_eq_true rfl)
theorem kxor (q : Seq) (f : FmtA) : Statement (.kxor q f) := fun hr w hw => by
  cases hw; exact formatA hr rfl rfl (fun n h => by subst h; rfl) (Nat.le_of_ble_eq_true rfl)
theorem knot (q : Seq) (f : FmtA) : Statement (.knot q f) := fun hr w hw => by
  cases hw; exact formatA hr rfl rfl (fun n h => by subst h; rfl) (Nat.le_of_ble_eq_true rfl)
theorem kpopc (q : Seq) (f : FmtA) : Statement (.kpopc q f) := fun hr w hw => by
  cases hw; exact formatA hr rfl rfl (fun n h => by subst h; rfl) (Nat.le_of_ble_eq_true rfl)
theorem cspush (q : Seq) (f : FmtA) : Statement (.cspush q f) := fun hr w hw => by
  cases hw; exact formatA hr rfl rfl (fun n h => by subst h; rfl) (Nat.le_of_ble_eq_true rfl)
theorem cspop (q : Seq) (f : FmtA) : Statement (.cspop q f) := fun hr w hw => by
  cases hw; exact formatA hr rfl rfl (fun n h => by subst h; rfl) (Nat.le_of_ble_eq_true rfl)
theorem mld (q : Seq) (f : FmtC) : Statement (.mld q f) := fun hr w hw => by
  cases hw; exact formatC hr rfl rfl (fun n h => by subst h; rfl) (Nat.le_of_ble_eq_true rfl)
theorem mma (q : Seq) (f : FmtD) : Statement (.mma q f) := fun hr w hw => by
  cases hw; exact formatD hr rfl rfl (fun n h => by subst h; rfl) (Nat.le_of_ble_eq_true rfl)
theorem mmaq (q : Seq) (f : FmtD) : Statement (.mmaq q f) := fun hr w hw => by
  cases hw; exact formatD hr rfl rfl (fun n h => by subst h; rfl) (Nat.le_of_ble_eq_true rfl)
theorem mmac (q : Seq) (f : FmtD) : Statement (.mmac q f) := fun hr w hw => by
  cases hw; exact formatD hr rfl rfl (fun n h => by subst h; rfl) (Nat.le_of_ble_eq_true rfl)
theorem mdrain (q : Seq) (f : FmtD) : Statement (.mdrain q f) := fun hr w hw => by
  cases hw; exact formatD hr rfl rfl (fun n h => by subst h; rfl) (Nat.le_of_ble_eq_true rfl)
theorem mzero (q : Seq) (f : FmtD) : Statement (.mzero q f) := fun hr w hw => by
  cases hw; exact formatD hr rfl rfl (fun n h => by subst h; rfl) (Nat.le_of_ble_eq_true rfl)
theorem mperturb (q : Seq) (f : FmtD) : Statement (.mperturb q f) := fun hr w hw => by
  cases hw; exact formatD hr rfl rfl (fun n h => by subst h; rfl) (Nat.le_of_ble_eq_true rfl)
theorem mlease (q : Seq) (f : FmtF) : Statement (.mlease q f) := fun hr w hw => by
  cases hw; exact formatF hr rfl rfl (fun n h => by subst h; rfl) (Nat.le_of_ble_eq_true rfl)
theorem mfree (q : Seq) (f : FmtF) : Statement (.mfree q f) := fun hr w hw => by
  cases hw; exact formatF hr rfl rfl (fun n h => by subst h; rfl) (Nat.le_of_ble_eq_true rfl)
theorem mfold (q : Seq) (f : FmtF) : Statement (.mfold q f) := fun hr w hw => by
  cases hw; exact formatF hr rfl rfl (fun n h => by subst h; rfl) (Nat.le_of_ble_eq_true rfl)
theorem ld (q : Seq) (f : FmtC) : Statement (.ld q f) := fun hr w hw => by
  cases hw; exact formatC hr rfl rfl (fun n h => by subst h; rfl) (Nat.le_of_ble_eq_true rfl)
theorem st (q : Seq) (f : FmtC) : Statement (.st q f) := fun hr w hw => by
  cases hw; exact formatC hr rfl rfl (fun n h => by subst h; rfl) (Nat.le_of_ble_eq_true rfl)
theorem vld (q : Seq) (f : FmtC) : Statement (.vld q f) := fun hr w hw => by
  cases hw; exact formatC hr rfl rfl (fun n h => by subst h; rfl) (Nat.le_of_ble_eq_true rfl)
theorem vst (q : Seq) (f : FmtC) : Statement (.vst q f) := fun hr w hw => by
  cases hw; exact formatC hr rfl rfl (fun n h => by subst h; rfl) (Nat.le_of_ble_eq_true rfl)
theorem nst (q : Seq) (f : FmtC) : Statement (.nst q f) := fun hr w hw => by
  cases hw; exact formatC hr rfl rfl (fun n h => by subst h; rfl) (Nat.le_of_ble_eq_true rfl)
theorem act (q : Seq) (f : FmtC) : Statement (.act q f) := fun hr w hw => by
  cases hw; exact formatC hr rfl rfl (fun n h => by subst h; rfl) (Nat.le_of_ble_eq_true rfl)
theorem pre (q : Seq) (f : FmtC) : Statement (.pre q f) := fun hr w hw => by
  cases hw; exact formatC hr rfl rfl (fun n h => by subst h; rfl) (Nat.le_of_ble_eq_true rfl)
theorem ref (q : Seq) (f : FmtC) : Statement (.ref q f) := fun hr w hw => by
  cases hw; exact formatC hr rfl rfl (fun n h => by subst h; rfl) (Nat.le_of_ble_eq_true rfl)
theorem refhold (q : Seq) (f : FmtF) : Statement (.refhold q f) := fun hr w hw => by
  cases hw; exact formatF hr rfl rfl (fun n h => by subst h; rfl) (Nat.le_of_ble_eq_true rfl)
theorem refrel (q : Seq) (f : FmtF) : Statement (.refrel q f) := fun hr w hw => by
  cases hw; exact formatF hr rfl rfl (fun n h => by subst h; rfl) (Nat.le_of_ble_eq_true rfl)
theorem hdef (q : Seq) (f : FmtG) : Statement (.hdef q f) := fun hr w hw => by
  cases hw; exact formatG hr rfl rfl (fun n h => by subst h; rfl) (Nat.le_of_ble_eq_true rfl)
theorem hld (q : Seq) (f : FmtG) : Statement (.hld q f) := fun hr w hw => by
  cases hw; exact formatG hr rfl rfl (fun n h => by subst h; rfl) (Nat.le_of_ble_eq_true rfl)
theorem hst (q : Seq) (f : FmtG) : Statement (.hst q f) := fun hr w hw => by
  cases hw; exact formatG hr rfl rfl (fun n h => by subst h; rfl) (Nat.le_of_ble_eq_true rfl)
theorem relay (q : Seq) (f : FmtG) : Statement (.relay q f) := fun hr w hw => by
  cases hw; exact formatG hr rfl rfl (fun n h => by subst h; rfl) (Nat.le_of_ble_eq_true rfl)
theorem hwait (q : Seq) (f : FmtG) : Statement (.hwait q f) := fun hr w hw => by
  cases hw; exact formatG hr rfl rfl (fun n h => by subst h; rfl) (Nat.le_of_ble_eq_true rfl)
theorem hquery (q : Seq) (f : FmtG) : Statement (.hquery q f) := fun hr w hw => by
  cases hw; exact formatG hr rfl rfl (fun n h => by subst h; rfl) (Nat.le_of_ble_eq_true rfl)
theorem hclose (q : Seq) (f : FmtG) : Statement (.hclose q f) := fun hr w hw => by
  cases hw; exact formatG hr rfl rfl (fun n h => by subst h; rfl) (Nat.le_of_ble_eq_true rfl)
theorem copy (q : Seq) (f : FmtE) : Statement (.copy q f) := fun hr w hw => by
  cases hw; exact formatE hr rfl rfl (fun n h => by subst h; rfl) (Nat.le_of_ble_eq_true rfl)
theorem chain (q : Seq) (f : FmtE) : Statement (.chain q f) := fun hr w hw => by
  cases hw; exact formatE hr rfl rfl (fun n h => by subst h; rfl) (Nat.le_of_ble_eq_true rfl)
theorem gather (q : Seq) (f : FmtE) : Statement (.gather q f) := fun hr w hw => by
  cases hw; exact formatE hr rfl rfl (fun n h => by subst h; rfl) (Nat.le_of_ble_eq_true rfl)
theorem scatter (q : Seq) (f : FmtE) : Statement (.scatter q f) := fun hr w hw => by
  cases hw; exact formatE hr rfl rfl (fun n h => by subst h; rfl) (Nat.le_of_ble_eq_true rfl)
theorem cpyx (q : Seq) (f : FmtE) : Statement (.cpyx q f) := fun hr w hw => by
  cases hw; exact formatE hr rfl rfl (fun n h => by subst h; rfl) (Nat.le_of_ble_eq_true rfl)
theorem stbind (q : Seq) (f : FmtE) : Statement (.stbind q f) := fun hr w hw => by
  cases hw; exact formatE hr rfl rfl (fun n h => by subst h; rfl) (Nat.le_of_ble_eq_true rfl)
theorem aatom (q : Seq) (f : FmtE) : Statement (.aatom q f) := fun hr w hw => by
  cases hw; exact formatE hr rfl rfl (fun n h => by subst h; rfl) (Nat.le_of_ble_eq_true rfl)
theorem atom (q : Seq) (f : FmtC) : Statement (.atom q f) := fun hr w hw => by
  cases hw; exact formatC hr rfl rfl (fun n h => by subst h; rfl) (Nat.le_of_ble_eq_true rfl)
theorem red (q : Seq) (f : FmtC) : Statement (.red q f) := fun hr w hw => by
  cases hw; exact formatC hr rfl rfl (fun n h => by subst h; rfl) (Nat.le_of_ble_eq_true rfl)
theorem fence (q : Seq) (f : FmtF) : Statement (.fence q f) := fun hr w hw => by
  cases hw; exact formatF hr rfl rfl (fun n h => by subst h; rfl) (Nat.le_of_ble_eq_true rfl)
theorem mark (q : Seq) (f : FmtF) : Statement (.mark q f) := fun hr w hw => by
  cases hw; exact formatF hr rfl rfl (fun n h => by subst h; rfl) (Nat.le_of_ble_eq_true rfl)
theorem binit (q : Seq) (f : FmtC) : Statement (.binit q f) := fun hr w hw => by
  cases hw; exact formatC hr rfl rfl (fun n h => by subst h; rfl) (Nat.le_of_ble_eq_true rfl)
theorem arrive (q : Seq) (f : FmtC) : Statement (.arrive q f) := fun hr w hw => by
  cases hw; exact formatC hr rfl rfl (fun n h => by subst h; rfl) (Nat.le_of_ble_eq_true rfl)
theorem arrdrop (q : Seq) (f : FmtC) : Statement (.arrdrop q f) := fun hr w hw => by
  cases hw; exact formatC hr rfl rfl (fun n h => by subst h; rfl) (Nat.le_of_ble_eq_true rfl)
theorem bexpect (q : Seq) (f : FmtC) : Statement (.bexpect q f) := fun hr w hw => by
  cases hw; exact formatC hr rfl rfl (fun n h => by subst h; rfl) (Nat.le_of_ble_eq_true rfl)
theorem btest (q : Seq) (f : FmtC) : Statement (.btest q f) := fun hr w hw => by
  cases hw; exact formatC hr rfl rfl (fun n h => by subst h; rfl) (Nat.le_of_ble_eq_true rfl)
theorem bwait (q : Seq) (f : FmtC) : Statement (.bwait q f) := fun hr w hw => by
  cases hw; exact formatC hr rfl rfl (fun n h => by subst h; rfl) (Nat.le_of_ble_eq_true rfl)
theorem popw (q : Seq) (f : FmtF) : Statement (.popw q f) := fun hr w hw => by
  cases hw; exact formatF hr rfl rfl (fun n h => by subst h; rfl) (Nat.le_of_ble_eq_true rfl)
theorem enqw (q : Seq) (f : FmtF) : Statement (.enqw q f) := fun hr w hw => by
  cases hw; exact formatF hr rfl rfl (fun n h => by subst h; rfl) (Nat.le_of_ble_eq_true rfl)
theorem yield (q : Seq) (f : FmtF) : Statement (.yield q f) := fun hr w hw => by
  cases hw; exact formatF hr rfl rfl (fun n h => by subst h; rfl) (Nat.le_of_ble_eq_true rfl)
theorem enq (q : Seq) (f : FmtF) : Statement (.enq q f) := fun hr w hw => by
  cases hw; exact formatF hr rfl rfl (fun n h => by subst h; rfl) (Nat.le_of_ble_eq_true rfl)
theorem gsig (q : Seq) (f : FmtF) : Statement (.gsig q f) := fun hr w hw => by
  cases hw; exact formatF hr rfl rfl (fun n h => by subst h; rfl) (Nat.le_of_ble_eq_true rfl)
theorem csSharedRetry (col : Nat) (slot : Nat) : Statement (.csSharedRetry col slot) := fun _ _ hw => nomatch hw
theorem wordComplete (id : Nat) : Statement (.wordComplete id) := fun _ _ hw => nomatch hw
theorem tokenAvailable (col : Nat) (slot : Nat) (fifo : Nat) : Statement (.tokenAvailable col slot fifo) := fun _ _ hw => nomatch hw
theorem sectionDispatch (col : Nat) (slot : Nat) (eng : Eng) : Statement (.sectionDispatch col slot eng) := fun _ _ hw => nomatch hw
theorem sectionRetire (col : Nat) (slot : Nat) (eng : Eng) : Statement (.sectionRetire col slot eng) := fun _ _ hw => nomatch hw
theorem scheduleMiss (col : Nat) (slot : Nat) : Statement (.scheduleMiss col slot) := fun _ _ hw => nomatch hw
theorem messageLand (gid : Nat) (mb : Nat) (value : Nat) (word : Nat) : Statement (.messageLand gid mb value word) := fun _ _ hw => nomatch hw
theorem loadPerformed (id : Nat) : Statement (.loadPerformed id) := fun _ _ hw => nomatch hw
theorem storeReachPort (id : Nat) (dist : Nat) : Statement (.storeReachPort id dist) := fun _ _ hw => nomatch hw
theorem writeQueueDrain (tower : Nat) : Statement (.writeQueueDrain tower) := fun _ _ hw => nomatch hw
theorem rowOperationEnd (tower : Nat) (bank : Nat) : Statement (.rowOperationEnd tower bank) := fun _ _ hw => nomatch hw
theorem backgroundRefresh (tower : Nat) : Statement (.backgroundRefresh tower) := fun _ _ hw => nomatch hw
theorem forcedRefresh (tower : Nat) (bank : Nat) (row : Nat) : Statement (.forcedRefresh tower bank row) := fun _ _ hw => nomatch hw
theorem rowSpareCopyVerify (tower : Nat) (good : Bool) : Statement (.rowSpareCopyVerify tower good) := fun _ _ hw => nomatch hw
theorem rowspareStart (col : Nat) (value : Nat) : Statement (.rowspareStart col value) := fun _ _ hw => nomatch hw
theorem bedJointFailure (col : Nat) (joint : Nat) (batch : Nat) : Statement (.bedJointFailure col joint batch) := fun _ _ hw => nomatch hw
theorem bypassGrant (col : Nat) : Statement (.bypassGrant col) := fun _ _ hw => nomatch hw
theorem bypassFailure (col : Nat) : Statement (.bypassFailure col) := fun _ _ hw => nomatch hw
theorem leaseGrant (col : Nat) : Statement (.leaseGrant col) := fun _ _ hw => nomatch hw
theorem thermalThrottle (site : Nat) (course : Nat) (celsius : Nat) : Statement (.thermalThrottle site course celsius) := fun _ _ hw => nomatch hw
theorem thermalTrip (site : Nat) (course : Nat) (celsius : Nat) : Statement (.thermalTrip site course celsius) := fun _ _ hw => nomatch hw
theorem ageingMarginLow (site : Nat) (course : Nat) (margin : Nat) : Statement (.ageingMarginLow site course margin) := fun _ _ hw => nomatch hw
theorem opPointChange (point : Nat) : Statement (.opPointChange point) := fun _ _ hw => nomatch hw
theorem channelCommandStart (chan : Chan) : Statement (.channelCommandStart chan) := fun _ _ hw => nomatch hw
theorem translationFault (chan : Chan) (record : Nat) : Statement (.translationFault chan record) := fun _ _ hw => nomatch hw
theorem commandComplete (chan : Chan) : Statement (.commandComplete chan) := fun _ _ hw => nomatch hw
theorem engineFault (chan : Chan) (code : Nat) (info : Nat) : Statement (.engineFault chan code info) := fun _ _ hw => nomatch hw
theorem chainRecord (pier : Nat) (chan : Nat) : Statement (.chainRecord pier chan) := fun _ _ hw => nomatch hw
theorem chainRecordPoll (pier : Nat) (chan : Nat) : Statement (.chainRecordPoll pier chan) := fun _ _ hw => nomatch hw
theorem streamPortVector (chan : Chan) : Statement (.streamPortVector chan) := fun _ _ hw => nomatch hw
theorem groupPlace (gid : Nat) (col : Nat) (slot : Nat) : Statement (.groupPlace gid col slot) := fun _ _ hw => nomatch hw
theorem codeStoreCopyComplete (gid : Nat) : Statement (.codeStoreCopyComplete gid) := fun _ _ hw => nomatch hw
theorem codeBlockFetch (col : Nat) (slot : Nat) (block : Nat) : Statement (.codeBlockFetch col slot block) := fun _ _ hw => nomatch hw
theorem watchdog (col : Nat) (slot : Nat) : Statement (.watchdog col slot) := fun _ _ hw => nomatch hw
theorem forcedFullSave (gid : Nat) : Statement (.forcedFullSave gid) := fun _ _ hw => nomatch hw
theorem saveComplete (gid : Nat) : Statement (.saveComplete gid) := fun _ _ hw => nomatch hw
theorem migrationComplete (ctx : Nat) (src : Nat) : Statement (.migrationComplete ctx src) := fun _ _ hw => nomatch hw
theorem groupRetire (gid : Nat) : Statement (.groupRetire gid) := fun _ _ hw => nomatch hw
theorem launchCheck (lid : Nat) : Statement (.launchCheck lid) := fun _ _ hw => nomatch hw
theorem launchRetire (lid : Nat) : Statement (.launchRetire lid) := fun _ _ hw => nomatch hw
theorem poolTerminate (lid : Nat) : Statement (.poolTerminate lid) := fun _ _ hw => nomatch hw
theorem doorbellAdvance (queue : Nat) (ptr : Nat) : Statement (.doorbellAdvance queue ptr) := fun _ _ hw => nomatch hw
theorem saveFrameWait (gid : Nat) : Statement (.saveFrameWait gid) := fun _ _ hw => nomatch hw
theorem pageWalk (pier : Nat) (col : Nat) (walk : Walk) : Statement (.pageWalk pier col walk) := fun _ _ hw => nomatch hw
theorem pfrespRetry (id : Nat) : Statement (.pfrespRetry id) := fun _ _ hw => nomatch hw
theorem pfrespRefusePageFault (id : Nat) : Statement (.pfrespRefusePageFault id) := fun _ _ hw => nomatch hw
theorem pfrespRefusePermission (id : Nat) : Statement (.pfrespRefusePermission id) := fun _ _ hw => nomatch hw
theorem relayoutTileRetry (ctx : Nat) (entry : Nat) : Statement (.relayoutTileRetry ctx entry) := fun _ _ hw => nomatch hw
theorem pginvPage (ctx : Nat) (vpage : Nat) : Statement (.pginvPage ctx vpage) := fun _ _ hw => nomatch hw
theorem quarantine (page : Nat) : Statement (.quarantine page) := fun _ _ hw => nomatch hw
theorem scrub (page : Nat) : Statement (.scrub page) := fun _ _ hw => nomatch hw
theorem release (page : Nat) : Statement (.release page) := fun _ _ hw => nomatch hw
theorem relayoutTileMoving (ctx : Nat) (entry : Nat) : Statement (.relayoutTileMoving ctx entry) := fun _ _ hw => nomatch hw
theorem relayoutTileNew (ctx : Nat) (entry : Nat) : Statement (.relayoutTileNew ctx entry) := fun _ _ hw => nomatch hw
theorem relayoutComplete (ctx : Nat) (entry : Nat) : Statement (.relayoutComplete ctx entry) := fun _ _ hw => nomatch hw
theorem handleEntryFree (ctx : Nat) (entry : Nat) : Statement (.handleEntryFree ctx entry) := fun _ _ hw => nomatch hw
theorem barrierUpdate (addr : Nat) : Statement (.barrierUpdate addr) := fun _ _ hw => nomatch hw
theorem barrierArrivalReach (arrival : Arrival) : Statement (.barrierArrivalReach arrival) := fun _ _ hw => nomatch hw
theorem hostRead (offset : Nat) (size : Nat) : Statement (.hostRead offset size) := fun _ _ hw => nomatch hw
theorem hostWrite (offset : Nat) (data : List Nat) : Statement (.hostWrite offset data) := fun _ _ hw => nomatch hw
theorem hostMessage (value : Nat) : Statement (.hostMessage value) := fun _ _ hw => nomatch hw
theorem hostAccessTimeout (chan : Chan) : Statement (.hostAccessTimeout chan) := fun _ _ hw => nomatch hw
theorem linkTrained (lanes : Nat) : Statement (.linkTrained lanes) := fun _ _ hw => nomatch hw
theorem portTrained (port : Nat) (lambda : Nat) : Statement (.portTrained port lambda) := fun _ _ hw => nomatch hw
theorem wavelengthLoss (port : Nat) : Statement (.wavelengthLoss port) := fun _ _ hw => nomatch hw
theorem lightLoss (port : Nat) : Statement (.lightLoss port) := fun _ _ hw => nomatch hw
theorem portDrained (port : Nat) : Statement (.portDrained port) := fun _ _ hw => nomatch hw
theorem flitReceive (port : Nat) (flit : Flit) : Statement (.flitReceive port flit) := fun _ _ hw => nomatch hw
theorem flitNak (port : Nat) (seqno : Nat) : Statement (.flitNak port seqno) := fun _ _ hw => nomatch hw
theorem routeWrite (value : Nat) : Statement (.routeWrite value) := fun _ _ hw => nomatch hw
theorem pkgidWrite (value : Nat) : Statement (.pkgidWrite value) := fun _ _ hw => nomatch hw
theorem collgo (col : Nat) (slot : Nat) (desc : Nat) : Statement (.collgo col slot desc) := fun _ _ hw => nomatch hw
theorem collectiveComplete (comm : Nat) (inst : Nat) : Statement (.collectiveComplete comm inst) := fun _ _ hw => nomatch hw
theorem evctlArm (value : Nat) : Statement (.evctlArm value) := fun _ _ hw => nomatch hw
theorem gctlPreempt (col : Nat) (slot : Nat) (force : Bool) : Statement (.gctlPreempt col slot force) := fun _ _ hw => nomatch hw
theorem gctlMigrate (col : Nat) (slot : Nat) (dest : Nat) (dwin : Nat) : Statement (.gctlMigrate col slot dest dwin) := fun _ _ hw => nomatch hw
theorem gregdataWrite (col : Nat) (value : Nat) : Statement (.gregdataWrite col value) := fun _ _ hw => nomatch hw
theorem rngseedWrite (col : Nat) (slot : Nat) (value : Nat) : Statement (.rngseedWrite col slot value) := fun _ _ hw => nomatch hw
theorem qmapWrite (col : Nat) (slot : Nat) (value : Nat) : Statement (.qmapWrite col slot value) := fun _ _ hw => nomatch hw
theorem twinWrite (col : Nat) (win : Nat) (value : Nat) : Statement (.twinWrite col win value) := fun _ _ hw => nomatch hw
theorem purge (value : Nat) : Statement (.purge value) := fun _ _ hw => nomatch hw
theorem purgeComplete (ctx : Nat) (tag : Nat) : Statement (.purgeComplete ctx tag) := fun _ _ hw => nomatch hw
theorem fwrst (col : Nat) : Statement (.fwrst col) := fun _ _ hw => nomatch hw
theorem microPcRecordArrival (col : Nat) (slot : Nat) : Statement (.microPcRecordArrival col slot) := fun _ _ hw => nomatch hw
theorem auditReplayPlace (gid : Nat) : Statement (.auditReplayPlace gid) := fun _ _ hw => nomatch hw
theorem auditNoColumn (gid : Nat) : Statement (.auditNoColumn gid) := fun _ _ hw => nomatch hw
theorem auditCompare (gid : Nat) : Statement (.auditCompare gid) := fun _ _ hw => nomatch hw
theorem remapGo (value : Nat) : Statement (.remapGo value) := fun _ _ hw => nomatch hw
theorem columnRetired (col : Nat) : Statement (.columnRetired col) := fun _ _ hw => nomatch hw
theorem block (quad : Nat) : Statement (.block quad) := fun _ _ hw => nomatch hw
theorem quiesce (quad : Nat) : Statement (.quiesce quad) := fun _ _ hw => nomatch hw
theorem unblock (quad : Nat) : Statement (.unblock quad) := fun _ _ hw => nomatch hw
theorem qwake (quad : Nat) : Statement (.qwake quad) := fun _ _ hw => nomatch hw
theorem quadDrainComplete (quad : Nat) : Statement (.quadDrainComplete quad) := fun _ _ hw => nomatch hw
theorem quadRailOff (quad : Nat) : Statement (.quadRailOff quad) := fun _ _ hw => nomatch hw
theorem quadWakeComplete (quad : Nat) : Statement (.quadWakeComplete quad) := fun _ _ hw => nomatch hw
theorem attestReport (addr : Nat) : Statement (.attestReport addr) := fun _ _ hw => nomatch hw
theorem attestRemap (addr : Nat) : Statement (.attestRemap addr) := fun _ _ hw => nomatch hw
theorem identityStoreRead (offset : Nat) (count : Nat) : Statement (.identityStoreRead offset count) := fun _ _ hw => nomatch hw
theorem bringUp (image : List Nat) : Statement (.bringUp image) := fun _ _ hw => nomatch hw
theorem logicClockStop (quad : Nat) : Statement (.logicClockStop quad) := fun _ _ hw => nomatch hw
theorem logicRailUp (quad : Nat) : Statement (.logicRailUp quad) := fun _ _ hw => nomatch hw
theorem logicClockStart (quad : Nat) : Statement (.logicClockStart quad) := fun _ _ hw => nomatch hw
theorem identityStoreWrite (offset : Nat) (data : List Nat) : Statement (.identityStoreWrite offset data) := fun _ _ hw => nomatch hw
theorem capStep : Statement (.capStep) := fun _ _ hw => nomatch hw
theorem queueAdmit : Statement (.queueAdmit) := fun _ _ hw => nomatch hw
theorem queueActive : Statement (.queueActive) := fun _ _ hw => nomatch hw
theorem queueSliceEnd : Statement (.queueSliceEnd) := fun _ _ hw => nomatch hw
theorem queuePark : Statement (.queuePark) := fun _ _ hw => nomatch hw
theorem queueUnpark : Statement (.queueUnpark) := fun _ _ hw => nomatch hw
theorem launch : Statement (.launch) := fun _ _ hw => nomatch hw
theorem wait : Statement (.wait) := fun _ _ hw => nomatch hw
theorem waitReread : Statement (.waitReread) := fun _ _ hw => nomatch hw
theorem waitTimeout : Statement (.waitTimeout) := fun _ _ hw => nomatch hw
theorem signal : Statement (.signal) := fun _ _ hw => nomatch hw
theorem markPacket : Statement (.markPacket) := fun _ _ hw => nomatch hw
theorem evict : Statement (.evict) := fun _ _ hw => nomatch hw
theorem holdTimeout : Statement (.holdTimeout) := fun _ _ hw => nomatch hw
theorem doorbellHalt : Statement (.doorbellHalt) := fun _ _ hw => nomatch hw
theorem doorbellResume : Statement (.doorbellResume) := fun _ _ hw => nomatch hw
theorem doorbellReset : Statement (.doorbellReset) := fun _ _ hw => nomatch hw
theorem create : Statement (.create) := fun _ _ hw => nomatch hw
theorem switchout : Statement (.switchout) := fun _ _ hw => nomatch hw
theorem switchin : Statement (.switchin) := fun _ _ hw => nomatch hw
theorem teardown : Statement (.teardown) := fun _ _ hw => nomatch hw
theorem switchoutDrainComplete : Statement (.switchoutDrainComplete) := fun _ _ hw => nomatch hw
theorem switchinRestoreComplete : Statement (.switchinRestoreComplete) := fun _ _ hw => nomatch hw
theorem teardownComplete : Statement (.teardownComplete) := fun _ _ hw => nomatch hw
theorem faultRecordWrite : Statement (.faultRecordWrite) := fun _ _ hw => nomatch hw
theorem pginvContext : Statement (.pginvContext) := fun _ _ hw => nomatch hw
theorem pginvAll : Statement (.pginvAll) := fun _ _ hw => nomatch hw
theorem invalidationComplete : Statement (.invalidationComplete) := fun _ _ hw => nomatch hw
theorem scrubComplete : Statement (.scrubComplete) := fun _ _ hw => nomatch hw
theorem hostTrainingRequest : Statement (.hostTrainingRequest) := fun _ _ hw => nomatch hw
theorem lnkctlTrain : Statement (.lnkctlTrain) := fun _ _ hw => nomatch hw
theorem lnkctlDrain : Statement (.lnkctlDrain) := fun _ _ hw => nomatch hw
theorem lnkctlDown : Statement (.lnkctlDown) := fun _ _ hw => nomatch hw
theorem linkLaneFailure : Statement (.linkLaneFailure) := fun _ _ hw => nomatch hw
theorem linkDrained : Statement (.linkDrained) := fun _ _ hw => nomatch hw
theorem portctlTrain : Statement (.portctlTrain) := fun _ _ hw => nomatch hw
theorem portctlDrain : Statement (.portctlDrain) := fun _ _ hw => nomatch hw
theorem portctlDown : Statement (.portctlDown) := fun _ _ hw => nomatch hw
theorem latchOpen : Statement (.latchOpen) := fun _ _ hw => nomatch hw
theorem latchClose : Statement (.latchClose) := fun _ _ hw => nomatch hw
theorem evctlFwdone : Statement (.evctlFwdone) := fun _ _ hw => nomatch hw
theorem evictReserveAccept : Statement (.evictReserveAccept) := fun _ _ hw => nomatch hw
theorem quiesceComplete : Statement (.quiesceComplete) := fun _ _ hw => nomatch hw
theorem streamingComplete : Statement (.streamingComplete) := fun _ _ hw => nomatch hw
theorem routeDrainComplete : Statement (.routeDrainComplete) := fun _ _ hw => nomatch hw
theorem evictionFail : Statement (.evictionFail) := fun _ _ hw => nomatch hw
theorem remapComplete : Statement (.remapComplete) := fun _ _ hw => nomatch hw

end Laws.FieldsRoundTrip

open Laws.FieldsRoundTrip in
theorem Laws.FieldsRoundTrip.seal (q : Seq) (f : FmtC) : Statement (.seal q f) := fun hr w hw => by
  cases hw; exact formatC hr rfl rfl (fun n h => by subst h; rfl) (Nat.le_of_ble_eq_true rfl)

end Sys2Proof
end

