-- ==== Sys2Proof/Tests/Slice0.lean ====
section
/-! SUPPORT. Tests, each a small theorem that Lean evaluates. Expected results come from the spec: the words it writes out, the examples it works,
or a hand calculation by the rule that the comment names. A theorem `witness_<Name>` shows states and operands that meet the hypotheses of
the statement `Obligations.<Name>`. -/

open Sys2Proof Sys2Proof.Machine

namespace Sys2Proof.Tests

set_option Elab.async false

/-! ### Well-formedness refuses -/

/-- The sequencing fields of a word that names none. -/
def q0 : Sys2Proof.Seq := ⟨.next, false, false, false, false, 0, 0, 0⟩
/-- Operands of format A with two source registers. -/
def fA (dst oa ob sub : Nat) : FmtA := ⟨dst, oa, ob, 0, 0, 0, 0, sub, 0⟩
/-- Vector operands of format A. -/
def fV (dst oa ob oc mask fmt rnd sub : Nat) : FmtA := ⟨dst, oa, ob, oc, mask, fmt, rnd, sub, 0⟩
def fB (dst oa sub hi imm : Nat) : FmtB := ⟨dst, oa, sub, hi, 0, imm⟩
def fF (dst oa csel imm16 sub : Nat) : FmtF := ⟨dst, oa, csel, imm16, sub, 0⟩

theorem test_wf_plain : (Instr.add q0 (fA 3 1 2 0)).wf = true := by decide
theorem test_wf_register_range : (Instr.add q0 (fA 64 1 2 0)).wf = false := by decide
theorem test_wf_illegal_value : (Instr.mulh q0 (fA 3 1 2 2)).wf = false := by decide
theorem test_wf_reserved_field : (Instr.add q0 (fA 3 1 2 1)).wf = false := by decide
theorem test_wf_low_bits : (Instr.nop q0 ⟨0, 0, 0, 0, 0, 0, 0, 0, 1⟩).wf = false := by decide
theorem test_wf_rsv_bits : (Instr.movi q0 ⟨1, 0, 0, 0, 1, 5⟩).wf = false := by decide
theorem test_wf_level_without_fl : (Instr.add ⟨.next, false, false, false, false, 0, 1, 0⟩ (fA 3 1 2 0)).wf = false := by decide
theorem test_wf_level_six : (Instr.add ⟨.next, false, false, false, false, 1, 6, 0⟩ (fA 3 1 2 0)).wf = false := by decide
theorem test_wf_target_unused : (Instr.add ⟨.safe, false, false, false, false, 0, 0, 1⟩ (fA 3 1 2 0)).wf = false := by decide
theorem test_wf_trap_pops : (Instr.trap ⟨.next, true, false, false, false, 0, 0, 0⟩ (fF 0 0 0 9 0)).wf = false := by decide
theorem test_wf_csel : (Instr.ctlrd q0 (fF 1 0 0xFFF 0 0)).wf = false := by decide
theorem test_wf_field_position : (Instr.ext q0 (fB 1 2 0 0 (60 + 64 * 7))).wf = false := by decide
theorem test_wf_tag : (Instr.vadd q0 (fV 1 2 3 0 0 7 0 0)).wf = false := by decide
theorem test_wf_event : (Instr.tokenAvailable 0 0 0).wf = false := by decide

/-! ### Decoding: words of the spec -/

/-- R83's example: MOVI and an ADDI with PUSHN. -/
theorem test_decode_movi : decodeTableWord 96 0x00001D140000000000000003 = some (.movi q0 (fB 5 0 0 0 3)) := by decide
theorem test_decode_addi : decodeTableWord 96 0x010002186000000000000040 =
    some (.addi { q0 with pushn := true } (fB 6 6 0 0 64)) := by decide
/-- R131's kernel. -/
theorem test_decode_lps : decodeTableWord 96 0x000023000100000000000004 = some (.lps q0 (fB 0 0 1 0 4)) := by decide
theorem test_decode_lpst : decodeTableWord 96 0x0000241C0000000000000010 = some (.lpst q0 (fB 7 0 0 0 16)) := by decide
theorem test_decode_lcrd : decodeTableWord 96 0x10002C240000000000000000 = some (.lcrd { q0 with sel := .endloop } (fF 9 0 0 0 0)) := by
  decide
/-- R139's and R481's words of the control space. -/
theorem test_decode_ctlwr : decodeTableWord 96 0x000028000190050120000000 = some (.ctlwr q0 (fF 0 0 0x190 0x501 4)) := by decide
theorem test_decode_ctlwr_reg : decodeTableWord 96 0x000028004150000000000000 = some (.ctlwr q0 (fF 0 4 0x150 0 0)) := by decide
theorem test_decode_ctlrd : decodeTableWord 96 0x000027040192000000000000 = some (.ctlrd q0 (fF 1 0 0x192 0 0)) := by decide
theorem test_decode_cmpi_jc : decodeTableWord 96 0x50001B002100000000000000 = some (.cmpi { q0 with sel := .jc } (fB 0 2 1 0 0)) := by decide
/-- Ch. 6 and 7: a stream push and products. -/
theorem test_decode_cspush : decodeTableWord 96 0x000066001000280000000000 = some (.cspush q0 (fV 0 1 0 0 1 8 0 0)) := by decide
theorem test_decode_mma : decodeTableWord 96 0x000081001080140000190000 = some (.mma q0 ⟨0, 1, 2, 40, 0, 0, 0, 0, 100, 0, 0⟩) := by decide
theorem test_decode_mma_order : decodeTableWord 96 0x000081001080142000320000 = some (.mma q0 ⟨0, 1, 2, 40, 1, 0, 0, 0, 200, 0, 0⟩) := by
  decide
theorem test_decode_mperturb : decodeTableWord 96 0x000089006000140000000000 = some (.mperturb q0 ⟨0, 6, 0, 40, 0, 0, 0, 0, 0, 0, 0⟩) := by
  decide +kernel
/-- Ch. 8: rows and vectors. -/
theorem test_decode_act_all : decodeTableWord 96 0x0000A5002000000000000800 = some (.act q0 ⟨0, 2, 0, 0, 0, 0, 0, 0, 0, 4, 0⟩) := by decide
theorem test_decode_vld : decodeTableWord 96 0x0000A2102010000000000000 = some (.vld q0 ⟨4, 2, 0, 1, 0, 0, 0, 0, 0, 0, 0⟩) := by decide
/-- Ch. 9 and 10: a relayout and a copy. -/
theorem test_decode_relay : decodeTableWord 96 0x0000C32852CC000000000000 = some (.relay q0 ⟨10, 5, 11, 12, 0, 0, 0, 0, 0, 0⟩) := by decide
theorem test_decode_copy : decodeTableWord 96 0x0000D0105180005000000000 = some (.copy q0 ⟨4, 5, 6, 0, 0, 0, 0, 1, 2, 0, 0, 0, 0⟩) := by decide
/-- Ch. 11 and 12: port words, fences, barriers. -/
theorem test_decode_atom : decodeTableWord 96 0x0000E0242000880000800400 = some (.atom q0 ⟨9, 2, 0, 0, 0, 0, 2, 8, 512, 2, 0⟩) := by decide
theorem test_decode_red : decodeTableWord 96 0x0000E1202000850000801A00 = some (.red q0 ⟨8, 2, 0, 0, 0, 0, 2, 5, 512, 13, 0⟩) := by decide
theorem test_decode_seal : decodeTableWord 96 0x0000E22C2000850000800000 = some (.seal q0 ⟨11, 2, 0, 0, 0, 0, 2, 5, 512, 0, 0⟩) := by decide
theorem test_decode_fence : decodeTableWord 96 0x0000E3000000000058000000 = some (.fence q0 (fF 0 0 0 0 11)) := by decide
theorem test_decode_arrive : decodeTableWord 96 0x0000E9242000070000100000 = some (.arrive q0 ⟨9, 2, 0, 0, 0, 0, 0, 7, 64, 0, 0⟩) := by decide
theorem test_decode_bwait : decodeTableWord 96 0x0000ED242004070000100000 = some (.bwait q0 ⟨9, 2, 0, 0, 2, 0, 0, 7, 64, 0, 0⟩) := by decide
/-- Ch. 13 to 15: queues and messages. -/
theorem test_decode_popw_dec : decodeTableWord 96 0x0000F0280000000010000000 = some (.popw q0 (fF 10 0 0 0 2)) := by decide
theorem test_decode_yield_safe : decodeTableWord 96 0x2000F2000000000000000000 = some (.yield { q0 with sel := .safe } (fF 0 0 0 0 0)) := by
  decide
theorem test_decode_gsig_rel : decodeTableWord 96 0x0000F4105000000208000000 = some (.gsig q0 (fF 4 5 0 2 1)) := by decide
/-- Refusals by name (R60, R61, R81, R82). -/
theorem test_decode_reserved_bit : decodeWord 1 = .error (.reserved 0) := by decide +kernel
theorem test_decode_opcode : decodeWord (0xFF * 2 ^ 72) = .error .illegal := by decide
theorem test_decode_selector : decodeWord (12 * 2 ^ 92) = .error .illegal := by decide
theorem test_decode_short : decode [0, 0, 0] = .error .illegal := by decide

/-! ### Small states -/

/-- The stream of an engine of slot 0 of column 0. -/
def tk (e : Eng) : Stream := ⟨0, 0, e⟩
/-- A running section of 100 words with word index 10. -/
def tEng : Engine :=
  { base := 0, len := 2 ^ 24, hdr := { len := 100, tcnt := 8 }, targets := [7, 8, 9, 10, 11, 12, 13, 14], sec := .running, idx := 10 }
/-- Group 1 runs in slot 0 of column 0, and engine `e` is about to issue a word. -/
def at_ (e : Eng) : State := { (State.reset.placeFirst.setEng (tk e).ek tEng) with cur := tk e }
/-- The firmware context of column 0, its engine A about to issue a word. -/
def atFw : State := { (State.reset.placeFirst.setEng (⟨0, 4, .a⟩ : Stream).ek tEng) with cur := ⟨0, 4, .a⟩ }
/-- Scalar registers set. -/
def withS (s : State) (l : List (Nat × Word)) : State := s.setE (l.foldl (fun e r => e.setS r.1 { val := r.2 }) s.e)
/-- A vector register set, with the tag I32. -/
def withV (s : State) (n : Nat) (l : List Nat) (tag : Nat := 8) : State :=
  s.setSl (s.sl.setV n { tag := tag, lanes := l.map (BitVec.ofNat 32) ++ List.replicate (256 - l.length) 0 })
/-- The next state of an instruction, or the state itself. -/
def after (i : Instr) (s : State) : State := match exec i s with | .next t => t | _ => s
/-- A scalar register of the current engine after an instruction. -/
def outS (i : Instr) (s : State) (n : Nat) : Word := ((after i s).e.sreg n).val
/-- The result of the word in flight. -/
def flightOf (i : Instr) (s : State) : List Write := ((after i s).flights.map Flight.writes).flatten

/-- In these states every word meets the conditions of issue that are common to all words, whatever registers it reads (R107, R119). -/
theorem witness_canGo (i : Instr) (regs : List Reg) (e : Eng) : canGo (at_ e) i q0 regs = true := by
  have h : (at_ e).flights = [] := by cases e <;> rfl
  rw [canGo_iff]
  refine ⟨by cases e <;> decide +kernel, by cases e <;> decide +kernel, by simp [State.blockedOn, h], by cases e <;> decide +kernel, ?_, by cases e <;> decide +kernel,
    by cases e <;> decide +kernel⟩
  simp [State.fenceHolds, State.relPending, h]

theorem witness_canGo_fw (i : Instr) (regs : List Reg) : canGo atFw i q0 regs = true := by
  have h : atFw.flights = [] := rfl
  rw [canGo_iff]
  refine ⟨by decide +kernel, by decide +kernel, by simp [State.blockedOn, h], by decide +kernel, ?_, by decide +kernel, by decide +kernel⟩
  simp [State.fenceHolds, State.relPending, h]

/-! ### Scalar words (ch. 5) -/

/-- ADD wraps modulo 2^64, and s0 discards (R90, R121). -/
theorem test_add_wraps : outS (.add q0 (fA 3 1 2 0)) (withS (at_ .a) [(1, -1), (2, 5)]) 3 = 4 := by decide +kernel
theorem test_add_s0 : outS (.add q0 (fA 0 1 2 0)) (withS (at_ .a) [(1, -1), (2, 5)]) 0 = 0 := by decide +kernel
theorem test_sub : outS (.sub q0 (fA 3 1 2 0)) (withS (at_ .a) [(1, 2), (2, 5)]) 3 = -3 := by decide +kernel
theorem test_mul : flightOf (.mul q0 (fA 3 1 2 0)) (withS (at_ .a) [(1, 7), (2, -3)]) = [.s 3 { val := -21 }] := by decide +kernel
theorem test_mulh_signed : flightOf (.mulh q0 (fA 3 1 2 0)) (withS (at_ .a) [(1, -1), (2, 2)]) = [.s 3 { val := -1 }] := by decide +kernel
theorem test_mulh_unsigned : flightOf (.mulh q0 (fA 3 1 2 1)) (withS (at_ .a) [(1, -1), (2, 2)]) = [.s 3 { val := 1 }] := by decide +kernel
/-- R122's examples: −7 and 2. -/
theorem test_div : flightOf (.div q0 (fA 3 1 2 0)) (withS (at_ .a) [(1, -7), (2, 2)]) = [.s 3 { val := -3 }] := by decide +kernel
theorem test_div_unsigned : flightOf (.div q0 (fA 3 1 2 1)) (withS (at_ .a) [(1, -7), (2, 2)]) = [.s 3 { val := 0x7FFFFFFFFFFFFFFC }] := by
  decide +kernel
theorem test_rem : flightOf (.rem q0 (fA 3 1 2 0)) (withS (at_ .a) [(1, -7), (2, 2)]) = [.s 3 { val := -1 }] := by decide +kernel
theorem test_rem_zero : ((after (.rem q0 (fA 3 1 2 0)) (withS (at_ .a) [(1, -7)])).slotAt 0).ctlr 0x60 = 0x0C := by decide +kernel
theorem test_and : outS (.and q0 (fA 3 1 2 0)) (withS (at_ .a) [(1, 0b1100), (2, 0b1010)]) 3 = 0b1000 := by decide +kernel
theorem test_or : outS (.or q0 (fA 3 1 2 0)) (withS (at_ .a) [(1, 0b1100), (2, 0b1010)]) 3 = 0b1110 := by decide +kernel
theorem test_xor : outS (.xor q0 (fA 3 1 2 0)) (withS (at_ .a) [(1, 0b1100), (2, 0b1010)]) 3 = 0b0110 := by decide +kernel
/-- Shifts take the amount modulo 64 (R121). -/
theorem test_shl : outS (.shl q0 (fA 3 1 2 0)) (withS (at_ .a) [(1, 3), (2, 65)]) 3 = 6 := by decide +kernel
theorem test_shr : outS (.shr q0 (fA 3 1 2 0)) (withS (at_ .a) [(1, -1), (2, 63)]) 3 = 1 := by decide +kernel
theorem test_sar : outS (.sar q0 (fA 3 1 2 0)) (withS (at_ .a) [(1, -8), (2, 2)]) 3 = -2 := by decide +kernel
theorem test_rol : outS (.rol q0 (fA 3 1 2 0)) (withS (at_ .a) [(1, 0x8000000000000001), (2, 1)]) 3 = 3 := by decide +kernel
theorem test_clz : outS (.clz q0 (fA 3 1 0 0)) (withS (at_ .a) [(1, 0)]) 3 = 64 := by decide +kernel
theorem test_popc : outS (.popc q0 (fA 3 1 0 0)) (withS (at_ .a) [(1, 0xF0F)]) 3 = 8 := by decide +kernel
theorem test_min : outS (.min q0 (fA 3 1 2 0)) (withS (at_ .a) [(1, -1), (2, 1)]) 3 = -1 := by decide +kernel
theorem test_max_unsigned : outS (.max q0 (fA 3 1 2 1)) (withS (at_ .a) [(1, -1), (2, 1)]) 3 = -1 := by decide +kernel
/-- CMP.lt writes cf and its register, and its own JC tests the new cf (R61, R123). -/
theorem test_cmp_jc : let t := after (.cmp { q0 with sel := .jc, tgt := 2 } (fA 3 1 2 2)) (withS (at_ .a) [(1, 1), (2, 2)])
    ((t.e.sreg 3).val, t.e.cf, t.e.idx) = (1, true, 9) := by decide +kernel
theorem test_mov : outS (.mov q0 (fA 3 1 0 0)) (withS (at_ .a) [(1, 77)]) 3 = 77 := by decide +kernel
/-- R84's and R125's immediates: sign extension, and HI. -/
theorem test_addi : outS (.addi q0 (fB 3 1 0 0 (2 ^ 48 - 1))) (withS (at_ .a) [(1, 5)]) 3 = 4 := by decide +kernel
theorem test_movi_hi : outS (.movi q0 (fB 3 0 0 1 0xC0000000A401)) (at_ .a) 3 = 0xC0000000A4010000 := by decide +kernel
theorem test_andi : outS (.andi q0 (fB 3 1 0 0 6)) (withS (at_ .a) [(1, 5)]) 3 = 4 := by decide +kernel
theorem test_ori : outS (.ori q0 (fB 3 1 0 0 6)) (withS (at_ .a) [(1, 5)]) 3 = 7 := by decide +kernel
theorem test_xori : outS (.xori q0 (fB 3 1 0 0 6)) (withS (at_ .a) [(1, 5)]) 3 = 3 := by decide +kernel
theorem test_shli : outS (.shli q0 (fB 3 1 0 0 4)) (withS (at_ .a) [(1, 5)]) 3 = 80 := by decide +kernel
theorem test_shri : outS (.shri q0 (fB 3 1 0 0 4)) (withS (at_ .a) [(1, 80)]) 3 = 5 := by decide +kernel
theorem test_sari : outS (.sari q0 (fB 3 1 0 0 1)) (withS (at_ .a) [(1, -2)]) 3 = -1 := by decide +kernel
theorem test_roli : outS (.roli q0 (fB 3 1 0 0 63)) (withS (at_ .a) [(1, 2)]) 3 = 1 := by decide +kernel
theorem test_cmpi : (after (.cmpi q0 (fB 3 1 1 0 5)) (withS (at_ .a) [(1, 5)])).e.cf = false := by decide +kernel
/-- LEA in the own column, and in the column to the east, whose context column is the same number (R125). -/
theorem test_lea : outS (.lea q0 (fB 3 1 0 0 0x40)) (withS (at_ .a) [(1, 0x400000)]) 3 = 0x400040 := by decide +kernel
theorem test_lea_east : outS (.lea q0 (fB 3 1 4 0 0)) (withS (at_ .a) [(1, 8)]) 3 = 0x4000008 := by decide +kernel
/-- EXT.s of bits 7 to 4, and INS (R126). -/
theorem test_ext_signed : outS (.ext q0 (fB 3 1 1 0 (4 + 64 * 3))) (withS (at_ .a) [(1, 0xA5)]) 3 = -6 := by decide +kernel
theorem test_ins : outS (.ins q0 (fB 3 1 0 0 (4 + 64 * 3))) (withS (at_ .a) [(1, 0x1C), (3, 0xFFF)]) 3 = 0xFCF := by decide +kernel
/-- A FILL after a SPILL reads the value (R127); past the store, SPILL_BOUNDS. -/
theorem test_spill_fill : (((after (.spill q0 (fB 0 1 0 0 4088)) (withS (at_ .a) [(1, 9)])).e.spill.get? 511).map SReg.val) = some 9 := by
  decide +kernel
theorem test_fill_bounds : ((after (.fill q0 (fB 1 0 0 0 4096)) (at_ .a)).slotAt 0).ctlr 0x60 = 0x0A := by decide +kernel
/-- LPS opens a level whose head skips a word (R128); a stride is designated (R129); LCRD reads 0 of a closed level (R131). -/
theorem test_lps : ((after (.lps q0 (fB 2 0 1 0 4)) (at_ .d)).e.levels.map fun l => (l.lvl, l.head, l.count)) = [(2, 12, 4)] := by
  decide +kernel
theorem test_lps_zero : ((after (.lps q0 (fB 2 0 1 0 0)) (at_ .d)).slotAt 0).ctlr 0x60 = 0x15 + 2 * 64 := by decide +kernel
def inLoop : State := (at_ .d).setE { (at_ .d).e with levels := [{ lvl := 2, head := 5, count := 3, iter := 1 }] }
theorem test_lpst : ((after (.lpst q0 (fB 7 2 0 0 16)) inLoop).e.levels.map Level.desig) = [[(7, 16)]] := by decide +kernel
theorem test_lcrd : outS (.lcrd q0 (fF 9 2 0 0 0)) inLoop 9 = 1 := by decide +kernel
/-- ENDLOOP closes an iteration and goes to the head (R61). -/
theorem test_endloop : let t := after (.nop { q0 with sel := .endloop } (fA 0 0 0 0)) inLoop
    (t.e.idx, t.e.levels.map Level.iter) = (5, [2]) := by decide +kernel
/-- CALL and RET (R61, R65). -/
theorem test_call : let t := after (.nop { q0 with sel := .call, tgt := 1 } (fA 0 0 0 0)) (at_ .a)
    (t.e.idx, t.e.rets) = (8, [11]) := by decide +kernel
/-- MBRD, RDCYC and SBASE (R134, R136, R137). -/
theorem test_mbrd : outS (.mbrd q0 (fF 3 1 0 0 0)) ((at_ .a).setSl { (at_ .a).sl with mbs := [(1, 42)] }) 3 = 42 := by decide +kernel
theorem test_rdcyc : outS (.rdcyc q0 (fF 3 0 0 0 0)) { at_ .a with cyc := 123 } 3 = 123 := by decide +kernel
theorem test_sbase : ((after (.sbase q0 (fB 0 1 1 0 5)) (withS (at_ .a) [(1, 7)])).ctlq.map fun w => (w.csel, w.val)) = [(0x21, 12)] := by
  decide +kernel
/-- A scalar value through q0, from A to X, readable two cycles later (R95, R96, R135). -/
theorem test_qput : (((after (.qput q0 (fA 0 1 0 0)) (withS (at_ .a) [(1, 5)])).sl.queue 0).held.map fun x => (x.1, x.2)) =
    [(2, .s { val := 5 })] := by decide +kernel
theorem test_qget_misuse : ((after (.qget q0 (fA 1 0 0 0)) (at_ .a)).slotAt 0).ctlr 0x60 = 0x14 := by decide +kernel
/-- The control space: the ceilings' reset value, a write joined at the end of the cycle, and a firmware register (R91, R98, R138, R139). -/
theorem test_ctlrd : flightOf (.ctlrd q0 (fF 1 0 0x10 0 0)) (at_ .a) = [.s 1 { val := 0x888888 }] := by decide +kernel
theorem test_ctlwr : ((after (.ctlwr q0 (fF 0 0 0x10 0x2222 4)) (at_ .a)).ctlq.map fun w => (w.csel, w.val)) = [(0x10, 0x882222)] := by
  decide +kernel
/-- TRAP makes the group Faulted with its code in TRAPINFO (R113, R114, R140); BREAK the same; ERET in a group raises PRIVILEGE (R141). -/
theorem test_trap : let t := after (.trap q0 (fF 0 0 0 9 0)) (at_ .x)
    ((t.slotAt 0).ctlr 0x60, (t.slotAt 0).ctlr 0x63, (t.slotAt 0).ctlr 0x62, (t.groups.get? 1).map Group.state) = (0x17 + 64, 9, 10, some .faulted) := by
  decide +kernel
theorem test_break : ((after (.brk q0 (fF 0 0 0 9 0)) (at_ .x)).slotAt 0).ctlr 0x60 = 0x18 + 64 := by decide +kernel
theorem test_eret_group : ((after (.eret q0 (fF 0 0 0 0 0)) (at_ .a)).slotAt 0).ctlr 0x63 = 0x2F := by decide +kernel
theorem test_eret : ((after (.eret q0 (fF 0 0 0 0 0)) ({ after (.trap q0 (fF 0 0 0 9 0)) (atFw.setEng 0 tEng |> fun s => { s with cur := tk .a }) with
    cur := ⟨0, 4, .a⟩, issued := [] })).groups.get? 1).map Group.state = some .running := by decide +kernel
theorem test_nop : (after (.nop q0 (fA 0 0 0 0)) (at_ .a)).e.idx = 11 := by decide +kernel

/-! ### Vector words (ch. 6) -/

/-- The first lanes of the vector that a word in flight, or the register after it, holds. -/
def lanesOf (i : Instr) (s : State) (n : Nat) : List Nat :=
  match flightOf i s with
  | .v _ r :: _ => (r.lanes.take n).map BitVec.toNat
  | _ => []

/-- 1.0 + 2.0 = 3.0 in F32, and a masked lane stays (R145, R150). -/
theorem test_vadd : lanesOf (.vadd q0 (fV 3 1 2 0 0 1 0 0)) (withV (withV (at_ .x) 1 [0x3F800000] 1) 2 [0x40000000] 1) 2 = [0x40400000, 0] := by
  decide +kernel
theorem test_vsub_int : lanesOf (.vsub q0 (fV 3 1 2 0 0 8 0 0)) (withV (withV (at_ .x) 1 [5, 1]) 2 [2, 2]) 2 = [3, 0xFFFFFFFF] := by decide +kernel
theorem test_vmul_int : lanesOf (.vmul q0 (fV 3 1 2 0 0 8 0 0)) (withV (withV (at_ .x) 1 [0x10000]) 2 [0x10001]) 1 = [0x10000] := by
  decide +kernel
/-- The fused form rounds once: 1 · 2 + 3 (R150). -/
theorem test_vfma : lanesOf (.vfma q0 (fV 4 1 2 3 0 1 0 0)) (withV (withV (withV (at_ .x) 1 [0x3F800000] 1) 2 [0x40000000] 1) 3 [0x40400000] 1) 1 =
    [0x40A00000] := by decide +kernel
theorem test_vmin : lanesOf (.vmin q0 (fV 3 1 2 0 0 8 0 0)) (withV (withV (at_ .x) 1 [0xFFFFFFFF]) 2 [1]) 1 = [0xFFFFFFFF] := by decide +kernel
theorem test_vmax : lanesOf (.vmax q0 (fV 3 1 2 0 0 8 0 1)) (withV (withV (at_ .x) 1 [0xFFFFFFFF]) 2 [1]) 1 = [0xFFFFFFFF] := by decide +kernel
/-- 1.0 / 0.0 is +∞ (R150). -/
theorem test_vdiv : lanesOf (.vdiv q0 (fV 3 1 2 0 0 1 0 0)) (withV (withV (at_ .x) 1 [0x3F800000] 1) 2 [] 1) 1 = [0x7F800000] := by decide +kernel
theorem test_vabs : lanesOf (.vabs q0 (fV 3 1 0 0 0 1 0 0)) (withV (at_ .x) 1 [0xBF800000] 1) 1 = [0x3F800000] := by decide +kernel
theorem test_vneg : lanesOf (.vneg q0 (fV 3 1 0 0 0 8 0 0)) (withV (at_ .x) 1 [1]) 1 = [0xFFFFFFFF] := by decide +kernel
/-- VCMP.lt: lane 0 less, lane 1 not (R153). -/
theorem test_vcmp : flightOf (.vcmp q0 (fV 1 1 2 0 0 8 0 2)) (withV (withV (at_ .x) 1 [1, 5]) 2 (List.replicate 2 3)) = [.k 1 1] := by decide +kernel
theorem test_vand : lanesOf (.vand q0 (fV 3 1 2 0 0 8 0 0)) (withV (withV (at_ .x) 1 [6]) 2 [3]) 1 = [2] := by decide +kernel
theorem test_vxor : lanesOf (.vxor q0 (fV 3 1 2 0 0 8 0 0)) (withV (withV (at_ .x) 1 [6]) 2 [3]) 1 = [5] := by decide +kernel
theorem test_vshl : lanesOf (.vshl q0 (fV 3 1 2 0 0 8 0 0)) (withV (withV (at_ .x) 1 [1]) 2 [33]) 1 = [2] := by decide +kernel
theorem test_vsar : lanesOf (.vsar q0 (fV 3 1 2 0 0 8 0 0)) (withV (withV (at_ .x) 1 [0x80000000]) 2 [31]) 1 = [0xFFFFFFFF] := by decide +kernel
/-- √4 = 2, 1/√4 and 1/4 (R152). -/
theorem test_vsqrt : lanesOf (.vsqrt q0 (fV 3 1 0 0 0 1 0 0)) (withV (at_ .x) 1 [0x40800000] 1) 1 = [0x40000000] := by decide +kernel
/-- VREDSUM of the I32 lanes to a scalar (R159). -/
theorem test_vredsum : flightOf (.vredsum q0 (fV 3 1 0 0 0 8 0 1)) (withV (at_ .x) 1 [1, 2, 3]) = [.s 3 { val := 6 }] := by decide +kernel
/-- VSCAN, inclusive sums (R160). -/
theorem test_vscan : lanesOf (.vscan q0 (fV 3 1 0 0 0 8 0 0)) (withV (at_ .x) 1 [1, 2, 3]) 4 = [1, 3, 6, 6] := by decide +kernel
theorem test_vperm : lanesOf (.vperm q0 (fV 3 1 2 0 0 8 0 0)) (withV (withV (at_ .x) 1 [7, 8, 9]) 2 [2, 1]) 3 = [9, 8, 7] := by decide +kernel
theorem test_vidx : lanesOf (.vidx q0 (fV 3 1 0 0 0 0 0 0)) (withS (at_ .x) [(1, 10)]) 3 = [10, 11, 12] := by decide +kernel
theorem test_vext : flightOf (.vext q0 (fV 3 1 2 0 0 0 0 0)) (withS (withV (at_ .x) 1 [7, 8]) [(2, 1)]) = [.s 3 { val := 8 }] := by decide +kernel
/-- Masks; k0 is all ones (R90, R166). -/
theorem test_knot : (after (.knot q0 (fA 1 0 0 0)) (at_ .x)).sl.kreg 1 = 0 := by decide +kernel
theorem test_kpopc : flightOf (.kpopc q0 (fA 1 0 0 0)) (at_ .x) = [.s 1 { val := 256 }] := by decide +kernel
/-- I32 5 to F32 (R156). -/
theorem test_vcvt : lanesOf (.vcvt q0 (fV 3 1 0 8 0 1 0 0)) (withV (at_ .x) 1 [5]) 1 = [0x40A00000] := by decide +kernel
/-- A push appends the enabled lanes (R168). -/
theorem test_cspush : ((after (.cspush q0 (fV 0 1 0 0 1 8 0 0)) ((withV (at_ .x) 1 [7, 8, 9]).setSl
    ((withV (at_ .x) 1 [7, 8, 9]).sl.setK 1 5))).sl.cstream 0).recs = [7, 9] := by decide +kernel

/-! ### The matrix unit (ch. 7) -/

/-- The column's lease held by slot 0. -/
def leased : State := (at_ .x).setCol 0 { (at_ .x).colAt 0 with lease := some 0 }
/-- R99, R112: another slot's matrix word raises MATRIX_LEASE. -/
theorem test_mzero_no_lease : ((after (.mzero q0 ⟨0, 1, 0, 0, 0, 0, 0, 0, 0, 0, 0⟩) (at_ .x)).slotAt 0).ctlr 0x60 = 0x1B + 64 := by decide +kernel
theorem test_mzero : (after (.mzero q0 ⟨0, 1, 0, 0, 0, 0, 0, 0, 0, 0, 0⟩) (withS leased [(1, 16)])).flights.map Flight.lat = [4] := by decide +kernel
theorem test_mfree : ((after (.mfree q0 (fF 0 0 0 0 0)) leased).colAt 0).lease = none := by decide +kernel
/-- MFOLD.stat of a sound fold: AVAIL is 0xF, cf = 1 (R203). -/
theorem test_mfold_stat : let t := after (.mfold q0 (fF 3 0 0 0 3)) leased
    ((t.e.sreg 3).val, t.e.cf) = (15, true) := by decide +kernel

/-! ### Towers, ports, barriers (ch. 8, 11, 12) -/

/-- ST puts its bytes, the least significant first, into the store queue, 2 cycles from their port (R3, R303). -/
theorem test_st : ((after (.st q0 ⟨2, 1, 0, 0, 0, 0, 2, 0, 0, 0, 0⟩) (withS (at_ .a) [(1, 0x40), (2, 0x11223344)])).stores.flatMap PortWrite.pieces).map
    (fun p => (p.dist, p.key, p.bytes)) = [(2, towerBase + 0x40, [0x44, 0x33, 0x22, 0x11])] := by decide +kernel
theorem test_st_align : ((after (.st q0 ⟨2, 1, 0, 0, 0, 0, 3, 0, 0, 0, 0⟩) (withS (at_ .a) [(1, 4)])).slotAt 0).ctlr 0x60 = 0x0B := by decide +kernel
/-- LD in cell 0 has latency 6 (R217). -/
theorem test_ld : (after (.ld q0 ⟨2, 1, 0, 0, 0, 0, 3, 0, 0, 0, 0⟩) (withS (at_ .a) [(1, 0x40)])).flights.map
    (fun f => (f.lat, f.pieces.map Piece.key)) = [(6, [towerBase + 0x40])] := by decide +kernel
/-- The window of 512 rows ends after 4 MiB of a cell; offset 2^26 lies outside every tower (R211). -/
theorem test_ld_bounds : ((after (.ld q0 ⟨2, 1, 0, 0, 0, 0, 3, 0, 0, 0, 0⟩) (withS (at_ .a) [(1, 0x4000000)])).slotAt 0).ctlr 0x60 = 0x09 := by
  decide +kernel
/-- A store's write takes effect at its port: the byte is there, its neighbour is not touched (R231). -/
theorem test_store_reach_port : let s := after (.st q0 ⟨2, 1, 0, 0, 0, 0, 0, 0, 0, 0, 0⟩) (withS (at_ .a) [(1, 0x40), (2, 0xAB)])
    let t := after (.storeReachPort 0 2) s
    (Memory.read t.mem (towerBase + 0x40), Memory.read t.mem (towerBase + 0x41)) = (0xAB, 0) := by decide +kernel
/-- The words of a barrier (R330): the last arrival completes the phase. -/
theorem test_barrier_completes : let w := ((⟨2, 1, 0, 0, 0, false, false⟩ : BWord).apply (.arrive 0 0 false)).1.close.1
    (w.expected, w.arrived, w.phase) = (2, 0, 1) := by decide +kernel
theorem test_arrive_align : ((after (.arrive q0 ⟨9, 1, 0, 0, 0, 0, 0, 7, 0, 0, 0⟩) (withS (at_ .a) [(1, 8)])).slotAt 0).ctlr 0x60 = 0x0B := by
  decide +kernel
theorem test_fence_sc_dev : (after (.fence q0 (fF 0 0 0 0 11)) (at_ .a)).flights.map Flight.lat = [7] := by decide +kernel

/-! ### Witnesses: scalar and vector words -/

/-- With nothing in flight the common conditions of issue do not depend on the word or on its registers: one witness serves all words of a state. -/
theorem canGo_quiet {s : State} (h : s.flights = []) (i j : Instr) (q : Sys2Proof.Seq) (l m : List Reg) (f : List Nat) :
    canGo s i q l f = canGo s j q m f := by
  simp [canGo, State.blockedOn, State.fenceHolds, State.relPending, h]

/-- A word with no operands, for witnesses of the common conditions. -/
def nop0 : Instr := .nop q0 (fA 0 0 0 0)
/-- The common conditions of issue hold, and nothing is in flight. -/
def goes (s : State) : Bool := canGo s nop0 q0 [] && s.flights.isEmpty
/-- Two operands, −2^63 and −1, and one, 64. -/
def sS : State := withS (at_ .a) [(1, BitVec.intMin 64), (2, -1), (4, 64), (5, -7), (6, 2)]

theorem witness_ScalarRegisterWords : goes sS = true ∧ sS.markOf [1, 4] = none := by decide +kernel
theorem witness_ScalarBitWords : goes sS = true ∧ sS.markOf [1, 2] = none ∧ sS.markOf [1, 3] = none ∧ (63 : Nat) % 64 + (63 / 64 % 64 + 1) ≤ 64 ∧
    (64 * 63 : Nat) % 64 + (64 * 63 / 64 % 64 + 1) ≤ 64 := by decide +kernel
theorem witness_ScalarImmediateWords : goes sS = true ∧ sS.markOf [1] = none ∧
    (((BitVec.ofNat 48 63).signExtend 64 : Word) <<< (16 * 0)).toNat < 64 ∧
    neighbour sS.cur.col 0 = some 0 ∧ neighbour sS.cur.col 4 = some 1 ∧ sS.cur.fw = false ∧ sS.ctxCol (sS.ctxOf sS.cur) 1 = some 1 ∧
    (sS.sv 0 + ((BitVec.ofNat 48 (2 ^ 26 - 1)).signExtend 64 <<< (16 * 0) : Word)).toNat < 2 ^ 26 := by decide +kernel
theorem witness_ScalarImmediateWords_fw : goes atFw = true ∧ atFw.cur.fw = true ∧ neighbour atFw.cur.col 2 = some 8 := by decide +kernel
theorem witness_DivideWords : goes sS = true ∧ sS.markOf [1, 2] = none ∧ sS.sv 1 = BitVec.intMin 64 ∧ sS.sv 2 = -1 ∧ sS.sv 5 = -7 ∧ sS.sv 6 = 2 ∧
    sS.sv 0 = 0 := by decide +kernel
theorem witness_MoveAndSpillWords : goes sS = true ∧ (imm (fB 1 1 0 0 (8 * 511))).toNat = 8 * 511 ∧ 4096 ≤ (imm (fB 1 1 0 0 4096)).toNat ∧
    (imm (fB 1 1 0 0 4095)).toNat < 4096 ∧ (imm (fB 1 1 0 0 4095)).toNat % 8 ≠ 0 := by decide +kernel
theorem witness_LoopWords : goes sS = true ∧ sS.markOf [0] = none ∧ sS.e.level? 2 = none ∧ (1 : Int) = (sS.sv 0).toInt + (imm (fB 2 0 0 0 1)).toInt ∧
    (sS.sv 0).toInt + (imm (fB 2 0 0 0 0)).toInt < 1 ∧ goes inLoop = true ∧ (inLoop.e.level? 2).isSome = true ∧
    (inLoop.e.level? 2).map (fun l => ((l.desig.any fun d => d.1 == 7), l.desig.length)) = some (false, 0) ∧ inLoop.e.level? 3 = none := by decide +kernel
/-- Queue q0 from A to X holds a value, q4 from A to X is empty, q6 from X to D is X's to write. -/
def sQ (e : Eng) : State := (at_ e).setSl ((at_ e).sl.setQueue 0 { held := [(0, .s { val := 5 })] })
theorem witness_MailboxQueueAndTimeWords : goes (sQ .a) = true ∧ goes (sQ .x) = true ∧ (sQ .a).sl.writerOf 0 = engCode (sQ .a).cur.eng ∧
    ((sQ .a).sl.queue 0).hasRoom 0 (sQ .a).cyc = true ∧ (sQ .x).sl.writerOf 6 = 1 ∧ ((sQ .x).sl.queue 6).hasRoom 6 (sQ .x).cyc = true ∧
    (sQ .x).sl.writerOf 0 ≠ engCode (sQ .x).cur.eng ∧ (sQ .x).sl.readerOf 0 = engCode (sQ .x).cur.eng ∧
    ((sQ .x).sl.queue 0).front (sQ .x).cyc = some (.s { val := 5 }) ∧ (at_ .x).sl.readerOf 0 = 1 ∧ ((at_ .x).sl.queue 0).front (at_ .x).cyc = none ∧
    (sQ .a).markOf [1] = none := by decide +kernel
theorem witness_ControlSpaceWords : goes sS = true ∧ sS.cur.fw = false ∧ sS.ctlDenied 0x10 false = none ∧ fwOnlyRead 0x137 = true ∧
    sS.ctlDenied 0x10 true = none ∧ sS.ctlBad sS.cur 0x10 (sS.ctlNew (fF 0 0 0x10 0x2222 4)) = none ∧
    sS.ctlMisuse sS.cur 0x10 (sS.ctlNew (fF 0 0 0x10 0x2222 4)) = false ∧ fwOnlyWrite 0x137 = true ∧ sS.markOf [1] = none ∧
    (sS.sv 1).toNat &&& reservedMask 0x10 ≠ 0 := by decide +kernel
theorem witness_TrapAndReturnWords : goes (at_ .x) = true ∧ (at_ .x).cur.fw = false ∧ goes atFw = true ∧ atFw.cur.fw = true ∧
    (atFw.groupOf (slotKey atFw.cur.col (atFw.ctlSlot atFw.cur))).isSome = true ∧
    (let t : State := { atFw with groups := atFw.groups.put 1 { ctx := 1, state := .faulted } }
     goes t = true ∧ (t.groupOf (slotKey t.cur.col (t.ctlSlot t.cur))).map (fun g => g.2.state) = some .faulted) ∧
    (let t : State := atFw.setSlot 0 {}
     goes t = true ∧ t.groupOf (slotKey t.cur.col (t.ctlSlot t.cur)) = none) := by decide +kernel

/-- Vector registers v1 to v4 with tag I32, v5 F32, v6 F4S, v7 I8. -/
def sV : State := withV (withV (withV (withV (withV (withV (withV (at_ .x) 1 [1, 2]) 2 [3]) 3 []) 4 [33]) 5 [0x3F800000] 1) 6 [] 0x16) 7 [] 9
theorem witness_VectorArithmeticWords : goes sV = true ∧ elementsOk sV (fV 3 1 2 0 0 8 0 0) 2 = true ∧ elementsOk sV (fV 3 5 5 0 0 1 0 0) 2 = true ∧
    elementsOk sV (fV 3 1 2 4 0 8 0 0) 3 = true ∧ elementsOk sV (fV 3 5 0 0 0 1 0 0) 1 = true := by decide +kernel
theorem witness_VectorIntegerLanes : goes sV = true ∧ elementsOk sV (fV 3 1 2 0 0 8 0 0) 2 = true ∧ elementsOk sV (fV 3 1 0 0 0 8 0 0) 1 = true := by
  decide +kernel
theorem witness_VectorSignAndShiftWords : goes sV = true ∧ elementsOk sV (fV 3 7 0 0 0 9 0 1) 1 = true ∧ elementsOk sV (fV 3 1 4 0 0 8 0 0) 2 = true := by
  decide +kernel
/-- A stream port of the slot holds a vector. -/
def sPort : State := sV.setSl { sV.sl with ports := [(0, { held := [{ tag := 8 }] })] }
theorem witness_VectorSelectAndMoveWords : goes sV = true ∧
    lanesOk sV [⟨1, 8, 0⟩, ⟨2, 8, 1⟩] 0 0 none [1, 2] (sV.sl.kreg 0) = true ∧
    lanesOk sV [⟨1, 8, 0⟩, ⟨2, 8, 1⟩] 0 3 (some 8) [1, 2] (effMask (sV.sl.kreg 0) 8) = true ∧
    lanesOk sV [] 0 0 none [1, 2] (effMask (sV.sl.kreg 0) 8) = true ∧ isScaled (sV.sl.vreg 1).tag = false ∧
    lanesOk sV [⟨2, 8, 1⟩] 0 3 (some (sV.sl.vreg 1).tag) [] (sV.sl.kreg 0) = true ∧ (sV.sl.vreg 1).marks = [] ∧ (sV.sl.vreg 2).marks = [] ∧
    lanesOk sV [] 0 3 (some (sV.sl.vreg 1).tag) [] (sV.sl.kreg 0) = true ∧ goes sPort = true ∧
    (sPort.sl.ports.getD 0 {}).held.head?.map VReg.tag = some 8 ∧ lanesOk sPort [] 0 3 (some 8) [] (sPort.sl.kreg 0) = true ∧
    sV.markOf [1] = none ∧ lanesOk sV [] 0 3 (some 8) [] 0 = true ∧ Use.legalTags.contains (sV.sl.vreg 1).tag = true ∧
    isScaled (sV.sl.vreg 6).tag = true ∧ goes (withV sV 9 [] 7) = true ∧ isScaled ((withV sV 9 [] 7).sl.vreg 9).tag = false ∧
    Use.legalTags.contains ((withV sV 9 [] 7).sl.vreg 9).tag = false := by decide +kernel
theorem witness_MaskWords : goes (at_ .x) = true := by decide +kernel
/-- Six F32 registers from v40, and v8 with the tag F4A. -/
def sC : State := [40, 41, 42, 43, 44, 45].foldl (fun s n => withV s n [] 1) sV
theorem witness_ConversionAndReductionWords : goes sV = true ∧ goes sC = true ∧
    cvtDecode (.vcvt q0 (fV 3 1 0 8 0 1 0 0)) (fV 3 1 0 8 0 1 0 0) sV = none ∧ lanesOk sV [⟨1, 8, 0⟩] 0 3 (some 1) [1] (sV.sl.kreg 0) = true ∧
    cvtDecode (.vcvt q0 (fV 8 40 0 1 0 0x16 0 0)) (fV 8 40 0 1 0 0x16 0 0) sC = none ∧
    lanesOk sC ((cvtRegs (fV 8 40 0 1 0 0x16 0 0)).map fun r => ⟨r, 1, 0⟩) 0 8 (some 0x16) (cvtRegs (fV 8 40 0 1 0 0x16 0 0)) (effMask (sC.sl.kreg 0) 0x16) = true ∧
    cvtDecode (.vcvt q0 (fV 3 6 0 0x16 0 1 0 0)) (fV 3 6 0 0x16 0 1 0 0) sV = none ∧ lanesOk sV [⟨6, 0x16, 0⟩] 0 3 (some 1) [6] (sV.sl.kreg 0) = true ∧
    lanesOk sV [⟨1, 8, 0⟩] 0 3 none [1] (sV.sl.kreg 0) = true ∧ lanesOk sV [⟨1, 8, 0⟩] 0 0 none [1] (sV.sl.kreg 0) = true ∧
    lanesOk sV [⟨1, 8, 0⟩] 0 3 (some 8) [1] (sV.sl.kreg 0) = true := by decide +kernel
theorem witness_ShiftAndStreamWords : goes sV = true ∧ lanesOk sV [] 0 3 (some (sV.sl.vreg 1).tag) [] (sV.sl.kreg 0) = true ∧
    shiftPartner sV sV.cur (neighbour sV.cur.col 1) = none ∧ shiftPartner sV sV.cur (neighbour sV.cur.col 2) = none ∧ sharedStream sV 0 = false ∧
    (sV.sl.cstream 0).recs = [] ∧ (laneMark sV.sl (sV.sl.kreg 0) [1]).isNone = true ∧ (pushRecords sV (fV 0 1 0 0 0 8 0 0)).length ≤ 1024 ∧
    (let t := sV.setSl { sV.sl with cstreams := [(0, { tag := 8, recs := List.replicate 769 0 })] }
     goes t = true ∧ 1024 < (t.sl.cstream 0).recs.length + (pushRecords t (fV 0 1 0 0 0 8 0 0)).length ∧
     popCountOf (fV 3 0 1 0 0 8 0 0) (t.sl.cstream 0).recs.length = some 256 ∧ (t.sl.cstream 0).tag = 8) := by decide +kernel

/-! ### Witnesses: matrix, tower and handle words -/

/-- The group of slot 0 declares matrix use and has the debug right. -/
def regioned (s : State) : State :=
  { s with groups := s.groups.put 1 { ctx := 1, state := .running, col := 0, slot := 0, region := { matrix := true, debug := true } } }
/-- Its slot holds the lease of column 0. -/
def leased1 : State := (regioned (at_ .x)).setCol 0 { (at_ .x).colAt 0 with lease := some 0 }

/-- The stream that issues holds the lease, as its matrix word finds it. -/
def holding (s : State) : Bool := s.e.leased.getD (s.atDawn.holdsLease s.cur)
/-- Products of m1 and m2 at offset 0, and a conversion to m0. -/
def fD (sub quad : Nat) : FmtD := ⟨0, 1, 2, 40, 0, 0, quad, 0, 0, sub, 0⟩
theorem witness_LeaseAndFoldWords : goes (regioned (at_ .x)) = true ∧ (regionOf (at_ .x)).matrix = false ∧ goes (at_ .x) = true ∧
    (regionOf (regioned (at_ .x))).matrix = true ∧ ((regioned (at_ .x)).colAt 0).lease = none ∧
    ((regioned (at_ .x)).colAt 0).leaseWait = [] ∧
    goes leased1 = true ∧ (regionOf leased1).matrix = true ∧ (leased1.colAt leased1.cur.col).lease = some leased1.cur.slot ∧
    (let t := (regioned (at_ .x)).setCol 0 { (at_ .x).colAt 0 with lease := some 3 }
     goes t = true ∧ (regionOf t).matrix = true ∧ (t.colAt 0).lease = some 3 ∧ holding t = false ∧ t.canIssue t.cur = true) ∧
    holding leased1 = true ∧ leased1.matrixFlights 0 0 = [] ∧ leased1.markOf [1] = none ∧
    (regionOf leased1).debug = true ∧ leased1.replayOf leased1.cur = none := by decide +kernel
/-- An MZERO of the slot is in flight; and the group without the debug right, and as the replay of an audited group. -/
def zeroing : State := { leased1 with flights := [{ id := 0, at_ := tk .x, secno := 0, issued := 0, ins := .mzero q0 (fD 1 0), lat := 24, pend := .matrix [] }] }
def asGroup (g : Group) : State := { leased1 with groups := [(1, g), (2, { g with audit := none })] }
theorem witness_LeaseAndFoldWords_more : canGo zeroing nop0 q0 [] = true ∧ holding zeroing = true ∧ zeroing.matrixFlights 0 0 ≠ [] ∧
    (let t := asGroup { ctx := 1, state := .running, col := 0, slot := 0, region := { matrix := true, debug := true }, audit := some { logSlot := 0, replayOf := some 2 } }
     holding t = true ∧ goes t = true ∧ (regionOf t).debug = true ∧ (t.replayOf t.cur).isSome = true) ∧
    (let t := asGroup { ctx := 1, state := .running, col := 0, slot := 0, region := { matrix := true } }
     holding t = true ∧ goes t = true ∧ (regionOf t).debug = false) := by decide +kernel

/-- Shapes of tile registers: m1 and m2 hold one line of BF16, m0 takes BF16 codes; m9 is free for a result. -/
def sM : State := leased1.setCol 0 { leased1.colAt 0 with ctl := [(0x040, 256 + 2), (0x041, 256 + 2), (0x042, 256 + 2)] }
/-- The four columns of quad 0 hold their leases with the same MMAQ, target 0. -/
def sQuad : State :=
  [1, 8, 9].foldl (fun s c =>
    let k : Stream := ⟨c, 0, .x⟩
    let s := s.setCol c { s.colAt c with lease := some 0, ctl := [(0x041, 256 + 2), (0x042, 256 + 2)] }
    let s := (s.setEng k.ek { tEng with target := some 0, shapes := [(2, 1), (2, 1), (0, 0)] })
    s.store (codeKey k.sk (tEng.wordOff 10)) 12 ((encodeWord (.mmaq q0 (fD 0 1))).getD 0))
    (sM.setEng (tk .x).ek { tEng with target := some 0, shapes := [(2, 1), (2, 1), (0, 0)] })

/-- What the statement on products asks of a state, for the product `i` with fields `f`; of a pinned one, that its entry of the list was read with `code`. -/
def startsOk (s : State) (kind : Nat) (f : FmtD) (code : Nat := 0) : Bool :=
  let k := s.cur
  let p := planProduct s k kind f s.nextId
  let a := (mOperands s k f (kind == 1)).1
  let b := (mOperands s k f (kind == 1)).2
  goes s && (productDec kind f s).isNone && (tagMismatch s k kind f).isNone
    && (!pinnedSlot s k || ((s.engAt k.ek).pin.map fun x => x.1) == some code)
    && decide (stampTarget s k f ≤ s.cyc ∧ (stampTarget s k f = s.cyc ∨ f.slip = 1 ∨ pinnedSlot s k = true))
    && productReady s k kind f && decide (1 ≤ a.dim ∧ a.dim ≤ 96 ∧ 1 ≤ b.dim) && !foldUnavailable (s.foldstat k.col) f.fold (pinnedSlot s k)
    && (kind != 2 || (mmacPoison s k p a b).isNone)
    && (kind != 1 || (quadNotReady s k f == 0 && (quadClash s k f).isNone && !partnerFaults s k f))
theorem witness_ProductWords_mma : startsOk sM 0 (fD 0 0) = true := by decide +kernel
/-- A command that slips and comes late, and one whose column has a degraded joint. -/
theorem witness_ProductWords_late : startsOk { sM with cyc := 9 } 0 { fD 0 0 with slip := 1 } = true ∧
    stampTarget { sM with cyc := 9 } (tk .x) { fD 0 0 with slip := 1 } ≠ 9 ∧
    (let t := sM.setCol 0 ((sM.colAt 0).setCtl 0x110 (BitVec.ofNat 64 (2 ^ 16)))
     startsOk t 0 (fD 0 0) = true ∧ foldJdeg (t.foldstat 0) ≠ 0 ∧ foldJdeg (sM.foldstat 0) = 0) := by decide +kernel
theorem witness_ProductWords_mmac : startsOk sM 2 (fD 0 0) = true := by decide +kernel
theorem witness_ProductWords_mmaq : startsOk sQuad 1 (fD 0 1) = true := by decide +kernel
/-- A slot with FOLDPIN whose entry gives the late set 1, or could not be read for the fault `code`. -/
def sPinned (code : Nat) : State :=
  let s := sM.setSlot (tk .x).sk ((sM.slotAt (tk .x).sk).setCtl 0x111 1)
  s.setEng (tk .x).ek { s.engAt (tk .x).ek with pin := some (code, 0x1000, 1) }
theorem witness_ProductWords_pinned : pinnedSlot (sPinned 0) (tk .x) = true ∧ startsOk (sPinned 0) 0 (fD 0 0) = true ∧
    pinnedSlot (sPinned 0x12) (tk .x) = true ∧ startsOk (sPinned 0x12) 0 (fD 0 0) 0x12 = true := by decide +kernel
/-- An MMAC of two granules whose batches are all complete, and its conversion under way. -/
def mmacFlight : Flight := { id := 4, at_ := tk .x, secno := 0, issued := 0, ins := .mmac q0 (fD 0 0), lat := 33, pend := .matrix [] }
def mmacDone : Product := planProduct sM (tk .x) 2 (fD 0 0) 4
def sMmac (l : List Product) (v : List Convert) : State :=
  { sM.setCol 0 { sM.colAt 0 with products := l, converts := v } with flights := [mmacFlight], nextId := 5, cyc := 40 }
def half : Convert := { id := 4, slot := 0, i32 := false, tag := 2, outl := false, mode := 0, width := 1, rows := [[0], [0]], g := 1, step := 0 }
theorem witness_ProductWords_converter : (sMmac [mmacDone] []).flight 4 = some mmacFlight ∧
    ((sMmac [mmacDone] []).colAt 0).products.find? (fun x => x.id == 4) = some mmacDone ∧ mmacDone.kind = 2 ∧ mmacDone.endAt ≤ 40 ∧
    (sMmac [] [half]).flight 4 = some mmacFlight ∧ ((sMmac [] [half]).colAt 0).products = [] ∧
    ((sMmac [] [half]).colAt 0).converts.find? (fun x => x.id == 4) = some half ∧ half.step < half.total ∧ half.step + 1 < half.total ∧
    ({ half with step := 1 } : Convert).step < ({ half with step := 1 } : Convert).total ∧
    ¬({ half with step := 1 } : Convert).step + 1 < ({ half with step := 1 } : Convert).total := by decide +kernel

/-- Registers for MLD (base 0, one line, and 192 lines), MZERO (1 and 32,768 granules) and MDRAIN (address 0; one row of one value). -/
def sT : State := withS leased1 [(1, 1), (2, 32768), (3, 1 + 2 ^ 8 + 64 * 2 ^ 16), (4, 192)]
def drained : List CellBytes := drainBytes 0 64 1 1 1 false [([0], [])]
theorem witness_TileWords : goes sT = true ∧ holding sT = true ∧ sT.markOf [0, 1] = none ∧ sT.loadCount sT.cur < 16 ∧
    sT.tileRead 0 5 = false ∧ (sT.effAddr ⟨5, 0, 0, 2, 0, 0, 0, 1, 0, 0, 0⟩).toNat % 64 = 0 ∧
    (sT.window sT.cur 0).isSome = true ∧ 64 * ((imageBytes 2 192 + 255) / 256) ≤ ((sT.window sT.cur 0).map Window.size).getD 0 ∧
    strictMode sT = false ∧
    sT.tileAwaits 0 5 = false ∧ 1 = (sT.sv 1).toNat ∧ 32768 = (sT.sv 2).toNat ∧ ((List.range 1).all fun x => !sT.granuleAwaits 0 (40 + x)) = true ∧
    drainDec ⟨1, 0, 3, 40, 0, 0, 0, 0, 0, 0, 0⟩ sT = none ∧ sT.markOf [0, 3] = none ∧ sT.storeCount sT.cur < 16 ∧ (sT.colAt 0).drainFree ≤ sT.cyc ∧
    sT.sv 3 = BitVec.ofNat 64 (1 + 1 * 2 ^ 8 + 64 * 2 ^ 16) ∧ (sT.sv 0).toNat % 64 = 0 ∧
    ((List.range (1 * granulesOf 1)).all fun x => !sT.granuleAwaits 0 ((40 + x) % 32768) && !sT.accPoisoned 0 ((40 + x) % 32768)) = true ∧
    (drainPieces sT drained).toOption.isSome = true := by decide +kernel

/-- s1 = 0x40, s2 = 5, s3 = 0x48, s4 = 2^26. -/
def sA (e : Eng) : State := withS (at_ e) [(1, 0x40), (2, 5), (3, 0x48), (4, 2 ^ 26), (7, 1), (8, 65535), (9, 65536), (10, 2 ^ 41)]
/-- Format C with base and data registers. -/
def fC (data base sz aux sub : Nat) : FmtC := ⟨data, base, 0, 0, 0, 0, sz, aux, 0, sub, 0⟩
def a40 : TAddr := ⟨0, 0, 0x40, 0⟩
theorem witness_ScalarTowerWords : goes (sA .a) = true ∧ (sA .a).markOf [1] = none ∧
    (sA .a).towerAddr ((sA .a).effAddr (fC 2 1 3 0 0)) false 0 = .ok a40 ∧ (sA .a).loadCount (sA .a).cur < 16 ∧
    towerRange (sA .a) a40 8 = .ok (towerBase + 0x40) ∧ (sA .a).served 0 (towerBase + 0x40) = true ∧ a40.off % 8 = 0 ∧ strictMode (sA .a) = false ∧
    (sA .a).storeCount (sA .a).cur < 16 ∧ (sA .a).towerAddr ((sA .a).effAddr (fC 2 3 3 0 0)) false 0 = .ok ⟨0, 0, 0x48, 0⟩ ∧ 0x48 % 16 ≠ 0 ∧
    (sA .a).towerAddr ((sA .a).effAddr (fC 2 2 2 0 0)) false 0 = .ok ⟨0, 0, 5, 0⟩ ∧ 5 % 4 ≠ 0 ∧
    (towerRange (sA .a) ⟨0, 0, 2 ^ 22 - 1, 0⟩ 8).toOption = none := by decide +kernel
/-- A group in strict mode finds the row closed. -/
def strictGroup : Group := { ctx := 1, state := .running, col := 0, slot := 0, region := { strict := true } }
theorem witness_ScalarTowerWords_strict : let s : State := ({ sA .a with groups := (sA .a).groups.put 1 strictGroup } : State).setSl ((sA .a).sl.setCtl 0x120 (BitVec.ofNat 64 (2 ^ 63)))
    goes s = true ∧ strictMode s = true ∧ s.rowClosed (towerBase + 0x40) = true := by decide +kernel
def held4 (tag : Nat) : State := (sA .x).setSl ((sA .x).sl.setQueue 6 { held := [(0, .v { tag := tag })] })
theorem witness_VectorTowerWords : goes (sA .a) = true ∧ (sA .a).sl.writerOf 4 = engCode (sA .a).cur.eng ∧
    ((sA .a).sl.queue 4).hasRoom 4 (sA .a).cyc = true ∧ (laneRange (sA .a) a40).toOption.map List.length = some 256 ∧
    ((laneRange (sA .a) a40).toOption.map fun l => l.all fun x => (sA .a).served 0 x.2.2) = some true ∧ a40.off % 64 = 0 ∧
    strictMode (sA .a) = false ∧ (laneRange (sA .a) ⟨0, 0, 0x48, 0⟩).toOption.isSome = true ∧ 0x48 % 64 ≠ 0 ∧
    (let t := { held4 8 with cur := tk .d }.setEng (tk .d).ek tEng
     goes t = true ∧ t.sl.readerOf 6 = engCode t.cur.eng ∧ (t.sl.queue 6).front t.cyc = some (.v { tag := 8 }) ∧ t.sl.writerOf 6 ≠ engCode t.cur.eng) ∧
    (sA .a).sl.readerOf 4 ≠ engCode (sA .a).cur.eng := by decide +kernel
theorem witness_RowWords : goes (sA .a) = true ∧ (sA .a).markOf [1] = none ∧
    (sA .a).towerAddr ((sA .a).effAddr (fC 0 1 0 0 0)) false 0 = .ok a40 ∧ towerRange (sA .a) a40 1 = .ok (towerBase + 0x40) ∧
    towerRange (sA .a) ⟨0, 0, 0x40, 0⟩ 1 = .ok (towerBase + 0x40) := by decide +kernel
/-- SLOTWIN 7 of the towers gives the context sum slots; the slot word of TWIN0 allows slot 5. -/
theorem witness_PortWords : goes (sA .a) = true ∧ (sA .a).markOf [1, 2, 2] = none ∧
    (sA .a).towerAddr ((sA .a).effAddr (fC 9 1 3 2 1)) false 0 = .ok a40 ∧ (sA .a).storeCount (sA .a).cur < 16 ∧
    (sA .a).loadCount (sA .a).cur < 16 ∧ towerRange (sA .a) a40 8 = .ok (towerBase + 0x40) ∧ (sA .a).served 0 (towerBase + 0x40) = true ∧
    relWaits (sA .a) (fC 9 1 3 2 1) = false ∧ strictMode (sA .a) = false ∧ slotWindow (sA .a) 0 63 = false ∧ towerRange (sA .a) a40 4 = .ok (towerBase + 0x40) ∧
    (let t : State := { sA .a with stores := [{ id := 0, by_ := (sA .a).cur, op := .write, pieces := [] }], nextId := 1 }
     goes t = true ∧ relWaits t { fC 9 1 3 2 1 with fmt := 2 } = true) := by decide +kernel
theorem witness_FenceWords : goes (at_ .a) = true ∧ loadsPending (at_ .a) (at_ .a).cur = false ∧ (at_ .a).writesBefore (at_ .a).cur (at_ .a).nextId = false ∧
    (let t : State := { at_ .a with stores := [{ id := 0, by_ := (at_ .a).cur, op := .write, pieces := [] }], nextId := 1 }
     goes t = true ∧ t.writesBefore t.cur t.nextId = true) ∧ (at_ .a).loadCount (at_ .a).cur < 16 ∧ (at_ .a).storeCount (at_ .a).cur < 16 := by decide +kernel
/-- A load of engine A in flight. -/
def loading : Flight := { id := 0, at_ := tk .a, secno := 0, issued := 0, ins := nop0, lat := 6, pend := .loadS 1 0 }
theorem witness_FenceWords_waits : let t : State := { at_ .a with flights := [loading] }
    canGo t (.fence q0 (fF 0 0 0 0 2)) q0 [] = true ∧ loadsPending t t.cur = true := by decide +kernel
theorem witness_BarrierWords : goes (sA .a) = true ∧ (sA .a).markOf [1, 2] = none ∧
    (sA .a).towerAddr ((sA .a).effAddr (fC 9 1 0 2 0)) false 0 = .ok a40 ∧ towerRange (sA .a) a40 16 = .ok (towerBase + 0x40) ∧
    (sA .a).served 0 (towerBase + 0x40) = true ∧ (sA .a).loadCount (sA .a).cur < 16 ∧ (sA .a).storeCount (sA .a).cur < 16 ∧
    relWaits (sA .a) (fC 9 1 0 2 0) = false ∧ a40.off % 16 = 0 ∧ ((sA .a).sv 7).toNat = 1 ∧ ((sA .a).sv 8).toNat = 65535 ∧
    ((sA .a).sv 0).toNat = 0 ∧ 65535 < ((sA .a).sv 9).toNat ∧ 2 ^ 41 ≤ ((sA .a).sv 10).toNat ∧
    (sA .a).towerAddr ((sA .a).effAddr (fC 9 3 0 2 0)) false 0 = .ok ⟨0, 0, 0x48, 0⟩ ∧
    towerRange (sA .a) ⟨0, 0, 0x48, 0⟩ 16 = .ok (towerBase + 0x48) ∧ 0x48 % 16 ≠ 0 := by decide +kernel

/-! ### Witnesses: handle, channel and queue words -/

/-- Entry 5 of context 1's table: 8 by 8 elements of I32, row-major, at offset 0x400 of cell 0, in state `st`; h5 is bound to it. -/
def tileDesc (st : Nat) (ro : Bool) : Desc :=
  { lay := { tag := 0, space := 0, base := 0x400, th := 8, tw := 8, w := 32, d0 := 8, d1 := 8, d2 := 1, d3 := 1, s1 := 32 }, fmt := 8, ndim := 1,
    ro := ro, state := st }
def sH (e : Eng) (st : Nat) (ro : Bool := false) : State :=
  let s := sA e
  let s := s.setCtx 1 { s.ctxAt 1 with handles := 0x10000 }
  (s.setEntry 1 5 (tileDesc st ro).words).setSl { s.sl with hregs := [(5, 5)] }
def fG (data h c0 c1 sub : Nat) : FmtG := ⟨data, h, c0, c1, 0, 0, 0, 0, sub, 0⟩
theorem witness_HandleWords : goes (sH .a 1) = true ∧ (sH .a 1).markOf [2] = none ∧ ((sH .a 1).sv 2).toNat = 5 ∧
    ((sH .a 1).entry ((sH .a 1).ctxOf (sH .a 1).cur) 5).state = 1 ∧ ((sH .a 1).entry 1 6).state = 0 ∧ 4096 ≤ ((sH .a 1).sv 8).toNat ∧
    (sH .a 1).loadCount (sH .a 1).cur < 16 ∧ (sH .a 1).markOf [1, 2] = none ∧ ((sH .a 1).sv 1).toNat % 64 = 0 ∧
    (sH .a 1).towerAddr ((sH .a 1).sv 1) true 0 = .ok a40 ∧ towerRange (sH .a 1) a40 64 = .ok (towerBase + 0x40) ∧
    (sH .a 1).served 0 (towerBase + 0x40) = true ∧ strictMode (sH .a 1) = false ∧ (sH .a 1).boundEntry (sH .a 1).cur 5 = some 5 ∧
    (sH .a 1).boundEntry (sH .a 1).cur 6 = none ∧ ((sH .a 2).entry 1 5).state = 2 ∧ goes (sH .a 2) = true ∧
    (sH .a 2).boundEntry (sH .a 2).cur 5 = some 5 := by decide +kernel

/-- The elements that a scalar or vector word at coordinates 0 names. -/
def named (s : State) (vec store : Bool) : Except Word (List ElemAcc) :=
  (wordElems (s.entry 1 5) vec (coords s (fG 0 5 0 0 0))).mapM fun (x : Nat × List Nat) => elemAcc s 1 5 (s.entry 1 5) store x.1 x.2
theorem witness_ElementWords : goes (sH .a 1) = true ∧ (sH .a 1).boundEntry (sH .a 1).cur 5 = some 5 ∧ ((sH .a 1).entry 1 5).lay.space ≠ 1 ∧
    (sH .a 1).loadCount (sH .a 1).cur < 16 ∧ (sH .a 1).sl.writerOf 4 = engCode (sH .a 1).cur.eng ∧ ((sH .a 1).sl.queue 4).hasRoom 4 0 = true ∧
    (sH .a 1).markOf [0, 0, 0, 0] = none ∧ coordBad ((sH .a 1).entry 1 5) (coords (sH .a 1) (fG 0 5 8 0 0)) = some 0 ∧
    coordBad ((sH .a 1).entry 1 5) (coords (sH .a 1) (fG 0 5 0 0 0)) = none ∧ strictMode (sH .a 1) = false ∧
    ((named (sH .a 1) false false).toOption.map fun l => (l.all fun x => x.parts.all fun p => (sH .a 1).served p.2.1.col p.2.2.1) && !l.any ElemAcc.wait) =
      some true ∧
    ((named (sH .a 1) true false).toOption.map fun l => (l.all fun x => x.parts.all fun p => (sH .a 1).served p.2.1.col p.2.2.1) && !l.any ElemAcc.wait) =
      some true ∧
    ((sH .a 1 true).entry 1 5).ro = true ∧ goes (sH .a 1 true) = true ∧ (sH .a 1).storeCount (sH .a 1).cur < 16 := by decide +kernel
/-- HST of a vector takes the front of q6 on engine D. -/
def sHst : State :=
  let s := sH .d 1
  s.setSl (s.sl.setQueue 6 { held := [(0, .v { tag := 8 })] })
theorem witness_ElementWords_hst : goes sHst = true ∧ sHst.boundEntry sHst.cur 5 = some 5 ∧ (sHst.entry 1 5).ro = false ∧ (sHst.entry 1 5).lay.tag ≠ 4 ∧
    sHst.sl.readerOf 6 = engCode sHst.cur.eng ∧ (sHst.sl.queue 6).front sHst.cyc = some (.v { tag := 8 }) ∧
    ((named sHst true true).toOption.map fun l => (l.all fun x => x.parts.all fun p => sHst.served p.2.1.col p.2.2.1) && !l.any ElemAcc.wait) =
      some true := by decide +kernel

/-- Engine addresses: 64 bytes from far address 0x10000 to cell 0 offset 0x40 of the towers. -/
def sE : State := withS (at_ .d) [(4, BitVec.ofNat 64 (2 ^ 63 + 0x40)), (5, 0x10000), (6, 64), (7, BitVec.ofNat 64 (2 ^ 63 + 0x80)), (9, 3)]
def fE (dest src len aux cmpl ctgt sub : Nat) : FmtE := ⟨dest, src, len, aux, cmpl, ctgt, 0, 0, 0, 0, 0, sub, 0⟩
/-- What the statement on channel words asks of a word of kind `kind`, where it gives its command. -/
def givesOk (s : State) (kind : CKind) (f : FmtE) : Bool :=
  goes s && (s.markOf (chanRegs kind f)).isNone && chanRoom s kind f && ((commandOf s kind f).cmpl != 3 || s.sl.writerOf f.aux == engCode s.cur.eng)
    && (operandFault s s.cur (commandOf s kind f)).isNone
    && ((s.slotAt s.cur.sk).overCeiling (pushList q0 s.cur.eng ++ (if f.cmpl = 0 ∧ kind ≠ .aatom then [f.ctgt % 8] else [])) s.cyc).isNone
    && decide ((s.chanAt (.column s.cur.col s.cur.slot f.ch)).queue.length < 8)
theorem witness_ChannelWords_copy : givesOk sE .copy (fE 4 5 6 0 2 0 0) = true ∧ givesOk sE .copy (fE 4 5 6 0 0 2 0) = true := by decide +kernel
theorem witness_ChannelWords_chain : givesOk sE .chain (fE 0 5 0 0 2 0 0) = true ∧ (freePier sE 0) = some 0 := by decide +kernel
theorem witness_ChannelWords_gather : givesOk sE .gather (fE 4 5 9 7 2 0 2) = true ∧ givesOk sE .scatter (fE 5 4 9 7 2 0 2) = true := by decide +kernel
theorem witness_ChannelWords_faults : operandFault sE sE.cur (commandOf sE .copy (fE 9 5 6 0 2 0 0)) = some (0x0B, 3) := by decide +kernel
/-- Eight commands wait in the channel. -/
theorem witness_ChannelWords_full : let s := sE.setChan (.column 0 0 0) { queue := List.replicate 8 (commandOf sE .copy (fE 4 5 6 0 2 0 0)) }
    8 ≤ (s.chanAt (.column 0 0 0)).queue.length ∧ goes s = true := by decide +kernel

/-- A launch whose pool holds `n` items and whose group 1 runs in slot 0; item 0 can be popped from cycle 0. -/
def sW (n : Nat) (done : Bool) : State :=
  { at_ .a with groups := (at_ .a).groups.put 1 { ctx := 1, lid := some 3, state := .running, col := 0, slot := 0 },
                launches := [(3, { ctx := 1, state := .running, total := 0, pool := List.replicate n ⟨7, 0, 0, 0⟩, terminated := done })] }
theorem witness_WorkQueueWords : goes (sW 1 false) = true ∧ ((sW 1 false).ownLaunch (sW 1 false).cur).map (fun x => x.1) = some 3 ∧
    (((sW 1 false).ownLaunch (sW 1 false).cur).bind fun x => x.2.head 0) = some (7, 7) ∧ goes (sW 0 true) = true ∧
    (((sW 0 true).ownLaunch (sW 0 true).cur).map fun x => ((x.2.head 0).isNone, x.2.terminated)) = some (true, true) ∧
    (((sW 0 false).ownLaunch (sW 0 false).cur).map fun x => ((x.2.head 0).isNone, x.2.terminated)) = some (true, false) ∧ goes (sW 0 false) = true ∧
    (sW 0 false).writesBefore (sW 0 false).cur (sW 0 false).nextId = false ∧ (sW 0 false).markOf [1] = none := by decide +kernel
theorem witness_WorkQueueWords_full : ((sW 65536 false).launches.get? 3).map (fun l => l.pool.length) = some 65536 := by
  show some (List.replicate 65536 _).length = some 65536
  rw [List.length_replicate]
/-- Queue 2 of context 1 is Idle with a ring of 64 packets at 0x20000. -/
def sP (w r : Nat) : State :=
  { sA .a with ctxs := (sA .a).ctxs.put 1 { (sA .a).ctxAt 1 with jlog2 := 6 }, fqueues := [(queueIndex 1 2, { state := 1, ring := 0x20000, log2 := 6, wptr := w, rptr := r, adv := w })] }
theorem witness_PacketAndGroupWords : goes (sA .a) = true ∧ (sA .a).cur.fw = false ∧ (sA .a).markOf [1, 2] = none ∧
    ((sA .a).groupOf (sA .a).cur.sk).isSome = true ∧ (sP 0 0).writesBefore (sP 0 0).cur (sP 0 0).nextId = false ∧ goes (sP 0 0) = true ∧
    (sP 0 0).towerAddr ((sP 0 0).sv 1) true 0 = .ok a40 ∧ towerRange (sP 0 0) a40 64 = .ok (towerBase + 0x40) ∧ a40.off % 64 = 0 ∧
    (sP 0 0).ctxOf (sP 0 0).cur ≠ 0 ∧ ((sP 0 0).queueAt (queueIndex 1 2)).state ≠ 0 ∧
    (sP 0 0).enqRoom (queueIndex 1 2) ((sP 0 0).queueAt (queueIndex 1 2)) = true ∧
    (sP 64 0).enqRoom (queueIndex 1 2) ((sP 64 0).queueAt (queueIndex 1 2)) = false ∧ (sP 64 0).served 0 (towerBase + 0x40) = true ∧ goes (sP 64 0) = true ∧
    (let t : State := { (sP 0 0).storeWords ((sP 0 0).descAt (queueIndex 1 2)) [6 * 2 ^ 16 + 1, 0x20000] with fqueues := [] }
     (t.queueAt (queueIndex 1 2)).state = 0 ∧ ((t.readDesc (queueIndex 1 2)).bind id).isSome = true ∧ goes t = true) ∧
    (let t : State := { sA .a with groups := (sA .a).groups.put 9 { ctx := 1, state := .queued, col := 0, slot := 0 } }
     goes t = true ∧ (t.groupOf t.cur.sk).isSome = true ∧ slotWaiters t 0 = [0] ∧ ((t.groupOf t.cur.sk).map fun g => g.2.region.prio) = some 0) ∧ (sP 0 0).served 0 (towerBase + 0x40) = true ∧
    (let t := (sA .a).setSl { (sA .a).sl with gid := none }
     t.groupOf t.cur.sk = none ∧ goes t = true) := by decide +kernel

/-! ### Witnesses: sections, ports, barriers, the matrix unit -/

/-- Engine A's section waits; `w` is the token FIFO that it waits on, 0xFFF for none. -/
def sSec (sec : Sec) (hdr : Header) : State := (at_ .a).setEng (tk .a).ek { tEng with sec := sec, hdr := hdr }
/-- A header of a section that waits for nothing. -/
def hdrOk : Header := { len := 100, tcnt := 8 }
/-- FIFO 3 of slot 0 has a token arriving. -/
def sTok : State := (at_ .a).setSlot 0 (((at_ .a).slotAt 0).setFifo 3 { arriving := 1 })
/-- Engine X is to issue an MMA whose target is cycle 0. -/
def sMiss (c : Nat) (l : List (Nat × Nat) := [(2, 1), (2, 1), (0, 0)]) : State :=
  { (sM.setEng (tk .x).ek { tEng with target := some 0, shapes := l }).store (codeKey (tk .x).sk (tEng.wordOff 10)) 12 ((encodeWord (.mma q0 (fD 0 0))).getD 0)
    with cyc := c }
theorem witness_SectionSteps : (sTok.slotAt (slotKey 0 0)).fifo 3 = { arriving := 1 } ∧
    ((sSec .waiting hdrOk).engAt (tk .a).ek).sec = .waiting ∧ ((sSec .waiting hdrOk).engAt (tk .a).ek).codeMiss = none ∧
    (sSec .waiting { hdrOk with eng := 1 }).hdrFault (tk .a) = some (3, 1) ∧ ((sSec .waiting { hdrOk with eng := 1 }).slotAt (tk .a).sk).stop = none ∧
    (sSec .waiting hdrOk).hdrFault (tk .a) = none ∧ (sSec .waiting hdrOk).waitsMet (tk .a) = true ∧
    (sSec .waiting { hdrOk with waitn := 3 }).hdrFault (tk .a) = none ∧ (sSec .waiting { hdrOk with waitn := 3 }).waitsMet (tk .a) = false ∧
    ((sSec (.retiring true) hdrOk).engAt (tk .a).ek).sec = .retiring true ∧ ((sSec (.retiring false) hdrOk).engAt (tk .a).ek).sec = .retiring false ∧
    ((sSec (.retiring false) hdrOk).flights.any fun f => f.at_ == tk .a) = false := by decide +kernel
theorem witness_SectionSteps_miss : ((sMiss 0).engAt (tk .x).ek).target = some 0 ∧
    (rawDecode ((sMiss 0).wordAt (tk .x))).bind stampedOf = some (0, fD 0 0) ∧ (sMiss 0).canIssue (tk .x) = true ∧ (fD 0 0).slip = 0 ∧
    pinnedSlot (sMiss 0) (tk .x) = false ∧ (sMiss 0).cyc = 0 ∧ ((sMiss 5).engAt (tk .x).ek).target = some 0 ∧ (sMiss 5).canIssue (tk .x) = true ∧
    productFault (sMiss 0) (tk .x) 0 (fD 0 0) = none ∧ productFault (sMiss 5) (tk .x) 0 (fD 0 0) = none ∧
    (productFault (sMiss 5 []) (tk .x) 0 (fD 0 0)).map Prod.fst = some 0x04 ∧ (sMiss 5 []).canIssue (tk .x) = true ∧
    pinnedSlot (sMiss 5 []) (tk .x) = false := by decide +kernel
/-- The same quad with its word in the first column's code too. -/
def sQuad0 : State := sQuad.store (codeKey (tk .x).sk (tEng.wordOff 10)) 12 ((encodeWord (.mmaq q0 (fD 0 1))).getD 0)
theorem witness_SectionSteps_quad : (sQuad0.engAt (tk .x).ek).target = some 0 ∧ (rawDecode (sQuad0.wordAt (tk .x))).bind stampedOf = some (1, fD 0 1) ∧
    sQuad0.canIssue (tk .x) = true ∧ (fD 0 1).slip = 0 ∧ pinnedSlot sQuad0 (tk .x) = false ∧ sQuad0.cyc = 0 := by decide +kernel

/-- A load in flight with one piece that is due, a barrier word, a word that only waits for its latency, and a shared push of one record. -/
def onePiece : Flight := { loading with pieces := [⟨0, towerBase + 0x40, 0x40, 8, 0, false, 0, none⟩] }
def barrierFlight : Flight := { onePiece with ins := .btest q0 (fC 9 1 0 2 0), pend := .port 0x40 [0] }
def pushFlight : Flight := { loading with at_ := tk .x, ins := .cspush q0 (fA 0 1 0 0), pend := .port 0x40 (8 :: [7]) }
def inFlight (f : Flight) : State := { sA .a with flights := [f], nextId := 5 }
/-- The ring of the descriptor at 0x40: 64 records of I32 at 0x400, `n` of them held. -/
def ringed (n : Nat) : State :=
  ((((inFlight pushFlight).store (towerBase + 0x44) 4 n).store (towerBase + 0x48) 4 0x400).store (towerBase + 0x4C) 1 6).store (towerBase + 0x4D) 1 8
/-- A marker of the same stream is on its way. -/
def fenced (f : Flight) : State := { inFlight { f with id := 1 } with stores := [{ id := 0, by_ := tk .a, op := .mark, pieces := [] }] }
theorem witness_FlightSteps : (inFlight onePiece).flight 0 = some onePiece ∧ isBarrierWord onePiece.ins = false ∧
    (onePiece.pieces.all fun p => !p.isDue 0 || (inFlight onePiece).mayPerform onePiece p) = true ∧
    (fenced onePiece).flight 1 = some { onePiece with id := 1 } ∧
    ({ onePiece with id := 1 } : Flight).pieces.map (fun p => (p.isDue 0, (fenced onePiece).mayPerform { onePiece with id := 1 } p)) = [(true, false)] ∧
    isBarrierWord barrierFlight.ins = true ∧ barrierFlight.pieces.head?.isSome = true ∧
    (barrierFlight.pieces.all fun p => !p.isDue 0 || (inFlight barrierFlight).mayPerform barrierFlight p) = true := by decide +kernel
theorem witness_FlightSteps_ends : (inFlight { loading with pend := .none }).flight 0 = some { loading with pend := .none } ∧
    ((inFlight { loading with pend := .none }).colAt 0).products = [] ∧ ((inFlight { loading with pend := .none }).colAt 0).converts = [] ∧
    (loading.ins.form.map Form.opc).getD 0 < 0x80 := by decide +kernel
theorem witness_FlightSteps_ring : (ringed 0).flight 0 = some pushFlight ∧ pushFlight.pend = .port 0x40 (8 :: [7]) ∧
    ringWaits (ringed 0) pushFlight 0x40 = false ∧ ringWaits (ringed 64) pushFlight 0x40 = false ∧
    (ringed 0).checkRing (tk .x) 0x40 = ringed 0 ∧ (ringed 64).checkRing (tk .x) 0x40 = ringed 64 ∧ (ringed 0).flights = [pushFlight] ∧ (ringed 0).stores = [] ∧
    (ringCheck (ringed 0) (tk .x) 0x40 8 3).toOption.map (fun x => (x.1, x.2.1, x.2.2.head, x.2.2.tail, x.2.2.log2)) =
      some (towerBase + 0x40, towerBase + 0x400, 0, 0, 6) ∧
    (ringCheck (ringed 64) (tk .x) 0x40 8 3).toOption.map (fun x => (x.2.2.head, x.2.2.tail, x.2.2.log2)) = some (0, 64, 6) ∧ 2 ^ 6 < 64 + 1 ∧
    ((ringCheck (ringed 0) (tk .x) 0x40 8 3).toOption.bind fun x => ringPoison (ringed 0) 0x40 x.2.1 x.2.2 x.2.2.tail 1) = none ∧
    ((ringCheck (ringed 64) (tk .x) 0x40 8 3).toOption.bind fun x => ringPoison (ringed 64) 0x40 x.2.1 x.2.2 x.2.2.tail 1) = none := by decide +kernel

/-- Tower 0 with bank 0 as given. -/
def sBank (b : Bank) (cyc : Nat := 0) : State := { (at_ .a).setTower 0 { banks := [(0, b)] } with cyc := cyc }
/-- A store of one byte on its way to tower 0. -/
def wentOut : PortWrite := { id := 0, by_ := tk .a, op := .write, pieces := [⟨3, towerBase + 0x40, [1], false, 0⟩], sent := some 0 }
def sQueue (l : List Nat) : State := (at_ .a).setTower 0 { queue := l }
theorem witness_TowerSteps : ([RowOpKind.open_, .close, .refresh].map fun k => ((sBank { buf := some 7, ops := [⟨k, 7, 0, 4, none⟩] } 3).bankAt 0 0).ops) =
      [[⟨.open_, 7, 0, 4, none⟩], [⟨.close, 7, 0, 4, none⟩], [⟨.refresh, 7, 0, 4, none⟩]] ∧ (sBank { ops := [⟨.open_, 7, 0, 4, none⟩] } 3).cyc + 1 = 4 ∧
    (sBank { ops := [⟨.open_, 7, 0, 4, none⟩] } 2).cyc + 1 < 4 ∧ ((sBank { buf := some 7 }).bankAt 0 0).buf = some 7 ∧
    (let i := ((at_ .a).towerAt 0).seqIdx
     (at_ .a).rowOpen 0 (i % 16) (i / 16) = false ∧
     (((at_ .a).towerAt 0).logicalRow (i % 16) (i / 16)).any (fun r => (at_ .a).atDawn.rowHeld 0 r) = false) ∧
    (sBank { buf := some 0 }).rowOpen 0 (((sBank { buf := some 0 }).towerAt 0).seqIdx % 16) (((sBank { buf := some 0 }).towerAt 0).seqIdx / 16) = true ∧
    (let t := sBank { restored := [(5, 0)] } (10 ^ 10)
     t.rowOpen 0 0 5 = false ∧ t.forceAge 0 ≤ t.cyc - t.restoredAt 0 0 5 ∧ (t.bankAt 0 0).ops = [] ∧ t.reqs = []) ∧
    ({ at_ .a with stores := [wentOut] } : State).stores.find? (fun e => e.id == 0) = some wentOut ∧
    (wentOut.pieces.filter fun p => p.dist == 3).any (fun p => ({ at_ .a with stores := [wentOut] } : State).lineBlocked p.key) = false ∧
    (at_ .a).flights = [] ∧
    ((sQueue [towerBase / 64]).towerAt 0).queue = [towerBase / 64] ∧ ((sQueue [towerBase / 64]).bankAt 0 (keyBank (towerBase / 64 * 64))).freeAt = 0 ∧
    ((sQueue [towerBase / 64]).towerAt 0).partly = [] ∧ ((sQueue [towerBase / 64]).towerAt 0).backs = [] ∧
    ((sQueue [towerBase / 64]).bankAt 0 (keyBank (towerBase / 64 * 64))).ops = [] ∧
    ((sQueue [towerBase / 64]).bankAt 0 (keyBank (towerBase / 64 * 64))).nextLoad = 0 ∧ (sQueue [towerBase / 64]).reqs = [] ∧
    ([1, 2].map fun e => (({ at_ .a with bitErrs := [(towerBase, e)] } : State).bitErrs.get? towerBase)) = [some 1, some 2] ∧ towerBase % 8 = 0 ∧
    ({ at_ .a with bitErrs := [(towerBase, 1)] } : State).lineBlocked towerBase = false := by decide +kernel
theorem witness_TowerSteps_spare : (at_ .a).subject = 0 ∧
    (let w := (at_ .a).setTower 0 { spareNow := some (⟨1, 2, 2⟩, 513) }
     (w.towerAt 0).spareNow = some (⟨1, 2, 2⟩, 513) ∧ (w.towerAt 0).spareReqs = [] ∧ w.subject = 0 ∧
     State.goodSpares { w.towerAt 0 with badSpares := (w.towerAt 0).badSpares ++ [1 * 8 + (513 - 512)] } 1 ≠ []) := by decide +kernel

theorem witness_BarrierWordRules : let w : BWord := ⟨2, 1, 1, 0, 0, false, false⟩
    w.poison = false ∧ w.malformed = false ∧ w.expected ≠ 0 ∧ w.arrived < w.expected ∧
    (⟨0, 0, 0, 0, 0, false, false⟩ : BWord).malformed = false ∧ (⟨2, 2, 1, 1, 0, false, false⟩ : BWord).malformed = false := by decide +kernel
/-- An arrival has reached the barrier word at 0x40, which expects two. -/
def sBar (n : Nat) : State :=
  { (at_ .a).store (towerBase + 0x40) 8 2 with
    arrivals := List.replicate n { id := 7, key := towerBase + 0x40, prog := 0x40, parity := 0, bytes := 0, remote := true, reached := true }, cyc := 9 }
/-- The record of an arrival from elsewhere at that word, and a load of that bank in its cycle that comes before it. -/
def arec : ArrivalRec := { id := 7, key := towerBase + 0x40, prog := 0x40, parity := 0, bytes := 0, remote := true }
def loadBefore : PortReq := ⟨some 0, 2, 0, keyTower (towerBase + 0x40), keyBank (towerBase + 0x40), 0, .plain, none, some 1⟩
theorem witness_BarrierSteps : (sBar 0).keyServed (towerBase + 0x40) = true ∧ arec.key = towerBase + 0x40 ∧ arec.served = false ∧
    (sBar 0).arrivalLate arec (keyTower (towerBase + 0x40)) (keyBank (towerBase + 0x40)) = 0 ∧
    0 < ({ sBar 0 with reqs := [loadBefore] } : State).arrivalLate arec (keyTower (towerBase + 0x40)) (keyBank (towerBase + 0x40)) ∧
    ({ sBar 0 with reqs := [loadBefore] } : State).keyServed (towerBase + 0x40) = true ∧
    (barrierReqs (sBar 0) (towerBase + 0x40)).length = 0 ∧
    (barrierReqs (sBar 1) (towerBase + 0x40)).map (fun r => ((match r.op with | .arrive 0 0 false => true | _ => false), r.flight.isNone, r.arr)) =
      [(true, true, (sBar 1).arrivals.head?)] ∧
    (sBar 1).flights = [] ∧ (((sBar 1).checkRead (towerBase + 0x40) 16).bword (towerBase + 0x40)).poison = false ∧ (((sBar 1).checkRead (towerBase + 0x40) 16).bword (towerBase + 0x40)).malformed = false ∧
    (((sBar 1).checkRead (towerBase + 0x40) 16).bword (towerBase + 0x40)).expected = 2 ∧ (((sBar 1).checkRead (towerBase + 0x40) 16).bword (towerBase + 0x40)).phase = 0 ∧ (((sBar 1).checkRead (towerBase + 0x40) 16).bword (towerBase + 0x40)).arrived = 0 := by
  decide +kernel
theorem witness_BarrierSteps_memOk : Memory.wf (sBar 1).mem := by decide +kernel

/-- A product of column 0 is under way; FOLDSTAT's control register is as given, and `l` are its passes. -/
def sBed (fold : Word) (l : List MPass) (done : Bool := false) : State :=
  (at_ .x).setCol 0 { (at_ .x).colAt 0 with
    ctl := [(0x110, fold)], products := [{ planProduct sM (tk .x) 0 (fD 0 0) 4 with passes := l, replayed := done }] }
def oneP : MPass := { step := 1, writes := true, lo := 0, hi := 4, start := 0 }
def degraded0 : Word := BitVec.ofNat 64 (2 ^ 16)
/-- Columns 0 and 1 with the cycles in which their passes asked for the bypass. -/
def sAsk (a b : Option Nat) (held : Nat := 0) : State :=
  let s := (at_ .x).setCol 1 { (at_ .x).colAt 1 with bypassAsk := b }
  s.setCol 0 { s.colAt 0 with bypassAsk := a, bypassTo := held }
theorem witness_BedSteps : (let t := (at_ .x).setCol 0 { (at_ .x).colAt 0 with leaseWait := [(2, 5), (1, 5)] }
     (t.colAt 0).lease = none ∧ (t.colAt 0).leaseWait = [(2, 5), (1, 5)]) ∧ (leased1.colAt 0).lease = some 0 ∧ ((at_ .x).colAt 0).leaseWait = [] ∧
    (failingPass (sBed 0 [oneP]) 0 0).map (fun x => (x.1.replayed, x.2)) = some (false, 0) ∧ foldBypbad ((sBed 0 [oneP]).foldstat 0) = false ∧
    (foldJdeg ((sBed 0 [oneP]).foldstat 0)).testBit 0 = false ∧ (foldJdeg ((sBed degraded0 [oneP]).foldstat 0)).testBit 0 = true ∧
    (failingPass (sBed 0 [oneP] true) 0 0).map (fun x => (x.1.replayed, x.2)) = some (true, 0) ∧
    failingPass (sBed 0 [oneP]) 0 4 = none := by decide +kernel
theorem witness_BedSteps_bypass : bypassed (sBed 0 [{ oneP with bypass := true }]) 0 ≠ [] ∧ bypassed (sBed 0 [oneP]) 0 = [] ∧
    (let t (s : State) := ((s.askBypass 0).askBypass 1)
     let asks (s : State) := (((t s).colAt 0).bypassAsk, ((t s).colAt 1).bypassAsk, ((t s).colAt 0).bypassTo, ((t s).colAt 1).bypassTo)
     asks (sAsk (some 3) (some 3)) = (some 3, some 3, 0, 0) ∧ asks (sAsk (some 4) (some 3)) = (some 4, some 3, 0, 0) ∧
     asks (sAsk none (some 3)) = (none, some 3, 0, 0) ∧ asks (sAsk (some 3) none) = (some 3, none, 0, 0) ∧
     asks (sAsk none none) = (none, none, 0, 0) ∧ asks (sAsk (some 3) (some 3) 5) = (some 3, some 3, 5, 0)) ∧ bypassPartner 0 = 1 ∧ (at_ .x).cyc = 0 := by
  decide +kernel

/-! ### Witnesses: channels, groups, launches, queues -/

/-- A copy of `len` bytes within cell 0 of column 0, of a group's engine D, under way at its first sector. -/
def cmdC (len sector : Nat) : Command :=
  { kind := .copy, at_ := tk .d, gid := some 1, dest := 2 ^ 63 + 0x40, src := 2 ^ 63 + 0x4000, len := len, started := true, sector := sector }
def chC : Chan := .column 0 0 0
def sCh (c : Command) : State := sE.setChan chC { queue := [c] }
/-- A command of a chain on pier 0. -/
def chP : Chan := .pier 0 0
def cmdChain : Command := { kind := .chain, at_ := tk .d, gid := some 1, src := 2 ^ 63 + 0x40, started := true }
def sPier (v : ChanState) : State := sE.setChan chP v
/-- A sector runs to an end, or stops. -/
def runOk (s : State) (x : Chan) (c : Command) : Bool := match sectorRun s x c with | (.ok _, _) => true | _ => false
theorem witness_ChannelSteps : (sCh (cmdC 64 1)).chanCommand chC = some (cmdC 64 1) ∧ ((sCh (cmdC 64 1)).chanAt chC).susp = none ∧
    chanFrozen (sCh (cmdC 64 1)) (cmdC 64 1) = false ∧ (cmdC 64 1).acq = false ∧
    collHolds ((sCh (cmdC 64 1)).setCommand chC (cmdC 64 1)) (cmdC 64 1) = false ∧ (cmdC 64 1).sectors ≤ (cmdC 64 1).sector ∧
    (cmdC 64 0).sector < (cmdC 64 0).sectors ∧ (cmdC 4096 0).sector + 1 < (cmdC 4096 0).sectors ∧
    runOk ((sCh (cmdC 4096 0)).setCommand chC (cmdC 4096 0)) chC (cmdC 4096 0) = true ∧
    runOk ((sCh { cmdC 64 0 with src := 2 ^ 63 + 2 ^ 40 }).setCommand chC { cmdC 64 0 with src := 2 ^ 63 + 2 ^ 40 }) chC
      { cmdC 64 0 with src := 2 ^ 63 + 2 ^ 40 } = false ∧
    ({ cmdC 64 0 with kind := .stbind false } : Command).sector < ({ cmdC 64 0 with kind := .stbind false } : Command).sectors ∧
    portRoom (sCh { cmdC 64 0 with kind := .stbind false }) { cmdC 64 0 with kind := .stbind false } = true ∧
    ((sCh (cmdC 64 1)).chanAt chC).queue.head? = some (cmdC 64 1) ∧ (cmdC 64 1).gid = some 1 ∧ ({ cmdC 64 1 with gid := none } : Command).gid = none := by
  decide +kernel
theorem witness_ChannelSteps_pier : (sPier { queue := [cmdChain], inner := some (cmdC 64 1) }).chanAt chP = { queue := [cmdChain], inner := some (cmdC 64 1) } ∧
    (cmdC 64 1).cmpl ≠ 1 ∧ (sPier { queue := [cmdChain], at_ := 2 ^ 63 + 0x40 }).chanAt chP = { queue := [cmdChain], at_ := 2 ^ 63 + 0x40 } ∧
    chanFrozen (sPier { queue := [cmdChain], at_ := 2 ^ 63 + 0x40 }) cmdChain = false ∧
    (match recordKeys (sPier { queue := [cmdChain], at_ := 2 ^ 63 + 0x40 }) chP cmdChain (2 ^ 63 + 0x40) 0 with
      | (.ok k, u) => (u.noteFailed k).readRun k == List.replicate 64 (0, false)
      | _ => false) = true ∧
    ((sPier { queue := [cmdChain], at_ := 2 ^ 63 + 0x40, parked := true }).chanAt chP).parked = true := by decide +kernel
/-- A chain whose first record, 64 bytes of a copy that this engine owns, stands at 0x40 of cell 0. -/
def sOwned : State :=
  [1, 2 ^ 63 + 0x80, 2 ^ 63 + 0x100, 2 ^ 63 + 0x4000, 64].zipIdx.foldl (fun s x => s.store (towerBase + 0x40 + 8 * x.2) 8 x.1)
    (sPier { queue := [cmdChain], at_ := 2 ^ 63 + 0x40 })
/-- The words of the record at 0x40 as pier 0's channel reads them. -/
def chainWords (s : State) (n : Nat) : Option (List Nat) :=
  match recordKeys s chP cmdChain (2 ^ 63 + 0x40) 0 with
  | (.ok k, u) => (readRecord u chP (2 ^ 63 + 0x40) (k.take n)).1.toOption
  | _ => none
theorem witness_ChannelSteps_record : chainWords sOwned 64 = some [1, 2 ^ 63 + 0x80, 2 ^ 63 + 0x100, 2 ^ 63 + 0x4000, 64, 0, 0, 0] ∧
    ((chainWords sOwned 64).bind fun w => recordCommand cmdChain w).isSome = true ∧
    ((chainWords sOwned 64).bind fun w => (recordCommand cmdChain w).bind fun z => operandFault sOwned cmdChain.at_ z) = none ∧
    (chainWords (sPier { queue := [cmdChain], at_ := 2 ^ 63 + 0x40, parked := true }) 8) = some [0] ∧ (sOwned.chanAt chP).err = none ∧
    (sOwned.chanAt chP).inner = none ∧ cmdChain.acq = false ∧ cmdChain.rel = false := by decide +kernel
/-- A write of a pier's unit that waits for its port; an AATOM on a word of cell 0; an open page-fault record. -/
def sHeld : State := { sCh (cmdC 64 1) with async := [{ src := 0, unit := State.chanKey chC, key := towerBase + 0x40, bytes := [1] }] }
def cmdA : Command := { cmdC 64 0 with kind := .aatom, size := 0 }
theorem witness_ChannelSteps_scope : (sCh (cmdC 64 1)).unitReached (State.chanKey chC) 5 = true ∧ sHeld.unitReached (State.chanKey chC) 5 = false ∧
    (sHeld.chanAt chC).queue.head? = some (cmdC 64 1) ∧ (sPier { queue := [cmdChain] }).unitReached (State.chanKey chP) 5 = true ∧
    ({ sE with pages := { open_ := [{ id := 3, seqno := 1, ctx := 1, vpage := 2 }] } } : State).pages.open_.any (fun p => p.id == 3) = true ∧
    sE.pages.open_.any (fun p => p.id == 3) = false ∧ sE.unitReached (State.chanKey chC) 5 = true ∧
    (sCh cmdA).chanCommand chC = some cmdA ∧ chanFrozen (sCh cmdA) cmdA = false ∧ cmdA.acq = false ∧ ((sCh cmdA).chanAt chC).susp = none ∧
    collHolds ((sCh cmdA).setCommand chC cmdA) cmdA = false ∧
    (match aatomRun ((sCh cmdA).setCommand chC cmdA) chC cmdA with | (.ok _, _) => true | _ => false) = true := by decide +kernel
/-- A command of STBIND, and a channel that waits for the host's memory. -/
def cmdB : Command := { cmdC 1024 0 with kind := .stbind false }
theorem witness_ChannelSteps_stream : (sCh cmdB).chanCommand chC = some cmdB ∧ EA.parse cmdB.src = some (.lin 0 0 0x4000) ∧
    (match transPages (sCh cmdB) chC (tk .d) (eaPages (EA.at_ (.lin 0 0 0x4000) 0) 1024 0) [] with
      | (.ok p, u) => keysServed u (eaKeys u (tk .d) p (EA.at_ (.lin 0 0 0x4000) 0) 1024)
      | _ => false) = true ∧
    (let t : State := { sE with hostWaits := [(.chan chC, 0, 0)] }
     t.hostWaits.find? (fun w => w.1 == .chan chC) = some (.chan chC, 0, 0) ∧ t.hostUp = false ∧ t.cyc < 0 + t.linkLimit) := by decide +kernel

/-- Group 1 as given, and a group that stood saved. -/
def sG (v : Group) (s : State := at_ .x) : State := { s with groups := s.groups.put 1 v }
def savedGroup : Group := { ctx := 1, state := .queued, saved := some { slot := {}, engs := [] } }
/-- Group 1 is Running, or as `st` says, in slot 0 of column 0. -/
def g1 (st : GState) : Group := { ctx := 1, state := st, col := 0, slot := 0 }
/-- Context 1 has a page table that maps the first 1 GiB to address `pa`. -/
def paged (s : State) (pa : Nat) : State :=
  ((s.setCtx 1 { s.ctxAt 1 with ptroot := 0x100000 }).store 0x100000 8 0x200001).store 0x200000 8 (pa + 27)
/-- Its launch has a code of 1,024 bytes at 0x10000. -/
def sCode (pa : Nat) : State :=
  { paged (sG { g1 .running with lid := some 3 }) pa with launches := [(3, { ctx := 1, state := .running, image := 0x10000, streams := [(0, 1024), (0, 0), (0, 0)] })] }
def codePages (s : State) : Tr :=
  (s.transRange 1 3 4 (.fetch ⟨0, 0, .a⟩) (distinct (((List.range 1024).filterMap fun i =>
    (imagePlace (s.launchOf { g1 .running with lid := some 3 }) (1024 * 0 + i)).map fun a => (1024 * 0 + i, a)).map fun (x : Nat × Nat) => x.2 / 65536))).1
/-- Column 0 has firmware that works, and column 1 a window for context 1. -/
def sOpen (s : State) : State :=
  (s.setCol 0 ((s.colAt 0).setCtl 0x137 (BitVec.ofNat 64 (2 ^ 13)))).setCol 1 ((s.colAt 1).setCtl 0x121 (s.twin 0 0))
theorem witness_GroupSteps_places : let t := sOpen (sG savedGroup)
    t.groups.get? 1 = some savedGroup ∧ savedGroup.state = .queued ∧ (t.ctxAt 1).state = 1 ∧ t.slotFree 0 1 = true ∧
    t.colOpen 0 (t.groupWinCtx savedGroup) = true ∧ t.purges = [] ∧ savedGroup.gang = false ∧ savedGroup.saved.isSome = true ∧
    (sG (g1 .placed)).gangOf 1 = [1] ∧ ((sG (g1 .placed)).copyCode 1).1 = true ∧ (((sG (g1 .placed)).copyCode 1).2.canRestore 1).1 = true ∧
    ((sG (g1 .running)).gangOf 1).filter (fun h => (((sG (g1 .running)).groups.get? h).map Group.state) == some .placed) = [] := by decide +kernel
theorem witness_GroupSteps_code : (at_ .x).groupOf (slotKey 0 1) = none ∧
    (sCode (2 ^ 30)).groupOf (slotKey 0 0) = some (1, { g1 .running with lid := some 3 }) ∧ codePages (sCode (2 ^ 30)) = .ok 0 ∧
    codePages (sCode (2 ^ 51)) = .full ∧
    ((State.slotStreams 0 0).filter fun k => ((sCode (2 ^ 30)).engAt k.ek).codeMiss == some 0) = [] := by decide +kernel
/-- A pre-emption of slot 0 at cycle 0. -/
def sPre (st : GState) (p : Preempt) (cyc : Nat) : State :=
  let t := sG (g1 st)
  { t.setSlot 0 { t.slotAt 0 with preempt := some p } with cyc := cyc }
theorem witness_GroupSteps_stops : (State.slotStreams 0 0).filter (fun k => ((at_ .x).engAt k.ek).sec != .empty) = [tk .x] ∧
    ((sPre .running { at_ := 0 } 1750000).slotAt 0).preempt = some { at_ := 0 } ∧ (g1 .running).region.plimit = 1750000 ∧
    ((sPre .placed { at_ := 5, force := true } 5).slotAt 0).preempt = some { at_ := 5, force := true } ∧
    ((sG (g1 .preempting)).saveUnit 1 (g1 .preempting)).all (sG (g1 .preempting)).canSave = true ∧
    ((sG (g1 .running)).saveUnit 1 (g1 .running)).all (sG (g1 .running)).canSave = false ∧ (g1 .preempting).frame = none ∧
    (sG (g1 .preempting)).freeFrame 1 = none ∧ (g1 .running).audit = none ∧
    ((sG (g1 .faulted)).groupOf (slotKey 0 (bitsAt (((sG (g1 .faulted)).colAt 0).ctlr 0x083) 1 0))).map (fun g => g.2.state) = some .faulted ∧
    (let t := sG (g1 .faulted)
     let u (v : Nat) : State := t.setCol 0 ((t.colAt 0).setCtl 0x131 (BitVec.ofNat 64 v))
     let sel (v : Nat) : Word := ((u v).colAt 0).ctlr 0x131
     (bitsAt (sel 5) 19 18, bitsAt (sel 5) 17 0, bitsAt (sel (2 ^ 18)) 19 18, bitsAt (sel (2 ^ 19)) 19 18) = (0, 5, 1, 2)) := by decide +kernel
theorem witness_GroupSteps_moves : let m : Move := ⟨1, 0, 1, 0, 0, false, true⟩
    let t : State := { sG (g1 .saved) with moves := [m] }
    t.moves.find? (fun m => m.ctx == 1 && m.src == 0 && m.begun) = some m ∧
    t.groups.filter (fun r => r.2.ctx == 1 && r.2.state == .migrating && r.2.migrate == some (1, 0)) = [] ∧
    (sG (g1 .running)).groupOf (slotKey 0 0) = some (1, g1 .running) ∧ ((sG (g1 .running)).slotAt (slotKey 0 0)).preempt = none ∧
    (sG (g1 .running)).migrationRefused 1 0 1 0 = true ∧ (sOpen (sG (g1 .running))).migrationRefused 1 0 1 0 = false := by decide +kernel
theorem witness_GroupSteps_ends : (at_ .x).subject = 0 ∧ 1 ≤ ((at_ .x).ctxAt 1).state ∧ ((at_ .x).ctxAt 1).state ≤ 4 ∧ (at_ .x).purges = [] ∧
    (0x1_0000_0005 : Nat) / 2 ^ 32 % 65536 = 1 ∧ ((at_ .x).ctxAt 2).state = 0 ∧
    ({ at_ .x with purges := [(1, 5, 1)] } : State).purges.find? (fun p => p.1 == 1 && p.2.1 == 5) = some (1, 5, 1) ∧
    (at_ .x).flight (2 ^ 64) = none ∧ ((at_ .x).message 1 2 5).isSome = true := by decide +kernel
/-- The group is to be saved at cycle 5, and it is Running; a micro-PC record comes as far traffic; the message's mailbox is taken. -/
def taken : State := ((at_ .x).message 1 2 5).elim (at_ .x) Prod.snd
theorem witness_GroupSteps_more : ((sPre .running { at_ := 5 } 5).slotAt 0).preempt = some { at_ := 5 } ∧ (5 : Nat) < 5 + (g1 .running).region.plimit ∧
    ((sPre .atSafe { at_ := 5, force := true } 5).slotAt 0).preempt = some { at_ := 5, force := true } ∧
    (at_ .x).farTraffic = false ∧ ({ at_ .x with subject := 3, chans := sHeld.chans } : State).farTraffic = true ∧
    (taken.message 1 2 5).isNone = true ∧ taken.flight (2 ^ 64) = none ∧ taken.subject = 0 ∧ (at_ .x).groupOf (slotKey 0 1) = none ∧ ((at_ .x).colAt 0).ctlr 0x134 = 0 := by decide +kernel


/-! ### Witnesses: launches, queues, packets, contexts, pages -/

/-- Launch 3 of node 2 of context 1, whose graph lies at 0x30000; the node names the image at 0x10000. -/
def sL (l : Launch) : State :=
  let s := paged (at_ .x) (2 ^ 30)
  { (s.setCtx 1 { s.ctxAt 1 with graph := 0x30000 }).store 0x30040 8 0x10000 with launches := [(3, l)] }
def aLaunch (st : LState) : Launch := { ctx := 1, node := 2, state := st, image := 0x10000, region := { cols := 1 } }
/-- The image's header stands in memory. -/
def sImage : State := ((sL (aLaunch .checking)).store (2 ^ 30 + 0x10000) 4 0x4B59494D).store (2 ^ 30 + 0x10004) 2 1
def checkEnd (s : State) (l : Launch) : Nat := match s.checkLaunch 3 l with | (.ok _, _) => 1 | (.error (some _), _) => 2 | _ => 3
theorem witness_LaunchSteps : (sL (aLaunch .launched)).launches.get? 3 = some (aLaunch .launched) ∧
    (∀ n < 4, (sL (aLaunch .launched)).poisoned (((sL (aLaunch .launched)).ctxAt 1).graph + 32 * 2 + 8 * n) = false) ∧
    State.nodeBad ((sL (aLaunch .launched)).nodeWords 1 2) = false ∧ nbits (((sL (aLaunch .launched)).nodeWords 1 2).getD 0 0) 51 0 ≠ 0 ∧
    sImage.launches.get? 3 = some (aLaunch .checking) ∧ checkEnd sImage (aLaunch .checking) = 1 ∧
    checkEnd (sL (aLaunch .checking)) (aLaunch .checking) = 2 ∧ (aLaunch .running).ending = none ∧
    (sL (aLaunch .running)).launchOver 3 (aLaunch .running) = some 0 := by decide +kernel

/-- Queue 2 of context 1. -/
def kQ : Nat := queueIndex 1 2
def sQu (q : FQueue) : State := { at_ .x with subject := kQ, fqueues := [(kQ, q)] }
def aQueue (st : Nat) (cur : Option Packet := none) : FQueue := { state := st, ring := 0x20000, log2 := 6, wptr := 3, rptr := 1, adv := 3, cur := cur }
def below47 (a b : Nat) : Bool := decide (2 ^ 47 ≤ (a + 2 ^ 48 - b) % 2 ^ 48)
theorem witness_QueueSteps : (sQu (aQueue 1)).subject = kQ ∧ (sQu (aQueue 1)).queuesLive (kQ / 4096) = true ∧ ((sQu (aQueue 1)).queueAt kQ).state ≠ 0 ∧
    (below47 2 3 || below47 ((1 + 2 ^ 6) % 2 ^ 48) 2) = true ∧ (below47 66 3 || below47 ((1 + 2 ^ 6) % 2 ^ 48) 66) = true ∧
    (below47 65 3 || below47 ((1 + 2 ^ 6) % 2 ^ 48) 65) = false ∧ ((sQu (aQueue 6)).queueAt kQ).state = 6 ∧
    (sQu { aQueue 2 with seqs := [7] }).feFree ≠ 0 ∧ (admitted (sQu { aQueue 2 with seqs := [7] })).isSome = true ∧
    ((sQu (aQueue 2)).ctxAt (kQ / 4096)).state = 1 ∧ (sQu (aQueue 2)).evicting = false ∧ ((sQu (aQueue 2)).queueAt kQ).cur = none ∧
    ((sQu { aQueue 3 with slotAt := some 0 }).queueAt kQ).slotAt.isSome = true ∧ State.atBoundary (aQueue 3) = true ∧
    ((aQueue 4 (some { parkFrom := some 0 })).cur.bind fun p => p.parkFrom).isSome = true ∧ ((sQu (aQueue 5)).queueAt kQ).state = 5 := by decide +kernel

/-- A packet of type `t` that begins its words with `t` in bits 3:0 and has begun in cycle 0; the cycle is 9. -/
def aPacket (t : Nat) (w1 w3 : Nat := 0) : Packet := { words := [t, w1, 0, w3, 0, 0, 0, 0], begun := some 0 }
def sPk (p : Packet) (priv : Bool := false) : State := { paged (sQu { aQueue 3 (some p) with priv := priv }) (2 ^ 30) with cyc := 9 }
def signalled (s : State) : Tr := (s.signalWord (kQ / 4096) 0x40 0 0 (.queue kQ)).1
theorem witness_PacketSteps : ((sPk (aPacket 1)).queueAt (sPk (aPacket 1)).subject).cur = some (aPacket 1) ∧ (aPacket 1).done = none ∧
    (aPacket 1).begun = some 0 ∧ (sPk (aPacket 1)).cyc = 9 ∧ [1, 2, 3, 4, 5].map (fun t => (aPacket t).typ) = [1, 2, 3, 4, 5] ∧
    ((sPk (aPacket 2)).queueAt kQ).state = 3 ∧ (sPk (aPacket 3 0x40)).attached (.queue kQ) = false ∧ signalled (sPk (aPacket 3 0x40)) = .ok 0 ∧
    (let t : State := { sPk (aPacket 3 0x40) with denied := [(.queue kQ, 0, 0x13)] }
     signalled t = .refused) ∧ (sPk (aPacket 5)).evicting = false ∧ ((sPk (aPacket 5)).queueAt kQ).priv = false ∧
    ((sPk (aPacket 5) true).queueAt kQ).priv = true ∧ ({ aPacket 1 with begun := none, held := some 3 } : Packet).held.isSome = true := by decide +kernel

/-- Context 2 in a state, its record in memory at 0x10000, as the subject of a command. -/
def sCtx (st : Nat) (busy : List Nat := []) : State :=
  { (((((((at_ .x).setCtx 2 { state := st, imaging := true }).store 16 8 0x10000).store 0x10000 8 (2 * 2 ^ 16)).store 0x10028 8 10).store 0x10038 8 1).store
      0x10048 8 1).store 0x10058 8 0x8000 with subject := 2, ctxBusy := busy }
theorem witness_ContextSteps : (sCtx 0 [5]).ctxBusy ≠ [] ∧ (sCtx 0).ctxBusy = [] ∧ ((sCtx 0).ctxAt (sCtx 0).subject).state = 0 ∧
    ((sCtx 1).ctxAt 2).state = 1 ∧ ((sCtx 3).ctxAt 2).state = 3 ∧ ((sCtx 0).readContext 2).toOption.isSome = true ∧
    ((((sCtx 0).readContext 2).toOption.map fun v => (sCtx 0).windowsFit 2 v) = some true) ∧
    ({ sCtx 0 with subject := 0 } : State).readContext 0 = .error 3 ∧ ((sCtx 3).switchIn 2).toOption.isSome = true ∧
    (sCtx 1).subject < 65536 ∧ ((sCtx 5).ctxAt 2).state = 5 ∧ (2 + 2 ^ 17 : Nat) = 2 + 2 ^ 17 ∧ (sCtx 5).ctxQuiet 2 = true ∧
    ((sCtx 2).ctxAt 2).imaging = true ∧ (sCtx 2).attached (.image 2) = false ∧ (sCtx 2).imageParts 2 = [] ∧ (sCtx 2).ctxWindows 2 = [] ∧
    (sCtx 4).imageParts 2 = [] ∧ (sCtx 4).ctxWindows 2 = [] := by decide +kernel
/-- A column of a context in Tearing down still has work of a slot that is gone. -/
theorem witness_ContextSteps_busy : let s : State := { (at_ .x).setCtx 1 { (at_ .x).ctxAt 1 with state := 5 } with
      slots := [], flights := [{ loading with at_ := tk .a }], subject := 1 }
    (s.ctxAt 1).state = 5 ∧ s.ctxQuiet 1 = false := by decide +kernel

/-- Entry 5 of context 1 converts from 0x1000 to 0x400 of cell 0; `done` of its conversion tiles are done. -/
def convDesc (done : Nat) : Desc := { tileDesc 2 false with otw := 8, oth := 8, obase := 0x1000, done := done }
def aJob : Job := { ctx := 1, entry := 5, pier := 0, began := true }
def sJob (j : Job) (done : Nat := 0) (st : Nat := 2) : State :=
  let s := sH .x 1
  { s.setEntry 1 5 { convDesc done with state := st }.words with jobs := [j] }
/-- The same, with a migration of the column begun, or with a store of the entry on its way. -/
def sMoving : State := { sJob aJob with moves := [⟨1, 0, 1, 0, 0, false, true⟩] }
def using5 (m : Nat) : PortWrite := { id := 0, by_ := tk .a, op := .write, pieces := [], uses := [(4101, m)] }
def heldPages (s : State) (j : Job) : Tr :=
  (holdPages s j ((farPages ((s.entry 1 5).oldBytes 0)).map (fun v => (v, 0)) ++ (farPages ((s.entry 1 5).newSpan 0)).map fun v => (v, 1)) []).1
theorem witness_PageAndHandleSteps_relayout : (sJob aJob).jobOf 1 5 = some aJob ∧ ((sJob aJob).ctxAt 1).state = 1 ∧ ((sJob aJob).entry 1 5).state = 2 ∧
    ((sJob aJob).entry 1 5).done < ((sJob aJob).entry 1 5).tiles ∧ jobServed sMoving aJob (sMoving.entry 1 5) = false ∧
    jobServed (sJob aJob) aJob ((sJob aJob).entry 1 5) = true ∧ heldPages (sJob aJob) aJob = .ok 0 ∧
    (sJob { aJob with moving := true }).jobOf 1 5 = some { aJob with moving := true } ∧
    ({ sJob { aJob with moving := true } with stores := [using5 1] } : State).stores.any (fun e => e.uses.contains (1 * 4096 + 5, 0 + 1)) = true ∧
    (sJob { aJob with moving := true }).stores.any (fun e => e.uses.contains (1 * 4096 + 5, 0 + 1)) = false ∧
    ((sJob aJob).entry 1 5).done + 1 = ((sJob aJob).entry 1 5).tiles ∧ ((sJob aJob 1).entry 1 5).tiles ≤ ((sJob aJob 1).entry 1 5).done ∧
    ((sJob aJob 1).entry 1 5).state = 2 ∧ (sJob aJob 1).usesOf (1 * 4096 + 5) (· != 0) = false ∧ aJob.barrier = none ∧
    ((sJob aJob 0 4).entry 1 5).state = 4 ∧ (sJob aJob 0 4).usesOf 4101 (fun _ => true) = false ∧
    ({ sJob aJob 0 4 with stores := [using5 0] } : State).usesOf 4101 (fun _ => true) = true := by decide +kernel
/-- A page-fault record that is not yet written; the ring's HEAD and TAIL are as given. -/
def aRecord : PageRecord := { id := 3, seqno := 1, ctx := 1, vpage := 2 }
def sRec (head : Nat) : State :=
  { (at_ .x).setDev 0x161 (BitVec.ofNat 64 head) with pages := { open_ := [aRecord, { aRecord with id := 4, seqno := 2 }] } }
def sPage (q : Nat) : State := (at_ .x).setQuar 7 q
theorem witness_PageAndHandleSteps : (sRec 0).pages.open_.filter (fun r => !r.written) = [aRecord, { aRecord with id := 4, seqno := 2 }] ∧
    (∀ x ∈ [({ aRecord with id := 4, seqno := 2 } : PageRecord)], aRecord.seqno ≤ x.seqno) ∧
    (bitsAt ((sRec 0).devr 0x161) 31 0 + 2 ^ 32 - bitsAt ((sRec 0).devr 0x161) 63 32) % 2 ^ 32 < 2 ^ (bitsAt ((sRec 0).devr 0x160) 3 0 + 6) ∧
    2 ^ (bitsAt ((sRec 64).devr 0x160) 3 0 + 6) ≤ (bitsAt ((sRec 64).devr 0x161) 31 0 + 2 ^ 32 - bitsAt ((sRec 64).devr 0x161) 63 32) % 2 ^ 32 ∧
    (at_ .x).pages.scrubbing = none ∧ 7 < localPages ∧ [0, 1, 2, 3].map (fun q => (sPage q).quarState 7) = [0, 1, 2, 3] ∧
    ({ at_ .x with pages := { scrubbing := some 7 } } : State).pages.scrubbing = some 7 ∧ (at_ .x).invalidating = false ∧
    (let w : FarWrite := { pier := 0, unit := 0, plinth := 9, at_ := 9, cells := [(0x40000, 1, false)] }
     ({ at_ .x with farHeld := [w], pages := { invWrites := [w] } } : State).invalidating) = true := by decide +kernel
/-- A node that does not hold an image; a node whose words are wrong; launches that end; a group of launch 3 that has retired. -/
def sNode (w0 w3 : Nat) : State := ((sL (aLaunch .launched)).store 0x30040 8 w0).store 0x30058 8 w3
def retiredOf (s : State) : State := { s with groups := [(1, { g1 .retired with lid := some 3 })] }
theorem witness_LaunchSteps_more : (sNode 0x10000 1).launches.get? 3 = some (aLaunch .launched) ∧
    State.nodeBad ((sNode 0x10000 1).nodeWords 1 2) = true ∧ State.nodeBad ((sNode 0 0).nodeWords 1 2) = false ∧
    nbits (((sNode 0 0).nodeWords 1 2).getD 0 0) 51 0 = 0 ∧
    (∀ n < 4, (sNode 0x10000 1).poisoned (((sNode 0x10000 1).ctxAt 1).graph + 32 * 2 + 8 * n) = false) ∧
    (∀ n < 4, (sNode 0 0).poisoned (((sNode 0 0).ctxAt 1).graph + 32 * 2 + 8 * n) = false) ∧
    ({ aLaunch .running with ending := some 0 } : Launch).ending = some 0 ∧ (sL (aLaunch .walking)).launchOver 3 (aLaunch .walking) = none ∧
    (aLaunch .walking).ending = none ∧ (aLaunch .running).packet = none ∧ (aLaunch .running).signal = (0, 0, 0) ∧
    (retiredOf (sL (aLaunch .running))).launchGroups 3 = [(1, { g1 .retired with lid := some 3 })] ∧
    (retiredOf (sL (aLaunch .running))).writesDone 1 { g1 .retired with lid := some 3 } = true := by decide +kernel
/-- A queue of a context that is not there; a queue that is Undefined; a packet that the slot takes up again. -/
theorem witness_QueueSteps_more : (sQu (aQueue 1)).queuesLive 2 = false ∧ ({ sQu (aQueue 1) with subject := queueIndex 2 2 } : State).subject / 4096 = 2 ∧
    (((sQu (aQueue 0)).takeEnqs.openQueue kQ).queueAt kQ).state = 0 ∧ (((sQu (aQueue 1)).takeEnqs.openQueue kQ).queueAt kQ).state = 1 ∧
    ({ sQu (aQueue 2) with feFree := 0 } : State).feFree = 0 ∧ (admitted (sQu (aQueue 1))).isNone = true ∧ ((sQu (aQueue 1)).queueAt kQ).state ≠ 2 ∧
    ((sQu (aQueue 2 (some { begun := some 0 }))).queueAt kQ).cur = some { begun := some 0 } ∧
    ((sQu (aQueue 2 (some {}))).queueAt kQ).cur = some {} ∧ ({} : Packet).begun = none ∧ (sQu (aQueue 2 (some {}))).evicting = false ∧
    (({ sQu (aQueue 2) with evict := { phase := 2 } } : State).evicting) = true := by decide +kernel
/-- A WAIT on the word at 0x40 (USER comparison 0: equal), whose word reads 0; an eviction in progress. -/
def waitsFor (v : Nat) : State := sPk { words := [2, 0x40, v, 0, 0, 0, 0, 0], begun := some 0 }
theorem witness_PacketSteps_more : (aPacket 1).begun = some 0 ∧ (sPk (aPacket 1)).cyc ≠ 0 ∧ ({ sPk (aPacket 1) with cyc := 0 } : State).cyc = 0 ∧
    (waitsFor 0).attached (.queue kQ) = false ∧ (waitsFor 0).evicting = false ∧
    (match (waitsFor 0).readVirt (kQ / 4096) 0x40 8 0 3 (.queue kQ) with
      | (.ok _, d, _) => d.all (fun b => !b.2) && condMet 0 (((wordsOf (d.map fun b => b.1)).head?).getD 0) 0
      | _ => false) = true ∧ ({ waitsFor 0 with evict := { phase := 2 } } : State).evicting = true ∧
    ((waitsFor 0).queueAt kQ).state = 3 ∧ ({ sPk (aPacket 5) true with evict := { phase := 2 } } : State).evict.queue ≠ kQ := by decide +kernel
/-- The root node of a context record, at 0x40000, maps context column 0, where it has no window. -/
def wideCtx : State := (((sCtx 0).store 0x10030 8 0x40000).store 0x40000 8 (2 ^ 32 + 0xFFFF * 2 ^ 48)).store 0x40010 8 1
theorem witness_ContextSteps_more : ((wideCtx.readContext 2).toOption.map fun v => wideCtx.windowsFit 2 v) = some false ∧
    (({ wideCtx.setCtx 2 { state := 3 } with subject := 2 } : State).readContext 2).toOption.map
      (fun v => ({ wideCtx.setCtx 2 { state := 3 } with subject := 2 } : State).windowsFit 2 v) = some false ∧
    ((sCtx 3).readContext 2).toOption.map (fun v => (sCtx 3).windowsFit 2 v) = some true ∧
    ((sCtx 3).store 0x10000 8 0).readContext 2 = .error 3 ∧ (sCtx 5).ctxBusy = [] := by decide +kernel
theorem witness_PageAndHandleSteps_tile : let j : Job := { aJob with moving := true, wrote := true }
    (sJob j).jobOf 1 5 = some j ∧ jobServed (sJob j) j ((sJob j).entry 1 5) = true ∧ (sJob j).unitReached (relayUnit 0) 2 = true ∧
    ({ sJob j with async := [{ src := 3, unit := relayUnit 0, key := towerBase, bytes := [0] }] } : State).unitReached (relayUnit 0) 2 = false ∧
    ({ sJob j with async := [{ src := 3, unit := relayUnit 0, key := towerBase, bytes := [0] }] } : State).jobOf 1 5 = some j ∧
    (let t : State := { sJob { aJob with moving := true } with moves := [⟨1, 0, 1, 0, 0, false, true⟩] }
     jobServed t { aJob with moving := true } (t.entry 1 5) = false ∧ t.jobOf 1 5 = some { aJob with moving := true }) := by decide +kernel

/-! ### Witnesses: host, link, ports, collectives, eviction, health, platform -/

def sLink (st : Nat) : State := { at_ .x with link := { state := st, word1 := 0, word2 := 1 } }
theorem witness_HostAndLinkSteps : (sLink 0).link.state = 0 ∧ (sLink 1).link.state = 1 ∧ 2 ≤ (sLink 2).link.state ∧
    (sLink 2).hostRefused 0x1000 = false ∧ (sLink 2).hostQuarantined 0x1000 = false ∧ 0x1000 + 8 ≤ hbmBytes ∧
    (sLink 2).hostRefused (hbmBytes - 1) = false ∧ (sLink 2).hostQuarantined (hbmBytes - 1) = false ∧ hbmBytes - 1 + 1 ≤ hbmBytes ∧
    (sLink 4).hostRefused 0x1000 = true ∧ (let t : State := { sPage 1 with link := { state := 2 } }
      2 ≤ t.link.state ∧ t.hostRefused (7 * 65536) = false ∧ t.hostQuarantined (7 * 65536) = true) ∧ Memory.wf (sLink 2).mem = true ∧
    (sLink 2).link.word2 < 2 ^ 30 ∧ ((sLink 2).groups.filter fun g => g.2.ctx == (sLink 2).link.word2 % 2 ^ 16 && g.2.node == (sLink 2).link.word2 / 2 ^ 16 % 2 ^ 12 &&
      g.2.num == (sLink 2).link.word1 % 2 ^ 48 && (g.2.audit.bind Audit.replayOf).isNone && g.2.state != .retired && g.2.state != .purged) =
      [(1, { ctx := 1, state := .running, col := 0, slot := 0 })] ∧
    (let t : State := { sLink 1 with cyc := 2 ^ 50 }
     t.link.state = 1 ∧ t.link.since + t.linkLimit ≤ t.cyc) ∧ (sLink 3).link.state = 3 := by decide +kernel

/-- Port 0 as given; `selPort` is 0. -/
def sPt (v : FPort) : State := (at_ .x).setPort 0 v
def aFlit (crc : Bool) (n kind dst : Nat) : Flit :=
  let f : Flit := { kind := kind, seqno := n, src := 1, dst := dst, last := true, body := [], crc := 0 }
  { f with crc := if crc then flitSum f else flitSum f + 1 }
/-- CRC-32 of IEEE 802.3 of the digits 1 to 9 is 0xCBF4_3926, its published check value. -/
theorem test_crc32 : crc32 [0x31, 0x32, 0x33, 0x34, 0x35, 0x36, 0x37, 0x38, 0x39] = 0xCBF43926 := by decide +kernel
theorem witness_FabricSteps : ((sPt {}).portAt (sPt {}).selPort).state = 0 ∧ (sPt { state := 2, lambda := 384 }).portUp 0 = true ∧
    ((sPt { state := 1 }).portAt 0).state = 1 ∧ (let t : State := { sPt { state := 1 } with cyc := 2 ^ 50 }
      (t.portAt 0).since + t.linkLimit ≤ t.cyc) ∧ 97 ≤ ((sPt { state := 2, lambda := 97 }).portAt 0).lambda ∧ (sPt { state := 2, lambda := 97 }).portUp 0 = true ∧
    ((sPt { state := 3, lambda := 96 }).portAt 0).lambda ≤ 96 ∧ (sPt { state := 3, lambda := 96 }).portUp 0 = true ∧
    (sPt { state := 4 }).portEmpty 0 = true ∧ flitGood (aFlit false 0 1 5) = false ∧ flitGood (aFlit true 3 1 5) = true ∧ flitGood (aFlit true 0 4 5) = true ∧ (aFlit true 3 1 5).seqno ≠ ((sPt { state := 2 }).portAt 0).rxSeq ∧
    (aFlit true 0 4 5).kind < 5 ∧ (aFlit true 0 4 5).seqno = ((sPt { state := 2 }).portAt 0).rxSeq ∧ (aFlit true 0 4 5).dst ≠ (sPt { state := 2 }).pkg ∧
    (let v : FPort := { state := 2, replay := [aFlit true 7 0 1], failSeq := some 7, fails := 14 }
     (sPt v).portUp 0 = true ∧ v.replay.any (fun f => f.seqno == 7) = true ∧ v.fails < 15) ∧
    (let v : FPort := { state := 2, replay := [aFlit true 7 0 1], failSeq := some 7, fails := 15 }
     (sPt v).portUp 0 = true ∧ v.replay.any (fun f => f.seqno == 7) = true ∧ v.failSeq = some 7 ∧ 15 ≤ v.fails) ∧
    (0 : Nat) % 512 = (sPt {}).pkg := by decide +kernel

/-- Communicator 0 of context 1 has two local ranks and this package alone; the descriptor at 0x40 contributes four I32 as rank `r`. -/
def sColl (r : Nat) : State :=
  let s := at_ .a
  ((((((s.store (s.commAt 0) 8 (2 ^ 48 + 2 ^ 32 + 2 * 2 ^ 16 + 1)).store (s.commAt 0 + 8) 8 0x50000).store (towerBase + 0x40) 8 (8 + r * 2 ^ 16)).store
    (towerBase + 0x48) 8 (2 ^ 63 + 0x400)).store (towerBase + 0x50) 8 (2 ^ 63 + 0x800)).store (towerBase + 0x58) 8 4)
/-- The contribution of engine A of slot 0, as accepted. -/
def coll0 (r : Nat) : Contribution :=
  { comm := 0, inst := 0, rank := r, ctx := 1, at_ := tk .a, gid := some 1, num := 2, list := [0], op := 0, fmt := 8, count := 4, src := 2 ^ 63 + 0x400,
    elems := [1, 2, 3, 4], desc := 0x40, dst := 2 ^ 63 + 0x800 }
/-- What `COLLGO` reads of the descriptor: the contribution, whether it differs from rank 0's, and whether its results fit. -/
def collSeen (s : State) : Option (Nat × Nat × Bool × Option Bool) :=
  let x0 : Contribution := { comm := 0, inst := 0, rank := 0, ctx := 1, at_ := tk .a, gid := (s.groupOf (tk .a).sk).map fun g => g.1, desc := 0x40, reading := true,
                             first := s.nextId }
  (s.readColl x0 (towerBase + 0x40)).bind fun x => (s.readComm 1 x.comm).map fun c =>
    let y : Contribution := { x with num := c.1, list := c.2, inst := s.nextInst x.comm x.rank }
    (x.rank, c.1, s.collDiffers y,
      (EA.parse (s.readElems y).1.dst).map fun e => (s.readElems y).2.collFits 1 e ((s.readElems y).1.count * collWidth (s.readElems y).1.fmt))
def badColl : State := { sColl 1 with colls := [{ coll0 0 with count := 5 }] }
def readyColl : State := { sColl 0 with colls := [coll0 0, coll0 1] }
theorem witness_CollectiveAndEvictionSteps : (sColl 0).ctxOf (tk .a) = 1 ∧ (sColl 0).collTower 1 (2 ^ 26 * 300) = none ∧
    ([0, 1, 2].all fun n => (sColl n).bitErrs == []) = true ∧ (sColl 0).checkRead (towerBase + 0x40) 64 = sColl 0 ∧ (sColl 0).collTower 1 0x40 = some (towerBase + 0x40) ∧ (sColl 0).collTower 1 (0x40 + 63) = some (towerBase + 0x7F) ∧
    (let t := (sColl 0).setPoison (towerBase + 0x48) true
     (List.range 8).find? (fun n => t.poisoned (towerBase + 0x40 + 8 * n)) = some 1) ∧
    (∀ n < 8, (sColl 0).poisoned (towerBase + 0x40 + 8 * n) = false) ∧ (sColl 0).commPoison 0 = none := by decide +kernel
theorem witness_CollectiveAndEvictionSteps_instances :
    collSeen (sColl 2) = some (2, 2, false, some true) ∧ collSeen badColl = some (1, 2, true, some true) ∧ collSeen (sColl 1) = some (1, 2, false, some true) ∧
    readyColl.instReady 0 0 = true ∧ readyColl.instColls 0 0 = [coll0 0, coll0 1] ∧ readyColl.collHeld 1 = false ∧
    (readyColl.collTargets [coll0 0, coll0 1] []).1.toOption.isSome = true ∧ (sColl 0).instReady 0 0 = false := by decide +kernel
def sEv (p : Nat) : State := { at_ .x with evict := { phase := p } }
theorem witness_CollectiveAndEvictionSteps_evict : (sEv 2).evict.phase = 2 ∧ (sEv 1).evict.phase = 1 ∧ (sEv 3).evict.phase = 3 ∧
    ({ (at_ .x).setCtx 1 { state := 3 } with evict := { phase := 2, fwDone := true } } : State).quiesced = true ∧
    (sEv 4).routesDrained = true ∧ (sEv 4).subject < 2 ∧ (sEv 0).evict.phase = 0 ∧ 5 ≤ (sEv 5).evict.phase := by decide +kernel

/-- Group 1 is audited; group 2 is its replay, with signature `sig`. -/
def audited (sig : Nat) (since : Nat := 0) : State :=
  { at_ .x with groups := [(1, { g1 .retired with audit := some { logSlot := 0, sig := 5, since := since } }),
                           (2, { g1 .retired with col := 1, audit := some { logSlot := 0, sig := sig, replayOf := some 1 } })] }
/-- Column 64 has a window for the auditor's context, 0. -/
def replayable : State := (audited 5).setCol 64 { ctl := [(0x121, BitVec.ofNat 64 (2 ^ 63 + 512 * 2 ^ 16))] }
def replay1 (s : State) : Option (Nat × Nat × Nat) := (s.groups.get? 1).bind s.replayColumn
/-- The same, where the column also has a trap area. -/
def opened : State := replayable.setCol 64 ((replayable.colAt 64).setCtl 0x137 (BitVec.ofNat 64 (2 ^ 13)))
theorem witness_HealthSteps : replayable.colOpen 64 0 = false ∧ (replay1 opened).map (fun x => x.1) = some 64 ∧ opened.colOpen 64 0 = true ∧
    bitsAt (opened.devr 0x186) 15 0 = 0 ∧ replay1 (audited 5) = none ∧ (audited 5).cyc < 0 + 2 ^ 20 ∧
    0 + 2 ^ 20 ≤ ({ audited 5 with cyc := 2 ^ 20 } : State).cyc ∧ (replay1 replayable).map (fun x => x.1) = some 64 ∧
    ((audited 6).groups.get? 2).bind (fun v => v.audit) = some { logSlot := 0, sig := 6, replayOf := some 1 } ∧
    ((audited 6).groups.get? 1).bind (fun v => v.audit) = some { logSlot := 0, sig := 5 } ∧
    (((at_ .x).setCol 9 { state := 3 }).colAt 9).state = 3 ∧ (((at_ .x).setCol 9 { state := 4 }).colAt 9).state = 4 ∧
    (((at_ .x).setCol 9 { state := 4 }).freeSpares (9 / 64)).contains (64 + 0) = true ∧ (at_ .x).remapping = none ∧ (9 * 2 ^ 12 : Nat) / 2 ^ 12 % 256 = 9 ∧
    ({ at_ .x with remapping := some (9, 1) } : State).remapping = some (9, 1) ∧
    (let t := (at_ .x).setDev 0x188 (BitVec.ofNat 64 (100 * 2 ^ 32))
     99 < bitsAt (t.devr 0x188) 47 32 ∧ bitsAt (t.devr 0x188) 47 32 ≤ (t.ages.getD 0 (0xFFFF, 0xFFFF)).1 ∧ bitsAt (t.devr 0x188) 47 32 ≤ 100) := by decide +kernel

def sQd (st : Nat) (rail : Bool := true) : State := (at_ .x).setQuad 1 { state := st, rail := rail }
theorem witness_PowerSteps : (at_ .x).siteCol 3 = some 3 ∧ bitsAt ((at_ .x).devr 0x195) 39 32 ≤ 255 ∧
    bitsAt (((at_ .x).colAt 3).ctlr 0x110) 4 4 = 0 ∧ (at_ .x).subject = 0 ∧
    ({ at_ .x with heats := [(12, 255)] } : State).capMode = 1 ∧ ({ at_ .x with opCap := 3 } : State).capMode = 2 ∧
    bitsAt ((at_ .x).devr 0x195) 47 40 ≤ 255 ∧ (at_ .x).subject ≠ 1 ∧ ({ at_ .x with subject := 1 } : State).subject = 1 ∧
    [0, 1, 2, 3, 4, 5].map (fun n => ((sQd n).quadAt 1).state) = [0, 1, 2, 3, 4, 5] ∧ (sQd 1).quadOcc 1 = 0 ∧ (at_ .x).quadOcc 0 ≠ 0 ∧
    (sQd 2).quadIdle 1 = true ∧ (sQd 3).quadDue 1 3 = true ∧ (sQd 5).quadDue 1 5 = true ∧ ((sQd 5).quadAt 1).rail = true := by decide +kernel

theorem witness_DeviceSteps : (sQ .a).queuesBusy (slotKey 0 0) = true ∧ (at_ .x).queuesBusy (slotKey 0 0) = false ∧
    State.qmapBad (BitVec.ofNat 64 (0x00112233 % 2 ^ 32)) = true ∧ State.qmapBad (((at_ .x).slotAt 0).ctlr 0x012) = false ∧
    (at_ .x).attesting = none ∧ (at_ .x).subject ≠ 1 ∧ 0x88 ≤ 0x88 ∧ 65535 < 65536 ∧ 0x87 < 0x88 := by decide +kernel

/-- The bytes of a list, listed under the offsets from `k` on. -/
def listed (l : List Nat) (k : Nat) : Map Nat := (l.zipIdx k).map fun x => (x.2, x.1)
theorem listed_get (l : List Nat) (k i : Nat) : Map.get? (listed l k) (k + i) = l[i]? := by
  induction l generalizing k i with
  | nil => rfl
  | cons a t ih =>
    cases i with
    | zero => simp [listed, List.zipIdx_cons, Map.get?]
    | succ i =>
      have h := ih (k + 1) i
      rw [show k + 1 + i = k + (i + 1) by omega] at h
      simpa [listed, List.zipIdx_cons, Map.get?] using h
/-- An identity store in order, and an empty image with its signature (R486, R494). -/
def idHead : List Nat := [0x44, 0x49, 0x59, 0x4B] ++ List.replicate 36 0 ++ identityKey
def sId : State := { at_ .x with identity := listed (idHead ++ signature 0 idHead) 0 }
theorem idHead_length : idHead.length = 72 := by simp [idHead, identityKey]
theorem sId_byte (i : Nat) : sId.idByte i = ((idHead ++ signature 0 idHead)[i]?).getD (factoryByte i) := by
  have h := listed_get (idHead ++ signature 0 idHead) 0 i
  rw [Nat.zero_add] at h
  simp only [State.idByte, sId, h]
theorem sId_bytes (n m : Nat) (l : List Nat) (h : l.length = m) (e : ∀ i < m, (idHead ++ signature 0 idHead)[n + i]? = l[i]?) : sId.idBytes n m = l := by
  apply List.ext_getElem?
  intro i
  simp only [State.idBytes, List.getElem?_map]
  rcases Nat.lt_or_ge i m with hi | hi
  · rw [List.getElem?_range hi]
    simp only [Option.map_some, sId_byte, e i hi]
    simp [List.getElem?_eq_getElem (h ▸ hi : i < l.length)]
  · rw [List.getElem?_eq_none (by simpa using hi), List.getElem?_eq_none (by omega)]; rfl
theorem sId_head : sId.idBytes 0 72 = idHead :=
  sId_bytes _ _ _ idHead_length fun i hi => by rw [Nat.zero_add, List.getElem?_append_left (by rw [idHead_length]; exact hi)]
theorem sId_magic : leOf (sId.idBytes 0 4) 4 = 0x4B594944 := by
  have h4 : sId.idBytes 0 4 = [0x44, 0x49, 0x59, 0x4B] := sId_bytes _ _ _ rfl fun i hi => by
    rw [Nat.zero_add, List.getElem?_append_left (by rw [idHead_length]; omega), idHead, List.append_assoc, List.getElem?_append_left (by simpa using hi)]
  rw [h4]; decide +kernel
theorem sId_key : sId.idBytes 0x28 32 = identityKey := sId_bytes _ _ _ (by simp [identityKey]) fun i hi => by
  rw [List.getElem?_append_left (by rw [idHead_length]; omega), idHead, List.getElem?_append_right (by simp)]; simp
theorem sId_signature : sId.idBytes 0x48 64 = signature 0 idHead := sId_bytes _ _ _ (by simp only [signature, List.length_map, List.length_range]) fun i _ => by
  rw [List.getElem?_append_right (by rw [idHead_length]; omega), idHead_length, Nat.add_sub_cancel_left]
theorem sId_signed : sId.idBytes 0x48 64 = signature 0 (sId.idBytes 0 0x48) := sId_signature.trans (congrArg (signature 0) sId_head.symm)
theorem bringUp_works (s : State) (l : List Nat) (h1 : leOf (s.idBytes 0 4) 4 = 0x4B594944) (h2 : s.idBytes 0x48 64 = signature 0 (s.idBytes 0 0x48))
    (h3 : s.idBytes 0x28 32 = identityKey)
    (h4 : ¬(l.length < 64 ∨ 2 ^ 20 < l.length ∨ l.drop (l.length - 64) ≠ signature 1 (l.take (l.length - 64)))) : s.bringUpStop l = 0 := by
  unfold State.bringUpStop
  rw [if_neg (fun h => h.elim (fun a => a h1) (fun h => h.elim (fun a => a h2) (fun a => a h3))), if_neg h4]
theorem witness_DeviceSteps_bringUp : sId.bringUpStop (signature 1 []) = 0 := by
  have hl : (signature 1 []).length = 64 := by simp only [signature, List.length_map, List.length_range]
  exact bringUp_works _ _ sId_magic sId_signed sId_key (by rw [hl]; simp)
theorem bringUp_empty (s : State) : 1 < s.bringUpStop [] := by
  unfold State.bringUpStop
  dsimp only
  split
  · decide
  · rw [if_pos (Or.inl (by decide))]; decide
theorem witness_DeviceSteps_stuck : State.reset.bringUpStop [] ≠ 0 := Nat.ne_of_gt (Nat.lt_trans Nat.zero_lt_one (bringUp_empty _))

/-! ### Witnesses: the machine as a whole -/

/-- The next step runs ADDI s5 := s0 + 7 on engine A. -/
def sStep : State := State.reset.withFetchWord 96 ((encodeWord (.addi q0 (fB 5 0 0 0 7))).getD 0)
theorem witness_StepRunsTheDecodedWord : dueNow sStep false = none ∧ sStep.chosen = true ∧ sStep.picked.head? = some (tk .a) ∧ sStep.canIssue (tk .a) = true ∧
    (sStep.engAt (tk .a).ek).codeMiss = none ∧ (sStep.engAt (tk .a).ek).badSel = false ∧
    decode ((Memory.readBytes sStep.mem (codeKey (tk .a).sk ((sStep.engAt (tk .a).ek).wordOff (sStep.engAt (tk .a).ek).idx)) 12).map BitVec.toNat) =
      .ok (.addi q0 (fB 5 0 0 0 7), []) ∧
    illegalHere (sStep.engAt (tk .a).ek) (.addi q0 (fB 5 0 0 0 7)) = false ∧
    (Instr.form (.addi q0 (fB 5 0 0 0 7))).map (fun w => w.engines.contains (tk .a).eng) = some true := by decide +kernel
def sDue (l : List Due) (slots : Map Slot := []) : State := { sStep with picked := [], agenda := l, slots := slots }
theorem witness_StepRunsTheDecodedWord_events : (dueNow (sDue [⟨0, 20, .scrubComplete, 0⟩]) false).isSome = true ∧
    dueNow (sDue [⟨0, 700, .sectionRetire 0 0 .a, 0⟩]) false = none ∧ (dueNow (sDue [⟨0, 700, .sectionRetire 0 0 .a, 0⟩]) true).isSome = true ∧
    dueNow (sDue []) false = none ∧ dueNow (sDue []) true = none ∧ (sDue []).chosen = true ∧ (sDue []).picked = [] := by decide +kernel
theorem witness_StepRunsTheDecodedWord_ends : watch (sDue []) = none ∧
    (let t : State := { sQd 2 with chosen := true }
     dueNow t false = none ∧ t.picked = [] ∧ dueNow t true = none ∧ watch t = some (.quadDrainComplete 1)) := by decide +kernel
theorem witness_DecodeAndEncodeAgree : (Instr.addi q0 (fB 63 1 0 0 (2 ^ 40))).wf = true ∧
    (encodeWord (.addi q0 (fB 63 1 0 0 (2 ^ 40)))).isSome = true ∧ (decodeWord 0x00001D140000000000000003).toOption.isSome = true := by decide +kernel
theorem witness_MemoryStaysCanonical : Memory.wf sStep.mem = true ∧ (match step sStep with | .next _ => true | _ => false) = true := by decide +kernel
theorem witness_MemoryReadsWhatWasWritten : Memory.wf (Memory.write (Memory.write [] 7 3) 5 1) = true ∧ Memory.wf sStep.mem = true := by decide +kernel
theorem witness_StoresWriteOnlyTheirBytes : Memory.wf ({ at_ .a with stores := [wentOut] } : State).mem = true ∧
    (⟨3, 8, [1, 2], false, 0⟩ : WPiece).nib = 0 ∧ (1 : Nat) < (⟨3, 8, [1, 2], false, 0⟩ : WPiece).bytes.length ∧
    (match execStoreReachPort 0 3 { at_ .a with stores := [wentOut] } with | .next _ => true | _ => false) = true ∧
    (match execWriteQueueDrain 0 (sQueue [towerBase / 64]) with | .next _ => true | _ => false) = true := by decide +kernel
theorem witness_IssueFrame : ((scalarDone (at_ .a) 3 5).writes.all fun w => !w.reg.contains (.s 4)) = true ∧
    ((at_ .a).engAt (at_ .a).cur.ek).loopStrides q0 = [] ∧
    (((scalarDone (at_ .a) 3 5).st.groupOf (at_ .a).cur.sk).bind fun g => g.2.audit) = none := by decide +kernel
/-- One loop level is open with s7's stride 16 at its iteration `i` of 3, and a return address waits. -/
def sSel (i : Nat) : State := (at_ .d).setE { (at_ .d).e with levels := [{ lvl := 2, head := 5, count := 3, iter := i, desig := [(7, 16)] }], rets := [4, 9] }
theorem witness_SelectorsAndResults : ((sSel 0).engAt (sSel 0).cur.ek).loopStrides { q0 with sel := .endloop } = [(7, 16)] ∧
    ((sSel 0).engAt (sSel 0).cur.ek).rets = [4] ++ [9] ∧ (0 : Nat) + 1 < 3 ∧ (3 : Nat) ≤ 2 + 1 ∧ ((sSel 2).engAt (sSel 2).cur.ek).levels.length = 1 ∧
    ((sSel 0).engAt (sSel 0).cur.ek).sec = .running ∧ 7 ∉ (((sSel 0).engAt (sSel 0).cur.ek).loopStrides q0).map (fun x => x.1) := by decide +kernel
theorem witness_TakingAFault : (⟨0, 4, .a⟩ : Stream).fw = true ∧ (tk .a).fw = false ∧ ((at_ .a).slotAt (tk .a).sk).stop = none ∧
    (at_ .a).groupOf (tk .a).sk = some (1, { ctx := 1, state := .running, col := 0, slot := 0 }) ∧
    ((after (.trap q0 (fF 0 0 0 3 0)) (at_ .a)).slotAt (tk .a).sk).stop ≠ none ∧ Memory.wf (at_ .a).mem = true ∧
    (at_ .a).laterFault (tk .d).sk .d = false ∧
    (let t := after (.trap q0 (fF 0 0 0 3 0)) (at_ .d)
     t.laterFault (tk .a).sk .a = true ∧ (t.groupOf (tk .a).sk).isSome = true ∧ (t.slotAt (tk .d).sk).stop ≠ none ∧ t.laterFault (tk .d).sk .d = false) ∧
    farNamed ((at_ .a).recordAddr (tk .a)) = true ∧ farNamed ((at_ .a).recordAddr (tk .a) + 511) = true := by decide +kernel

/-- R228, R229, R233, R470: a read of a word with a single-bit error corrects it and posts event 0x01; an uncorrectable error poisons the word, posts 0x02, and as
the first of its row asks for a copy with cause 0. -/
theorem test_ecc : let s (e : Nat) : State := ({ at_ .a with bitErrs := [(towerBase, e)] } : State).checkRead (towerBase + 4) 4
    (s 1).hevents.map HEvent.code = [0x01] ∧ (s 1).poisoned towerBase = false ∧ ((s 1).towerAt 0).spareReqs = [] ∧ (s 1).bitErrs = [] ∧
    (s 2).hevents.map HEvent.code = [0x02] ∧ (s 2).poisoned towerBase = true ∧ ((s 2).towerAt 0).spareReqs = [⟨0, 0, 0⟩] ∧ (s 2).bitErrs = [] := by decide +kernel

/-! ### Witnesses: the further clauses -/

/-- VCVT of F32 to the lower half of v8, which holds BF16 elements and keeps the others. -/
def sKeep : State := withV sV 8 [] 2
theorem witness_ConversionAndReductionWords_keep : goes sKeep = true ∧ cvtDecode (.vcvt q0 (fV 8 5 0 1 0 2 0 8)) (fV 8 5 0 1 0 2 0 8) sKeep = none ∧
    lanesOk sKeep [⟨5, 1, 0⟩, ⟨8, 2, 3⟩] 0 8 (some 2) [5, 8] (sKeep.sl.kreg 0) = true ∧ enabledElems 32 (sV.sl.kreg 0) (sV.sl.vreg 1) ≠ [] ∧
    enabledElems 32 0 (sV.sl.vreg 1) = [] ∧ lanesOk sV [⟨1, 8, 0⟩] 0 0 none [1] 0 = true := by decide +kernel

/-- The same group in strict mode, where every row is closed. -/
def strictOf (s : State) : State :=
  let t : State := { s with groups := s.groups.put 1 strictGroup }
  t.setSl (t.sl.setCtl 0x120 (BitVec.ofNat 64 (2 ^ 63)))
theorem witness_ScalarTowerWords_nst : towerRange (sA .a) a40 1 = .ok (towerBase + 0x40) ∧ (towerRange (sA .a) ⟨0, 0, 2 ^ 22, 0⟩ 1).toOption = none := by
  decide +kernel
theorem witness_VectorTowerWords_strict : goes (strictOf (sA .a)) = true ∧ strictMode (strictOf (sA .a)) = true ∧
    ((laneRange (strictOf (sA .a)) a40).toOption.bind fun l => l.find? fun x => (strictOf (sA .a)).rowClosed x.2.2).isSome = true ∧
    ((laneRange (strictOf (sA .a)) a40).toOption.map fun l => l.all fun x => (strictOf (sA .a)).served 0 x.2.2) = some true ∧
    (strictOf (sA .a)).sl.writerOf 4 = 0 ∧ ((strictOf (sA .a)).sl.queue 4).hasRoom 4 0 = true ∧
    (laneRange (sA .a) ⟨0, 0, 2 ^ 22 - 1, 0⟩).toOption = none ∧ (sA .a).loadCount (sA .a).cur < 16 ∧
    (let t := { held4 8 with cur := tk .d }.setEng (tk .d).ek tEng
     t.storeCount t.cur < 16 ∧ t.markOf [0] = none ∧ (laneRange t ⟨0, 0, 2 ^ 22 - 1, 0⟩).toOption = none ∧
     ((laneRange t a40).toOption.map fun l => l.all fun x => t.served 0 x.2.2) = some true) := by decide +kernel
/-- Column 1, whose quad serves accesses, or is off. -/
def toEast : TAddr := ⟨1, 0, 0x40, 2 ^ 26 + 0x40⟩
def sEast (st : Nat) : State :=
  let s := (sA .a).setCol 1 (((sA .a).colAt 1).setCtl 0x121 ((sA .a).twin 0 0))
  s.setQuad 0 { state := st }
theorem witness_RowWords_east : goes (sEast 0) = true ∧ toEast.col ≠ (sEast 0).cur.col ∧ (towerRange (sEast 0) toEast 1).toOption.isSome = true ∧
    (sEast 0).quadServes 1 = true ∧ goes (sEast 4) = true ∧ (towerRange (sEast 4) toEast 1).toOption.isSome = true ∧ (sEast 4).quadServes 1 = false ∧
    (towerRange (sA .a) ⟨0, 0, 2 ^ 22, 0⟩ 1).toOption = none := by decide +kernel
theorem witness_PortWords_more : strictMode (strictOf (sA .a)) = true ∧ (strictOf (sA .a)).rowClosed (towerBase + 0x40) = true ∧
    goes (strictOf (sA .a)) = true ∧ relWaits (strictOf (sA .a)) (fC 9 1 3 2 1) = false ∧ towerRange (strictOf (sA .a)) a40 8 = .ok (towerBase + 0x40) ∧
    (strictOf (sA .a)).served 0 (towerBase + 0x40) = true ∧ towerRange (sA .a) ⟨0, 0, 0x44, 0⟩ 8 = .ok (towerBase + 0x44) ∧
    (sA .a).served 0 (towerBase + 0x44) = true ∧ 0x44 % 8 ≠ 0 ∧ towerRange (sA .a) ⟨0, 0, 0x42, 0⟩ 4 = .ok (towerBase + 0x42) ∧
    (sA .a).served 0 (towerBase + 0x42) = true ∧ 0x42 % 4 ≠ 0 ∧ slotWindow (sA .a) 0 5 = true ∧ slotWindow (sA .a) 0 63 = false ∧
    a40.off % 8 = 0 ∧ a40.off % 4 = 0 ∧ (sA .a).markOf [1, 2] = none := by decide +kernel
theorem witness_BarrierWords_off : (sA .a).served 0 (towerBase + 0x48) = true ∧ (sA .a).markOf [3, 2] = none ∧ relWaits (sA .a) (fC 9 3 0 2 0) = false := by
  decide +kernel

/-- The template of entry 5 at 0x40, with a reserved bit set, or as an illegal descriptor. -/
def hFlight (i : Instr) (n : Nat) (pend : Pend) (words : List Nat := []) : Flight :=
  { id := n, at_ := tk .a, secno := 0, issued := 0, ins := i, lat := 4, pend := pend,
    pieces := words.zipIdx.map fun w => { lane := w.2, key := towerBase + 0x40 + 8 * w.2, prog := 0x40 + 8 * w.2, size := 8, done := true, got := w.1 } }
def sEnds (s : State) (f : Flight) : State := { s with flights := [f], nextId := 5 }
def hdefEnds (words : List Nat) (n : Nat := 6) : Flight := hFlight (.hdef q0 (fG 1 6 2 0 0)) 0 (.handle [n]) words
def freeWords : List Nat := (tileDesc 0 false).words
/-- What the clauses on the end of a handle word ask of a state besides. -/
def endOk (s : State) (f : Flight) : Bool :=
  s.flight f.id == some f && (s.colAt 0).products.isEmpty && (s.colAt 0).converts.isEmpty && !handleBefore s f
theorem witness_HandleWords_hdef : endOk (sEnds (sH .a 1) (hdefEnds freeWords)) (hdefEnds freeWords) = true ∧
    (hdefEnds freeWords).pieces.map Piece.got = freeWords ∧ (hdefEnds freeWords).pieces.findSome? Piece.mark = none ∧
    ((sH .a 1).entry 1 6).state = 0 ∧ templateReserved freeWords = none ∧ (Desc.ofWords freeWords).illegal = false ∧
    (sH .a 1).regionFits 1 (Desc.ofWords freeWords).lay none = true ∧ templateReserved (freeWords.set 0 1) = some 0 ∧
    templateReserved (List.replicate 8 0) = none ∧ (Desc.ofWords (List.replicate 8 0)).illegal = true ∧ (tk .a).fw = false ∧
    ({ hdefEnds freeWords with pieces := [⟨0, 0, 0, 8, 0, true, 0, some 7⟩] } : Flight).pieces.findSome? Piece.mark = some 7 ∧
    ((sH .a 1).entry 1 5).state ≠ 0 := by decide +kernel
theorem witness_HandleWords_hdef_faults : (sH .a 1).markOf [8, 2] = none ∧ ((sH .a 1).sv 8).toNat % 64 ≠ 0 ∧
    (withS (sH .a 1) [(11, BitVec.ofNat 64 (2 ^ 26 * 300))]).towerAddr (BitVec.ofNat 64 (2 ^ 26 * 300)) true 0 = .error (BitVec.ofNat 64 0xB0000000) ∧
    (2 ^ 26 * 300 : Nat) % 64 = 0 ∧ (towerRange (sH .a 1) ⟨0, 0, 2 ^ 22, 0⟩ 64).toOption = none ∧
    strictMode (strictOf (sH .a 1)) = true ∧ (strictOf (sH .a 1)).rowClosed (towerBase + 0x40) = true ∧ goes (strictOf (sH .a 1)) = true := by
  decide +kernel
/-- RELAY of entry 5 to a row-major layout of 8 by 8 tiles at `base`, with its map at 0x2000 and no barrier, in word 3's form `lw`. -/
def relayEnds (base map : Nat) (lw : Nat := 8 * 256 + 8 * 2 ^ 16) (m : Nat := 0) : Flight :=
  hFlight (.relay q0 (fG 1 5 2 3 0)) 0 (.handle [m, base, lw, map])
theorem witness_HandleWords_relay : endOk (sEnds (sH .a 1) (relayEnds 0x1000 0x2000)) (relayEnds 0x1000 0x2000) = true ∧
    (sH .a 1).boundEntry (tk .a) 5 = some 5 ∧ ((sH .a 1).entry 1 5).state = 1 ∧ ((sH .a 0).entry 1 5).state = 0 ∧
    (8 * 256 + 8 * 2 ^ 16 : Nat) / 2 ^ 24 = 0 ∧ (8 * 256 + 8 * 2 ^ 16 : Nat) / 16 % 16 = 0 ∧
    (let d := (sH .a 1).entry 1 5
     let l := { d.lay with tag := 0, space := 0, base := 0x1000, th := 8, tw := 8 }
     let n := { d with lay := l.dense d.ndim }
     n.lay.s1 < 2 ^ 32 ∧ n.lay.s2 < 2 ^ 32 ∧ n.lay.s3 < 2 ^ 32 ∧ { n with lay := { n.lay with base := 0x1000 / 64 * 64 } }.illegal = false ∧
     (sH .a 1).regionFits 1 n.lay (some 0) = true ∧ (sH .a 1).inWindow 1 0 (0x2000 % 2 ^ 22) (ceilDiv n.tiles 4) (some 0) = true ∧
     d.lay.space = 0 ∧ ((sH .a 1).physCol 1 d.lay.col).map (· / 64) = some 0) ∧ (0x1000 : Nat) % 64 = 0 ∧ (0x2000 : Nat) % 8 = 0 ∧
    (0x1008 : Nat) % 64 ≠ 0 ∧ (0x2004 : Nat) % 8 ≠ 0 ∧ endOk (sEnds (sH .a 1) (relayEnds 0x1008 0x2000)) (relayEnds 0x1008 0x2000) = true ∧
    ((relayEnds 0 0 0 8).pend = .handle (8 :: [0, 0, 0])) ∧ (sH .a 1).boundEntry (tk .a) 6 = none := by decide +kernel
theorem witness_HandleWords_hclose : let f := hFlight (.hclose q0 (fG 0 5 0 0 1)) 0 (.handle [])
    endOk (sEnds (sH .a 1) f) f = true ∧ ((sH .a 2).entry 1 5).state = 2 ∧ ((sH .a 4).entry 1 5).state = 4 ∧ ((sH .a 3 true).entry 1 5).state = 3 ∧
    endOk (sEnds (sH .a 2) f) f = true ∧ endOk (sEnds (sH .a 4) f) f = true := by decide +kernel

theorem witness_ElementWords_bounds : ((named (sH .a 1) false true).toOption.map fun l => (l.all fun x => x.parts.all fun p => (sH .a 1).served p.2.1.col p.2.2.1) &&
      !l.any ElemAcc.wait) = some true ∧ goes sHst = true ∧ sHst.storeCount sHst.cur < 16 ∧ sHst.sl.readerOf 4 ≠ engCode sHst.cur.eng ∧
    ((sHst.sl.queue 6).front sHst.cyc) = some (.v { tag := 8 }) ∧ (8 : Nat) = (sHst.entry 1 5).fmt ∧
    (let t := sHst.setSl (sHst.sl.setQueue 6 { held := [(0, .v { tag := 1 })] })
     goes t = true ∧ (t.sl.queue 6).front t.cyc = some (.v { tag := 1 }) ∧ t.boundEntry t.cur 5 = some 5 ∧ (1 : Nat) ≠ (t.entry 1 5).fmt) ∧
    (let t := (sH .a 1).setEntry 1 5 { tileDesc 1 false with lay := { (tileDesc 1 false).lay with base := 2 ^ 22 - 64 + 2 ^ 23 } }.words
     goes t = true ∧ t.boundEntry t.cur 5 = some 5 ∧ t.markOf [0, 0, 0, 0] = none) ∧ (sH .a 1).boundEntry (sH .a 1).cur 6 = none ∧
    ((sH .a 4).entry 1 5).state = 4 ∧ goes (sH .a 4) = true ∧ (sH .x 1).sl.writerOf 4 ≠ engCode (sH .x 1).cur.eng ∧ goes (sH .x 1) = true := by decide +kernel

theorem witness_PacketAndGroupWords_enq : (sP 0 0).markOf [3] = none ∧ (sP 0 0).towerAddr ((sP 0 0).sv 3) true 0 = .ok ⟨0, 0, 0x48, 0⟩ ∧
    towerRange (sP 0 0) ⟨0, 0, 0x48, 0⟩ 64 = .ok (towerBase + 0x48) ∧ 0x48 % 64 ≠ 0 ∧
    (towerRange (sP 0 0) ⟨0, 0, 2 ^ 22 - 64, 0⟩ 64).toOption.isSome = true ∧ (towerRange (sP 0 0) ⟨0, 0, 2 ^ 22, 0⟩ 64).toOption = none ∧
    (sA .a).readDesc (queueIndex 1 2) = none ∧ ((sA .a).queueAt (queueIndex 1 2)).state = 0 ∧
    ((sP 0 0).towerAddr (BitVec.ofNat 64 (2 ^ 26 * 300)) true 0).toOption = none ∧ slotWaiters (sA .a) 0 = [] ∧
    (sA .a).cur.fw = false ∧ goes atFw = true ∧ atFw.cur.fw = true ∧ atFw.markOf [1, 2] = none := by decide +kernel

/-- A load whose second piece is due later; an HLD of one element through bitmap words; a shared pop; earlier work of the same engine. -/
def twoPieces : Flight := { onePiece with pieces := onePiece.pieces ++ [⟨1, towerBase + 0x48, 0x48, 8, 9, false, 0, none⟩] }
def spotted : Flight := { onePiece with ins := .hld q0 (fG 9 5 0 0 0), pend := .elemS 9 32 0 false, spots := [⟨0, 32, 0, 0, 0, 0, 0x800, 0x840⟩] }
def popFlight (sub : Nat) : Flight := { loading with at_ := tk .x, ins := .cspop q0 { fA 9 0 0 sub with fmt := 8 }, pend := .port 0x40 [8] }
/-- The state of a shared ring operation as the stream finds it, with the outcome of its checks: 0 a fault, 1 poison, 2 none. -/
def ringEnd (s : State) (n : Nat) (push : Bool) : Option Nat :=
  match ringCheck s (tk .x) 0x40 8 (if push then 3 else 0) with
  | .error _ => some 0
  | .ok (_, ring, d) => if (ringPoison s 0x40 ring d (if push then d.tail else d.head) n).isSome then some 1 else some 2
def popping (sub n : Nat) : State := { ringed n with flights := [popFlight sub] }
theorem witness_FlightSteps_spots : (inFlight twoPieces).flight 0 = some twoPieces ∧
    (twoPieces.pieces.map fun p => p.isDue 0) = [true, false] ∧ (twoPieces.pieces.all fun p => !p.isDue 0 || (inFlight twoPieces).mayPerform twoPieces p) = true ∧
    (inFlight spotted).flight 0 = some spotted ∧ isBarrierWord spotted.ins = false ∧ spotted.spots ≠ [] ∧
    (spotted.pieces.map fun p => (if p.isDue 0 then (inFlight spotted).perform spotted p else p).done) = [true] ∧
    (spotted.pieces.all fun p => !p.isDue 0 || (inFlight spotted).mayPerform spotted p) = true := by decide +kernel
theorem witness_FlightSteps_shared : (let t : State := { ringed 0 with flights := [{ pushFlight with id := 1 }], stores := [{ id := 0, by_ := tk .x, op := .mark, pieces := [] }] }
     ringWaits t { pushFlight with id := 1 } 0x40 = true ∧ t.flight 1 = some { pushFlight with id := 1 }) ∧
    (let t : State := { ringed 0 with flights := [{ pushFlight with id := 1 }], stores := [{ id := 0, by_ := tk .x, op := .write, pieces := [⟨2, towerBase + 2 ^ 22, [1], false, 0⟩] }] }
     ringWaits t { pushFlight with id := 1 } 0x40 = false ∧ t.writesBefore (tk .x) 1 = true ∧ t.flight 1 = some { pushFlight with id := 1 }) ∧
    (ringed 0).writesBefore (tk .x) 0 = false ∧ ringEnd (ringed 0) 1 true = some 2 ∧ ringEnd ((ringed 0).store (towerBase + 0x4D) 1 1) 1 true = some 0 ∧
    ringEnd ((ringed 0).setPoison (towerBase + 0x400) true) 1 true = some 1 ∧ (popping 4 3).flight 0 = some (popFlight 4) ∧
    ringWaits (popping 4 3) (popFlight 4) 0x40 = false ∧ popCountOf { fA 9 0 0 4 with fmt := 8 } 3 = some 3 ∧ popCountOf { fA 9 0 0 0 with fmt := 8 } 3 = none ∧
    popCountOf { fA 9 0 0 8 with fmt := 8 } 3 = none ∧ ringEnd (popping 4 3) 3 false = some 2 ∧ ringEnd ((popping 4 3).setPoison (towerBase + 0x400) true) 3 false = some 1 ∧
    ringEnd ((popping 4 3).store (towerBase + 0x4D) 1 1) 3 false = some 0 := by decide +kernel

/-- A far AATOM, whose word stands in this package's memory; a port without room. -/
def cmdFar : Command := { cmdA with dest := 0x10000 }
def sFar : State := paged (sCh cmdFar) (2 ^ 30)
def cmdFull : State := (sCh cmdB).setSlot (tk .d).sk { (sCh cmdB).slotAt (tk .d).sk with ports := [(0, { held := List.replicate 4 {} })] }
theorem witness_ChannelSteps_more : (match aatomRun ((sCh cmdA).setCommand chC cmdA) chC cmdA with | (.ok none, _) => true | _ => false) = true ∧
    sFar.chanCommand chC = some cmdFar ∧ (match aatomRun (sFar.setCommand chC cmdFar) chC cmdFar with | (.ok (some _), _) => true | _ => false) = true ∧
    cmdFull.chanCommand chC = some cmdB ∧ portRoom cmdFull cmdB = false ∧ portRoom (sCh cmdB) cmdB = true ∧
    (let t : State := { sE with pages := { open_ := [{ id := 3, seqno := 1, ctx := 1, vpage := 2, who := [.chan chC] }] } }
     t.pages.open_.any (fun p => p.id == 3 && p.who.contains (.chan chC)) = true ∧ t.unitReached (State.chanKey chC) 5 = true) := by decide +kernel

theorem witness_LaunchSteps_region : (sL (aLaunch .launched)).regionPoison ((sL (aLaunch .launched)).ctxAt 1)
    (nbits (((sL (aLaunch .launched)).nodeWords 1 2).getD 1 0) 63 48 + 1) (nbits (((sL (aLaunch .launched)).nodeWords 1 2).getD 1 0) 63 48) = none := by decide +kernel
theorem witness_PacketSteps_evict : (let t : State := { sPk (aPacket 3 0x40) with evict := { phase := 2, queue := 7 } }
     t.evicting = true ∧ kQ ≠ t.evict.queue ∧ (t.queueAt kQ).cur = some (aPacket 3 0x40)) ∧
    (let t : State := { sPk (aPacket 5) true with evict := { phase := 2, queue := kQ } }
     t.evicting = true ∧ kQ = t.evict.queue ∧ (t.queueAt kQ).cur = some (aPacket 5)) := by decide +kernel
theorem witness_ContextSteps_image : ((sCtx 2).ctxAt 2).imaged = 0 ∧ ((sCtx 2).imageParts 2).drop 0 = [] := by decide +kernel
theorem witness_PageAndHandleSteps_more : ((sRec 0).reachable (bitsAt ((sRec 0).devr 0x160) 51 12 * 4096)) = true ∧
    (((sRec 0).setDev 0x160 (BitVec.ofNat 64 (2 ^ 51))).reachable (bitsAt (((sRec 0).setDev 0x160 (BitVec.ofNat 64 (2 ^ 51))).devr 0x160) 51 12 * 4096)) = false ∧
    ((sJob aJob).jobs.any fun o => o.pier == 0 && o.moving) = false ∧
    (({ sJob aJob with jobs := [aJob, { aJob with entry := 6, moving := true }] } : State).jobs.any fun o => o.pier == 0 && o.moving) = true ∧
    ({ sJob aJob with jobs := [aJob, { aJob with entry := 6, moving := true }] } : State).jobOf 1 5 = some aJob := by decide +kernel

/-- Words 1 and 2 of a message for group 0 of node 0 of context 1, as the port hands them on; the link with requests held. -/
def sMsg : State := { at_ .x with subject := 1 * 2 ^ 64 + 0 }
theorem witness_HostAndLinkSteps_more : sMsg.subject / 2 ^ 64 < 2 ^ 30 ∧
    (sMsg.groups.filter fun g => g.2.ctx == sMsg.subject / 2 ^ 64 % 2 ^ 16 && g.2.node == sMsg.subject / 2 ^ 64 / 2 ^ 16 % 2 ^ 12 &&
      g.2.num == sMsg.subject % 2 ^ 48 && (g.2.audit.bind Audit.replayOf).isNone && g.2.state != .retired && g.2.state != .purged) =
      [(1, { ctx := 1, state := .running, col := 0, slot := 0 })] ∧ (sLink 0).tripped = false ∧ (sLink 0).stuckAt = 0 ∧
    (sLink 4).linkQuiet = true ∧ ({ sLink 4 with irqWaits := [(1, [])] } : State).linkQuiet = false ∧
    ({ sLink 1 with link := { state := 1, held := [.hostRead 0 8] } } : State).link.held ≠ [] := by decide +kernel
/-- COLLGO: the communicator's table is reached; a far table of another package with no route is not; a poisoned table; a table that names another context. -/
def readAt (s : State) : Option Contribution :=
  s.readColl { comm := 0, inst := 0, rank := 0, ctx := 1, at_ := tk .a, gid := (s.groupOf (tk .a).sk).map fun g => g.1, desc := 0x40, reading := true, first := s.nextId }
    (towerBase + 0x40)
theorem witness_CollectiveAndEvictionSteps_collgo : ((sColl 1).commReach 0).1 = .ok 327680 ∧ ((sColl 1).commReach 0).2 = sColl 1 ∧
    readAt ((sColl 0).store (towerBase + 0x58) 8 0) = none ∧ (readAt (sColl 1)).isSome = true ∧ ((sColl 1).setPoison ((sColl 1).commAt 0) true).commPoison 0 ≠ none ∧
    (((sColl 1).store ((sColl 1).commAt 0) 1 2).readComm 1 0) = none ∧ (sColl 1).subject ≠ 1 ∧
    (let t := (sColl 1).store (towerBase + 0x50) 8 (2 ^ 63 + 2 ^ 22 - 4)
     collSeen t = some (1, 2, false, some false)) ∧
    (let t := { (sColl 1).store ((sColl 1).commAt 0 + 8) 8 (2 ^ 51) with hostWaits := [(.coll 0, 0, 2 ^ 51)], cyc := 2 ^ 40 }
     (t.commReach 0).1 = .refused) := by decide +kernel
theorem witness_PowerSteps_more : (at_ .x).pointHeld 15 = false ∧ (at_ .x).pointHeld 0 = true ∧
    bitsAt ((at_ .x).devr 0x195) 39 32 < bitsAt ((at_ .x).devr 0x195) 47 40 := by decide +kernel
theorem witness_DeviceSteps_stops : (at_ .x).subject = 0 ∧ 1 < (at_ .x).bringUpStop [] ∧ ({ at_ .x with subject := 1 } : State).subject = 1 :=
  ⟨rfl, bringUp_empty _, rfl⟩
end Sys2Proof.Tests
end

section
/-! PROOFS. Memory as a function of its addresses (R3): what a read sees of a cell list, canonical memories are equal when their reads are, and
numbers lie in memory with the least significant byte first. -/

namespace Sys2Proof.Machine

namespace Memory

@[simp] theorem read_cons_self (j : Nat) (b : Byte) (t : Memory) : read ((j, b) :: t) j = b := by simp [read]

theorem read_cons_of_lt {k j : Nat} (b : Byte) (t : Memory) (h : k < j) : read ((j, b) :: t) k = 0 := by
  simp [read, h, Nat.ne_of_gt h]

theorem read_cons_of_gt {k j : Nat} (b : Byte) (t : Memory) (h : j < k) : read ((j, b) :: t) k = read t k := by
  simp [read, Nat.ne_of_lt h, Nat.lt_asymm h]

theorem read_write {m : Memory} (k j : Nat) (b : Byte) (h : wf m = true) : read (write m k b) j = if j = k then b else read m j := by
  split
  · next hj => subst hj; exact read_write_same j b h
  · next hj => exact read_write_ne k j b h hj

/-- The first key of a cell list is the lowest that does not read zero, so a list with the same reads does not begin above it. -/
theorem head_key_le_of_read_eq {i j : Nat} {b c : Byte} {t u : Memory} (hb : b ≠ 0) (h : ∀ k, read ((i, b) :: t) k = read ((j, c) :: u) k) :
    j ≤ i := by
  by_contra hij
  have hi := h i
  rw [read_cons_self, read_cons_of_lt c u (Nat.lt_of_not_le hij)] at hi
  exact hb hi

/-- The canonical form is unique: with the first keys equal, the floor that `wfFrom` puts under each tail makes the tails read the same. -/
theorem eq_of_read_eq {m n : Memory} {lo hi : Option Nat} (hm : wfFrom m lo = true) (hn : wfFrom n hi = true)
    (h : ∀ k, read m k = read n k) : m = n := by
  induction m generalizing n lo hi with
  | nil =>
    cases n with
    | nil => rfl
    | cons d u =>
      obtain ⟨-, hc, -⟩ := (wfFrom_cons ..).1 hn
      exact absurd ((read_cons_self d.1 d.2 u).symm.trans (h d.1).symm) hc
  | cons a t ih =>
    obtain ⟨i, b⟩ := a
    obtain ⟨-, hb, ht⟩ := (wfFrom_cons ..).1 hm
    cases n with
    | nil => exact absurd ((read_cons_self i b t).symm.trans (h i)) hb
    | cons d u =>
      obtain ⟨j, c⟩ := d
      obtain ⟨-, hc, hu⟩ := (wfFrom_cons ..).1 hn
      obtain rfl : i = j := Nat.le_antisymm (head_key_le_of_read_eq hc fun k => (h k).symm) (head_key_le_of_read_eq hb h)
      have hbc : b = c := by simpa using h i
      have htu : ∀ k, read t k = read u k := fun k => by
        rcases Nat.lt_or_ge i k with hk | hk
        · simpa [read_cons_of_gt _ _ hk] using h k
        · rw [read_below ht hk, read_below hu hk]
      rw [hbc, ih ht hu htu]

theorem readBytes_writeBytes {m : Memory} (k : Nat) (l : List Byte) (h : wf m = true) : readBytes (writeBytes m k l) k l.length = l := by
  induction l generalizing m k with
  | nil => rfl
  | cons b t ih =>
    have hw := wf_write k b h
    have hhead : read (writeBytes (write m k b) (k + 1) t) k = b := by
      rw [read_writeBytes_ne _ _ _ hw (by omega), read_write_same k b h]
    simp [readBytes, writeBytes, hhead, ih (k + 1) hw]

end Memory

@[simp] theorem length_leBytes (n v : Nat) : (leBytes n v).length = n := by
  induction n generalizing v with
  | zero => rfl
  | succ n ih => simp [leBytes, ih]

/-- Byte `j` of a number is its `j`th digit to base 256. -/
theorem getElem_leBytes (n v j : Nat) (h : j < (leBytes n v).length) : (leBytes n v)[j] = BitVec.ofNat 8 (v / 2 ^ (8 * j)) := by
  induction n generalizing v j with
  | zero => simp at h
  | succ n ih =>
    cases j with
    | zero => simp [leBytes]
    | succ j =>
      have hv : v / 256 / 2 ^ (8 * j) = v / 2 ^ (8 * (j + 1)) := by
        rw [Nat.div_div_eq_div_mul, show 8 * (j + 1) = 8 + 8 * j by omega, Nat.pow_add]
      simp [leBytes, ih, hv]

/-- The bytes of a number give the number back, as far as they reach. -/
theorem leNat_leBytes (n v : Nat) : leNat (leBytes n v) = v % 2 ^ (8 * n) := by
  induction n generalizing v with
  | zero => simp [leBytes, leNat, Nat.mod_one]
  | succ n ih =>
    calc leNat (leBytes (n + 1) v) = v % 256 + 256 * (v / 256 % 2 ^ (8 * n)) := by simp [leBytes, leNat, ih]
      _ = v % (256 * 2 ^ (8 * n)) := Nat.mod_mul.symm
      _ = v % 2 ^ (8 * (n + 1)) := by rw [show 8 * (n + 1) = 8 + 8 * n by omega, Nat.pow_add]

theorem load_store_same {s : State} (k n v : Nat) (h : s.MemOk) : (s.store k n v).load k n = v % 2 ^ (8 * n) := by
  have hrun := Memory.readBytes_writeBytes k (leBytes n v) h
  rw [length_leBytes] at hrun
  rw [State.load, State.store_mem, hrun, leNat_leBytes]

/-- R3: the least significant byte lies at the lowest address. -/
theorem read_store_at {s : State} (k n v j : Nat) (h : s.MemOk) (hj : j < n) :
    (Memory.read (s.store k n v).mem (k + j)).toNat = v / 2 ^ (8 * j) % 256 := by
  rw [State.store_mem, Memory.read_writeBytes_at k j _ h (by simpa using hj), getElem_leBytes]
  exact BitVec.toNat_ofNat ..

theorem read_store_ne {s : State} (k n v j : Nat) (h : s.MemOk) (hj : j < k ∨ k + n ≤ j) :
    Memory.read (s.store k n v).mem j = Memory.read s.mem j :=
  Memory.read_writeBytes_ne k j _ h (by simpa using hj)

/-- Settles O56, from the laws of one write, the canonical form's uniqueness (`Memory.eq_of_read_eq`) and the little-endian digits of a store. -/
theorem memoryReadsWhatWasWritten : Obligations.MemoryReadsWhatWasWritten :=
  ⟨fun _ k j b h => ⟨Memory.wf_write k b h, Memory.read_write k j b h⟩,
   fun _ _ hm hn h => Memory.eq_of_read_eq hm hn h,
   fun _ k n v h => ⟨load_store_same k n v h, memOk_store k n v h, fun j hj => read_store_at k n v j h hj,
     fun j hj => read_store_ne k n v j h hj⟩⟩

end Sys2Proof.Machine
end

section
/-! PROOFS. What reset leaves: the device's tables are empty, so each accessor gives the default of its unit, and each control register the value
of its table. -/

namespace Sys2Proof.Machine

@[simp] theorem slotAt_reset (k : Nat) : State.reset.slotAt k = {} := rfl
@[simp] theorem engAt_reset (k : Nat) : State.reset.engAt k = {} := rfl
@[simp] theorem colAt_reset (c : Nat) : State.reset.colAt c = {} := rfl

/-- A register that nothing has written holds its table's value. -/
@[simp] theorem Slot.ctlr_default (c : Nat) : ({} : Slot).ctlr c = ctlReset c := rfl
@[simp] theorem Column.ctlr_default (c : Nat) : ({} : Column).ctlr c = ctlReset c := rfl
@[simp] theorem devr_reset (n : Nat) : State.reset.devr n = ctlReset n := rfl

@[simp] theorem Engine.sreg_default (n : Nat) : ({} : Engine).sreg n = {} := by
  unfold Engine.sreg
  split <;> rfl

/-- R90: of the mask registers only k0 is not empty. -/
theorem Slot.kreg_default (n : Nat) : ({} : Slot).kreg n = if n = 0 then BitVec.allOnes 256 else 0 := rfl

/-- Settles O55, from what each accessor gives where its unit is not listed, and the values of `ctlReset`. -/
theorem resetState : Obligations.ResetState := by
  refine ⟨memOk_reset, rfl, rfl, rfl, rfl, rfl, rfl, fun k => ?slot, fun c => ?column, devr_reset 0x140, devr_reset 0x141, devr_reset 0x142,
    fun k n => ?engine, fun k => ?mask, fun _ => rfl⟩
  case slot => simp [ctlReset]
  case column => simp [ctlReset]
  case engine => simp
  case mask => rw [slotAt_reset]; exact Slot.kreg_default

end Sys2Proof.Machine
end

section
/-! PROOFS. The device's own writes: registers whose writes act at the end of the cycle (R50, R96, R209, R321), attestation (R495, R496), the
identity store (R486) and bring-up (R497). -/

namespace Sys2Proof.Machine

/-! ### Registers whose writes act at the end of the cycle -/

/-- A generator's seed fits its lane. -/
theorem seedLane_lt {seed : Nat} (l : Nat) (h : seed < 2 ^ 32) : seedLane seed l < 2 ^ 32 := by
  unfold seedLane
  dsimp only
  split
  · omega
  · exact Nat.xor_lt_two_pow h (Nat.mod_lt _ (by decide))

/-- Generators whose values fit a lane are read back as they were set. -/
theorem Slot.genList_setGens (l : Slot) {g : List Nat} (hne : g ≠ []) (hlt : ∀ x ∈ g, x < 2 ^ 32) : (l.setGens g).genList = g := by
  have hgens : (g.map (BitVec.ofNat 32)).map BitVec.toNat = g := by
    rw [List.map_map]
    exact (List.map_congr_left fun x hx => by simpa using Nat.mod_eq_of_lt (hlt x hx)).trans (List.map_id g)
  simp [Slot.genList, Slot.setGens, hne, hgens]

@[simp] theorem Slot.setGens_ctlr (l : Slot) (g : List Nat) (c : Nat) : (l.setGens g).ctlr c = l.ctlr c := rfl

/-- Clearing the sums of a window changes towers and nothing else. -/
theorem clearSums_only (s : State) (col win : Nat) : ∃ w, s.clearSums col win = { s with towers := w } := by
  unfold State.clearSums
  refine List.foldlRecOn (motive := fun t : State => ∃ w, t = { s with towers := w }) _ _ ⟨s.towers, rfl⟩ ?_
  rintro _ ⟨w, rfl⟩ a -
  dsimp only
  split
  · exact ⟨_, rfl⟩
  · exact ⟨w, rfl⟩

@[simp] theorem clearSums_colAt (s : State) (col win c : Nat) : (s.clearSums col win).colAt c = s.colAt c := by
  obtain ⟨w, e⟩ := clearSums_only s col win
  rw [e]
  rfl

@[simp] theorem clearSums_mem (s : State) (col win : Nat) : (s.clearSums col win).mem = s.mem := by
  obtain ⟨w, e⟩ := clearSums_only s col win
  rw [e]

/-- R50: a write of RNGSEED sets the register and seeds the generator of every lane. -/
theorem exec_rngseedWrite_seeds (s : State) (col slot value : Nat) : ∃ t, exec (.rngseedWrite col slot value) s = .next t ∧
    (t.slotAt (slotKey col slot)).ctlr 0x002 = BitVec.ofNat 64 (value % 2 ^ 32) ∧
    (t.slotAt (slotKey col slot)).genList = (List.range 256).map (seedLane (value % 2 ^ 32)) := by
  have hseed : ∀ x ∈ (List.range 256).map (seedLane (value % 2 ^ 32)), x < 2 ^ 32 := by
    intro x hx
    obtain ⟨l, -, rfl⟩ := List.mem_map.1 hx
    exact seedLane_lt l (Nat.mod_lt _ (by decide))
  refine ⟨_, rfl, ?_, ?_⟩
  · rw [State.slotAt_setSlot_same, Slot.setGens_ctlr, Slot.ctlr_setCtl_same]
  · rw [State.slotAt_setSlot_same, Slot.genList_setGens _ (by simp) hseed]

/-- R96: a write of QMAP that is not refused sets the register. -/
theorem exec_qmapWrite_sets {s : State} {col slot value : Nat} (hq : s.queuesBusy (slotKey col slot) = false)
    (hv : State.qmapBad (BitVec.ofNat 64 (value % 2 ^ 32)) = false) : ∃ t, exec (.qmapWrite col slot value) s = .next t ∧
      (t.slotAt (slotKey col slot)).ctlr 0x012 = BitVec.ofNat 64 (value % 2 ^ 32) := by
  refine ⟨_, rfl, ?_⟩
  rw [hq, hv, if_neg (by decide), State.slotAt_setSlot_same, Slot.ctlr_setCtl_same]

/-- R96: a write of QMAP while a queue is busy, or of a value that R96 forbids, changes nothing. -/
theorem exec_qmapWrite_refused {s : State} {col slot value : Nat}
    (h : s.queuesBusy (slotKey col slot) = true ∨ State.qmapBad (BitVec.ofNat 64 (value % 2 ^ 32)) = true) :
    exec (.qmapWrite col slot value) s = .next s :=
  congrArg Host.Outcome.next (if_pos (Bool.or_eq_true_iff.2 h))

/-- R209, R321: a write of a window register sets it and leaves memory. -/
theorem exec_twinWrite_sets (s : State) (col win value : Nat) : ∃ t, exec (.twinWrite col win value) s = .next t ∧
    (t.colAt col).ctlr (0x121 + win % 4) = BitVec.ofNat 64 value ∧ t.mem = s.mem := by
  refine ⟨_, rfl, ?_, ?_⟩
  · rw [clearSums_colAt, State.colAt_setCol_same, Column.ctlr_setCtl_same]
  · rw [clearSums_mem, State.setCol_mem]

/-! ### Attestation -/

/-- An attestation of either kind begins: the device notes its address and puts its end, the step `ev`, on the agenda (R495). -/
def State.attestBegun (s : State) (addr : Nat) (ev : Instr) : State :=
  { s.freeNat.2 with attesting := some addr }.due (s.cyc + 1 + s.freeNat.1) 20 ev 1

/-- An attestation that has begun is in progress, and ends in a later cycle. -/
theorem attestBegun_pending (s : State) (addr : Nat) (ev : Instr) : (s.attestBegun addr ev).attesting = some addr ∧
    ∃ d ∈ (s.attestBegun addr ev).agenda, s.cyc < d.at_ ∧ d.ev = ev ∧ d.arg = 1 := by
  refine ⟨rfl, ⟨s.cyc + 1 + s.freeNat.1, 20, ev, 1⟩, ?_, ?_, rfl, rfl⟩
  · simp [State.attestBegun]
  · show s.cyc < s.cyc + 1 + s.freeNat.1
    omega

/-- R495: with no attestation in progress, ATTEST with REMAP = 0 begins one. -/
theorem exec_attestReport_begins {s : State} (addr : Nat) (ha : s.attesting = none) (hs : s.subject ≠ 1) :
    exec (.attestReport addr) s = .next (s.attestBegun addr (.attestReport addr)) := by
  show execAttestReport addr s = _
  rw [execAttestReport, if_neg hs, if_neg (by simp [ha])]
  rfl

/-- R496: with no attestation in progress, ATTEST with REMAP = 1 begins one. -/
theorem exec_attestRemap_begins {s : State} (addr : Nat) (ha : s.attesting = none) (hs : s.subject ≠ 1) :
    exec (.attestRemap addr) s = .next (s.attestBegun addr (.attestRemap addr)) := by
  show execAttestRemap addr s = _
  rw [execAttestRemap, if_neg hs, if_neg (by simp [ha])]
  rfl

/-- Far bytes written leave the attestation in progress as it is. -/
@[simp] theorem farBytes_attesting (s : State) (pa : Nat) (l : List Nat) : (s.farBytes pa l).attesting = s.attesting := by
  unfold State.farBytes
  refine List.foldlRecOn (motive := fun t : State => t.attesting = s.attesting) _ _ rfl fun t ht b _ => ?_
  obtain ⟨m, p, e, h, c, x, hstore⟩ := farStore_only t (pa + b.2) 1 b.1
  rw [hstore]
  exact ht

/-- R495: the report is written and the attestation over. -/
theorem exec_attestReport_ends {s : State} (addr : Nat) (hs : s.subject = 1) :
    ∃ t, exec (.attestReport addr) s = .next t ∧ t.attesting = none :=
  ⟨_, if_pos hs, farBytes_attesting ..⟩

/-- R496: the remap area is signed and the attestation over. -/
theorem exec_attestRemap_ends {s : State} (addr : Nat) (hs : s.subject = 1) :
    ∃ t, exec (.attestRemap addr) s = .next t ∧ t.attesting = none :=
  ⟨_, if_pos hs, farBytes_attesting ..⟩

/-! ### The identity store -/

/-- A write of one byte reaches only the part of the store from 0x88 on (R486; log 104). -/
theorem exec_identityStoreWrite_byte (s : State) (offset b : Nat) : exec (.identityStoreWrite offset [b]) s =
    .next { s with identity := if 0x88 ≤ offset ∧ offset < 65536 then s.identity.put offset (b % 256) else s.identity } := rfl

theorem exec_identityStoreWrite_writes (s : State) {offset : Nat} (b : Nat) (hlo : 0x88 ≤ offset) (hhi : offset < 65536) :
    ∃ t, exec (.identityStoreWrite offset [b]) s = .next t ∧ t.identity.get? offset = some (b % 256) := by
  rw [exec_identityStoreWrite_byte, if_pos ⟨hlo, hhi⟩]
  exact ⟨_, rfl, Map.get?_put_same ..⟩

theorem exec_identityStoreWrite_below (s : State) {offset : Nat} (b : Nat) (h : offset < 0x88) :
    exec (.identityStoreWrite offset [b]) s = .next s := by
  rw [exec_identityStoreWrite_byte, if_neg (by omega)]

/-! ### Bring-up -/

/-- The step at which a bring-up ends, 0 where it does not fail: the earlier of the step that the store and the image give and the one that
`State.subject` names (R497). -/
def State.bringUpEnd (s : State) (image : List Nat) : Nat :=
  let a := s.bringUpStop image
  let b := if s.subject ≤ 6 then s.subject else 0
  if a = 0 ∨ (b ≠ 0 ∧ b < a) then b else a

/-- A quad whose rail bring-up has not raised. -/
def Quad.unpowered : Quad := { state := 4, rail := false, clk := false, lost := true }

/-- The device after a bring-up that failed at step `n`: no quad powered (R497). -/
def State.broughtDown (s : State) (n : Nat) : State :=
  { s.afterTrip with tripped := false, stuckAt := n, quads := (List.range 64).map fun q => (q, Quad.unpowered) }

theorem exec_bringUp_works {s : State} {image : List Nat} (h : s.bringUpEnd image = 0) : exec (.bringUp image) s = .next (s.broughtUp image) := by
  show execBringUp image s = _
  unfold State.bringUpEnd at h
  unfold execBringUp
  dsimp only at h ⊢
  rw [h]
  rfl

theorem exec_bringUp_fails {s : State} {image : List Nat} {n : Nat} (h : s.bringUpEnd image = n) (hn : n ≠ 0) :
    exec (.bringUp image) s = .next (s.broughtDown n) := by
  show execBringUp image s = _
  obtain ⟨n, rfl⟩ := Nat.exists_eq_succ_of_ne_zero hn
  unfold State.bringUpEnd at h
  unfold execBringUp
  dsimp only at h ⊢
  rw [h]
  rfl

/-- With no failure from outside, the store and the image say where bring-up ends. -/
theorem bringUpEnd_of_subject_zero {s : State} (image : List Nat) (h : s.subject = 0) : s.bringUpEnd image = s.bringUpStop image := by
  unfold State.bringUpEnd
  rw [h]
  dsimp only
  rw [if_pos (Nat.zero_le 6)]
  split
  · next hstop => exact (hstop.resolve_right fun hb => hb.1 rfl).symm
  · rfl

/-- A failure from outside counts where store and image let bring-up come to its step. -/
theorem bringUpEnd_of_subject {s : State} {image : List Nat} {n : Nat} (h1 : 1 ≤ n) (h6 : n ≤ 6) (hs : s.subject = n)
    (h : s.bringUpStop image = 0 ∨ n < s.bringUpStop image) : s.bringUpEnd image = n := by
  unfold State.bringUpEnd
  rw [hs]
  dsimp only
  rw [if_pos h6, if_pos (h.imp_right fun h => ⟨by omega, h⟩)]

/-- A table that lists a value for each of some keys gives it at those keys. -/
theorem Map.get?_map_mem {α : Type} (f : Nat → α) {l : List Nat} {k : Nat} (h : k ∈ l) : Map.get? (l.map fun j => (j, f j)) k = some (f k) := by
  induction l with
  | nil => simp at h
  | cons j l ih =>
    rw [List.map_cons, Map.get?]
    split
    · next hj => rw [hj]
    · next hj => exact ih (List.mem_of_ne_of_mem (Ne.symm hj) h)

theorem broughtDown_quadAt (s : State) (n : Nat) {q : Nat} (hq : q < 64) : (s.broughtDown n).quadAt q = Quad.unpowered := by
  rw [State.quadAt, Map.getD, State.broughtDown, Map.get?_map_mem (fun _ => Quad.unpowered) (List.mem_range.2 hq)]
  rfl

/-- Settles O49, a clause for each write, attestation and access of the identity store; bring-up by the step at which it ends. -/
theorem deviceSteps : Obligations.DeviceSteps := by
  intro s
  refine ⟨exec_rngseedWrite_seeds s, fun col slot value => ⟨exec_qmapWrite_sets, exec_qmapWrite_refused⟩, exec_twinWrite_sets s, ?begins, ?ends,
    fun offset count => ⟨_, rfl, rfl⟩, fun _ b => exec_identityStoreWrite_writes s b, fun _ b => exec_identityStoreWrite_below s b,
    fun image => ⟨?works, ?fails, ?outside⟩⟩
  case begins =>
    exact fun addr ha hs => ⟨⟨_, exec_attestReport_begins addr ha hs, attestBegun_pending ..⟩,
      ⟨_, exec_attestRemap_begins addr ha hs, attestBegun_pending ..⟩⟩
  case ends => exact fun addr hs => ⟨exec_attestReport_ends addr hs, exec_attestRemap_ends addr hs⟩
  case works => exact fun hs h => exec_bringUp_works ((bringUpEnd_of_subject_zero image hs).trans h)
  case fails =>
    refine fun hs h => ⟨_, exec_bringUp_fails (bringUpEnd_of_subject_zero image hs) h, rfl, fun q hq => ?_⟩
    rw [broughtDown_quadAt s _ hq]
    exact ⟨rfl, rfl⟩
  case outside =>
    exact fun n h1 h6 hs h => ⟨_, exec_bringUp_fails (bringUpEnd_of_subject h1 h6 hs h) (Nat.one_le_iff_ne_zero.1 h1), rfl⟩

end Sys2Proof.Machine
end

section
/-! PROOFS. The words of the control space (R91, R92, R138, R139). -/

namespace Sys2Proof.Machine

/-- A group is denied a register that only the firmware context may read, or write (R91). -/
theorem ctlDenied_of_fwOnly {s : State} {c : Nat} {wr : Bool} (hfw : s.cur.fw = false)
    (h : (if wr then fwOnlyWrite c else fwOnlyRead c) = true) : s.ctlDenied c wr = some (0x19, BitVec.ofNat 64 c) := by
  simp [State.ctlDenied, hfw, h]

/-- A value with a reserved bit set is refused, and TRAPINFO names the lowest one (R116, R139). -/
theorem ctlBad_of_reserved {s : State} {k : Stream} {c : Nat} {v : Word} (h : v.toNat &&& reservedMask c ≠ 0) :
    s.ctlBad k c v = some (BitVec.ofNat 64 (lowBit (v.toNat &&& reservedMask c))) :=
  if_pos h

/-- Without a mark among its operands a word acts as it does. -/
theorem consuming_of_unmarked {s : State} {rs : List Nat} {act : Act} (h : s.markOf rs = none) : consuming s rs act = act := by
  rw [consuming, h]

@[simp] theorem markOf_nil (s : State) : s.markOf [] = none := rfl

theorem ctlNew_of_register {s : State} {f : FmtF} (h : f.sub = 0) : s.ctlNew f = s.sv f.oa := if_pos h

/-- CTLRD gives the value at the start of the cycle (R92, R138). -/
theorem exec_ctlrd_reads {q : Seq} {f : FmtF} {s : State} (hd : s.ctlDenied f.csel false = none) (h : canGo s (.ctlrd q f) q [.s f.dst]) :
    exec (.ctlrd q f) s = issued s (.ctlrd q f) q (scalarDone s f.dst (s.atDawn.ctlRead s.cur f.csel) 2) := by
  show execCtlrd q f s = _
  refine wordIssue_go (d := scalarDone s f.dst (s.atDawn.ctlRead s.cur f.csel) 2) h rfl ?_
  simp only [hd]
  rfl

theorem exec_ctlrd_denied {q : Seq} {f : FmtF} {s : State} {c : Nat} {x : Word} (hd : s.ctlDenied f.csel false = some (c, x))
    (h : canGo s (.ctlrd q f) q [.s f.dst]) : exec (.ctlrd q f) s = faulted s c x := by
  show execCtlrd q f s = _
  refine wordIssue_fault h rfl ?_
  simp only [hd]

section Write
variable {q : Seq} {f : FmtF} {s : State} (hm : s.markOf (if f.sub = 0 then [f.oa] else []) = none)
  (h : canGo s (.ctlwr q f) q [.s f.oa])
include hm h

/-- CTLWR puts its write down for the end of the cycle (R92, R139). -/
theorem exec_ctlwr_schedules (hd : s.ctlDenied f.csel true = none) (hb : s.ctlBad s.cur f.csel (s.ctlNew f) = none)
    (hu : s.ctlMisuse s.cur f.csel (s.ctlNew f) = false) (hc : f.csel ≠ 0x17A) :
    exec (.ctlwr q f) s = issued s (.ctlwr q f) q { st := s.ctlSchedule s.cur f.csel (s.ctlNew f) } := by
  show execCtlwr q f s = _
  refine wordIssue_go (d := { st := _ }) h rfl ?_
  simp [consuming_of_unmarked hm, hd, hb, hu, hc]

theorem exec_ctlwr_denied {c : Nat} {x : Word} (hd : s.ctlDenied f.csel true = some (c, x)) : exec (.ctlwr q f) s = faulted s c x := by
  show execCtlwr q f s = _
  refine wordIssue_fault h rfl ?_
  simp only [consuming_of_unmarked hm, hd]

theorem exec_ctlwr_bad {x : Word} (hd : s.ctlDenied f.csel true = none) (hb : s.ctlBad s.cur f.csel (s.ctlNew f) = some x) :
    exec (.ctlwr q f) s = faulted s 0x02 x := by
  show execCtlwr q f s = _
  refine wordIssue_fault h rfl ?_
  simp only [consuming_of_unmarked hm, hd, hb]

end Write

/-- Settles O8: each word by what its checks find, in their order. -/
theorem controlSpaceWords : Obligations.ControlSpaceWords := by
  intro q f s
  refine ⟨exec_ctlrd_reads, fun hfw hr h => exec_ctlrd_denied (ctlDenied_of_fwOnly hfw hr) h, fun v hv h => ?writes⟩
  case writes =>
    obtain ⟨rfl, hm⟩ : v = s.ctlNew f ∧ s.markOf (if f.sub = 0 then [f.oa] else []) = none := by
      rcases hv with ⟨h0, rfl, hm⟩ | ⟨h0, rfl⟩
      · exact ⟨(ctlNew_of_register h0).symm, by rwa [if_pos h0]⟩
      · exact ⟨rfl, by rw [if_neg h0, markOf_nil]⟩
    exact ⟨exec_ctlwr_schedules hm h, fun hfw hw => exec_ctlwr_denied hm h (ctlDenied_of_fwOnly hfw hw),
      fun hd hr => exec_ctlwr_bad hm h hd (ctlBad_of_reserved hr)⟩

end Sys2Proof.Machine
end

section
/-! PROOFS. The words of the matrix lease, of the fold state and MPERTURB (R112, R202–R205). -/

namespace Sys2Proof.Machine

/-! ### What every word of the matrix unit checks at decode -/

/-- A word that may issue and that its checks at decode turn away faults. -/
theorem wordIssue_denied {i : Instr} {q : Seq} {regs : List Reg} {own : State → Act} {s : State} {dec : State → Option (Nat × Word)}
    {c : Nat} {x : Word} (h : s.canIssue s.cur = true) (hd : dec s = some (c, x)) : wordIssue i q regs own s dec = faulted s c x := by
  unfold wordIssue faulted
  simp only [h, hd, Bool.not_true, Bool.false_eq_true, if_false]

theorem exec_denied {i : Instr} {q : Seq} {regs : List Reg} {own : State → Act} {s : State} {dec : State → Option (Nat × Word)}
    {c : Nat} {x : Word} (h : s.canIssue s.cur = true) (hd : dec s = some (c, x)) (hi : exec i s = wordIssue i q regs own s dec := by rfl) :
    exec i s = faulted s c x :=
  hi.trans (wordIssue_denied h hd)

theorem leaseDec_of_held {s : State} (h : s.e.leased.getD (s.atDawn.holdsLease s.cur) = true) : leaseDec s = none := if_pos h

theorem leaseDec_of_not_held {s : State} (h : s.e.leased.getD (s.atDawn.holdsLease s.cur) = false) :
    leaseDec s = some (0x1B, s.atDawn.leaseInfo s.cur) :=
  if_neg (by simp [h])

theorem drainDec_of_leaseDec {f : FmtD} {s : State} {x : Nat × Word} (h : leaseDec s = some x) : drainDec f s = some x := by
  simp only [drainDec, h]

theorem productDec_of_leaseDec {kind : Nat} {f : FmtD} {s : State} {x : Nat × Word} (h : leaseDec s = some x) : productDec kind f s = some x := by
  simp only [productDec, h]

/-- A stamped command that its checks at decode turn away faults, whatever its stamp (R205). -/
theorem stampedWord_denied {i : Instr} {q : Seq} {kind : Nat} {f : FmtD} {s : State} {c : Nat} {x : Word} (h : s.canIssue s.cur = true)
    (hd : productDec kind f s = some (c, x)) : stampedWord i q kind f s = faulted s c x := by
  have hissued : (s.issued ++ [s.cur]).contains s.cur = true := by simp
  simp only [stampedWord, hd, wordIssue_denied h hd, faulted, faultNow, hissued, Option.isNone_some, Bool.and_false, Bool.false_and,
    Bool.false_eq_true, if_false, if_true]

/-! ### MLEASE -/

section Lease
variable {q : Seq} {f : FmtF} {s : State} (h : canGo s (.mlease q f) q [.cf])
include h

/-- A group whose region has no right to the matrix unit is refused (R112). -/
theorem exec_mlease_refused (hm : (regionOf s).matrix = false) : exec (.mlease q f) s = faulted s 0x1B (s.leaseInfo s.cur) := by
  show execMlease q f s = _
  refine wordIssue_fault h rfl ?_
  simp [hm]

variable (hm : (regionOf s).matrix = true)
include hm

/-- A free lease for which no slot waits is taken (R112, R206). -/
theorem exec_mlease_takes (hl : (s.colAt s.cur.col).lease = none) (hw : (s.colAt s.cur.col).leaseWait = []) :
    exec (.mlease q f) s = issued s (.mlease q f) q
      { st := s.grantLease s.cur.col s.cur.slot, lat := s.leaseLatency s.cur.col s.cur.slot, writes := [.cf true],
        hold := s.leaseLatency s.cur.col s.cur.slot != 1 } := by
  show execMlease q f s = _
  refine wordIssue_go (d := { st := _, lat := _, writes := _, hold := _ }) h rfl ?_
  simp [hm, hl, hw]

/-- The slot that holds the lease keeps it, whoever waits. -/
theorem exec_mlease_keeps (hl : (s.colAt s.cur.col).lease = some s.cur.slot) :
    exec (.mlease q f) s = issued s (.mlease q f) q { st := s, writes := [.cf true] } := by
  show execMlease q f s = _
  refine wordIssue_go (d := { st := _, writes := _ }) h rfl ?_
  simp [hm, hl]

/-- A try for a lease that another slot holds clears cf. -/
theorem exec_mlease_tries {n : Nat} (hl : (s.colAt s.cur.col).lease = some n) (hn : n ≠ s.cur.slot) (ht : f.sub % 2 = 1) :
    exec (.mlease q f) s = issued s (.mlease q f) q { st := s, writes := [.cf false] } := by
  show execMlease q f s = _
  refine wordIssue_go (d := { st := _, writes := _ }) h rfl ?_
  simp [hm, hl, hn, ht]

/-- A slot waits for a lease that another holds, by its region's priority (R112; log 18). -/
theorem exec_mlease_waits {n : Nat} (hl : (s.colAt s.cur.col).lease = some n) (hn : n ≠ s.cur.slot) (ht : f.sub % 2 = 0) :
    exec (.mlease q f) s = issued s (.mlease q f) q
      { st := s.setCol s.cur.col { s.colAt s.cur.col with leaseWait := (s.colAt s.cur.col).leaseWait ++ [(s.cur.slot, (regionOf s).prio)] },
        lat := 2, busy := [.cf], pend := .lease, hold := true } := by
  show execMlease q f s = _
  refine wordIssue_go (d := { st := _, lat := _, busy := _, pend := _, hold := _ }) h rfl ?_
  simp [hm, hl, hn, ht]

end Lease

/-! ### MFREE -/

section Free
variable {q : Seq} {f : FmtF} {s : State} (hd : leaseDec s = none) (h : canGo s (.mfree q f) q [])
include hd h

/-- With no matrix work of the slot left the lease is released (R202). -/
theorem exec_mfree_releases (hw : s.matrixFlights s.cur.col s.cur.slot = []) (hc : f.sub % 2 = 0) :
    exec (.mfree q f) s = issued s (.mfree q f) q { st := s.releaseLease s.cur.col } := by
  show execMfree q f s = _
  refine wordIssue_go (d := { st := _ }) h hd ?_
  simp [hw, hc]

/-- MFREE.clr clears first (R202). -/
theorem exec_mfree_clears (hw : s.matrixFlights s.cur.col s.cur.slot = []) (hc : f.sub % 2 = 1) :
    exec (.mfree q f) s = issued s (.mfree q f) q { st := s.clearMatrix s.cur.col, lat := 4480, hold := true } := by
  show execMfree q f s = _
  refine wordIssue_go (d := { st := _, lat := _, hold := _ }) h hd ?_
  simp [hw, hc]

/-- MFREE waits for the slot's matrix work (R202; log 18). -/
theorem exec_mfree_waits (hw : s.matrixFlights s.cur.col s.cur.slot ≠ []) :
    exec (.mfree q f) s = issued s (.mfree q f) q
      { st := s.due s.cyc 605 (.wordComplete s.nextId), lat := 2, pend := .matrix (s.matrixFlights s.cur.col s.cur.slot), hold := true } := by
  show execMfree q f s = _
  refine wordIssue_go (d := { st := _, lat := _, pend := _, hold := _ }) h hd ?_
  obtain ⟨n, l, hl⟩ := List.exists_cons_of_ne_nil hw
  simp only [hl]

end Free

/-! ### MFOLD -/

/-- FOLDSTAT as MFOLD reads it, with AVAIL in its low bits (R182, R203). -/
def foldRead (v : Word) : Word := BitVec.ofNat 64 (State.foldAvail v + v.toNat / 16 * 16)

theorem foldRead_toNat (v : Word) : (foldRead v).toNat = State.foldAvail v + v.toNat / 16 * 16 := by
  have hlow : State.foldAvail v ≤ 15 := Nat.sub_le _ _
  have hv : v.toNat < 2 ^ 64 := v.isLt
  rw [foldRead, BitVec.toNat_ofNat]
  omega

/-- Above AVAIL the fold state reads as it stands. -/
theorem bitsAt_foldRead (v : Word) (hi lo : Nat) (h : 4 ≤ lo) : bitsAt (foldRead v) hi lo = bitsAt v hi lo := by
  have hlow : State.foldAvail v ≤ 15 := Nat.sub_le _ _
  have hdiv (x : Nat) : x / 2 ^ lo = x / 16 / 2 ^ (lo - 4) := by
    rw [Nat.div_div_eq_div_mul, show 16 * 2 ^ (lo - 4) = 2 ^ lo by rw [show 16 = 2 ^ 4 by rfl, ← Nat.pow_add, Nat.add_sub_cancel' h]]
  rw [bitsAt, bitsAt, hdiv, hdiv v.toNat, foldRead_toNat, show (State.foldAvail v + v.toNat / 16 * 16) / 16 = v.toNat / 16 by omega]

theorem foldOut_foldRead (v : Word) : foldOut (foldRead v) = foldOut v := by
  simp only [foldOut, bitsAt_foldRead v 15 12 (by decide), bitsAt_foldRead v 11 8 (by decide), bitsAt_foldRead v 7 4 (by decide)]

theorem foldJdeg_foldRead (v : Word) : foldJdeg (foldRead v) = foldJdeg v := bitsAt_foldRead v _ _ (by decide)

/-- AVAIL names the courses that are not out. -/
theorem bitsAt_foldRead_avail (v : Word) : bitsAt (foldRead v) 3 0 = 15 - foldOut v := by
  have hlow : 15 - foldOut v ≤ 15 := Nat.sub_le _ _
  have havail : State.foldAvail v = 15 - foldOut v := rfl
  rw [bitsAt, foldRead_toNat, havail]
  omega

/-- What MFOLD gives for a product of `p` batches in a column with the fold state `v` (R203). -/
def mfoldOut (v : Word) (sub p : Nat) : Word :=
  match sub with
  | 0 => BitVec.ofNat 64 (occupancy (passPlan (foldOut v) (foldOut v) (foldJdeg v) p))
  | 1 => BitVec.ofNat 64 (occupancy (passPlan (foldOut v) 0 (foldJdeg v) p))
  | 2 => if foldUnavailable v 2 false then BitVec.allOnes 64 else BitVec.ofNat 64 (occupancy (passPlan (foldOut v) 0 (foldJdeg v) p))
  | _ => v

theorem mfoldOut_late (v : Word) (p : Nat) :
    mfoldOut (foldRead v) 0 p = BitVec.ofNat 64 (occupancy (passPlan (foldOut v) (foldOut v) (foldJdeg v) p)) := by
  rw [mfoldOut, foldOut_foldRead, foldJdeg_foldRead]

theorem mfoldOut_substituted (v : Word) (p : Nat) :
    mfoldOut (foldRead v) 1 p = BitVec.ofNat 64 (occupancy (passPlan (foldOut v) 0 (foldJdeg v) p)) := by
  rw [mfoldOut, foldOut_foldRead, foldJdeg_foldRead]

/-- Policy 2 takes no product with a course out or a joint degraded (R181). -/
theorem mfoldOut_exact (v : Word) (p : Nat) : mfoldOut (foldRead v) 2 p =
    if foldOut v ≠ 0 ∨ foldJdeg v ≠ 0 then BitVec.allOnes 64 else BitVec.ofNat 64 (occupancy (passPlan (foldOut v) 0 (foldJdeg v) p)) := by
  rw [mfoldOut, foldUnavailable, foldOut_foldRead, foldJdeg_foldRead]
  simp

/-- MFOLD reads the fold state; cf says whether every course and joint serves (R203). -/
theorem exec_mfold_reads {q : Seq} {f : FmtF} {s : State} (hd : leaseDec s = none) (hm : s.markOf (if f.sub = 3 then [] else [f.oa]) = none)
    (h : canGo s (.mfold q f) q [.s f.dst, .s f.oa, .cf]) :
    exec (.mfold q f) s = issued s (.mfold q f) q
      { st := s
        writes := [.s f.dst { val := mfoldOut (foldRead (s.foldstat s.cur.col)) f.sub (s.sv f.oa).toNat },
          .cf (foldOut (s.foldstat s.cur.col) == 0 && foldJdeg (s.foldstat s.cur.col) == 0)] } := by
  rw [← foldOut_foldRead, ← foldJdeg_foldRead]
  show execMfold q f s = _
  refine wordIssue_go (d := { st := _, writes := _ }) h hd ?_
  simp only [consuming_of_unmarked hm]
  rfl

/-! ### MPERTURB -/

section Perturb
variable {q : Seq} {g : FmtD} {s : State} (hd : leaseDec s = none) (hm : s.markOf [g.ma] = none) (h : canGo s (.mperturb q g) q [.s g.ma])
include hd hm h

/-- MPERTURB arms the slot with granule, element and addend (R204). -/
theorem exec_mperturb_arms (hr : (regionOf s).debug = true) (hp : s.replayOf s.cur = none) :
    exec (.mperturb q g) s = issued s (.mperturb q g) q
      { st := s.setSl { s.sl with perturb := some (g.acc % 32768, bitsAt (s.sv g.ma) 5 0, bitsAt (s.sv g.ma) 63 32) } } := by
  show execMperturb q g s = _
  refine wordIssue_go (d := { st := _ }) h hd ?_
  simp [consuming_of_unmarked hm, hr, hp]

/-- In a replay MPERTURB has no effect (R204). -/
theorem exec_mperturb_replay (hr : (regionOf s).debug = true) (hp : s.replayOf s.cur ≠ none) :
    exec (.mperturb q g) s = issued s (.mperturb q g) q { st := s } := by
  show execMperturb q g s = _
  refine wordIssue_go (d := { st := _ }) h hd ?_
  simp [consuming_of_unmarked hm, hr, Option.isSome_iff_ne_none.2 hp]

theorem exec_mperturb_refused (hr : (regionOf s).debug = false) : exec (.mperturb q g) s = faulted s 0x19 0x089 := by
  show execMperturb q g s = _
  refine wordIssue_fault h hd ?_
  simp [consuming_of_unmarked hm, hr]

end Perturb

/-- Settles O17: each word by the state of the lease, of the slot's work and of its region. -/
theorem leaseAndFoldWords : Obligations.LeaseAndFoldWords := by
  intro q f g h s k c held
  refine ⟨fun go => ⟨exec_mlease_refused go, exec_mlease_takes go, exec_mlease_keeps go, fun _ hm => exec_mlease_tries go hm,
    fun _ hm => exec_mlease_waits go hm⟩, fun hheld => ?holds, fun hheld hi => ?without⟩
  case holds =>
    have hd : leaseDec s = none := leaseDec_of_held hheld
    refine ⟨fun go => ⟨exec_mfree_releases hd go, exec_mfree_clears hd go, exec_mfree_waits hd go⟩, fun hm go => ?fold,
      fun hm go => ⟨exec_mperturb_arms hd hm go, exec_mperturb_replay hd hm go, exec_mperturb_refused hd hm go⟩⟩
    case fold =>
      refine ⟨_, exec_mfold_reads hd hm go, fun h0 => ?_, fun h1 => ?_, fun h2 => ?_, fun h3 => ?_⟩
      · rw [h0]
        exact mfoldOut_late ..
      · rw [h1]
        exact mfoldOut_substituted ..
      · rw [h2]
        exact mfoldOut_exact ..
      · rw [h3]
        exact ⟨bitsAt_foldRead_avail _, bitsAt_foldRead _ _ _ (by decide)⟩
  case without =>
    have hd := leaseDec_of_not_held hheld
    have hp (kind : Nat) := productDec_of_leaseDec (kind := kind) (f := g) hd
    exact ⟨exec_denied hi hd, exec_denied hi hd, exec_denied hi hd, exec_denied hi hd, exec_denied hi hd,
      exec_denied hi (drainDec_of_leaseDec hd), stampedWord_denied hi (hp 0), stampedWord_denied hi (hp 1), stampedWord_denied hi (hp 2)⟩

end Sys2Proof.Machine
end

section
/-! PROOFS. Products: their issue (R103, R104, R185–R194, R198), and the converter's rows of an MMAC (R199). -/

namespace Sys2Proof.Machine

/-- A step that is put on the agenda is there. -/
theorem exists_due (s : State) (t n : Nat) (ev : Instr) (arg : Nat) : ∃ e ∈ (s.due t n ev arg).agenda, e.at_ = t ∧ e.ev = ev :=
  ⟨⟨t, n, ev, arg⟩, List.mem_append_right _ (List.mem_singleton.2 rfl), rfl, rfl⟩

/-! ### How long a product takes -/

/-- The plan of a product keeps the array from its own cycle on for its occupancy (R185, R186). -/
theorem planProduct_free (s : State) (k : Stream) (kind : Nat) (f : FmtD) (id : Nat) :
    (planProduct s k kind f id).free = s.cyc + occupancy (planProduct s k kind f id).passes :=
  (schedule_end _ _ (passPlan_ne_nil _ _ _ _)).trans (congrArg (s.cyc + ·) (occupancy_schedule ..).symm)

/-- With no joint degraded a product starts as it is planned. -/
theorem startedProduct_free {s : State} {k : Stream} {p : Product} {a b : MOperand} {half : Nat} (h : foldJdeg (s.foldstat k.col) = 0) :
    (startedProduct s k p a b half).free = p.free := by
  simp only [startedProduct, h, Product.free, ne_eq, not_true_eq_false, if_false]

theorem startedProduct_endAt {s : State} {k : Stream} {p : Product} {a b : MOperand} {half : Nat} (h : foldJdeg (s.foldstat k.col) = 0)
    (hc : p.cut = none) : (startedProduct s k p a b half).endAt = p.free + 10 + p.extra := by
  have hcut : (startedProduct s k p a b half).cut = none := hc
  rw [Product.endAt, hcut, Option.getD_none, startedProduct_free h]
  rfl

/-- With no joint degraded the completion of a product is on the agenda at its end (R186). -/
theorem startProduct_completes {s : State} {k : Stream} {p : Product} {a b : MOperand} {half : Nat} (h : foldJdeg (s.foldstat k.col) = 0) :
    ∃ e ∈ (startProduct s k p a b half).agenda, e.at_ = (startedProduct s k p a b half).endAt ∧ e.ev = .wordComplete p.id := by
  unfold startProduct startedProduct
  simp only [h, if_false, ne_eq, not_true_eq_false]
  exact exists_due ..

/-! ### What the lateness of a product leaves -/

section Slipped
variable (s : State) (k : Stream) (t : Nat) (pinned : Bool)

@[simp] theorem slipped_cols : (productAct.slipped s k t pinned).cols = s.cols := by
  unfold productAct.slipped
  split <;> rfl

@[simp] theorem slipped_agenda : (productAct.slipped s k t pinned).agenda = s.agenda := by
  unfold productAct.slipped
  split <;> rfl

@[simp] theorem slipped_colAt (c : Nat) : (productAct.slipped s k t pinned).colAt c = s.colAt c := by
  rw [State.colAt, slipped_cols, State.colAt]

/-- The entry of the pin list has been used (R192). -/
theorem slipped_pin : ((productAct.slipped s k t pinned).engAt k.ek).pin = none := by
  unfold productAct.slipped
  split <;> simp [State.engAt]

/-- MSLIP takes what the product was late, but for a pinned one (R103, R192). -/
theorem slipped_slotAt : (productAct.slipped s k t pinned).slotAt k.sk =
    { s.slotAt k.sk with slipNow := (s.slotAt k.sk).slipNow + if pinned = true then 0 else s.cyc - t } := by
  unfold productAct.slipped
  split <;> simp [State.slotAt, *]

end Slipped

/-! ### The act of a product -/

/-- What a product does when it issues. -/
def productStart (kind : Nat) (f : FmtD) (s : State) : Done :=
  let o := mOperands s s.cur f (kind == 1)
  let p := planProduct s s.cur kind f s.nextId
  { st := productAct.slipped (startProduct s s.cur p o.1 o.2 (f.sub / 2 % 2)) s.cur (stampTarget s s.cur f) (pinnedSlot s s.cur), lat := p.latency,
    pend := .matrix [] }

/-- The product that its column then holds. -/
def issuedProduct (kind : Nat) (f : FmtD) (s : State) : Product :=
  let o := mOperands s s.cur f (kind == 1)
  startedProduct s s.cur (planProduct s s.cur kind f s.nextId) o.1 o.2 (f.sub / 2 % 2)

theorem productStart_colAt (kind : Nat) (f : FmtD) (s : State) : (productStart kind f s).st.colAt s.cur.col =
    { (s.colAt s.cur.col).setCtl 0x030 (BitVec.ofNat 64 (planProduct s s.cur kind f s.nextId).record) with
      products := (s.colAt s.cur.col).products ++ [issuedProduct kind f s], arrayFree := (issuedProduct kind f s).free } :=
  (slipped_colAt ..).trans (startProduct_effect ..).1

theorem productStart_slotAt (kind : Nat) (f : FmtD) (s : State) : (productStart kind f s).st.slotAt s.cur.sk =
    { (s.slotAt s.cur.sk).setCtl 0x112 (BitVec.ofNat 64 ((((s.slotAt s.cur.sk).ctlr 0x112).toNat + 1) % 2 ^ 32)) with
      perturb := none
      slipNow := (s.slotAt s.cur.sk).slipNow + if pinnedSlot s s.cur = true then 0 else s.cyc - stampTarget s s.cur f } := by
  obtain ⟨-, hslot, -, hcyc⟩ := startProduct_effect s s.cur (planProduct s s.cur kind f s.nextId) (mOperands s s.cur f (kind == 1)).1
    (mOperands s s.cur f (kind == 1)).2 (f.sub / 2 % 2)
  rw [productStart, slipped_slotAt, hslot, hcyc]
  rfl

theorem productStart_arrayFree {kind : Nat} {f : FmtD} {s : State} (h : foldJdeg (s.foldstat s.cur.col) = 0) :
    ((productStart kind f s).st.colAt s.cur.col).arrayFree = s.cyc + occupancy (planProduct s s.cur kind f s.nextId).passes := by
  rw [productStart_colAt]
  exact (startedProduct_free h).trans (planProduct_free ..)

theorem productStart_completes {kind : Nat} {f : FmtD} {s : State} (h : foldJdeg (s.foldstat s.cur.col) = 0) :
    ∃ e ∈ (productStart kind f s).st.agenda,
      e.at_ = s.cyc + occupancy (planProduct s s.cur kind f s.nextId).passes + (if kind = 1 then 12 else 10) ∧ e.ev = .wordComplete s.nextId := by
  obtain ⟨e, he, hat, hev⟩ := startProduct_completes (p := planProduct s s.cur kind f s.nextId) (a := (mOperands s s.cur f (kind == 1)).1)
    (b := (mOperands s s.cur f (kind == 1)).2) (half := f.sub / 2 % 2) h
  refine ⟨e, by rwa [productStart, slipped_agenda], ?_, hev⟩
  have hextra : (planProduct s s.cur kind f s.nextId).extra = if kind = 1 then 2 else 0 := rfl
  rw [hat, startedProduct_endAt h rfl, planProduct_free, hextra]
  split <;> omega

/-- R194, R206: from issue to the readers of the result. -/
theorem productStart_lat (kind : Nat) (f : FmtD) (s : State) : (productStart kind f s).lat =
    occupancy (planProduct s s.cur kind f s.nextId).passes + (if kind = 0 then 11 else if kind = 1 then 13 else
      (planProduct s s.cur kind f s.nextId).m * granulesOf (planProduct s s.cur kind f s.nextId).n + 20) := by
  rcases kind with - | - | kind
  · rfl
  · rfl
  · rfl

/-- A pinned product takes its late set from its entry of the pin list (R192). -/
theorem planProduct_late {s : State} {k : Stream} {kind : Nat} {f : FmtD} {id va late : Nat} (hp : pinnedSlot s k = true)
    (he : (s.engAt k.ek).pin = some (0, va, late)) : (planProduct s k kind f id).late = late := by
  simp [planProduct, hp, he]

/-! ### The issue of a product -/

/-- Nothing that R205 checks before the pin list speaks against a product, and of an MMAQ all four commands are there and agree (R104). -/
structure ProductChecked (kind : Nat) (f : FmtD) (s : State) : Prop where
  tags : tagMismatch s s.cur kind f = none
  due : stampTarget s s.cur f ≤ s.cyc
  ready : productReady s s.cur kind f = true
  dimA : 1 ≤ (mOperands s s.cur f (kind == 1)).1.dim
  dimA' : (mOperands s s.cur f (kind == 1)).1.dim ≤ 96
  dimB : 1 ≤ (mOperands s s.cur f (kind == 1)).2.dim
  fold : foldUnavailable (s.foldstat s.cur.col) f.fold (pinnedSlot s s.cur) = false
  clean : kind = 2 → mmacPoison s s.cur (planProduct s s.cur kind f s.nextId) (mOperands s s.cur f (kind == 1)).1
    (mOperands s s.cur f (kind == 1)).2 = none
  quad : kind = 1 → quadNotReady s s.cur f = 0 ∧ quadClash s s.cur f = none ∧ partnerFaults s s.cur f = false

section Checked
variable {kind : Nat} {f : FmtD} {s : State} (hc : ProductChecked kind f s)
include hc

theorem productFault_of_checked : productFault s s.cur kind f = none := by
  have hpoison : (if kind = 2 then mmacPoison s s.cur (planProduct s s.cur kind f s.nextId) (mOperands s s.cur f (kind == 1)).1
      (mOperands s s.cur f (kind == 1)).2 else none) = none := by
    split
    · exact hc.clean ‹_›
    · rfl
  simp only [productFault, hc.tags, Option.isSome_none, Bool.false_eq_true, if_false, hpoison, hc.fold,
    if_neg (show ¬((mOperands s s.cur f (kind == 1)).1.dim < 1 ∨ 96 < (mOperands s s.cur f (kind == 1)).1.dim) by
      have := hc.dimA; have := hc.dimA'; omega),
    if_neg (Nat.not_lt.2 hc.dimB)]

/-- Such a product waits for nothing. -/
theorem not_waits_of_checked : ¬(s.cyc < stampTarget s s.cur f ∨ (kind = 1 ∧ partnerFaults s s.cur f = true) ∨
    (!productReady s s.cur kind f) = true ∨ (kind = 1 ∧ quadNotReady s s.cur f ≠ 0)) := by
  rintro (hlt | ⟨hk, hf⟩ | hr | ⟨hk, hn⟩)
  · exact absurd hc.due (Nat.not_le.2 hlt)
  · exact absurd hf (by simp [(hc.quad hk).2.2])
  · simp [hc.ready] at hr
  · exact hn (hc.quad hk).1

/-- It issues in time, with leave to slip, or pinned (R103, R192). -/
theorem productAct_goes (ht : stampTarget s s.cur f = s.cyc ∨ f.slip = 1 ∨ pinnedSlot s s.cur = true)
    (hp : pinnedSlot s s.cur = true → ∃ va late, (s.engAt s.cur.ek).pin = some (0, va, late)) :
    productAct kind f s = .go (productStart kind f s) := by
  have hpin : (if pinnedSlot s s.cur = true then (s.engAt s.cur.ek).pin.filter fun x => x.1 != 0 else none) = none := by
    split
    · next h => obtain ⟨va, late, he⟩ := hp h; simp [he]
    · rfl
  have hmiss : (decide (stampTarget s s.cur f < s.cyc) && f.slip == 0 && !pinnedSlot s s.cur) = false := by
    rcases ht with h | h | h <;> simp [h]
  simp only [productAct, if_neg (not_waits_of_checked hc), productFault_of_checked hc, hpin, hmiss, Bool.false_eq_true, if_false]
  rfl

/-- An entry of the pin list that cannot be read is the product's fault (R192). -/
theorem productAct_pinFault {c va late : Nat} (hp : pinnedSlot s s.cur = true) (he : (s.engAt s.cur.ek).pin = some (c, va, late)) (h0 : c ≠ 0) :
    productAct kind f s = .fault c (BitVec.ofNat 64 va) := by
  have hpin : (if pinnedSlot s s.cur = true then (s.engAt s.cur.ek).pin.filter fun x => x.1 != 0 else none) = some (c, va, late) := by
    simp [hp, he, h0]
  simp only [productAct, if_neg (not_waits_of_checked hc), productFault_of_checked hc, hpin]

/-- A stamped command that issues or faults as a word does is no SCHEDULE_MISS (R103, R104). -/
theorem stampedWord_next {i : Instr} {q : Seq} {t : State} (h : wordIssue i q [] (productAct kind f) s (productDec kind f) = .next t)
    (hi : t.issued.contains s.cur = true) : stampedWord i q kind f s = .next t := by
  have hclash : (if kind = 1 then quadClash s s.cur f else none) = none := by
    split
    · next hk => exact (hc.quad hk).2.1
    · rfl
  simp only [stampedWord, hclash, h, hi, Option.any_none, Bool.and_false, Bool.false_eq_true, if_false, if_true]

end Checked

@[simp] theorem abandonAudit_issued (s : State) (g r w : Nat) : (s.abandonAudit g r w).issued = s.issued := by
  unfold State.abandonAudit
  split <;> rfl

@[simp] theorem auditIssue_issued (s : State) (f : Flight) (q : Seq) (live : Bool) : (s.auditIssue f q live).issued = s.issued := by
  unfold State.auditIssue
  dsimp only
  split
  · rfl
  · split
    · rfl
    · rw [apply_ite State.issued, abandonAudit_issued, ite_self]

/-- A word that goes into flight has issued in this cycle. -/
theorem finish_issued {s : State} {i : Instr} {q : Seq} {d : Done} {live : Bool} (hd : d.pend ≠ .none) :
    (s.finish i q d live).issued = d.st.issued ++ [s.cur] := by
  simp only [State.finish, hd, and_false, if_false, auditIssue_issued, State.setEng_issued]

section Issue
variable {kind : Nat} {f : FmtD} {s : State} {i : Instr} {q : Seq} (hc : ProductChecked kind f s) (h : canGo s i q []) (hd : productDec kind f s = none)
include hc h hd

theorem stampedWord_issues (ht : stampTarget s s.cur f = s.cyc ∨ f.slip = 1 ∨ pinnedSlot s s.cur = true)
    (hp : pinnedSlot s s.cur = true → ∃ va late, (s.engAt s.cur.ek).pin = some (0, va, late)) :
    stampedWord i q kind f s = issued s i q (productStart kind f s) := by
  refine stampedWord_next hc (wordIssue_go (d := productStart kind f s) h hd (productAct_goes hc ht hp)) ?_
  rw [finish_issued (by simp [productStart])]
  simp

theorem stampedWord_pinFault {c va late : Nat} (hp : pinnedSlot s s.cur = true) (he : (s.engAt s.cur.ek).pin = some (c, va, late)) (h0 : c ≠ 0) :
    stampedWord i q kind f s = faulted s c (BitVec.ofNat 64 va) :=
  stampedWord_next hc (wordIssue_fault h hd (productAct_pinFault hc hp he h0)) (by simp)

end Issue

/-! ### The writing of granules leaves the converter -/

/-- The converter of a column and the cycle are as they were. -/
def SameConverter (col : Nat) (s t : State) : Prop :=
  (t.colAt col).converts = (s.colAt col).converts ∧ (t.colAt col).convFree = (s.colAt col).convFree ∧ t.cyc = s.cyc

theorem SameConverter.refl {col : Nat} (s : State) : SameConverter col s s := ⟨rfl, rfl, rfl⟩

theorem SameConverter.trans {col : Nat} {s t u : State} (h : SameConverter col s t) (g : SameConverter col t u) : SameConverter col s u :=
  ⟨g.1.trans h.1, g.2.1.trans h.2.1, g.2.2.trans h.2.2⟩

theorem sameConverter_foldl {α : Type} {col : Nat} (l : List α) (f : State → α → State) (hf : ∀ s a, SameConverter col s (f s a)) (s : State) :
    SameConverter col s (l.foldl f s) :=
  List.foldlRecOn l f (SameConverter.refl s) fun _ h a _ => h.trans (hf _ a)

/-- A column set with the converter it had. -/
theorem sameConverter_setCol {col : Nat} {s : State} {c : Column} (h1 : c.converts = (s.colAt col).converts)
    (h2 : c.convFree = (s.colAt col).convFree) : SameConverter col s (s.setCol col c) := by
  simp [SameConverter, h1, h2]

theorem sameConverter_writeGranule (s : State) (col : Nat) (p : Product) (k : Nat) (xs : List (Nat × Nat)) :
    SameConverter col s (writeGranule s col p k xs).1 := by
  refine SameConverter.trans ?_ (sameConverter_setCol rfl rfl)
  refine sameConverter_foldl _ _ (fun _ _ => ?_) s
  exact ⟨rfl, rfl, rfl⟩

theorem sameConverter_poisonGranule (s : State) (col g : Nat) : SameConverter col s (poisonGranule s col g) := sameConverter_setCol rfl rfl

theorem sameConverter_settleBatch (s : State) (col : Nat) (p : Product) (k : Nat) : SameConverter col s (settleBatch s col p k).1 := by
  unfold settleBatch
  split
  · exact sameConverter_writeGranule ..
  · exact sameConverter_poisonGranule ..
  · exact (sameConverter_writeGranule ..).trans (sameConverter_poisonGranule ..)

theorem sameConverter_settleProduct (s : State) (col t : Nat) (p : Product) : SameConverter col s (settleProduct s col t p) := by
  unfold settleProduct
  dsimp only
  split
  · exact .refl s
  · refine SameConverter.trans ?_ (sameConverter_setCol rfl rfl)
    exact List.foldlRecOn (motive := fun r : State × Nat => SameConverter col s r.1) _ _ (SameConverter.refl s)
      fun r h k _ => h.trans (sameConverter_settleBatch r.1 col p k)

theorem sameConverter_raiseFlags (col : Nat) (s : State) (sk fl : Nat) : SameConverter col s (s.raiseFlags sk fl) := ⟨rfl, rfl, rfl⟩

theorem sameConverter_writeProduct (s : State) (col : Nat) (p : Product) : SameConverter col s (writeProduct s col p) := by
  have hsettle : SameConverter col s (s.settleProducts col (s.cyc + 1)) :=
    sameConverter_foldl _ _ (fun s p => sameConverter_settleProduct s col _ p) s
  refine (hsettle.trans ?_).trans (sameConverter_raiseFlags ..)
  exact sameConverter_setCol rfl rfl

/-! ### The converter (R199) -/

theorem flight_id {s : State} {id : Nat} {fl : Flight} (h : s.flight id = some fl) : fl.id = id := by simpa using List.find?_some h

/-- The rows of an MMAC's result, element by element. -/
def resultRows (s : State) (col : Nat) (p : Product) : List (List Nat) :=
  (List.range p.m).map fun i => (List.range p.n).map fun j => s.accAt col (p.acc + i * granulesOf p.n + j / 64) (j % 64)

theorem resultRows_getD {s : State} {col : Nat} {p : Product} {i j : Nat} (hi : i < p.m) (hj : j < p.n) :
    ((resultRows s col p).getD i []).getD j 0 = s.accAt col (p.acc + i * granulesOf p.n + j / 64) (j % 64) := by
  simp [resultRows, hi, hj]

/-- What the converter takes up for an MMAC whose granules are complete. -/
def resultConvert (s : State) (id col : Nat) (p : Product) : Convert :=
  { id := id, slot := p.slot, i32 := p.i32, tag := p.mdTag, outl := p.outl, unit0 := true, mode := p.mode, width := p.n,
    rows := resultRows s col p, g := granulesOf p.n }

/-- The converter of a column has taken up a conversion for `p`, from cycle `u` on. -/
def State.converting (s : State) (id col u : Nat) (p : Product) : State :=
  (s.setCol col { s.colAt col with convFree := u + p.batches, converts := (s.colAt col).converts ++ [resultConvert s id col p] }).due u 590
    (.wordComplete id)

/-- When an MMAC's granules are complete, its rows go to the converter, which takes them up when it is free (R199). -/
theorem exec_wordComplete_toConverter {s : State} {id : Nat} {fl : Flight} {p : Product} (hf : s.flight id = some fl)
    (hp : ((s.colAt fl.at_.col).products.find? fun x => x.id == id) = some p) (hk : p.kind = 2) (he : p.endAt ≤ s.cyc) :
    exec (.wordComplete id) s = .next ((writeProduct s fl.at_.col p).converting id fl.at_.col
      (max (s.cyc + 1) (s.colAt fl.at_.col).convFree) p) := by
  obtain ⟨-, hfree, hcyc⟩ := sameConverter_writeProduct s fl.at_.col p
  obtain rfl := flight_id hf
  show execWordComplete fl.id s = _
  rw [← hfree, ← hcyc]
  simp only [execWordComplete, hf, hp, endProduct, if_neg (Nat.not_lt.2 he), hk, ne_eq, not_true_eq_false, if_false]
  rfl

@[simp] theorem advance_step (v : Convert) (g : List Nat) : (v.advance g).1.step = v.step + 1 := by
  unfold Convert.advance
  dsimp only
  split <;> rfl

/-- A conversion of an MMAC handles a granule a cycle, and MD is complete nine cycles after the last (R199). -/
theorem stepConvert_mmac {s : State} {fl : Flight} {v : Convert} {q : Seq} {f : FmtD} (hi : fl.ins = .mmac q f) (hv : v.step < v.total) :
    ∃ e ∈ (stepConvert s fl v).agenda, e.at_ = (if v.step + 1 < v.total then s.cyc + 1 else s.cyc + 9) ∧ e.ev = .wordComplete fl.id := by
  have hcyc (g : List Nat) (l : Slot) : (if g = l.genList then s else s.setSlot (slotKey fl.at_.col v.slot) (l.setGens g)).cyc = s.cyc := by
    split <;> rfl
  unfold stepConvert
  simp only [if_pos hv, advance_step, hi]
  by_cases hn : v.step + 1 < v.total
  · rw [if_pos hn, if_pos hn, State.setCol_cyc, hcyc]
    exact exists_due ..
  · rw [if_neg hn, if_neg hn, State.setCol_cyc, hcyc]
    exact exists_due ..

/-- Settles O19: a product by what its checks find; the converter by the steps of a conversion. -/
theorem productWords : Obligations.ProductWords := by
  intro q f s k starts
  have hstarts (kind : Nat) (i : Instr) (hi : exec i s = stampedWord i q kind f s) : starts kind i := by
    intro h hd htag hdue hready hA hA' hB hfold hclean hquad
    have hc : ProductChecked kind f s := ⟨htag, hdue, hready, hA, hA', hB, hfold, hclean, hquad⟩
    refine ⟨fun ht hp => ⟨productStart kind f s, hi.trans (stampedWord_issues hc h hd ht hp), productStart_lat .., rfl, rfl, ?products, ?record,
      ?count, ?slip, slipped_pin .., fun va late => planProduct_late, fun hj => ⟨productStart_arrayFree hj, productStart_completes hj⟩⟩,
      fun c va late hp he h0 => hi.trans (stampedWord_pinFault hc h hd hp he h0)⟩
    case products => rw [productStart_colAt]; rfl
    case record => rw [productStart_colAt]; exact Column.ctlr_setCtl_same ..
    case count => rw [productStart_slotAt]; exact Slot.ctlr_setCtl_same ..
    case slip => rw [productStart_slotAt]
  refine ⟨hstarts 0 _ rfl, hstarts 1 _ rfl, hstarts 2 _ rfl, fun id fl p hf hp hk he => ?converter, fun id fl v hf hp hv hi hs => ?step⟩
  case converter =>
    obtain ⟨hconv, -, -⟩ := sameConverter_writeProduct s fl.at_.col p
    refine ⟨_, resultConvert (writeProduct s fl.at_.col p) id fl.at_.col p, exec_wordComplete_toConverter hf hp hk he, ?_, rfl, rfl, rfl, ?_,
      fun i hi j hj => resultRows_getD hi hj, exists_due ..⟩
    · simp [State.converting, hconv]
    · simp [State.converting, Product.batches]
  case step =>
    obtain rfl := flight_id hf
    refine ⟨stepConvert s fl v, ?_, stepConvert_mmac hi hs⟩
    show execWordComplete fl.id s = _
    simp only [execWordComplete, hf, hp, hv]

end Sys2Proof.Machine
end

section
/-! PROOFS. The grant of a lease (R112, R417), where it clears the matrix state of a context that is gone. -/

namespace Sys2Proof.Machine

/-- An MZERO of slot 0 whose pending record is that of a wait for the lease. The statement asks of every word with that record that its completion
comes. -/
def waitingClear : Flight :=
  { id := 4, at_ := ⟨0, 0, .x⟩, secno := 0, issued := 0,
    ins := .mzero ⟨.next, false, false, false, false, 0, 0, 0⟩ ⟨0, 0, 0, 0, 0, 0, 0, 0, 0, 1, 0⟩, lat := 2, pend := .lease }

/-- The first group waits for the free lease of column 0, whose matrix state is that of context 7. -/
def leaseAfterContext : State :=
  { State.reset.placeFirst.setCol 0 { ctl := [(0x113, 7)], leaseWait := [(0, 5)] } with flights := [waitingClear] }

/-- The state after LEASE_GRANT of column 0. -/
def leaseGranted : State := (leaseAfterContext.grantLease 0 0).repayLease 0 0 4481

/-- R417's clear takes the words that write matrix state out of flight, so that none completes. -/
theorem exec_leaseGrant_afterContext : exec (.leaseGrant 0) leaseAfterContext = .next leaseGranted := by rfl

theorem leaseGranted_agenda : leaseGranted.agenda = [] := by decide +kernel

/-- Refutes O36: the statement does not ask that the word in flight with the pending record of a lease is an MLEASE. For a word that writes matrix
state, which the clear of R417 takes out of flight, no completion is put on the agenda. -/
theorem not_bedSteps : ¬ Obligations.BedSteps := by
  intro h
  obtain ⟨hgrant, -⟩ := h 0 leaseAfterContext
  obtain ⟨n, hn, -, u, hu, -, -, hends⟩ := hgrant (0, 5) [] rfl rfl
  obtain rfl := List.mem_singleton.1 hn
  obtain rfl : leaseGranted = u := Host.Outcome.next.inj (exec_leaseGrant_afterContext.symm.trans hu)
  obtain ⟨b, hb, -⟩ := hends waitingClear (List.mem_singleton.2 rfl) rfl rfl
  rw [leaseGranted_agenda] at hb
  exact List.not_mem_nil hb

end Sys2Proof.Machine
end

section
/-! PROOFS. Taking a fault (R113–R115, R366, R367), by an engine whose section's EXIT has issued. -/

namespace Sys2Proof.Machine

/-- Engine A of the first group. -/
def firstA : Stream := ⟨0, 0, .a⟩

/-- The first group runs, and its engine A, at word 7 of section 4, has issued that section's EXIT: a load before it is still to complete, and can
fault then (R79). -/
def exitIssued : State := State.reset.placeFirst.setEng firstA.ek { sec := .retiring false, hdr := { secno := 4, len := 8 }, idx := 7 }

/-- The engine stands at word 0 of section 5 (log 148), and the record that R115 asks for says so. -/
theorem exitIssued_record : ((exitIssued.engAt firstA.ek).unissued.record firstA.eng false).getD 0 0 = 5 + 0xFFF * 2 ^ 12 := by decide +kernel

/-- The record that the fault writes names word 7 of section 4: the engine has become Faulted by then, and no longer counts as one whose EXIT has
issued. -/
theorem exitIssued_takeFault_load : (exitIssued.takeFault firstA 0x09 0).load (exitIssued.recordAddr firstA) 8 = 4 + 0xFFF * 2 ^ 12 + 7 * 2 ^ 24 := by
  decide +kernel

theorem exitIssued_groupOf : exitIssued.groupOf firstA.sk = some (1, { ctx := 1, state := .running, col := 0, slot := 0 }) := by decide +kernel

/-- Refutes O60: where the EXIT of a section has issued and a word before it faults at its completion, the first word of the micro-PC record is
that of the EXIT's own section, not that of the section which follows. -/
theorem not_takingAFault : ¬ Obligations.TakingAFault := by
  intro h
  obtain ⟨-, -, -, hgroup⟩ := h firstA 0x09 0 false exitIssued
  obtain ⟨-, -, -, -, -, -, -, -, -, -, -, -, -, -, -, -, -, -, -, hrecord, -⟩ := hgroup 1 _ rfl (by decide +kernel) exitIssued_groupOf
  obtain ⟨hwords, -⟩ := hrecord (memOk_of_eq memOk_reset rfl) (by decide +kernel) (by decide +kernel)
  have hword := hwords 0 (by decide)
  rw [Nat.mul_zero, Nat.add_zero, exitIssued_takeFault_load, exitIssued_record] at hword
  exact absurd hword (by decide)

end Sys2Proof.Machine
end

section
/-! PROOFS. What the scalar operations compute: products, quotients, shifts, counts and bit fields as values of their operands (R121, R122, R126). -/

namespace Sys2Proof.Machine

/-- A choice by a field that must be 1. -/
theorem apply_beq_one {α : Type} (op : Bool → α) (n : Nat) : op (n == 1) = if n = 1 then op true else op false := by
  split
  case isTrue h => rw [h]; rfl
  case isFalse h => rw [beq_false_of_ne h]

/-! ### Products, the smaller and the larger -/

/-- The upper half of a 128-bit product, read from the product as an integer (R121). -/
theorem extractLsb'_high_ofInt (m : Int) : (BitVec.ofInt 128 m).extractLsb' 64 64 = BitVec.ofInt 64 (m / 2 ^ 64) := by
  apply BitVec.eq_of_toNat_eq
  simp only [BitVec.extractLsb'_toNat, BitVec.toNat_ofInt, Nat.shiftRight_eq_div_pow]
  omega

theorem mulHigh_signed (a b : Word) : mulHigh false a b = (a.signExtend 128 * b.signExtend 128).extractLsb' 64 64 := by
  rw [BitVec.signExtend, BitVec.signExtend, ← BitVec.ofInt_mul, extractLsb'_high_ofInt]
  rfl

theorem mulHigh_unsigned (a b : Word) : mulHigh true a b = (a.setWidth 128 * b.setWidth 128).extractLsb' 64 64 := by
  have hwide (x : Word) : x.setWidth 128 = BitVec.ofInt 128 x.toNat := by
    rw [BitVec.ofInt_natCast, BitVec.ofNat_toNat]
  rw [hwide, hwide, ← BitVec.ofInt_mul, extractLsb'_high_ofInt, ← Int.natCast_mul]
  exact (BitVec.ofInt_natCast 64 _).symm

/-- MULH gives the upper half of the product, SUB says of which reading (R121). -/
theorem mulHigh_eq (n : Nat) (a b : Word) : mulHigh (n == 1) a b = if n = 1 then (a.setWidth 128 * b.setWidth 128).extractLsb' 64 64
    else (a.signExtend 128 * b.signExtend 128).extractLsb' 64 64 := by
  rw [apply_beq_one (mulHigh · a b), mulHigh_unsigned, mulHigh_signed]

theorem minWord_unsigned (a b : Word) : minWord true a b = BitVec.ofNat 64 (min a.toNat b.toNat) := by
  rw [min_comm, min_def_lt, apply_ite (BitVec.ofNat 64)]
  simp [minWord, BitVec.ult]

theorem minWord_signed (a b : Word) : minWord false a b = BitVec.ofInt 64 (min a.toInt b.toInt) := by
  rw [min_comm, min_def_lt, apply_ite (BitVec.ofInt 64)]
  simp [minWord, BitVec.slt]

/-- MIN by the reading that SUB chooses (R121). -/
theorem minWord_eq (n : Nat) (a b : Word) : minWord (n == 1) a b =
    if n = 1 then BitVec.ofNat 64 (min a.toNat b.toNat) else BitVec.ofInt 64 (min a.toInt b.toInt) := by
  rw [apply_beq_one (minWord · a b), minWord_unsigned, minWord_signed]

theorem maxWord_unsigned (a b : Word) : maxWord true a b = BitVec.ofNat 64 (max a.toNat b.toNat) := by
  rw [max_def_lt, apply_ite (BitVec.ofNat 64)]
  simp [maxWord, BitVec.ult]

theorem maxWord_signed (a b : Word) : maxWord false a b = BitVec.ofInt 64 (max a.toInt b.toInt) := by
  rw [max_def_lt, apply_ite (BitVec.ofInt 64)]
  simp [maxWord, BitVec.slt]

/-- MAX by the reading that SUB chooses (R121). -/
theorem maxWord_eq (n : Nat) (a b : Word) : maxWord (n == 1) a b =
    if n = 1 then BitVec.ofNat 64 (max a.toNat b.toNat) else BitVec.ofInt 64 (max a.toInt b.toInt) := by
  rw [apply_beq_one (maxWord · a b), maxWord_unsigned, maxWord_signed]

/-! ### Shifts -/

/-- The count of a shift is the low six bits of its operand. -/
theorem shiftCount_eq (b : Word) : shiftCount b = (b.extractLsb' 0 6).toNat := by
  simp [shiftCount, BitVec.extractLsb'_toNat]

theorem shiftCount_lt (b : Word) : shiftCount b < 64 := Nat.mod_lt _ (by decide)

theorem rotateLeft_eq (a b : Word) : rotateLeft a b = (a <<< shiftCount b) ||| (a >>> (64 - shiftCount b)) := by
  rw [rotateLeft, BitVec.rotateLeft_def, Nat.mod_eq_of_lt (shiftCount_lt b)]

/-! ### Leading zeros -/

/-- `takeWhile` keeps the numbers below the first one that fails the test, or all of them. -/
theorem length_takeWhile_range {p : Nat → Bool} {n k : Nat} (hk : k ≤ n) (hp : ∀ i < k, p i = true) (hn : k < n → p k = false) :
    ((List.range n).takeWhile p).length = k := by
  obtain ⟨m, rfl⟩ := Nat.exists_eq_add_of_le hk
  rw [List.range_add, List.takeWhile_append_of_pos (by simpa using hp)]
  cases m with
  | zero => simp
  | succ m => simp [List.range_succ_eq_map, hn (by omega)]

/-- CLZ counts the zero bits above the first one (R121). -/
theorem clz64_eq (a : Word) : clz64 a = BitVec.ofNat 64 ((List.range 64).takeWhile fun i => !a.getMsbD i).length := by
  unfold clz64
  split
  case isTrue h => rw [h, length_takeWhile_range le_rfl (by simp) (by simp)]; rfl
  case isFalse h =>
    have h0 : a.toNat ≠ 0 := fun h' => h (BitVec.eq_of_toNat_eq h')
    have hlog : a.toNat.log2 < 64 := (Nat.log2_lt h0).2 a.isLt
    have htop : a.toNat.testBit a.toNat.log2 = true := Nat.testBit_log2 h0
    have hzero : ∀ i < 63 - a.toNat.log2, a.toNat.testBit (63 - i) = false := fun i hi =>
      Nat.testBit_lt_two_pow ((Nat.log2_lt h0).1 (by omega))
    rw [length_takeWhile_range (k := 63 - a.toNat.log2) (by omega)]
    · intro i hi
      simp [BitVec.getMsbD, BitVec.getLsbD, hzero i hi]
    · intro _
      have hplace : 63 - (63 - a.toNat.log2) = a.toNat.log2 := by omega
      simp [BitVec.getMsbD, BitVec.getLsbD, hplace, htop]
      omega

/-! ### Bit fields -/

/-- The field that EXT extracts, as a narrower word made wide (R126). -/
theorem extField_eq (signed : Bool) {pos width : Nat} (a : Word) : extField signed pos width a =
    if signed then (a.extractLsb' pos width).signExtend 64 else (a.extractLsb' pos width).setWidth 64 := by
  have hfield : a.toNat / 2 ^ pos % 2 ^ width = (a.extractLsb' pos width).toNat := by
    rw [BitVec.extractLsb'_toNat, Nat.shiftRight_eq_div_pow]
  have hmsb : (a.extractLsb' pos width).toNat.testBit (width - 1) = (a.extractLsb' pos width).msb := by
    rw [BitVec.msb_eq_getLsbD_last, BitVec.getLsbD]
  cases signed with
  | false => simp only [extField, hfield, Bool.false_and, Bool.false_eq_true, if_false, BitVec.ofNat_toNat]
  | true =>
    simp only [extField, Bool.true_and, if_true, BitVec.signExtend, BitVec.toInt_eq_msb_cond, hfield, hmsb]
    split
    · push_cast; rfl
    · exact (BitVec.ofInt_natCast 64 _).symm

/-- The bits of the field that EXT extracts (R126). -/
theorem getLsbD_extField (signed : Bool) {pos width i : Nat} (hw : 1 ≤ width) (hi : i < 64) (a : Word) :
    (extField signed pos width a).getLsbD i = if i < width then a.getLsbD (pos + i) else signed && a.getLsbD (pos + width - 1) := by
  have hlast : (a.extractLsb' pos width).msb = a.getLsbD (pos + width - 1) := by
    rw [BitVec.msb_eq_getLsbD_last, BitVec.getLsbD_extractLsb', Nat.add_sub_assoc hw]
    simp [Nat.lt_of_lt_of_le Nat.zero_lt_one hw]
  rw [extField_eq]
  cases signed with
  | false => by_cases hb : i < width <;> simp [hi, hb]
  | true =>
    rw [if_pos rfl, BitVec.getLsbD_signExtend]
    by_cases hb : i < width <;> simp [hi, hb, hlast]

/-- The bits of a word with a field inserted (R126). -/
theorem getLsbD_insField {pos width i : Nat} (hi : i < 64) (old a : Word) : (insField pos width old a).getLsbD i =
    if pos ≤ i ∧ i < pos + width then a.getLsbD (i - pos) else old.getLsbD i := by
  have hmask (j : Nat) : (BitVec.ofNat 64 (2 ^ width - 1)).getLsbD j = (decide (j < 64) && decide (j < width)) := by
    rw [BitVec.getLsbD_ofNat, Nat.testBit_two_pow_sub_one]
  have hj : i - pos < 64 := by omega
  simp only [insField, BitVec.getLsbD_or, BitVec.getLsbD_and, BitVec.getLsbD_not, BitVec.getLsbD_shiftLeft, hmask, hi, hj]
  by_cases hlo : i < pos
  · simp [hlo, Nat.not_le.2 hlo]
  · have hhi : i < pos + width ↔ i - pos < width := by omega
    by_cases hb : i - pos < width <;> simp [hlo, hhi, hb, Nat.not_lt.1 hlo]

/-! ### Quotients and remainders -/

theorem quotient_signed (a b : Word) : quotient false a b = a.sdiv b := by
  apply BitVec.eq_of_toInt_eq
  rw [BitVec.toInt_sdiv]
  exact BitVec.toInt_ofInt ..

theorem remainder_signed (a b : Word) : remainder false a b = a.srem b := by
  rw [← BitVec.ofInt_toInt (x := a.srem b), BitVec.toInt_srem]
  rfl

/-- The one quotient that does not fit: −2^63 / −1 gives −2^63 (R122). -/
theorem quotient_intMin_neg_one : quotient false (BitVec.intMin 64) (-1) = BitVec.intMin 64 :=
  (quotient_signed ..).trans BitVec.intMin_sdiv_neg_one

theorem toInt_quotient_signed {a b : Word} (h : ¬(a = BitVec.intMin 64 ∧ b = -1)) :
    (quotient false a b).toInt = a.toInt.tdiv b.toInt := by
  rw [quotient_signed]
  exact BitVec.toInt_sdiv_of_ne_or_ne a b (not_and_or.1 h)

/-- The signed remainder is what the quotient leaves, so it has the sign of the dividend (R122). -/
theorem toInt_remainder_signed (a b : Word) : (remainder false a b).toInt = a.toInt - a.toInt.tdiv b.toInt * b.toInt := by
  rw [remainder_signed, BitVec.toInt_srem, Int.tmod_def, Int.mul_comm]

theorem toNat_quotient_unsigned (a b : Word) : (quotient true a b).toNat = a.toNat / b.toNat := by
  rw [quotient, if_pos rfl, BitVec.toNat_ofNat, Nat.mod_eq_of_lt ((Nat.div_le_self ..).trans_lt a.isLt)]

theorem toNat_remainder_unsigned (a b : Word) : (remainder true a b).toNat = a.toNat % b.toNat := by
  rw [remainder, if_pos rfl, BitVec.toNat_ofNat, Nat.mod_eq_of_lt ((Nat.mod_le ..).trans_lt a.isLt)]

end Sys2Proof.Machine
end

section
/-! PROOFS. The scalar words (R117–R127): each by what its own act is when none of its operands is marked. -/

namespace Sys2Proof.Machine

/-! ### How a word issues by its own act -/

/-- A word that checks nothing at decode and whose own act is an effect issues with it. -/
theorem exec_goes {i : Instr} {q : Seq} {regs : List Reg} {own : State → Act} {s : State} {d : Done}
    (hi : exec i s = wordIssue i q regs own s) (ho : own s = .go d) (h : canGo s i q regs d.fifos = true) :
    exec i s = issued s i q d :=
  hi.trans (wordIssue_go h rfl ho)

/-- A word that checks nothing at decode and whose own act is a fault is turned away by it. -/
theorem exec_faults {i : Instr} {q : Seq} {regs : List Reg} {own : State → Act} {s : State} {c : Nat} {x : Word}
    (hi : exec i s = wordIssue i q regs own s) (ho : own s = .fault c x) (h : canGo s i q regs = true) : exec i s = faulted s c x :=
  hi.trans (wordIssue_fault h rfl ho)

/-! ### Arithmetic -/

/-- A word with two scalar operands writes what its operation gives (R121). -/
theorem exec_alu3 {i : Instr} {q : Seq} {f : FmtA} {s : State} {lat : Nat} {op : Word → Word → Word} {r : Word}
    (hi : exec i s = wordIssue i q (regs3 f) (alu3 f lat op) s) (hm : s.markOf [f.oa, f.ob] = none)
    (hr : op (s.sv f.oa) (s.sv f.ob) = r) (h : canGo s i q (regs3 f) = true) : exec i s = issued s i q (scalarDone s f.dst r lat) :=
  exec_goes hi (by rw [alu3, consuming_of_unmarked hm, hr]; rfl) h

/-- A word with one scalar operand writes what its operation gives (R121). -/
theorem exec_alu2 {i : Instr} {q : Seq} {f : FmtA} {s : State} {op : Word → Word} {r : Word}
    (hi : exec i s = wordIssue i q [.s f.dst, .s f.oa] (alu2 f op) s) (hm : s.markOf [f.oa] = none) (hr : op (s.sv f.oa) = r)
    (h : canGo s i q [.s f.dst, .s f.oa] = true) : exec i s = issued s i q (scalarDone s f.dst r) :=
  exec_goes hi (by rw [alu2, consuming_of_unmarked hm, hr]; rfl) h

/-- A word with a scalar operand and an immediate writes what its operation gives (R121). -/
theorem exec_aluI {i : Instr} {q : Seq} {f : FmtB} {s : State} {op : Word → Word → Word} {r : Word}
    (hi : exec i s = wordIssue i q (regsI f) (aluI f op) s) (hm : s.markOf [f.oa] = none) (hr : op (s.sv f.oa) (imm f) = r)
    (h : canGo s i q (regsI f) = true) : exec i s = issued s i q (scalarDone s f.dst r) :=
  exec_goes hi (by rw [aluI, consuming_of_unmarked hm, hr]; rfl) h

/-- Settles O1: each word by what its operation computes. -/
theorem scalarRegisterWords : Obligations.ScalarRegisterWords := by
  intro q f s hm
  exact ⟨exec_alu3 rfl hm rfl, exec_alu3 rfl hm rfl, exec_alu3 rfl hm rfl, exec_alu3 rfl hm (mulHigh_eq ..), exec_alu3 rfl hm rfl,
    exec_alu3 rfl hm rfl, exec_alu3 rfl hm rfl, exec_alu3 rfl hm (congrArg (_ <<< ·) (shiftCount_eq _)),
    exec_alu3 rfl hm (congrArg (_ >>> ·) (shiftCount_eq _)), exec_alu3 rfl hm (congrArg (BitVec.sshiftRight _) (shiftCount_eq _)),
    exec_alu3 rfl hm (by rw [rotateLeft_eq, shiftCount_eq]), exec_alu3 rfl hm (minWord_eq ..), exec_alu3 rfl hm (maxWord_eq ..)⟩

/-! ### Division -/

section Divide
variable {f : FmtA} {op : Word → Word → Word} {s : State} (hm : s.markOf [f.oa, f.ob] = none)
include hm

/-- A division by a number that is not zero takes 24 cycles (R120, R122). -/
theorem divide_of_ne_zero (hb : s.sv f.ob ≠ 0) : divide f op s = .go (scalarDone s f.dst (op (s.sv f.oa) (s.sv f.ob)) 24) := by
  rw [divide, consuming_of_unmarked hm, if_neg hb]
  rfl

/-- A division by zero raises INTEGER_DIVIDE (R122). -/
theorem divide_of_zero (hb : s.sv f.ob = 0) : divide f op s = .fault 0x0C 0 := by
  rw [divide, consuming_of_unmarked hm, if_pos hb]

end Divide

/-- Settles O4: a division by what its quotient or its remainder is, signed and unsigned. -/
theorem divideWords : Obligations.DivideWords := by
  intro q f s hm a b
  refine ⟨fun h hb => ⟨quotient (f.sub == 1) a b, exec_goes (by rfl) (divide_of_ne_zero hm hb) h, ?least, ?signed, ?unsigned, ?minusSeven⟩,
    fun h hb => ⟨remainder (f.sub == 1) a b, exec_goes (by rfl) (divide_of_ne_zero hm hb) h, ?signedRem, ?unsignedRem, ?minusSevenRem⟩,
    fun hb => ⟨exec_faults (by rfl) (divide_of_zero hm hb), exec_faults (by rfl) (divide_of_zero hm hb)⟩⟩
  case least =>
    intro h0 ha hb1
    rw [h0, ha, hb1]
    exact quotient_intMin_neg_one
  case signed =>
    intro h0 hne
    rw [h0]
    exact toInt_quotient_signed hne
  case unsigned =>
    intro h1
    rw [h1]
    exact toNat_quotient_unsigned a b
  case signedRem =>
    intro h0
    rw [h0]
    exact toInt_remainder_signed a b
  case unsignedRem =>
    intro h1
    rw [h1, ← Nat.mod_eq_sub_div_mul]
    exact toNat_remainder_unsigned a b
  case minusSeven =>
    intro ha hb2
    rw [ha, hb2]
    exact ⟨fun h0 => by rw [h0]; decide, fun h1 => by rw [h1]; decide⟩
  case minusSevenRem =>
    intro ha hb2
    rw [ha, hb2]
    exact ⟨fun h0 => by rw [h0]; decide, fun h1 => by rw [h1]; decide⟩

/-! ### Counts, compares and bit fields -/

/-- A compare leaves its truth in cf and in its destination (R123). -/
theorem compare_eq (dst : Nat) (c : Bool) (s : State) :
    compare dst c s = .go { st := s, writes := [.s dst { val := if c then 1 else 0 }, .cf c] } := by
  cases c <;> rfl

section Compare
variable {q : Seq} {s : State}

theorem exec_cmp_compares {f : FmtA} (hm : s.markOf [f.oa, f.ob] = none) (h : canGo s (.cmp q f) q (.cf :: regs3 f) = true) :
    exec (.cmp q f) s = issued s (.cmp q f) q
      { st := s, writes := [.s f.dst { val := if condHolds f.sub (s.sv f.oa) (s.sv f.ob) then 1 else 0 },
          .cf (condHolds f.sub (s.sv f.oa) (s.sv f.ob))] } :=
  exec_goes (by rfl) ((consuming_of_unmarked hm).trans (compare_eq ..)) h

theorem exec_cmpi_compares {f : FmtB} (hm : s.markOf [f.oa] = none) (h : canGo s (.cmpi q f) q (.cf :: regsI f) = true) :
    exec (.cmpi q f) s = issued s (.cmpi q f) q
      { st := s, writes := [.s f.dst { val := if condHolds f.sub (s.sv f.oa) (imm f) then 1 else 0 },
          .cf (condHolds f.sub (s.sv f.oa) (imm f))] } :=
  exec_goes (by rfl) ((consuming_of_unmarked hm).trans (compare_eq ..)) h

end Compare

section Field
variable {q : Seq} {f : FmtB} {s : State}

theorem exec_ext_extracts (hm : s.markOf [f.oa] = none) (h : canGo s (.ext q f) q (regsI f) = true) :
    exec (.ext q f) s = issued s (.ext q f) q
      (scalarDone s f.dst (extField (f.sub == 1) (f.imm % 64) (f.imm / 64 % 64 + 1) (s.sv f.oa))) :=
  exec_goes (by rfl) (consuming_of_unmarked hm) h

theorem exec_ins_inserts (hm : s.markOf [f.oa, f.dst] = none) (h : canGo s (.ins q f) q (regsI f) = true) :
    exec (.ins q f) s = issued s (.ins q f) q
      (scalarDone s f.dst (insField (f.imm % 64) (f.imm / 64 % 64 + 1) (s.sv f.dst) (s.sv f.oa))) :=
  exec_goes (by rfl) (consuming_of_unmarked hm) h

end Field

/-- Settles O2: the counts by what they count, the bit fields by their bits. -/
theorem scalarBitWords : Obligations.ScalarBitWords := by
  intro q f g s
  exact ⟨fun hm => exec_alu2 rfl hm (clz64_eq _), fun hm => exec_alu2 rfl hm rfl, exec_cmp_compares, exec_cmpi_compares,
    fun hm _ h => ⟨_, exec_ext_extracts hm h, fun i hi => getLsbD_extField _ (Nat.succ_pos _) hi _⟩,
    fun hm _ h => ⟨_, exec_ins_inserts hm h, fun i hi => getLsbD_insField hi _ _⟩⟩

/-! ### Immediates and LEA -/

/-- The immediate of format B (R67). -/
theorem imm_eq (f : FmtB) : imm f = ((BitVec.ofNat 48 f.imm).signExtend 64) <<< (16 * f.hi) := by
  rw [imm, FmtB.imm64, BitVec.ofNat_toNat, BitVec.setWidth_eq]

theorem exec_movi_writes {q : Seq} {f : FmtB} {s : State} (h : canGo s (.movi q f) q [.s f.dst] = true) :
    exec (.movi q f) s = issued s (.movi q f) q (scalarDone s f.dst (imm f)) :=
  exec_goes (by rfl) rfl h

/-- LEA names the column by its context's number, or by the device's in firmware (R125, R378, R516). -/
theorem leaAddr_of_named {f : FmtB} {s : State} {c cc : Nat} (hn : neighbour s.cur.col f.sub = some c)
    (hc : s.cur.fw = true ∧ cc = c ∨ s.cur.fw = false ∧ s.ctxCol (s.ctxOf s.cur) c = some cc)
    (hv : (s.sv f.oa + imm f).toNat < 2 ^ 26) : leaAddr s f = .ok (BitVec.ofNat 64 (cc * 2 ^ 26 + (s.sv f.oa + imm f).toNat)) := by
  simp only [leaAddr, hn, if_neg (Nat.not_le.2 hv)]
  rcases hc with ⟨hfw, rfl⟩ | ⟨hfw, hcol⟩
  · simp only [hfw, if_true]
  · simp only [hfw, Bool.false_eq_true, if_false, hcol]

theorem exec_lea_writes {q : Seq} {f : FmtB} {s : State} {v : Word} (hm : s.markOf [f.oa] = none) (hv : leaAddr s f = .ok v)
    (h : canGo s (.lea q f) q (regsI f) = true) : exec (.lea q f) s = issued s (.lea q f) q (scalarDone s f.dst v) :=
  exec_goes (by rfl) (by simp only [consuming_of_unmarked hm, hv]; rfl) h

/-- Settles O3: the operations of O1 on an immediate; one that gives a shift its count is below 64. -/
theorem scalarImmediateWords : Obligations.ScalarImmediateWords := by
  intro q f s
  dsimp only
  rw [← imm_eq]
  refine ⟨exec_movi_writes, fun hm => ⟨exec_aluI rfl hm rfl, exec_aluI rfl hm rfl, exec_aluI rfl hm rfl, exec_aluI rfl hm rfl, fun hlt => ?shifts,
    fun c cc hn hc hv => exec_lea_writes hm (leaAddr_of_named hn hc hv)⟩⟩
  have hcount : shiftCount (imm f) = (imm f).toNat := Nat.mod_eq_of_lt hlt
  exact ⟨exec_aluI rfl hm (congrArg (_ <<< ·) hcount), exec_aluI rfl hm (congrArg (_ >>> ·) hcount),
    exec_aluI rfl hm (congrArg (BitVec.sshiftRight _) hcount), exec_aluI rfl hm (by rw [rotateLeft_eq, hcount])⟩

/-! ### Moves and the spill store -/

/-- A slot of the spill store is named by the address of its 8 bytes (R127). -/
theorem spillSlot_of_slot {v : Word} {n : Nat} (hn : n < 512) (hv : v.toNat = 8 * n) : spillSlot v = .ok n := by
  rw [spillSlot, if_neg (by omega), if_neg (by omega), show v.toNat / 8 = n by omega]

theorem spillSlot_of_above {v : Word} (h : 4096 ≤ v.toNat) : spillSlot v = .error (0x0A, v &&& 0xFFFF) := if_pos h

theorem spillSlot_of_unaligned {v : Word} (h : v.toNat < 4096) (hv : v.toNat % 8 ≠ 0) : spillSlot v = .error (0x0B, v) := by
  rw [spillSlot, if_neg (Nat.not_le.2 h), if_pos hv]

section Spill
variable {q : Seq} {f : FmtB} {s : State}

theorem exec_spill_stores {n : Nat} (hv : spillSlot (imm f) = .ok n) (h : canGo s (.spill q f) q [.s f.oa] = true) :
    exec (.spill q f) s = issued s (.spill q f) q { st := s.setE { s.e with spill := s.e.spill.put n (s.e.sreg f.oa) } } :=
  exec_goes (by rfl) (by simp only [hv]) h

theorem exec_spill_refused {c : Nat} {x : Word} (hv : spillSlot (imm f) = .error (c, x)) (h : canGo s (.spill q f) q [.s f.oa] = true) :
    exec (.spill q f) s = faulted s c x :=
  exec_faults (by rfl) (by simp only [hv]) h

theorem exec_fill_reads {n : Nat} (hv : spillSlot (imm f) = .ok n) (h : canGo s (.fill q f) q [.s f.dst] = true) :
    exec (.fill q f) s = issued s (.fill q f) q { st := s, writes := [.s f.dst ((s.e.spill.get? n).getD {})] } :=
  exec_goes (by rfl) (by simp only [hv]; rfl) h

theorem exec_fill_refused {c : Nat} {x : Word} (hv : spillSlot (imm f) = .error (c, x)) (h : canGo s (.fill q f) q [.s f.dst] = true) :
    exec (.fill q f) s = faulted s c x :=
  exec_faults (by rfl) (by simp only [hv]) h

end Spill

/-- Settles O5: SPILL and FILL by the slot that their immediate names, or by its fault. -/
theorem moveAndSpillWords : Obligations.MoveAndSpillWords := by
  intro q f g s
  refine ⟨exec_movi_writes, fun h => exec_goes (by rfl) rfl h, fun h => exec_goes (by rfl) rfl h, fun n hn hv => ?slot, fun h => ?above, fun h hv => ?unaligned⟩
  case slot => exact ⟨exec_spill_stores (spillSlot_of_slot hn hv), exec_fill_reads (spillSlot_of_slot hn hv)⟩
  case above => exact ⟨exec_spill_refused (spillSlot_of_above h), exec_fill_refused (spillSlot_of_above h)⟩
  case unaligned => exact ⟨exec_spill_refused (spillSlot_of_unaligned h hv), exec_fill_refused (spillSlot_of_unaligned h hv)⟩

end Sys2Proof.Machine
end

section
/-! PROOFS. The loop words, mailboxes, queue registers, stamps, traps and returns (R128–R141). -/

namespace Sys2Proof.Machine

/-! ### Loops -/

/-- A register that has no stride at a level gets one while fewer than four have (R129). -/
theorem Level.designate_new {l : Level} {r : Nat} {st : Int} (hr : (l.desig.any fun d => d.1 == r) = false) (hl : l.desig.length < 4) :
    l.designate r st = some { l with desig := l.desig ++ [(r, st)] } := by
  simp only [Level.designate, hr, Bool.false_eq_true, if_false, if_neg (Nat.not_le.2 hl)]

section Loop
variable {q : Seq} {f : FmtB} {s : State}

/-- LPS opens a closed level with a count from 1 to 2^32 − 1 (R128). -/
theorem exec_lps_opens (hm : s.markOf [f.oa] = none) (hl : s.e.level? f.dst = none) (hlo : 1 ≤ (s.sv f.oa).toInt + (imm f).toInt)
    (hhi : (s.sv f.oa).toInt + (imm f).toInt ≤ 2 ^ 32 - 1) (h : canGo s (.lps q f) q [.s f.oa] = true) :
    exec (.lps q f) s = issued s (.lps q f) q
      { st := s.setE { s.e with
          levels := { lvl := f.dst, head := s.e.idx + 1 + f.sub, count := ((s.sv f.oa).toInt + (imm f).toInt).toNat } :: s.e.levels } } := by
  have hno : ¬((s.e.level? f.dst).isSome ∨ (s.sv f.oa).toInt + (imm f).toInt < 1 ∨ 2 ^ 32 - 1 < (s.sv f.oa).toInt + (imm f).toInt) := by
    simp only [hl, Option.isSome_none, Bool.false_eq_true, false_or]
    omega
  exact exec_goes (by rfl) ((consuming_of_unmarked hm).trans (if_neg hno)) h

/-- An open level, or a count out of range, is a loop fault (R128). -/
theorem exec_lps_refused (hm : s.markOf [f.oa] = none)
    (hc : s.e.level? f.dst ≠ none ∨ (s.sv f.oa).toInt + (imm f).toInt < 1 ∨ 2 ^ 32 - 1 < (s.sv f.oa).toInt + (imm f).toInt)
    (h : canGo s (.lps q f) q [.s f.oa] = true) : exec (.lps q f) s = faulted s 0x15 (BitVec.ofNat 64 f.dst) :=
  exec_faults (by rfl) ((consuming_of_unmarked hm).trans (if_pos (hc.imp_left Option.isSome_iff_ne_none.2))) h

section Stride
variable (h : canGo s (.lpst q f) q (if (q.sel == .endloop && s.e.levels.head?.any fun l => l.lvl == f.oa) = true then [.s f.dst] else []) = true)
include h

/-- LPST puts down what its register is moved by at each ENDLOOP of an open level (R129). -/
theorem exec_lpst_designates {l l' : Level} (hl : s.e.level? f.oa = some l) (hd : l.designate f.dst (imm f).toInt = some l') :
    exec (.lpst q f) s = issued s (.lpst q f) q
      { st := s.setE { s.e with levels := s.e.levels.map fun x => if x.lvl == f.oa then l' else x } } :=
  exec_goes (by rfl) (by simp only [hl, Option.bind_some, hd]) h

theorem exec_lpst_closed (hl : s.e.level? f.oa = none) : exec (.lpst q f) s = faulted s 0x15 (BitVec.ofNat 64 f.oa) :=
  exec_faults (by rfl) (by simp only [hl, Option.bind_none]) h

end Stride
end Loop

section Counter
variable {q : Seq} {g : FmtF} {s : State} (h : canGo s (.lcrd q g) q [.s g.dst] = true)
include h

theorem exec_lcrd_reads {l : Level} (hl : s.e.level? g.oa = some l) : exec (.lcrd q g) s = issued s (.lcrd q g) q
    (scalarDone s g.dst (BitVec.ofNat 64 (if g.sub = 1 then l.count else l.iter))) :=
  exec_goes (by rfl) (by simp only [hl]; rfl) h

theorem exec_lcrd_closed (hl : s.e.level? g.oa = none) : exec (.lcrd q g) s = issued s (.lcrd q g) q (scalarDone s g.dst 0) :=
  exec_goes (by rfl) (by simp only [hl]; rfl) h

end Counter

/-- Settles O6: each word by the level it names. -/
theorem loopWords : Obligations.LoopWords := by
  intro q f g s
  refine ⟨?lps, fun h => ⟨fun l hl hr hn => exec_lpst_designates h hl (Level.designate_new hr hn), exec_lpst_closed h⟩,
    fun h => ⟨fun l hl => exec_lcrd_reads h hl, exec_lcrd_closed h⟩⟩
  case lps =>
    rintro hm h cnt rfl
    exact ⟨fun hl hlo hhi => exec_lps_opens hm hl hlo hhi h, fun hc => exec_lps_refused hm hc h⟩

/-! ### Mailboxes, queue registers, stamps -/

/-- The scalar form on a scalar queue is misused by an engine that QMAP gives another part (R96, R135). -/
theorem queueMisused_scalar {s : State} {n : Nat} {wr : Bool} (hn : n < 4) :
    queueMisused s n false wr = if wr then s.sl.writerOf n != engCode s.cur.eng else s.sl.readerOf n != engCode s.cur.eng := by
  simp [queueMisused, hn]

/-- The vector form writes a vector queue, on engine X (R135). -/
theorem queueMisused_vector {s : State} {n : Nat} (hn : 4 ≤ n) (hx : s.cur.eng = .x) (hw : s.sl.writerOf n = 1) :
    queueMisused s n true true = false := by
  simp [queueMisused, hn, hx, hw, engCode]

section Put
variable {q : Seq} {f : FmtA} {s : State}

/-- QPUT takes a place of a scalar queue and fills it with the register and its mark (R135). -/
theorem exec_qput_scalar (h0 : f.sub = 0) (hn : f.dst < 4) (hw : s.sl.writerOf f.dst = engCode s.cur.eng)
    (hr : (s.sl.queue f.dst).hasRoom f.dst s.cyc = true) (h : canGo s (.qput q f) q [.s f.oa] = true) :
    exec (.qput q f) s = issued s (.qput q f) q
      { st := s.setSl (s.sl.reserveQueue f.dst), writes := [.q f.dst 2 (.s (s.e.sreg f.oa))] } :=
  exec_goes (by rfl) (by simp [h0, queueMisused_scalar hn, hw, hr]) (by simpa [h0] using h)

/-- The vector form takes a place of a vector queue, for engine X (R135). -/
theorem exec_qput_vector (h1 : f.sub = 1) (hn : 4 ≤ f.dst) (hx : s.cur.eng = .x) (hw : s.sl.writerOf f.dst = 1)
    (hr : (s.sl.queue f.dst).hasRoom f.dst s.cyc = true) (h : canGo s (.qput q f) q [.v f.oa] = true) :
    exec (.qput q f) s = issued s (.qput q f) q
      { st := s.setSl (s.sl.reserveQueue f.dst), writes := [.q f.dst 3 (.v (s.sl.vreg f.oa))] } :=
  exec_goes (by rfl) (by simp [h1, queueMisused_vector hn hx hw, hr]) (by simpa [h1] using h)

/-- An engine that is not the queue's writer is turned away (R96, R135). -/
theorem exec_qput_misused (h0 : f.sub = 0) (hn : f.dst < 4) (hw : s.sl.writerOf f.dst ≠ engCode s.cur.eng)
    (h : canGo s (.qput q f) q [.s f.oa] = true) : exec (.qput q f) s = faulted s 0x14 (BitVec.ofNat 64 (f.dst + 8)) :=
  exec_faults (by rfl) (by simp [h0, queueMisused_scalar hn, hw, misuse]) (by simpa [h0] using h)

end Put

section Get
variable {q : Seq} {f : FmtA} {s : State} (hn : f.oa < 4) (hr : s.sl.readerOf f.oa = engCode s.cur.eng)
include hn hr

/-- QGET takes the oldest entry of a scalar queue, with its mark (R135). -/
theorem exec_qget_scalar {r : SReg} (h0 : f.sub = 0) (hf : (s.sl.queue f.oa).front s.cyc = some (.s r))
    (h : canGo s (.qget q f) q [.s f.dst] = true) :
    exec (.qget q f) s = issued s (.qget q f) q
      { st := s.setSl (s.sl.setQueue f.oa ((s.sl.queue f.oa).dropFront s.cyc)), writes := [.s f.dst r] } :=
  exec_goes (by rfl) (by simp [h0, queueMisused_scalar hn, hr, hf]) (by simpa [h0] using h)

/-- A try at an empty queue clears cf and writes nothing (R135). -/
theorem exec_qget_tries (h2 : f.sub = 2) (hf : (s.sl.queue f.oa).front s.cyc = none) (h : canGo s (.qget q f) q [.s f.dst, .cf] = true) :
    exec (.qget q f) s = issued s (.qget q f) q { st := s, writes := [.cf false] } :=
  exec_goes (by rfl) (by simp [h2, queueMisused_scalar hn, hr, hf]) (by simpa [h2] using h)

end Get

/-- SBASE puts the write of STAMPBASE down for the end of the cycle (R136). -/
theorem exec_sbase_schedules {q : Seq} {f : FmtB} {s : State} (hm : s.markOf [f.oa] = none) (h : canGo s (.sbase q f) q [.s f.oa] = true) :
    exec (.sbase q f) s = issued s (.sbase q f) q { st := { s with ctlq := s.ctlq ++
      [⟨s.cur, s.cur.slot, 0x021, if f.sub = 0 then BitVec.ofNat 64 s.cyc + (s.sv f.oa + imm f) else s.sv f.oa + imm f⟩] } } :=
  exec_goes (by rfl) (consuming_of_unmarked hm) h

/-- Settles O7: the queue words by what QMAP and the queue allow, the others by their one act. In firmware context STAMPBASE is that of log 135. -/
theorem mailboxQueueAndTimeWords : Obligations.MailboxQueueAndTimeWords := by
  intro q f b g s
  exact ⟨fun h => exec_goes (by rfl) rfl h, exec_qput_scalar, exec_qput_vector, exec_qput_misused,
    fun r h0 hn hr => exec_qget_scalar hn hr h0, fun h2 hn hr => exec_qget_tries hn hr h2, exec_sbase_schedules,
    fun h => exec_goes (by rfl) rfl h⟩

/-! ### Traps and returns -/

/-- TRAP and BREAK raise the fault that they name, with their code as TRAPINFO (R140). -/
theorem trapWord_faults {i : Instr} {q : Seq} {f : FmtF} {code : Nat} {s : State} (h : canGo s i q [] = true) :
    trapWord i q f code s = faulted s code (BitVec.ofNat 64 f.imm16) :=
  wordIssue_fault h rfl rfl

section Return
variable {q : Seq} {f : FmtF} {s : State} (h : canGo s (.eret q f) q [.cf] = true)
include h

/-- A group may not return from a trap (R141). -/
theorem exec_eret_group (hfw : s.cur.fw = false) : exec (.eret q f) s = faulted s 0x19 0x2F :=
  exec_faults (by rfl) (by simp [hfw]) h

/-- ERET resumes the Faulted group of FWSLOT from the third cycle on (R141). -/
theorem exec_eret_resumes {n : Nat} {g : Group} (hfw : s.cur.fw = true)
    (hg : s.groupOf (slotKey s.cur.col (s.ctlSlot s.cur)) = some (n, g)) (hs : g.state = .faulted) :
    exec (.eret q f) s = issued s (.eret q f) q
      { st := s.resumeGroup s.cur.col (s.ctlSlot s.cur) (s.cyc + 3) (eretHow s s.cur.col (s.ctlSlot s.cur) (f.sub == 1)),
        writes := [.cf true] } :=
  exec_goes (by rfl) (by simp [hfw, hg, hs]) h

/-- With no group in FWSLOT it clears cf and does nothing else (R141). -/
theorem exec_eret_empty (hfw : s.cur.fw = true) (hg : s.groupOf (slotKey s.cur.col (s.ctlSlot s.cur)) = none) :
    exec (.eret q f) s = issued s (.eret q f) q { st := s, writes := [.cf false] } :=
  exec_goes (by rfl) (by simp [hfw, hg]) h

end Return

/-- Settles O9: ERET by who issues it and by the group that it finds. -/
theorem trapAndReturnWords : Obligations.TrapAndReturnWords := by
  intro q f s
  exact ⟨trapWord_faults, trapWord_faults,
    fun h => ⟨exec_eret_group h, fun n g hfw hg hs => exec_eret_resumes h hfw hg hs, exec_eret_empty h⟩⟩

end Sys2Proof.Machine
end

section
/-! PROOFS. Words that the spec writes out (R59–R61, R81, R82). -/

namespace Sys2Proof

/-- A word whose fields are an instruction's decodes to what the checks of R82 on that instruction answer. -/
theorem decodeWord_of_fields {w : Nat} {i : Instr} {r : Except DecodeError Instr} (hw : rawDecode w = some i) (hr : checkForm i = r) :
    decodeWord w = r := by
  rw [decodeWord, hw]
  exact hr

theorem decodeWord_of_valid_fields {w : Nat} {i : Instr} (hw : rawDecode w = some i) (hi : checkForm i = .ok i) : decodeWord w = .ok i :=
  decodeWord_of_fields hw hi

/-- A selector or an opcode that names nothing is refused (R61, R81). -/
theorem decodeWord_of_no_fields {w : Nat} (hw : rawDecode w = none) : decodeWord w = .error .illegal := by
  rw [decodeWord, hw]

/-- Settles O52: each word by its fields and by the checks on them. -/
theorem decodedWords : Obligations.DecodedWords := by
  refine ⟨?_, ?_, ?_, ?_, ?_, ?_, ?_, ?_, ?_, ?_, ?_, ?reservedBit, ?opcode, ?selector⟩
  case reservedBit => exact decodeWord_of_fields (i := .nop ⟨.next, false, false, false, false, 0, 0, 0⟩ ⟨0, 0, 0, 0, 0, 0, 0, 0, 1⟩) (by decide) (by decide +kernel)
  case opcode => exact decodeWord_of_no_fields (by decide)
  case selector => exact decodeWord_of_no_fields (by decide)
  all_goals exact decodeWord_of_valid_fields (by decide) (by decide)

end Sys2Proof
end

section
/-! PROOFS. The vector words that act element by element (R145–R152, R155): each by its operation, once the checks of R146 find nothing. -/

namespace Sys2Proof.Machine

/-! ### The checks of R146 -/

theorem lanesOk_iff {s : State} {srcs : List Src} {mask dst : Nat} {res : Option Nat} {consumed : List Nat} {m : BitVec 256} :
    lanesOk s srcs mask dst res consumed m = true ↔ tagFault s.sl srcs mask dst res = none ∧ laneMark s.sl m consumed = none := by
  simp [lanesOk]

/-- A word whose checks find nothing acts as it does. -/
theorem vchecks_of_lanesOk {s : State} {srcs : List Src} {mask dst : Nat} {res : Option Nat} {consumed : List Nat} {m : BitVec 256} {act : Act}
    (h : lanesOk s srcs mask dst res consumed m = true) : vchecks s srcs mask dst res consumed m [] act = act := by
  obtain ⟨htag, hmark⟩ := lanesOk_iff.1 h
  simp only [vchecks, htag, hmark, consuming_of_unmarked (markOf_nil s)]

theorem elementwise_of_ok {s : State} {f : FmtA} {n lat : Nat} {draws : Bool} {op : FCtl → Nat → List Nat → Nat × Nat}
    (h : elementsOk s f n = true) : elementwise f n draws lat op s = .go (lanewise s f n draws lat op) :=
  vchecks_of_lanesOk h

/-- An element-wise word issues with its operation on each element (R149). -/
theorem exec_elementwise {i : Instr} {q : Seq} {f : FmtA} {s : State} {n lat : Nat} {draws : Bool} {op op' : FCtl → Nat → List Nat → Nat × Nat}
    (hi : exec i s = wordIssue i q (vregsA f n) (elementwise f n draws lat op) s) (hok : elementsOk s f n = true) (hop : op = op')
    (h : canGo s i q (vregsA f n) = true) : exec i s = issued s i q (lanewise s f n draws lat op') :=
  exec_goes hi (hop ▸ elementwise_of_ok hok) h

/-! ### Arithmetic, functions, signs and shifts -/

/-- Settles O10: each word by its operation on the elements. -/
theorem vectorArithmeticWords : Obligations.VectorArithmeticWords := by
  intro q f s
  refine ⟨fun h => ⟨exec_elementwise (by rfl) h rfl, exec_elementwise (by rfl) h rfl, exec_elementwise (by rfl) h rfl,
      exec_elementwise (by rfl) h rfl, exec_elementwise (by rfl) h rfl, exec_elementwise (by rfl) h rfl⟩,
    fun h => exec_elementwise (by rfl) h ?fused,
    fun h => ⟨exec_elementwise (by rfl) h rfl, exec_elementwise (by rfl) h rfl, exec_elementwise (by rfl) h rfl,
      exec_elementwise (by rfl) h rfl, exec_elementwise (by rfl) h rfl⟩⟩
  case fused =>
    simp only [beq_iff_eq]
    rfl

/-- Settles O12: each word by its operation on the elements. -/
theorem vectorSignAndShiftWords : Obligations.VectorSignAndShiftWords := by
  intro q f s
  exact ⟨fun h => ⟨exec_elementwise (by rfl) h rfl, exec_elementwise (by rfl) h rfl⟩,
    fun h => ⟨exec_elementwise (by rfl) h rfl, exec_elementwise (by rfl) h rfl, exec_elementwise (by rfl) h rfl⟩⟩

/-- Settles O14: each word by its one act. -/
theorem maskWords : Obligations.MaskWords := by
  intro q f s
  exact ⟨fun h => exec_goes (by rfl) rfl h, fun h => exec_goes (by rfl) rfl h, fun h => exec_goes (by rfl) rfl h,
    fun h => exec_goes (by rfl) rfl h, fun h => exec_goes (by rfl) rfl h⟩

end Sys2Proof.Machine
end

section
/-! PROOFS. Lanes of 32-bit integers (R150, R151, R155): the one element of a lane, and what the integer operations make of it as a bit vector. -/

namespace Sys2Proof.Machine

/-! ### A lane with one element -/

@[simp] theorem elems_32 (l : Lane) : elems 32 l = [l.toNat] := by
  simp [elems, Nat.mod_eq_of_lt l.isLt]

@[simp] theorem packLane_32 (n : Nat) : packLane 32 [n] = BitVec.ofNat 32 n :=
  BitVec.eq_of_toNat_eq (by simp [packLane, packElems])

/-- An element of 32 bits read as a signed integer is its lane's. -/
theorem sint_32 (a : Lane) : sint 32 a.toNat = a.toInt := by
  rw [BitVec.toInt_eq_msb_cond, BitVec.msb_eq_getLsbD_last]
  rfl

/-- An integer reduced modulo 2^32 as a lane (R150). -/
theorem ofNat_emod (i : Int) : BitVec.ofNat 32 (i % (2 ^ 32 : Nat)).toNat = BitVec.ofInt 32 i := by
  have hlt : i % (2 ^ 32 : Nat) < (2 ^ 32 : Nat) := Int.emod_lt_of_pos i (by decide)
  exact BitVec.eq_of_toNat_eq (by rw [BitVec.toNat_ofNat, BitVec.toNat_ofInt, Nat.mod_eq_of_lt (by omega)])

@[simp] theorem element_zero (a : Nat) (t : List Nat) : element (a :: t) 0 = a := rfl
@[simp] theorem element_one (a b : Nat) (t : List Nat) : element (a :: b :: t) 1 = b := rfl

/-! ### A pass over the lanes -/

/-- A pass none of whose elements raises a flag raises none. -/
theorem foldl_or_zero {α : Type} {l : List α} {fl : α → Nat} (h : ∀ a ∈ l, fl a = 0) : l.foldl (fun n a => n ||| fl a) 0 = 0 :=
  List.foldlRecOn (motive := fun n => n = 0) _ _ rfl fun n hn a ha => by rw [hn, h a ha, Nat.or_zero]

section Pass
variable {c : FCtl} {op : Nat → List Nat → Nat × Nat} {m : BitVec 256} {srcs : List VReg} {gens : List Nat}

/-- A word that does not round and has lanes of one element gives each enabled lane its operation on the sources' lanes. -/
theorem lanePass_32_lanes {l : Nat} (hl : l < 256) (hm : m.getLsbD l = true) : (lanePass c false 32 op m srcs gens).lanes.getD l 0 =
    BitVec.ofNat 32 (op (drawOf (gens.getD l 0)) (srcs.map fun v => (v.lanes.getD l 0).toNat)).1 := by
  simp [lanePass, hl, hm, elemPass, Function.comp_def]

theorem lanePass_32_flags (h : ∀ d x, (op d x).2 = 0) : (lanePass c false 32 op m srcs gens).flags = 0 := by
  simp only [lanePass]
  refine foldl_or_zero fun r hr => ?_
  obtain ⟨l, -, rfl⟩ := List.mem_map.1 hr
  split
  · simp [elemPass, h]
  · rfl

end Pass

/-! ### A result merged into its destination -/

/-- A lane of an unscaled result is new where it is enabled, and stays where it is not (R145). -/
theorem mergeV_lane {old : VReg} {tag : Nat} {m : BitVec 256} {new : List Lane} {marks : Map Nat} {l : Nat} (ht : isScaled tag = false) (hl : l < 256) :
    (mergeV old tag m new marks).lanes.getD l 0 = if m.getLsbD l then new.getD l 0 else old.lanes.getD l 0 := by
  simp [mergeV, enabled, ht, hl]

/-! ### What the operations are on bit vectors -/

theorem ofInt_add_toInt (a b : Lane) : BitVec.ofInt 32 (a.toInt + b.toInt) = a + b := by
  rw [BitVec.ofInt_add, BitVec.ofInt_toInt, BitVec.ofInt_toInt]

theorem ofInt_sub_toInt (a b : Lane) : BitVec.ofInt 32 (a.toInt - b.toInt) = a - b := by
  rw [Int.sub_eq_add_neg, BitVec.sub_eq_add_neg, BitVec.ofInt_add, BitVec.ofInt_neg, BitVec.ofInt_toInt, BitVec.ofInt_toInt]

theorem ofInt_mul_toInt (a b : Lane) : BitVec.ofInt 32 (a.toInt * b.toInt) = a * b := by
  rw [BitVec.ofInt_mul, BitVec.ofInt_toInt, BitVec.ofInt_toInt]

theorem ofInt_neg_toInt (a : Lane) : BitVec.ofInt 32 (-a.toInt) = -a := by
  rw [BitVec.ofInt_neg, BitVec.ofInt_toInt]

/-- The smaller of two lanes (R151). -/
theorem ofNat_min (a b : Lane) : BitVec.ofNat 32 (minMaxInt 32 false false a.toNat b.toNat) = if a.slt b then a else b := by
  simp only [minMaxInt, sint_32, BitVec.slt, Bool.false_eq_true, if_false, decide_eq_true_eq]
  rcases lt_trichotomy a.toInt b.toInt with hlt | heq | hgt
  · simp [hlt, hlt.le.not_gt]
  · simp [BitVec.eq_of_toInt_eq heq]
  · simp [hgt, hgt.le.not_gt]

/-- The larger of two lanes (R151). -/
theorem ofNat_max (a b : Lane) : BitVec.ofNat 32 (minMaxInt 32 false true a.toNat b.toNat) = if a.slt b then b else a := by
  simp only [minMaxInt, sint_32, BitVec.slt, Bool.false_eq_true, if_false, if_true, decide_eq_true_eq]
  split <;> simp

theorem ofNat_shl (a : Lane) (n : Nat) : BitVec.ofNat 32 (a.toNat * 2 ^ n % 2 ^ 32) = a <<< n :=
  BitVec.eq_of_toNat_eq (by simp [Nat.shiftLeft_eq])

theorem ofNat_shr (a : Lane) (n : Nat) : BitVec.ofNat 32 (a.toNat / 2 ^ n) = a >>> n := by
  rw [← Nat.shiftRight_eq_div_pow, ← BitVec.toNat_ushiftRight, BitVec.ofNat_toNat, BitVec.setWidth_eq]

/-- An arithmetic shift divides the signed value, rounding down (R155). -/
theorem ofNat_sar (a : Lane) (n : Nat) : BitVec.ofNat 32 (sint 32 a.toNat / 2 ^ n % (2 ^ 32 : Nat)).toNat = a.sshiftRight n := by
  rw [sint_32, ofNat_emod, BitVec.sshiftRight, Int.shiftRight_eq_div_pow]
  norm_cast

/-- The magnitude of a lane, that of −2^31 modulo 2^32 (R150). -/
theorem ofInt_natAbs (a : Lane) : BitVec.ofInt 32 (a.toInt.natAbs : Int) = if a.msb then -a else a := by
  rw [BitVec.msb_eq_toInt]
  by_cases hneg : a.toInt < 0
  · rw [Int.ofNat_natAbs_of_nonpos hneg.le, ofInt_neg_toInt]
    simp [hneg]
  · rw [Int.natAbs_of_nonneg (Int.not_lt.1 hneg), BitVec.ofInt_toInt]
    simp [hneg]

/-! ### The words -/

/-- A word issues with lanes of I32: `r l` in each enabled lane `l`, the others as they are, no flag and no generator touched. -/
def IssuesLanes (s : State) (i : Instr) (q : Seq) (f : FmtA) (lat : Nat) (r : Nat → Lane) : Prop :=
  ∃ v : VReg, exec i s = issued s i q (vectorDone s f.dst v 0 none lat) ∧ v.tag = 8 ∧
    ∀ l < 256, v.lanes.getD l 0 = if (s.sl.kreg f.mask).getLsbD l then r l else (s.sl.vreg f.dst).lanes.getD l 0

section Words
variable {i : Instr} {q : Seq} {f : FmtA} {s : State} {n lat : Nat}

/-- The elements of the sources of a word in a lane of 32 bits. -/
def sourceLanes (s : State) (f : FmtA) (n l : Nat) : List Nat := (([f.oa, f.ob, f.oc].take n).map s.sl.vreg).map fun v => (v.lanes.getD l 0).toNat

theorem sourceLanes_one (l : Nat) : sourceLanes s f 1 l = [((s.sl.vreg f.oa).lanes.getD l 0).toNat] := rfl
theorem sourceLanes_two (l : Nat) : sourceLanes s f 2 l = [((s.sl.vreg f.oa).lanes.getD l 0).toNat, ((s.sl.vreg f.ob).lanes.getD l 0).toNat] := rfl

/-- An element-wise word of I32 that does not round issues with its operation on the lanes of its sources. -/
theorem issuesLanes_of_elementwise {draws : Bool} {op : FCtl → Nat → List Nat → Nat × Nat} {r : List Nat → Nat}
    (hi : exec i s = wordIssue i q (vregsA f n) (elementwise f n draws lat op) s) (h8 : f.fmt = 8) (hd : draws = false)
    (hop : ∀ c d x, op c d x = (r x, 0)) (hok : elementsOk s f n = true) (h : canGo s i q (vregsA f n) = true) :
    IssuesLanes s i q f lat fun l => BitVec.ofNat 32 (r (sourceLanes s f n l)) := by
  have hw : tagWidth f.fmt = 32 := by rw [h8]; rfl
  have hissue := exec_elementwise hi hok (funext₃ hop) h
  simp only [lanewise, hw, hd, lanePass_32_flags (op := fun _ x => (r x, 0)) (fun _ _ => rfl), Bool.false_and, Bool.false_eq_true, if_false] at hissue
  refine ⟨_, hissue, h8, fun l hl => ?_⟩
  rw [mergeV_lane (by rw [h8]; rfl) hl]
  split
  case isTrue hm => rw [lanePass_32_lanes hl hm]; rfl
  case isFalse => rfl

section Integer
variable (h8 : f.fmt = 8) (h0 : f.sub = 0)
include h8 h0

/-- VADD, VSUB and VMUL wrap (R150). -/
theorem issuesLanes_of_arith {fop : FFmt → FCtl → Nat → Nat → Nat → Nat × Nat} {iop : Int → Int → Int} {r : Lane → Lane → Lane}
    (hr : ∀ a b : Lane, BitVec.ofInt 32 (iop a.toInt b.toInt) = r a b) (hi : exec i s = wordIssue i q (vregsA f 2) (vArith f lat fop iop) s)
    (hok : elementsOk s f 2 = true) (h : canGo s i q (vregsA f 2) = true) :
    IssuesLanes s i q f lat fun l => r ((s.sl.vreg f.oa).lanes.getD l 0) ((s.sl.vreg f.ob).lanes.getD l 0) := by
  unfold vArith at hi
  have hlanes := issuesLanes_of_elementwise (r := fun x => (iop (sint 32 (element x 0)) (sint 32 (element x 1)) % (2 ^ 32 : Nat)).toNat) hi h8
    (by rw [h8]; rfl) (fun c d x => by rw [h8, h0]; rfl) hok h
  simpa only [ofNat_emod, sourceLanes_two, element_zero, element_one, sint_32, hr] using hlanes

/-- VABS and VNEG wrap (R150). -/
theorem issuesLanes_of_sign {neg : Bool} {r : Lane → Lane} (hr : ∀ a : Lane, BitVec.ofInt 32 (if neg then -a.toInt else a.toInt.natAbs) = r a)
    (hi : exec i s = wordIssue i q (vregsA f 1) (vSign f neg) s) (hok : elementsOk s f 1 = true) (h : canGo s i q (vregsA f 1) = true) :
    IssuesLanes s i q f 2 fun l => r ((s.sl.vreg f.oa).lanes.getD l 0) := by
  unfold vSign at hi
  have hlanes := issuesLanes_of_elementwise
    (r := fun x => ((if neg then -sint 32 (element x 0) else (sint 32 (element x 0)).natAbs) % (2 ^ 32 : Nat)).toNat) hi h8 rfl
    (fun c d x => by rw [h8, h0]; rfl) hok h
  simpa only [ofNat_emod, sourceLanes_one, element_zero, sint_32, hr] using hlanes

theorem issuesLanes_of_minMax {mx : Bool} {r : Lane → Lane → Lane} (hr : ∀ a b : Lane, BitVec.ofNat 32 (minMaxInt 32 false mx a.toNat b.toNat) = r a b)
    (hi : exec i s = wordIssue i q (vregsA f 2) (vMinMax f mx) s) (hok : elementsOk s f 2 = true) (h : canGo s i q (vregsA f 2) = true) :
    IssuesLanes s i q f 2 fun l => r ((s.sl.vreg f.oa).lanes.getD l 0) ((s.sl.vreg f.ob).lanes.getD l 0) := by
  unfold vMinMax at hi
  have hlanes := issuesLanes_of_elementwise (r := fun x => minMaxInt 32 false mx (element x 0) (element x 1)) hi h8 rfl
    (fun c d x => by rw [h8, h0]; rfl) hok h
  simpa only [sourceLanes_two, element_zero, element_one, hr] using hlanes

end Integer

/-- A shift by the low five bits of the second lane (R155). -/
theorem issuesLanes_of_shift {op : Nat → Nat → Nat → Nat} {r : Lane → Nat → Lane} (h8 : f.fmt = 8)
    (hr : ∀ (a : Lane) n, BitVec.ofNat 32 (op 32 a.toNat n) = r a n)
    (hi : exec i s = wordIssue i q (vregsA f 2) (vShiftBits f op) s) (hok : elementsOk s f 2 = true) (h : canGo s i q (vregsA f 2) = true) :
    IssuesLanes s i q f 2 fun l => r ((s.sl.vreg f.oa).lanes.getD l 0) (((s.sl.vreg f.ob).lanes.getD l 0).toNat % 32) := by
  unfold vShiftBits at hi
  have hlanes := issuesLanes_of_elementwise (r := fun x => op 32 (element x 0) (element x 1 % 32)) hi h8 rfl
    (fun c d x => by rw [h8]; rfl) hok h
  simpa only [sourceLanes_two, element_zero, element_one, hr] using hlanes

end Words

/-- Settles O11: each word by what its operation is on bit vectors. -/
theorem vectorIntegerLanes : Obligations.VectorIntegerLanes := by
  intro q f s h8 h0
  exact ⟨fun h => ⟨issuesLanes_of_arith h8 h0 ofInt_add_toInt (by rfl) h, issuesLanes_of_arith h8 h0 ofInt_sub_toInt (by rfl) h,
      issuesLanes_of_arith h8 h0 ofInt_mul_toInt (by rfl) h, issuesLanes_of_minMax h8 h0 ofNat_min (by rfl) h,
      issuesLanes_of_minMax h8 h0 ofNat_max (by rfl) h, issuesLanes_of_shift h8 ofNat_shl (by rfl) h,
      issuesLanes_of_shift h8 ofNat_shr (by rfl) h, issuesLanes_of_shift h8 ofNat_sar (by rfl) h⟩,
    fun h => ⟨issuesLanes_of_sign (neg := true) h8 h0 ofInt_neg_toInt (by rfl) h, issuesLanes_of_sign (neg := false) h8 h0 ofInt_natAbs (by rfl) h⟩⟩

end Sys2Proof.Machine
end

section
/-! PROOFS. Compares, selects, raw bits and moves (R153–R155, R161, R162). -/

namespace Sys2Proof.Machine

@[simp] theorem State.sl_setSl (s : State) (l : Slot) : (s.setSl l).sl = l := State.slotAt_setSlot_same ..

/-- An entry of a list that is given by its place. -/
theorem getD_map_range {α : Type} {n l : Nat} (hl : l < n) {g : Nat → α} {d : α} : ((List.range n).map g).getD l d = g l := by
  simp [hl]

/-! ### Masks -/

/-- The number with bit `l` set where `p l`, for `l` below `n`. -/
theorem testBit_foldr_range (p : Nat → Bool) (n l : Nat) :
    ((List.range n).foldr (fun l k => 2 * k + (p l).toNat) 0).testBit l = (decide (l < n) && p l) := by
  induction n generalizing p l with
  | zero => simp
  | succ n ih =>
    rw [List.range_succ_eq_map, List.foldr_cons, List.foldr_map, ← Nat.bit_val]
    cases l with
    | zero => simp
    | succ l => rw [Nat.testBit_bit_succ, ih (fun i => p (i + 1))]; simp

theorem getLsbD_maskFrom (p : Nat → Bool) {l : Nat} (hl : l < 256) : (maskFrom p).getLsbD l = p l := by
  rw [maskFrom, BitVec.getLsbD_ofNat, testBit_foldr_range, decide_eq_true hl, Bool.true_and, Bool.true_and]

/-- The mask of an unscaled result is the mask itself (R145). -/
theorem effMask_unscaled (m : BitVec 256) {tag : Nat} (h : isScaled tag = false) : effMask m tag = m := by
  simp [effMask, h]

section Words
variable {q : Seq} {f : FmtA} {s : State}

/-! ### Compare and select -/

/-- VCMP writes each lane's bit, 0 for a disabled lane; a compare of integers raises no flag (R153). -/
theorem exec_vcmp_writes (hok : lanesOk s [⟨f.oa, f.fmt, 0⟩, ⟨f.ob, f.fmt, 1⟩] 0 0 none [f.oa, f.ob] (s.sl.kreg f.mask) = true)
    (h : canGo s (.vcmp q f) q [.k f.mask, .k f.dst, .v f.oa, .v f.ob] = true) : ∃ r : BitVec 256, ∃ fl : Nat,
      exec (.vcmp q f) s = issued s (.vcmp q f) q { st := s.setSl (s.sl.raise fl), lat := 2, writes := [.k f.dst r] } ∧
      (∀ l < 256, r.getLsbD l = ((s.sl.kreg f.mask).getLsbD l &&
        if f.fmt = 8 then condHolds f.sub ((s.sl.vreg f.oa).lanes.getD l 0) ((s.sl.vreg f.ob).lanes.getD l 0)
        else (fCmp (fctl (s.sl.ctlr 0) f.rnd) f.sub ((s.sl.vreg f.oa).lanes.getD l 0).toNat ((s.sl.vreg f.ob).lanes.getD l 0).toNat).1)) ∧
      (f.fmt = 8 → fl = 0) := by
  refine ⟨_, _, exec_goes (by rfl) (vchecks_of_lanesOk hok) h, fun l hl => ?bit, fun h8 => ?flags⟩
  case bit =>
    rw [getLsbD_maskFrom _ hl, getD_map_range hl]
    cases (s.sl.kreg f.mask).getLsbD l with
    | false => rfl
    | true => by_cases h8 : f.fmt = 8 <;> simp [h8]
  case flags =>
    refine foldl_or_zero fun r hr => ?_
    obtain ⟨l, -, rfl⟩ := List.mem_map.1 hr
    simp only [h8, if_true]
    split <;> rfl

/-- With FMT = BITS a select checks no tag (R154). -/
theorem exec_vsel_chooses (hok : lanesOk s (if f.fmt = 0 then [] else [⟨f.oa, f.fmt, 0⟩, ⟨f.ob, f.fmt, 1⟩]) f.mask f.dst
      (if f.fmt = 0 then none else some f.fmt) [f.oa, f.ob] (effMask (s.sl.kreg f.mask) f.fmt) = true)
    (h : canGo s (.vsel q f) q [.k f.mask, .k f.oc, .v f.dst, .v f.oa, .v f.ob] = true) : exec (.vsel q f) s = issued s (.vsel q f) q
      (vectorDone s f.dst (mergeV (s.sl.vreg f.dst) f.fmt (effMask (s.sl.kreg f.mask) f.fmt) ((List.range 256).map fun l =>
        if (effMask (s.sl.kreg f.oc) f.fmt).getLsbD l then (s.sl.vreg f.oa).lanes.getD l 0 else (s.sl.vreg f.ob).lanes.getD l 0)) 0 none 2) :=
  exec_goes (by rfl) (by simp only [beq_iff_eq]; exact vchecks_of_lanesOk hok) h

theorem exec_vBits {i : Instr} {op : Lane → Lane → Lane} (hi : exec i s = wordIssue i q (vregsA f 2) (vBits f op) s)
    (hok : lanesOk s [] 0 0 none [f.oa, f.ob] (effMask (s.sl.kreg f.mask) f.fmt) = true) (h : canGo s i q (vregsA f 2) = true) :
    exec i s = issued s i q (vectorDone s f.dst (mergeV (s.sl.vreg f.dst) f.fmt (effMask (s.sl.kreg f.mask) f.fmt)
      (List.zipWith op (s.sl.vreg f.oa).lanes (s.sl.vreg f.ob).lanes)) 0 none 2) :=
  exec_goes hi (vchecks_of_lanesOk hok) h

/-! ### Permutations and moves -/

/-- A source that is scaled, or whose tag R40 does not list, does not fit VPERM (R161). -/
theorem exec_vperm_mismatch (ht : (isScaled (s.sl.vreg f.oa).tag || !Use.legalTags.contains (s.sl.vreg f.oa).tag) = true)
    (h : canGo s (.vperm q f) q (vregsA f 2) = true) : exec (.vperm q f) s = faulted s 0x04 (mismatchInfo 0 (s.sl.vreg f.oa).tag f.oa 0) :=
  exec_faults (by rfl) (if_pos ht) h

/-- Registers without marks have none on the lanes that VPERM reads (R146, R161). -/
theorem exec_vperm_permutes (hs : isScaled (s.sl.vreg f.oa).tag = false) (ht : Use.legalTags.contains (s.sl.vreg f.oa).tag = true)
    (hok : lanesOk s [⟨f.ob, 8, 1⟩] f.mask f.dst (some (s.sl.vreg f.oa).tag) [] (s.sl.kreg f.mask) = true)
    (ha : (s.sl.vreg f.oa).marks = []) (hb : (s.sl.vreg f.ob).marks = []) (h : canGo s (.vperm q f) q (vregsA f 2) = true) :
    exec (.vperm q f) s = issued s (.vperm q f) q (vectorDone s f.dst (mergeV (s.sl.vreg f.dst) (s.sl.vreg f.oa).tag (s.sl.kreg f.mask)
      ((List.range 256).map fun l => (s.sl.vreg f.oa).lanes.getD (((s.sl.vreg f.ob).lanes.getD l 0).toNat % 256) 0)) 0 none 8) := by
  have hfit : (isScaled (s.sl.vreg f.oa).tag || !Use.legalTags.contains (s.sl.vreg f.oa).tag) = false := by rw [hs, ht]; rfl
  refine exec_goes (by rfl) ?_ h
  simp only [hfit, ha, hb, effMask_unscaled _ hs, Bool.false_eq_true, if_false]
  rw [List.findSome?_eq_none_iff.2 fun l _ => by split <;> rfl]
  exact vchecks_of_lanesOk hok

/-- A move whose destination has the vector's tag, where a mask asks for it, takes the vector with its marks (R42, R162). -/
theorem moveV_of_lanesOk {v : VReg} {m : BitVec 256} (st : State) (lat : Nat) (hok : lanesOk s [] f.mask f.dst (some v.tag) [] m = true) :
    moveV s f v st lat = .go (vectorDone st f.dst (mergeV (s.sl.vreg f.dst) v.tag (s.sl.kreg f.mask) v.lanes v.marks) 0 none lat) := by
  rw [moveV, (lanesOk_iff.1 hok).1]
  rfl

theorem exec_vmov_register (h0 : f.sub = 0) (hok : lanesOk s [] f.mask f.dst (some (s.sl.vreg f.oa).tag) [] (s.sl.kreg f.mask) = true)
    (h : canGo s (.vmov q f) q [.k f.mask, .v f.dst, .v f.oa] = true) : exec (.vmov q f) s = issued s (.vmov q f) q
      (vectorDone s f.dst (mergeV (s.sl.vreg f.dst) (s.sl.vreg f.oa).tag (s.sl.kreg f.mask) (s.sl.vreg f.oa).lanes (s.sl.vreg f.oa).marks) 0 none 2) :=
  exec_goes (by rfl) (by simpa [h0] using moveV_of_lanesOk s 2 hok) (by rw [h0]; exact h)

/-- A move from a stream port takes the oldest vector that has arrived there (R162, R294). -/
theorem exec_vmov_port {v : VReg} (h1 : f.sub = 1) (hv : (s.sl.ports.getD f.oa {}).held.head? = some v)
    (hok : lanesOk s [] f.mask f.dst (some v.tag) [] (s.sl.kreg f.mask) = true) (h : canGo s (.vmov q f) q [.k f.mask, .v f.dst] = true) :
    exec (.vmov q f) s = issued s (.vmov q f) q
      (vectorDone (s.setSl { s.sl with ports := s.sl.ports.put f.oa (s.sl.ports.getD f.oa {}).take }) f.dst
        (mergeV (s.sl.vreg f.dst) v.tag (s.sl.kreg f.mask) v.lanes v.marks) 0 none 2) :=
  exec_goes (by rfl) (by simpa [h1, hv] using moveV_of_lanesOk _ 2 hok) (by rw [h1]; exact h)

/-- A word with one scalar operand and no vector source writes its lanes (R162). -/
theorem exec_spread {i : Instr} {own : State → Act} {tag : Nat} {lanes : List Lane} (hi : exec i s = wordIssue i q [.k f.mask, .v f.dst, .s f.oa] own s)
    (ho : own s = vchecks s [] f.mask f.dst (some tag) [] 0 [f.oa]
      (vres s f.dst (mergeV (s.sl.vreg f.dst) tag (s.sl.kreg f.mask) lanes) 0 none 2))
    (hm : s.markOf [f.oa] = none) (hok : lanesOk s [] f.mask f.dst (some tag) [] 0 = true) (h : canGo s i q [.k f.mask, .v f.dst, .s f.oa] = true) :
    exec i s = issued s i q (vectorDone s f.dst (mergeV (s.sl.vreg f.dst) tag (s.sl.kreg f.mask) lanes) 0 none 2) := by
  obtain ⟨htag, hmark⟩ := lanesOk_iff.1 hok
  refine exec_goes hi (ho.trans ?_) h
  simp only [vchecks, htag, hmark, consuming_of_unmarked hm]
  rfl

/-- VEXT reads one element, or 0 past the last one (R162). -/
theorem exec_vext_reads (hm : s.markOf [f.ob] = none) (ha : (s.sl.vreg f.oa).marks = []) (h : canGo s (.vext q f) q [.s f.dst, .v f.oa, .s f.ob] = true) :
    exec (.vext q f) s = issued s (.vext q f) q (scalarDone s f.dst
      (if 256 * (32 / tagWidth f.fmt) ≤ (s.sv f.ob).toNat then 0
        else
          let e := element (elems (tagWidth f.fmt) ((s.sl.vreg f.oa).lanes.getD ((s.sv f.ob).toNat / (32 / tagWidth f.fmt)) 0))
            ((s.sv f.ob).toNat % (32 / tagWidth f.fmt))
          if f.sub % 2 = 1 then BitVec.ofInt 64 (sint (tagWidth f.fmt) e) else BitVec.ofNat 64 e) 4) := by
  refine exec_goes (by rfl) ((consuming_of_unmarked hm).trans ?_) h
  rw [ha]
  split <;> rfl

end Words

/-- Settles O13: each word by what it chooses or moves. -/
theorem vectorSelectAndMoveWords : Obligations.VectorSelectAndMoveWords := by
  intro q f s
  refine ⟨exec_vcmp_writes, exec_vsel_chooses, fun h => ⟨exec_vBits (by rfl) h, exec_vBits (by rfl) h, exec_vBits (by rfl) h⟩, exec_vperm_mismatch,
    exec_vperm_permutes, exec_vmov_register, fun v h1 hv hok h => ⟨_, exec_vmov_port h1 hv hok h, rfl, ?port⟩,
    fun hm => ⟨exec_spread (by rfl) rfl hm, exec_spread (by rfl) rfl hm⟩, exec_vext_reads⟩
  case port => simp [vectorDone, Slot.raise, StreamPort.take]

end Sys2Proof.Machine
end

section
/-! PROOFS. Shifts between cells and columns, and the local conditional streams (R163–R169). -/

namespace Sys2Proof.Machine

/-- A word that checks nothing at decode and is not ready leaves the state as it is. -/
theorem exec_waits {i : Instr} {q : Seq} {regs : List Reg} {own : State → Act} {s : State} (hi : exec i s = wordIssue i q regs own s)
    (ho : own s = .wait) (h : canGo s i q regs = true) : exec i s = .next s :=
  hi.trans (wordIssue_wait h rfl ho)

section Words
variable {q : Seq} {f : FmtA} {s : State}

/-! ### Shifts -/

/-- How far the source lane of a shift between cells lies beyond its destination (R163). -/
def cellStep (f : FmtA) : Nat := if f.sub % 8 = 4 then 240 else 16

/-- The vector that a shift between cells makes of its source (R163). -/
def cellShifted (f : FmtA) (v : VReg) : VReg :=
  { tag := v.tag, lanes := (List.range 256).map fun l => v.lanes.getD ((l + cellStep f) % 256) 0,
    marks := (List.range 256).filterMap fun l => (v.marks.get? ((l + cellStep f) % 256)).map fun x => (l, x) }

/-- A shift between cells moves the shifted vector under its mask (R163). -/
theorem exec_vshift_cells (hd : 4 ≤ f.sub % 8) (hok : lanesOk s [] f.mask f.dst (some (s.sl.vreg f.oa).tag) [] (s.sl.kreg f.mask) = true)
    (h : canGo s (.vshift q f) q (vregsA f 1) = true) : exec (.vshift q f) s = issued s (.vshift q f) q
      (vectorDone s f.dst (mergeV (s.sl.vreg f.dst) (s.sl.vreg f.oa).tag (s.sl.kreg f.mask) (cellShifted f (s.sl.vreg f.oa)).lanes
        (cellShifted f (s.sl.vreg f.oa)).marks) 0 none 1) :=
  exec_goes (by rfl) ((if_neg (Nat.not_lt.2 hd)).trans (moveV_of_lanesOk (v := cellShifted f (s.sl.vreg f.oa)) s 1 hok)) h

theorem cellShifted_lane (v : VReg) {l : Nat} (hl : l < 256) :
    (cellShifted f v).lanes.getD l 0 = v.lanes.getD ((l + if f.sub % 8 = 4 then 240 else 16) % 256) 0 :=
  getD_map_range (g := fun l => v.lanes.getD ((l + cellStep f) % 256) 0) hl

/-- Without a partner on its side a send is discarded (R165). -/
theorem shiftSend_alone {dir : Nat} {v : VReg} (hp : shiftPartner s s.cur (neighbour s.cur.col (dir + 1)) = none) :
    shiftSend s dir v = some s := by
  simp only [shiftSend, hp]

/-- Without a partner on its side a receive gives zeros (R165). -/
theorem shiftRecv_alone {dir tag : Nat} (hp : shiftPartner s s.cur (neighbour s.cur.col ((dir ^^^ 1) + 1)) = none) :
    shiftRecv f dir tag s =
      { st := s, lat := 2, writes := [.v f.dst (mergeV (s.sl.vreg f.dst) tag (s.sl.kreg f.mask) (List.replicate 256 0))] } := by
  simp only [shiftRecv, hp]

theorem exec_vshift_alone (hd : f.sub % 8 < 4) (hok : lanesOk s [] f.mask f.dst (some (s.sl.vreg f.oa).tag) [] (s.sl.kreg f.mask) = true)
    (hs : shiftPartner s s.cur (neighbour s.cur.col (f.sub % 8 + 1)) = none)
    (hr : shiftPartner s s.cur (neighbour s.cur.col ((f.sub % 8 ^^^ 1) + 1)) = none) (h : canGo s (.vshift q f) q (vregsA f 1) = true) :
    exec (.vshift q f) s = issued s (.vshift q f) q
      { st := s, lat := 2, writes := [.v f.dst (mergeV (s.sl.vreg f.dst) (s.sl.vreg f.oa).tag (s.sl.kreg f.mask) (List.replicate 256 0))] } := by
  refine exec_goes (by rfl) ?_ h
  simp only [if_pos hd, (lanesOk_iff.1 hok).1, shiftSend_alone hs, shiftRecv_alone hr]

/-! ### Conditional streams -/

/-- The stream that a push of `recs` leaves: an empty one takes the tag of the push (R167, R168). -/
def CStream.pushed (cs : CStream) (tag : Nat) (recs : List Lane) : CStream :=
  if recs.isEmpty then cs else { tag := tag, recs := cs.recs ++ recs }

theorem CStream.pushed_recs (cs : CStream) (tag : Nat) (recs : List Lane) : (cs.pushed tag recs).recs = cs.recs ++ recs := by
  cases recs with
  | nil => exact (List.append_nil _).symm
  | cons => rfl

/-- A source with the tag of the word is no mismatch (R41). -/
theorem tagFault_of_tag {l : Slot} {r tag pos : Nat} (h : tag = (l.vreg r).tag) : tagFault l [⟨r, tag, pos⟩] 0 0 none = none := by
  simp [tagFault, h]

/-- The tag of a stream that is empty, or that carries the tag of the word, fits the word (R168, R169). -/
theorem stream_fits {cs : CStream} {tag : Nat} (h : cs.recs = [] ∨ cs.tag = tag) : (!cs.recs.isEmpty && cs.tag != tag) = false := by
  rcases h with h | h <;> simp [h]

section Push
variable (ht : f.fmt = (s.sl.vreg f.oa).tag) (hl : sharedStream s (f.sub % 4) = false)
  (hs : (s.sl.cstream (f.sub % 4)).recs = [] ∨ (s.sl.cstream (f.sub % 4)).tag = f.fmt) (hm : (laneMark s.sl (s.sl.kreg f.mask) [f.oa]).isNone = true)
  (h : canGo s (.cspush q f) q [.k f.mask, .v f.oa] = true)
include ht hl hs hm h

/-- A push into a local stream with room appends the enabled lanes (R168). -/
theorem exec_cspush_appends (hroom : (s.sl.cstream (f.sub % 4)).recs.length + (pushRecords s f).length ≤ 1024) :
    exec (.cspush q f) s = issued s (.cspush q f) q
      { st := s.setSl { s.sl with
          cstreams := s.sl.cstreams.put (f.sub % 4) ((s.sl.cstream (f.sub % 4)).pushed f.fmt (pushRecords s f)) }, lat := 2 } := by
  refine exec_goes (by rfl) ?_ h
  simp only [hl, tagFault_of_tag ht, stream_fits hs, Option.isNone_iff_eq_none.1 hm, if_neg (Nat.not_lt.2 hroom), Bool.false_and, Bool.false_eq_true,
    if_false]
  rfl

/-- A push into a local stream without room waits (R168). -/
theorem exec_cspush_waits (hfull : 1024 < (s.sl.cstream (f.sub % 4)).recs.length + (pushRecords s f).length) : exec (.cspush q f) s = .next s := by
  refine exec_waits (by rfl) ?_ h
  simp only [hl, tagFault_of_tag ht, stream_fits hs, Option.isNone_iff_eq_none.1 hm, if_pos hfull, Bool.false_and, Bool.false_eq_true, if_false]

end Push

/-- A pop of a local stream takes records from its head (R169). -/
theorem exec_cspop_takes {t : Nat} (hn : f.sub / 8 % 2 = 0) (hl : sharedStream s (f.sub % 4) = false)
    (hc : popCountOf f (s.sl.cstream (f.sub % 4)).recs.length = some t)
    (hs : (s.sl.cstream (f.sub % 4)).recs = [] ∨ (s.sl.cstream (f.sub % 4)).tag = f.fmt) (h : canGo s (.cspop q f) q [.v f.dst, .k f.ob] = true) :
    exec (.cspop q f) s = issued s (.cspop q f) q
      { st := s.setSl { s.sl with
          cstreams := s.sl.cstreams.put (f.sub % 4) { s.sl.cstream (f.sub % 4) with recs := (s.sl.cstream (f.sub % 4)).recs.drop t } }, lat := 2,
        writes := popWrites f ((s.sl.cstream (f.sub % 4)).recs.take t) } := by
  have hfits : ¬((s.sl.cstream (f.sub % 4)).recs.length ≠ 0 ∧ (s.sl.cstream (f.sub % 4)).tag ≠ f.fmt) := by
    rintro ⟨hne, htag⟩
    exact hs.elim (fun hnil => hne (by rw [hnil]; rfl)) htag
  refine exec_goes (by rfl) ?_ (by rw [hn]; exact h)
  simp only [hl, hc, Bool.false_eq_true, if_false, if_neg hfits]

end Words

/-- Settles O16: each word by its side, its stream's mode and what the stream holds. -/
theorem shiftAndStreamWords : Obligations.ShiftAndStreamWords := by
  intro q f s
  refine ⟨fun hok h => ⟨fun hd => ⟨_, exec_vshift_cells hd hok h, rfl, fun hu l hl => ?lane⟩, fun hd hs hr => exec_vshift_alone hd hok hs hr h⟩,
    fun ht hl hs hm hroom h => ⟨_, exec_cspush_appends ht hl hs hm h hroom, rfl, rfl, ?records⟩,
    fun ht hl hs hm hfull h => exec_cspush_waits ht hl hs hm h hfull, fun t hn hl hc hs h => exec_cspop_takes hn hl hc hs h⟩
  case lane => rw [mergeV_lane hu hl, cellShifted_lane _ hl]
  case records => simp [Slot.cstream, CStream.pushed_recs]

end Sys2Proof.Machine
end

section
/-! PROOFS. A scan of a register that is short of lanes (R33, R160). -/

namespace Sys2Proof.Machine

/-! ### What a word in flight will write -/

theorem finish_last_writes {s : State} {i : Instr} {q : Seq} {d : Done} {live : Bool} (h : 1 < d.lat) :
    (s.finish i q d live).flights.getLast?.map Flight.writes = some d.writes := by
  have hflies : ¬(d.lat ≤ 1 ∧ d.pend = .none) := fun hd => absurd hd.1 (by omega)
  simp only [State.finish, if_neg hflies, apply_ite State.flights, State.due_flights, ite_self, List.getLast?_concat, Option.map_some]

/-- A word that goes into flight issues with one list of results only. -/
theorem writes_eq_of_issued_eq {s : State} {i : Instr} {q : Seq} {d d' : Done} (h : 1 < d.lat) (h' : 1 < d'.lat)
    (he : issued s i q d = issued s i q d') : d.writes = d'.writes := by
  have hstate : s.finish i q d true = s.finish i q d' true := Host.Outcome.next.inj he
  exact Option.some.inj (by rw [← finish_last_writes h, hstate, finish_last_writes h'])

/-! ### The outputs of a scan -/

/-- A scan has one output for each lane that the register holds. -/
theorem length_scanFrom {α : Type} (o : ScanOps α) (c : FCtl) (excl : Bool) (w : Nat) (m : BitVec 256) (xs : List (Lane × Nat)) (l : Nat) (a : α) :
    (scanFrom o c excl w m xs l a).length = xs.length := by
  induction xs generalizing l a with
  | nil => rfl
  | cons x xs ih =>
    rw [scanFrom]
    split <;> simp [ih]

/-- The outputs of the word's scan of its source: lane, flags and generator of each. -/
def scanRows {α : Type} (o : ScanOps α) (s : State) (f : FmtA) : List (Lane × Nat × Nat) :=
  scanFrom o (fctl (s.sl.ctlr 0) f.rnd) (f.sub % 2 == 1) (tagWidth f.fmt) (s.sl.kreg f.mask) ((s.sl.vreg f.oa).lanes.zip s.sl.genList) 0 o.start

section Scan
variable {f : FmtA} {s : State}

theorem scanRows_past {α : Type} {o : ScanOps α} {l : Nat} (h : (s.sl.vreg f.oa).lanes.length ≤ l) :
    ((scanRows o s f).map (·.1)).getD l 0 = 0 := by
  refine List.getD_eq_default _ _ ?_
  rw [List.length_map, scanRows, length_scanFrom, List.length_zip]
  exact (Nat.min_le_left ..).trans h

variable (hok : lanesOk s [⟨f.oa, f.fmt, 0⟩] f.mask f.dst (some f.fmt) [f.oa] (s.sl.kreg f.mask) = true)
include hok

theorem scanResult_of_lanesOk {α : Type} (o : ScanOps α) : ∃ fl g, scanResult o f (fctl (s.sl.ctlr 0) f.rnd) s =
    .go (vectorDone s f.dst (mergeV (s.sl.vreg f.dst) f.fmt (s.sl.kreg f.mask) ((scanRows o s f).map (·.1))) fl g 16) :=
  ⟨_, _, vchecks_of_lanesOk hok⟩

/-- The running sum of integer elements of width `w` (R160). -/
def intSum (w : Nat) : ScanOps Int := { start := 0, step := fun a x => a + sint w x, out := fun _ a => intRes w false a, draws := false }

theorem exec_vscan_sums {q : Seq} (hint : isInt f.fmt = true) (h0 : f.sub / 2 % 4 = 0) (h : canGo s (.vscan q f) q (vregsA f 1) = true) :
    ∃ fl g, exec (.vscan q f) s = issued s (.vscan q f) q (vectorDone s f.dst
      (mergeV (s.sl.vreg f.dst) f.fmt (s.sl.kreg f.mask) ((scanRows (intSum (tagWidth f.fmt)) s f).map (·.1))) fl g 16) := by
  obtain ⟨fl, g, hact⟩ := scanResult_of_lanesOk hok (intSum (tagWidth f.fmt))
  exact ⟨fl, g, exec_goes (by rfl) (by simp only [if_pos h0, if_pos hint]; exact hact) h⟩

end Scan

/-! ### The register -/

/-- Engine X of the first group. -/
def firstX : Stream := ⟨0, 0, .x⟩

/-- The first group runs, and the register v1, with the tag I32, holds one lane. The type of a register does not fix the number of its lanes. -/
def oneLane : State :=
  { (State.reset.placeFirst.setEng firstX.ek { sec := .running, hdr := { len := 8 } }).setSlot 0
      ((State.reset.placeFirst.slotAt 0).setV 1 { tag := 8, lanes := [1] }) with cur := firstX }

/-- An inclusive sum of I32 over all lanes, from v1 to v3 (R160). -/
def scanWord : FmtA := ⟨3, 1, 0, 0, 0, 8, 0, 0, 0⟩

/-- Words with no operation of the sequencer. -/
def seqNext : Seq := ⟨.next, false, false, false, false, 0, 0, 0⟩

theorem oneLane_checks : lanesOk oneLane [⟨1, 8, 0⟩] 0 3 (some 8) [1] (oneLane.sl.kreg 0) = true := by decide +kernel
theorem oneLane_goes : canGo oneLane (.vscan seqNext scanWord) seqNext (vregsA scanWord 1) = true := by decide +kernel

/-- Refutes O15: in a register of one lane, which holds 1, the sum of the elements up to lane 1 is 1, and the scan writes 0 there. The statement does
not ask that the source of a scan has its 256 lanes. -/
theorem not_conversionAndReductionWords : ¬ Obligations.ConversionAndReductionWords := by
  intro h
  obtain ⟨-, -, -, -, -, -, hscan⟩ := h seqNext scanWord oneLane
  obtain ⟨lanes, fl, g, hstated, hsum⟩ := hscan oneLane_checks oneLane_goes
  obtain ⟨fl', g', hdone⟩ := exec_vscan_sums oneLane_checks rfl rfl oneLane_goes
  have hlat : 1 < 16 := by decide
  have hwrites := writes_eq_of_issued_eq hlat hlat (hstated.symm.trans hdone)
  have hvec := (Write.v.inj (List.cons.inj hwrites).1).2
  have hall : (oneLane.sl.kreg scanWord.mask).getLsbD 1 = true := by decide +kernel
  have hlane : lanes.getD 1 0 = 0 := by
    have hl := congrArg (fun v : VReg => v.lanes.getD 1 0) hvec
    simp only [mergeV_lane (show isScaled scanWord.fmt = false from rfl) (show 1 < 256 by decide), hall, if_true] at hl
    exact hl.trans (scanRows_past (by decide +kernel))
  have hone := hsum 1 (by decide) 0 (by decide) hall
  rw [hlane] at hone
  exact absurd hone (by decide +kernel)

end Sys2Proof.Machine
end

section
/-! PROOFS. The words that load, clear and drain a tile register or granules (R174, R176, R197, R200, R201). -/

namespace Sys2Proof.Machine

/-! ### Loads that take their places at the banks -/

@[simp] theorem touch_ctlq (s : State) (tower : Nat) : (s.touch tower).ctlq = s.ctlq := by
  simp only [State.touch, apply_ite State.ctlq, State.setBank, State.due_ctlq, State.setTower_ctlq, ite_self]

/-- Requests put down at the banks change no control register. -/
@[simp] theorem request_ctlq (s : State) (l : List PortReq) : (s.request l).ctlq = s.ctlq :=
  List.foldlRecOn (motive := fun t : State => t.ctlq = s.ctlq) _ _ rfl fun _ h _ _ => (touch_ctlq ..).trans h

/-- What a load over pieces does where no row stops it. -/
def loadDone (s : State) (ps : List Piece) (lat : Nat) (pend : Pend) : Done :=
  { st := s.request (pieceReqs s.cur s.nextId .load (opCtx s) (ps.map Piece.key)), lat := lat, pend := pend, pieces := ps }

/-- Outside strict mode, or with every row open, a load takes its place at its banks (R210, R214). -/
theorem loadGo_of_open {s : State} {ps : List Piece} {lat : Nat} {pend : Pend}
    (h : strictMode s = false ∨ ps.all (fun p => !s.rowClosed p.key) = true) : loadGo s ps lat [] pend = .go (loadDone s ps lat pend) := by
  have hopen : (if strictMode s = true then ps.find? fun p => s.rowClosed p.key else none) = none := by
    rcases h with h | h
    · simp [h]
    · have hnone : (ps.find? fun p => s.rowClosed p.key) = none := by simpa using h
      rw [hnone, ite_self]
  rw [loadGo, hopen]
  rfl

/-! ### MLD -/

/-- The shape of the loaded register is written at the end of the cycle (R175, R197). -/
def State.shaping (s : State) (f : FmtC) : State :=
  { s with ctlq := s.ctlq ++ [⟨s.cur, s.cur.slot, 0x040 + f.data, BitVec.ofNat 64 ((s.sv f.aux).toNat * 256 + f.fmt)⟩] }

/-- What MLD does: it loads the four course images of its register through the window `w` (R176, R197). -/
def tileLoad (f : FmtC) (w : Window) (s : State) : Done :=
  let n := imageBytes f.fmt (s.sv f.aux).toNat
  loadDone (s.shaping f) (tilePieces s w (s.effAddr f).toNat n) ((n + 255) / 256 + 8) (.tile [f.data, f.fmt, (s.sv f.aux).toNat])

theorem tileLoad_ctlq (f : FmtC) (w : Window) (s : State) : (tileLoad f w s).st.ctlq =
    s.ctlq ++ [⟨s.cur, s.cur.slot, 0x040 + f.data, BitVec.ofNat 64 ((s.sv f.aux).toNat * 256 + f.fmt)⟩] :=
  request_ctlq ..

/-- An MLD has room in the load queue, its register is free, and its image is in shape, aligned and within the window (R176, R197). -/
structure TileLoadReady (f : FmtC) (w : Window) (s : State) : Prop where
  clean : s.markOf [f.base, f.aux] = none
  room : s.loadCount s.cur < 16
  free : s.tileRead s.cur.col f.data = false
  lines : 1 ≤ (s.sv f.aux).toNat
  lines' : (s.sv f.aux).toNat ≤ 192
  aligned : (s.effAddr f).toNat % 64 = 0
  window : s.window s.cur s.cur.col = some w
  inside : (s.effAddr f).toNat + 64 * ((imageBytes f.fmt (s.sv f.aux).toNat + 255) / 256) ≤ w.size
  rows : strictMode s = false ∨
    (tilePieces s w (s.effAddr f).toNat (imageBytes f.fmt (s.sv f.aux).toNat)).all (fun p => !s.rowClosed p.key) = true

/-- Such an MLD takes its place at the banks of its image (R197, R214). -/
theorem exec_mld_loads {q : Seq} {f : FmtC} {w : Window} {s : State} (hd : leaseDec s = none) (hr : TileLoadReady f w s)
    (h : canGo s (.mld q f) q [.s f.base, .s f.aux]) : exec (.mld q f) s = issued s (.mld q f) q (tileLoad f w s) := by
  have hready : ¬(16 ≤ s.loadCount s.cur ∨ s.tileRead s.cur.col f.data = true) := by simp [hr.free, hr.room]
  have hlines : ¬((s.sv f.aux).toNat < 1 ∨ 192 < (s.sv f.aux).toNat) := by
    have := hr.lines
    have := hr.lines'
    omega
  have hload := loadGo_of_open (s := s.shaping f) (lat := (imageBytes f.fmt (s.sv f.aux).toNat + 255) / 256 + 8)
    (pend := .tile [f.data, f.fmt, (s.sv f.aux).toNat]) hr.rows
  unfold State.shaping at hload
  show execMld q f s = _
  refine wordIssue_go (d := tileLoad f w s) h hd ?_
  simp only [if_neg hready, consuming_of_unmarked hr.clean, if_neg hlines, hr.aligned, hr.window, if_neg (Nat.not_lt.2 hr.inside), hload, ne_eq,
    not_true_eq_false, if_false]
  rfl

/-! ### MZERO -/

section Zero
variable {q : Seq} {g : FmtD} {s : State} (hd : leaseDec s = none)
include hd

/-- A tile register that nothing reads or writes is cleared in 24 cycles (R201). -/
theorem exec_mzero_tile (ht : g.sub % 2 = 1) (hread : s.tileRead s.cur.col g.md = false) (hwrite : s.tileAwaits s.cur.col g.md = false)
    (h : canGo s (.mzero q g) q []) : exec (.mzero q g) s = issued s (.mzero q g) q
      { st := s.due (s.cyc + 23) 600 (.wordComplete s.nextId), lat := 24, pend := .matrix [] } := by
  have htile : (g.sub % 2 == 1) = true := by simp [ht]
  show execMzero q g s = _
  unfold execMzero
  simp only [htile, if_true]
  refine wordIssue_go (d := { st := _, lat := _, pend := _ }) h hd ?_
  simp only [hread, hwrite, Bool.false_eq_true, or_self, if_false]

/-- Granules that no word still writes are cleared eight a cycle (R201). -/
theorem exec_mzero_granules {n : Nat} (ht : g.sub % 2 = 0) (hm : s.markOf [g.ma] = none) (hn : n = (s.sv g.ma).toNat) (hlo : 1 ≤ n)
    (hhi : n ≤ 32768) (hfree : (List.range n).all (fun x => !s.granuleAwaits s.cur.col (g.acc + x)) = true)
    (h : canGo s (.mzero q g) q [.s g.ma]) : exec (.mzero q g) s = issued s (.mzero q g) q
      { st := s.due (s.cyc + (n + 7) / 8 + 1) 600 (.wordComplete s.nextId), lat := (n + 7) / 8 + 2, pend := .matrix [n] } := by
  have htile : (g.sub % 2 == 1) = false := by simp [ht]
  have hcount : ¬(n < 1 ∨ 32768 < n) := by omega
  have hwait : ((List.range n).any fun x => s.granuleAwaits s.cur.col (g.acc + x)) = false := by simpa using hfree
  show execMzero q g s = _
  unfold execMzero
  simp only [htile, Bool.false_eq_true, if_false]
  refine wordIssue_go (d := { st := _, lat := _, pend := _ }) h hd ?_
  simp only [consuming_of_unmarked hm, ← hn, if_neg hcount, hwait, Bool.false_eq_true, if_false]

end Zero

/-! ### MDRAIN -/

/-- The shape of a drain as register MB gives it: rows, columns and row stride (R200). -/
def drainShape (nr n rs : Nat) : Word := BitVec.ofNat 64 (nr + n * 2 ^ 8 + rs * 2 ^ 16)

section Shape
variable {nr n rs : Nat} (hnr : nr < 2 ^ 8) (hn : n < 2 ^ 8) (hrs : rs < 2 ^ 16)
include hnr hn hrs

theorem drainShape_toNat : (drainShape nr n rs).toNat = nr + n * 2 ^ 8 + rs * 2 ^ 16 := by
  rw [drainShape, BitVec.toNat_ofNat]
  omega

theorem drainShape_rows : bitsAt (drainShape nr n rs) 7 0 = nr := by
  rw [bitsAt, drainShape_toNat hnr hn hrs]
  omega

theorem drainShape_columns : bitsAt (drainShape nr n rs) 15 8 = n := by
  rw [bitsAt, drainShape_toNat hnr hn hrs]
  omega

theorem drainShape_stride : bitsAt (drainShape nr n rs) 31 16 = rs := by
  rw [bitsAt, drainShape_toNat hnr hn hrs]
  omega

theorem drainShape_reserved : bitsAt (drainShape nr n rs) 63 32 = 0 := by
  rw [bitsAt, drainShape_toNat hnr hn hrs]
  omega

end Shape

/-- The granules of a drain, in the order in which they are read. -/
def drainGranules (g : FmtD) (nr n : Nat) : List Nat := (List.range (nr * granulesOf n)).map fun x => (g.acc + x) % 32768

/-- The bytes that a drain will write, the converted values still blank (R200). -/
def drainImage (g : FmtD) (nr n rs : Nat) (s : State) : List CellBytes :=
  let scales := if isScaled (g.md % 32) then (n + 23) / 24 else 0
  drainBytes (s.sv g.ma).toNat rs nr n (g.md % 32) (g.sub / 8 % 2 == 1)
      ((List.range nr).map fun _ => (List.replicate n 0, List.replicate scales 0)) ++
    if g.frec = 1 then
      recordBytes ((s.sv g.ma).toNat + nr * rs) ((drainGranules g nr n).map fun x => (s.colAt s.cur.col).recs.getD x 0)
    else []

/-- What the converter takes up for a drain (R200). -/
def drainConvert (g : FmtD) (nr n : Nat) (s : State) : Convert :=
  { id := s.nextId, slot := s.cur.slot, i32 := g.sub % 2 == 1, tag := g.md % 32, outl := g.sub / 2 % 2 == 1, mode := (s.sl.ctlr 0).toNat, width := n,
    rows := (List.range nr).map fun r => (List.range n).map fun j =>
      s.accAt s.cur.col (g.acc + r * granulesOf n + j / 64) (j % 64)
    g := granulesOf n }

/-- The drain has begun: its store waits for its bytes, and its column reads a granule a cycle (R200). -/
def State.draining (s : State) (g : FmtD) (nr n : Nat) (ps : List WPiece) : State :=
  let c := s.colAt s.cur.col
  State.setCol { s with stores := s.stores ++ [⟨s.nextId, s.cur, .write, ps, none, false, []⟩] } s.cur.col
    { c with
      drainFree := s.cyc + nr * granulesOf n
      converts := c.converts ++ [drainConvert g nr n s]
      drains := (c.drains.filter fun (d : Nat × Nat) => decide (s.cyc ≤ d.2)) ++
        (drainGranules g nr n).zipIdx.map fun (x : Nat × Nat) => (x.1, s.cyc + x.2) }

/-- The granules of a column are cleared where the word asks for it (R200). -/
def State.clearing (s : State) (g : FmtD) (col : Nat) (l : List Nat) : State :=
  if g.sub / 4 % 2 = 1 then l.foldl (fun s x => s.clearGranule col x) s else s

theorem clearGranules_keep (s : State) (col : Nat) (l : List Nat) :
    (l.foldl (fun s x => s.clearGranule col x) s).stores = s.stores ∧
      ((l.foldl (fun s x => s.clearGranule col x) s).colAt col).drainFree = (s.colAt col).drainFree := by
  refine List.foldlRecOn (motive := fun t : State => t.stores = s.stores ∧ (t.colAt col).drainFree = (s.colAt col).drainFree) l _ ⟨rfl, rfl⟩ ?_
  rintro t ⟨hstores, hfree⟩ x -
  exact ⟨hstores, (congrArg Column.drainFree (State.colAt_setCol_same ..)).trans hfree⟩

@[simp] theorem clearing_stores (s : State) (g : FmtD) (col : Nat) (l : List Nat) : (s.clearing g col l).stores = s.stores := by
  unfold State.clearing
  split
  · exact (clearGranules_keep s col l).1
  · rfl

@[simp] theorem clearing_drainFree (s : State) (g : FmtD) (col : Nat) (l : List Nat) :
    ((s.clearing g col l).colAt col).drainFree = (s.colAt col).drainFree := by
  unfold State.clearing
  split
  · exact (clearGranules_keep s col l).2
  · rfl

/-- What MDRAIN does (R200). -/
def drainStart (g : FmtD) (nr n : Nat) (ps : List WPiece) (s : State) : Done :=
  let t := (s.draining g nr n ps).clearing g s.cur.col (drainGranules g nr n)
  { st := t.due t.cyc 590 (.wordComplete t.nextId), lat := nr * granulesOf n + 10, pend := .matrix [] }

theorem drainStart_stores (g : FmtD) (nr n : Nat) (ps : List WPiece) (s : State) :
    (drainStart g nr n ps s).st.stores = s.stores ++ [⟨s.nextId, s.cur, .write, ps, none, false, []⟩] :=
  clearing_stores ..

theorem drainStart_drainFree (g : FmtD) (nr n : Nat) (ps : List WPiece) (s : State) :
    ((drainStart g nr n ps s).st.colAt s.cur.col).drainFree = s.cyc + nr * granulesOf n :=
  (clearing_drainFree ..).trans (congrArg Column.drainFree (State.colAt_setCol_same ..))

/-- An MDRAIN has room in the store queue, its column drains nothing else, its shape and addresses are legal, its granules are complete and clean, and
its bytes lie within the allotment (R187, R200). -/
structure DrainReady (g : FmtD) (nr n rs : Nat) (ps : List WPiece) (s : State) : Prop where
  clean : s.markOf [g.ma, g.mb] = none
  room : s.storeCount s.cur < 16
  free : (s.colAt s.cur.col).drainFree ≤ s.cyc
  shape : s.sv g.mb = drainShape nr n rs
  rows : 1 ≤ nr
  rows' : nr ≤ 96
  columns : 1 ≤ n
  columns' : n ≤ 192
  stride : rs < 2 ^ 16
  strided : g.sub / 8 % 2 = 1 ∨ rs % 64 = 0
  aligned : (s.sv g.ma).toNat % 64 = 0
  granules : ((List.range (nr * granulesOf n)).all fun x =>
    !s.granuleAwaits s.cur.col ((g.acc + x) % 32768) && !s.accPoisoned s.cur.col ((g.acc + x) % 32768)) = true
  image : drainPieces s (drainImage g nr n rs s) = .ok ps

section Drain
variable {g : FmtD} {nr n rs : Nat} {ps : List WPiece} {s : State} (hr : DrainReady g nr n rs ps s)
include hr

theorem drainGranule_ready {x : Nat} (hx : x ∈ List.range (nr * granulesOf n)) :
    s.granuleAwaits s.cur.col ((g.acc + x) % 32768) = false ∧ s.accPoisoned s.cur.col ((g.acc + x) % 32768) = false := by
  simpa only [Bool.and_eq_true, Bool.not_eq_true'] using List.all_eq_true.1 hr.granules x hx

theorem drainGranules_complete : (drainGranules g nr n).any (s.granuleAwaits s.cur.col) = false := by
  rw [drainGranules, List.any_map, List.any_eq_false]
  exact fun x hx => Bool.eq_false_iff.1 (drainGranule_ready hr hx).1

theorem drainGranules_clean : (drainGranules g nr n).find? (s.accPoisoned s.cur.col) = none := by
  rw [drainGranules, List.find?_map, Option.map_eq_none_iff, List.find?_eq_none]
  exact fun x hx => Bool.eq_false_iff.1 (drainGranule_ready hr hx).2

/-- Such an MDRAIN issues, a granule a cycle (R200). -/
theorem exec_mdrain_drains {q : Seq} (hd : drainDec g s = none) (h : canGo s (.mdrain q g) q [.s g.ma, .s g.mb]) :
    exec (.mdrain q g) s = issued s (.mdrain q g) q (drainStart g nr n ps s) := by
  have hcomplete := drainGranules_complete hr
  have hclean := drainGranules_clean hr
  obtain ⟨hmark, hroom, hfree, hshape, hrows, hrows', hcols, hcols', hrs, hstride, halign, -, himage⟩ := hr
  have hnr : nr < 2 ^ 8 := by omega
  have hn : n < 2 ^ 8 := by omega
  have hready : ¬(16 ≤ s.storeCount s.cur ∨ s.cyc < (s.colAt s.cur.col).drainFree ∨
      (drainGranules g nr n).any (s.granuleAwaits s.cur.col) = true) := by
    simp [hcomplete, hroom, hfree]
  have hlegal : ¬((0 : Nat) ≠ 0 ∨ nr < 1 ∨ 96 < nr ∨ n < 1 ∨ 192 < n) := by omega
  have haligned : ¬((s.sv g.ma).toNat % 64 ≠ 0 ∨ (!(g.sub / 8 % 2 == 1)) = true ∧ rs % 64 ≠ 0) := by
    rcases hstride with hs | hs <;> simp [halign, hs]
  unfold drainGranules at hready hclean
  unfold drainImage drainGranules at himage
  show execMdrain q g s = _
  refine wordIssue_go (d := drainStart g nr n ps s) h hd ?_
  simp only [hshape, drainShape_rows hnr hn hrs, drainShape_columns hnr hn hrs, drainShape_stride hnr hn hrs, drainShape_reserved hnr hn hrs,
    if_neg hready, consuming_of_unmarked hmark, if_neg hlegal, if_neg haligned, himage, hclean]
  rfl

end Drain

/-- Settles O18: each word by its act, which nothing that it checks holds up or turns away. -/
theorem tileWords : Obligations.TileWords := by
  intro q f g s k hheld
  have hd : leaseDec s = none := leaseDec_of_held hheld
  refine ⟨fun w hm hroom hread hlo hhi halign hw hin hopen go => ?load, exec_mzero_tile hd, fun n => exec_mzero_granules hd,
    fun nr n rs ps hdec hm hroom hfree hshape hr hr' hc hc' hrs hstride halign hgran hps go => ?drain⟩
  case load =>
    have hr : TileLoadReady f w s := ⟨hm, hroom, hread, hlo, hhi, halign, hw, hin, hopen⟩
    exact ⟨tileLoad f w s, exec_mld_loads hd hr go, rfl, rfl, tileLoad_ctlq ..⟩
  case drain =>
    have himage : drainPieces s (drainImage g nr n rs s) = .ok ps := by
      rw [← hps, drainImage, drainGranules, List.map_map]
      rfl
    have hready : DrainReady g nr n rs ps s := ⟨hm, hroom, hfree, hshape, hr, hr', hc, hc', hrs, hstride, halign, hgran, himage⟩
    exact ⟨drainStart g nr n ps s, exec_mdrain_drains hready hdec go, rfl, drainStart_stores .., drainStart_drainFree ..⟩

end Sys2Proof.Machine
end

section
/-! PROOFS. What a store changes where it takes effect (R231, R303, R320, R330): the bytes of its pieces, and no other byte of memory. -/

namespace Sys2Proof.Machine

/-! ### One piece -/

/-- The poison that a write leaves, and the errors that it covers, are no bytes (R229, R231). -/
@[simp] theorem writeMarked_mem (s : State) (key : Nat) (bytes : List Nat) (marked : Bool) :
    (s.writeMarked key bytes marked).mem = Memory.writeBytes s.mem key (bytes.map (BitVec.ofNat 8)) := by
  unfold State.writeMarked
  dsimp only
  split
  · rfl
  · refine foldl_mem_eq _ _ (fun t n => ?_) _
    split
    · rfl
    · split
      · rfl
      · exact partWrite_mem ..

/-- How many bytes from its key on a piece of a store may change (R231, R320, R322). -/
def StoreOp.width (op : StoreOp) (p : WPiece) : Nat :=
  match op with
  | .write => max 1 p.bytes.length
  | .nibble _ => 1
  | .red _ _ size _ => size
  | _ => 0

/-- All that a piece does to memory: it writes bytes from its key on, no more than the width of its operation. -/
theorem applyPiece_mem (s : State) (op : StoreOp) (p : WPiece) :
    ∃ l : List Byte, l.length ≤ op.width p ∧ (s.applyPiece op p).mem = Memory.writeBytes s.mem p.key l := by
  cases op with
  | write =>
    have hlast (b : Nat) : ((p.bytes.take (p.bytes.length - 1) ++ [b]).map (BitVec.ofNat 8)).length ≤ max 1 p.bytes.length := by
      simp only [List.length_map, List.length_append, List.length_take, List.length_singleton]
      omega
    unfold State.applyPiece
    dsimp only
    split
    · exact ⟨_, hlast _, writeMarked_mem ..⟩
    · split
      · exact ⟨_, hlast _, writeMarked_mem ..⟩
      · exact ⟨_, by simp [StoreOp.width], writeMarked_mem ..⟩
  | nibble hi => exact ⟨[_], Nat.le_refl 1, writeMarked_mem ..⟩
  | red code ctl size b =>
    unfold State.applyPiece
    dsimp only
    split
    · exact ⟨[], Nat.zero_le _, checkRead_mem ..⟩
    · exact ⟨leBytes size _, Nat.le_of_eq (length_leBytes ..), by rw [State.store_mem, checkRead_mem]⟩
  | redx tower slot ctl b => exact ⟨[], Nat.le_refl 0, rfl⟩
  | mark => exact ⟨[], Nat.le_refl 0, rfl⟩

theorem memOk_applyPiece {s : State} (op : StoreOp) (p : WPiece) (h : s.MemOk) : (s.applyPiece op p).MemOk := by
  obtain ⟨l, -, hl⟩ := applyPiece_mem s op p
  rw [State.MemOk, hl]
  exact Memory.wf_writeBytes _ _ h

theorem read_applyPiece_ne {s : State} {op : StoreOp} {p : WPiece} {a : Nat} (h : s.MemOk) (ha : a < p.key ∨ p.key + op.width p ≤ a) :
    Memory.read (s.applyPiece op p).mem a = Memory.read s.mem a := by
  obtain ⟨l, hlen, hl⟩ := applyPiece_mem s op p
  rw [hl]
  exact Memory.read_writeBytes_ne _ _ _ h (by omega)

theorem read_applyPiece_write {s : State} {p : WPiece} {j : Nat} (h : s.MemOk) (hn : p.nib = 0) (hj : j < p.bytes.length) :
    Memory.read (s.applyPiece .write p).mem (p.key + j) = BitVec.ofNat 8 (p.bytes.getD j 0) := by
  have hwhole : s.applyPiece .write p = s.writeMarked p.key p.bytes p.marked := by simp [State.applyPiece, hn]
  rw [hwhole, writeMarked_mem, Memory.read_writeBytes_at _ _ _ h (by simpa using hj), List.getElem_map, List.getD_eq_getElem _ _ hj]

/-- A write of half a byte keeps the other half (R231, R239). -/
theorem toNat_read_applyPiece_nibble {s : State} (p : WPiece) (hi : Bool) (h : s.MemOk) :
    (Memory.read (s.applyPiece (.nibble hi) p).mem p.key).toNat =
      if hi then (Memory.read s.mem p.key).toNat % 16 + p.bytes.headD 0 % 16 * 16
      else (Memory.read s.mem p.key).toNat / 16 * 16 + p.bytes.headD 0 % 16 := by
  have hold := (Memory.read s.mem p.key).isLt
  unfold State.applyPiece
  simp only [writeMarked_mem, List.map_cons, List.map_nil, Memory.writeBytes, Memory.read_write_same _ _ h, BitVec.toNat_ofNat]
  refine Nat.mod_eq_of_lt ?_
  split <;> omega

/-! ### The pieces of a store at one distance (R303) -/

/-- Pieces of a store take effect, and their lines join the write queues of their ports. -/
def State.landPieces (s : State) (op : StoreOp) (ps : List WPiece) : State :=
  ps.foldl (fun s p => (s.applyPiece op p).queueLine p.key) s

theorem read_landPieces_ne {s : State} {op : StoreOp} {ps : List WPiece} {a : Nat} (h : s.MemOk)
    (ha : ∀ p ∈ ps, a < p.key ∨ p.key + op.width p ≤ a) : Memory.read (s.landPieces op ps).mem a = Memory.read s.mem a := by
  induction ps generalizing s with
  | nil => rfl
  | cons p ps ih =>
    obtain ⟨hp, hps⟩ := List.forall_mem_cons.1 ha
    have hok : ((s.applyPiece op p).queueLine p.key).MemOk := memOk_of_eq (memOk_applyPiece op p h) (queueLine_mem ..)
    calc Memory.read (State.landPieces s op (p :: ps)).mem a
        = Memory.read ((s.applyPiece op p).queueLine p.key).mem a := ih hok hps
      _ = Memory.read s.mem a := by rw [queueLine_mem, read_applyPiece_ne h hp]

@[simp] theorem carry_mem (s : State) (e : PortWrite) (ps : List WPiece) : (s.carry e ps).mem = s.mem := by
  unfold State.carry
  split <;> rfl

@[simp] theorem wakeFences_mem (s : State) (k : Stream) : (s.wakeFences k).mem = s.mem := by
  unfold State.wakeFences
  refine foldl_mem_eq _ _ (fun t f => ?_) _
  split
  · split <;> rfl
  · rfl

/-- An earlier write, ATOM or SEAL of the stream to a tower of these pieces is still on its way, or one of their write queues is full (R231, R307). -/
def State.storeWaits (s : State) (id : Nat) (e : PortWrite) (ps : List WPiece) : Bool :=
  ((s.stores.any fun x => x.by_ == e.by_ && decide (x.id < id) && x.pieces.any fun p => ps.any fun r => keyTower p.key == keyTower r.key)
    || s.flights.any fun f => f.at_ == e.by_ && decide (f.id < id) && isAtomic f.ins &&
      f.pieces.any fun p => !p.done && ps.any fun r => keyTower p.key == keyTower r.key)
  || ps.any fun p => s.lineBlocked p.key

section Reach
variable {id dist : Nat} {s : State}

theorem exec_storeReachPort_gone (he : s.stores.find? (fun e => e.id == id) = none) : exec (.storeReachPort id dist) s = .next s := by
  show execStoreReachPort id dist s = _
  simp only [execStoreReachPort, he]

variable {e : PortWrite} (he : s.stores.find? (fun e => e.id == id) = some e)
include he

theorem exec_storeReachPort_waits (hw : s.storeWaits id e (e.pieces.filter fun p => p.dist == dist) = true) :
    exec (.storeReachPort id dist) s = .next (s.due (s.cyc + 1) 160 (.storeReachPort id dist)) := by
  show execStoreReachPort id dist s = _
  unfold State.storeWaits at hw
  simp only [execStoreReachPort, he, hw, if_true]

theorem exec_storeReachPort_lands (hw : s.storeWaits id e (e.pieces.filter fun p => p.dist == dist) = false) :
    ∃ t, exec (.storeReachPort id dist) s = .next t ∧
      t.mem = ((s.landPieces e.op (e.pieces.filter fun p => p.dist == dist)).carry e (e.pieces.filter fun p => p.dist == dist)).mem := by
  unfold State.storeWaits at hw
  refine ⟨_, by
    show execStoreReachPort id dist s = _
    simp only [execStoreReachPort, he, hw, Bool.false_eq_true, if_false]
    rfl, ?_⟩
  rw [wakeFences_mem]
  split <;> rfl

end Reach

/-- A byte that no piece of the entry at this distance covers is as it was. -/
theorem read_exec_storeReachPort_ne {id dist a : Nat} {s t : State} (h : s.MemOk) (ht : exec (.storeReachPort id dist) s = .next t)
    (ha : ∀ e p, s.stores.find? (fun e => e.id == id) = some e → p ∈ e.pieces → p.dist = dist → (a < p.key ∨ p.key + e.op.width p ≤ a)) :
    Memory.read t.mem a = Memory.read s.mem a := by
  cases he : s.stores.find? fun e => e.id == id with
  | none =>
    obtain rfl := Host.Outcome.next.inj ((exec_storeReachPort_gone he).symm.trans ht)
    rfl
  | some e =>
    cases hw : s.storeWaits id e (e.pieces.filter fun p => p.dist == dist) with
    | true =>
      obtain rfl := Host.Outcome.next.inj ((exec_storeReachPort_waits he hw).symm.trans ht)
      rfl
    | false =>
      obtain ⟨u, hu, hmem⟩ := exec_storeReachPort_lands he hw
      obtain rfl := Host.Outcome.next.inj (hu.symm.trans ht)
      rw [hmem, carry_mem]
      refine read_landPieces_ne h fun p hp => ?_
      obtain ⟨hp, hdist⟩ := List.mem_filter.1 hp
      exact ha e p he hp (by simpa using hdist)

/-! ### Write queues (R231) -/

@[simp] theorem retryBacks_mem (s : State) (tower : Nat) : (s.retryBacks tower).mem = s.mem := by
  unfold State.retryBacks
  refine foldl_mem_eq _ _ (fun t w => ?_) _
  split
  · exact writeBack_mem ..
  · rfl

/-- The bank of a line is not free for it: of a full queue, for a row operation in progress or a forced refresh of this cycle (R216, R231). -/
def State.drainBusy (s : State) (tower l : Nat) : Bool :=
  let bank := keyBank (l * 64)
  let b := s.bankAt tower bank
  if decide (32 ≤ (s.towerAt tower).queue.length) then
    (b.ops.any fun o => decide (o.start ≤ s.cyc ∧ s.cyc < o.stop)) || s.reqs.any fun r => r.tower == tower && r.bank == bank && r.step == 1
  else decide (s.cyc < b.freeAt) || decide (s.cyc < b.nextLoad) || s.reqs.any fun r => r.tower == tower && r.bank == bank

/-- A line leaves the queue: the words that it holds in part are read, and corrected words that waited for room take it (R228, R231). -/
def State.drainLine (s : State) (tower l : Nat) : State :=
  let t := s.towerAt tower
  ((t.partly.filter fun r => decide (r.1 / 64 = l)).foldl (fun s r => s.checkWord r.1)
    (s.setTower tower { t with queue := t.queue.tail, partly := t.partly.filter fun r => decide (r.1 / 64 ≠ l) })).retryBacks tower

@[simp] theorem drainLine_mem (s : State) (tower l : Nat) : (s.drainLine tower l).mem = s.mem := by
  have hcheck (m : Map Nat) (u : State) : (m.foldl (fun (u : State) (r : Nat × Nat) => u.checkWord r.1) u).mem = u.mem :=
    foldl_mem_eq _ _ (fun u (r : Nat × Nat) => checkWord_mem u r.1) u
  rw [State.drainLine, retryBacks_mem, hcheck, State.setTower_mem]

/-- A bank that a line of a full queue has taken serves no load in this cycle (R216). -/
def State.keepFromLoads (s : State) (tower bank : Nat) : State :=
  s.setBank tower bank { s.bankAt tower bank with nextLoad := max (s.bankAt tower bank).nextLoad (s.cyc + 1) }

/-- The queue drains on in the next cycle, unless it is empty. -/
def State.drainOn (s : State) (tower : Nat) : State :=
  if (s.towerAt tower).queue.isEmpty then s else s.due (s.cyc + 1) 400 (.writeQueueDrain tower)

@[simp] theorem drainOn_mem (s : State) (tower : Nat) : (s.drainOn tower).mem = s.mem := by
  unfold State.drainOn
  split <;> rfl

section Drain
variable {tower : Nat} {s : State}

theorem exec_writeQueueDrain_empty (hq : (s.towerAt tower).queue = []) : exec (.writeQueueDrain tower) s = .next s := by
  show execWriteQueueDrain tower s = _
  simp only [execWriteQueueDrain, hq]

section Line
variable {l : Nat} {rest : List Nat} (hq : (s.towerAt tower).queue = l :: rest)
include hq

theorem exec_writeQueueDrain_waits (hb : s.drainBusy tower l = true) : exec (.writeQueueDrain tower) s = .next (s.drainOn tower) := by
  show execWriteQueueDrain tower s = _
  unfold State.drainBusy at hb
  simp only [hq] at hb
  simp only [execWriteQueueDrain, State.drainOn, hq, hb, if_true, Bool.not_true, Bool.and_false, Bool.false_eq_true, if_false]

theorem exec_writeQueueDrain_drains (hb : s.drainBusy tower l = false) : exec (.writeQueueDrain tower) s =
    .next ((if 32 ≤ (s.towerAt tower).queue.length then (s.drainLine tower l).keepFromLoads tower (keyBank (l * 64)) else s.drainLine tower l).drainOn
      tower) := by
  show execWriteQueueDrain tower s = _
  unfold State.drainBusy at hb
  unfold State.drainLine
  simp only [hq, decide_eq_true_eq] at hb
  simp only [execWriteQueueDrain, hq, hb, Bool.false_eq_true, if_false, Bool.not_false, Bool.and_true, decide_eq_true_eq, List.tail_cons]
  rfl

end Line

/-- A line that drains is already part of memory (R221, R231). -/
theorem exec_writeQueueDrain_mem {t : State} (h : exec (.writeQueueDrain tower) s = .next t) : t.mem = s.mem := by
  cases hq : (s.towerAt tower).queue with
  | nil => rw [Host.Outcome.next.inj (h.symm.trans (exec_writeQueueDrain_empty hq))]
  | cons l rest =>
    cases hb : s.drainBusy tower l with
    | true => rw [Host.Outcome.next.inj (h.symm.trans (exec_writeQueueDrain_waits hq hb)), drainOn_mem]
    | false =>
      rw [Host.Outcome.next.inj (h.symm.trans (exec_writeQueueDrain_drains hq hb)), drainOn_mem]
      split <;> exact drainLine_mem ..

end Drain

/-- Settles O57: each piece by the bytes that it writes, a store's pieces by induction on them. -/
theorem storesWriteOnlyTheirBytes : Obligations.StoresWriteOnlyTheirBytes := by
  intro s h
  exact ⟨fun op p a => read_applyPiece_ne h, fun p j => read_applyPiece_write h, fun p hi _ => toNat_read_applyPiece_nibble p hi h,
    fun id dist t a => read_exec_storeReachPort_ne h, fun tower t => exec_writeQueueDrain_mem⟩

end Sys2Proof.Machine
end

section
/-! PROOFS. The tower words: loads, stores, row operations and the hold of a window (R226, R237–R242). -/

namespace Sys2Proof.Machine

/-! ### The address of a tower word (R237) -/

section Address
variable {f : FmtC} {s : State} {a : TAddr} (ha : s.towerAddr (s.effAddr f) (globalBit f) f.col = .ok a)
include ha

theorem withTower_of_outside {n : Nat} {x : Word} {act : TAddr → Nat → Act} (hr : towerRange s a n = .error x) :
    withTower s f (globalBit f) n act = .fault 0x09 x := by
  simp only [withTower, ha, hr]

theorem withTower_of_served {n key : Nat} {act : TAddr → Nat → Act} (hr : towerRange s a n = .ok key) (hs : s.served a.col key = true) :
    withTower s f (globalBit f) n act = act a key := by
  simp only [withTower, ha, hr, hs, if_true]

theorem withLanes_of_outside {x : Word} {act : TAddr → List (Nat × TAddr × Nat) → Act} (hl : laneRange s a = .error x) :
    withLanes s f act = .fault 0x09 x := by
  simp only [withLanes, ha, hl]

variable {l : List (Nat × TAddr × Nat)} {act : TAddr → List (Nat × TAddr × Nat) → Act} (hl : laneRange s a = .ok l)
include hl

theorem withLanes_of_misaligned (ho : a.off % 64 ≠ 0) : withLanes s f act = .fault 0x0B (BitVec.ofNat 64 a.prog) := by
  simp only [withLanes, ha, hl, if_pos ho]

theorem withLanes_of_served (ho : a.off % 64 = 0) (hs : (l.all fun x => s.served a.col x.2.2) = true) : withLanes s f act = act a l := by
  simp only [withLanes, ha, hl, ho, hs, ne_eq, not_true_eq_false, if_false, if_true]

end Address

/-- A word with room in its queue and no mark on its operands goes on to its act. -/
theorem act_of_ready {full : Prop} [Decidable full] {s : State} {rs : List Nat} {act : Act} (hroom : ¬full) (hm : s.markOf rs = none) :
    (if full then .wait else consuming s rs act) = act :=
  (if_neg hroom).trans (consuming_of_unmarked hm)

/-- A load whose first closed row is that of piece `p` is turned away in strict mode (R210, R214). -/
theorem loadGo_of_closed {s : State} {ps : List Piece} {lat : Nat} {busy : List Reg} {pend : Pend} {p : Piece} (hs : strictMode s = true)
    (hp : ps.find? (fun p => s.rowClosed p.key) = some p) : loadGo s ps lat busy pend = .fault 0x08 (BitVec.ofNat 64 p.prog) := by
  rw [loadGo, if_pos hs, hp]

/-! ### LD, ST and NST (R238, R239) -/

section Scalar
variable {q : Seq} {f : FmtC} {s : State} {a : TAddr} (hm : s.markOf [f.base] = none)
  (ha : s.towerAddr (s.effAddr f) (globalBit f) f.col = .ok a)

/-- The one piece of an LD. -/
def wordPiece (f : FmtC) (a : TAddr) (key : Nat) : Piece := ⟨0, key, a.prog, 2 ^ f.sz, 0, false, 0, none⟩

/-- What an LD does once its bytes are found: it takes its place at their bank (R214, R238). -/
def wordLoad (f : FmtC) (a : TAddr) (key : Nat) (s : State) : Done :=
  { st := s.request (pieceReqs s.cur s.nextId .load (opCtx s) [key]), lat := loadLatency s a, busy := [.s f.data],
    pend := .loadS f.data (if f.sub % 2 = 1 then 8 * 2 ^ f.sz else 0), pieces := [wordPiece f a key] }

theorem loadGo_word {key : Nat} (ho : strictMode s = false ∨ s.rowClosed key = false) :
    loadGo s [wordPiece f a key] (loadLatency s a) [.s f.data] (.loadS f.data (if f.sub % 2 = 1 then 8 * 2 ^ f.sz else 0)) =
      .go (wordLoad f a key s) := by
  have hopen : (if strictMode s = true then [wordPiece f a key].find? fun p => s.rowClosed p.key else none) = none := by
    rcases ho with ho | ho <;> simp [ho, wordPiece]
  rw [loadGo, hopen]
  rfl

section Load
variable (hroom : s.loadCount s.cur < 16) (h : canGo s (.ld q f) q [.s f.data, .s f.base] = true)
include hm ha hroom h

theorem exec_ld_outside {x : Word} (hr : towerRange s a (2 ^ f.sz) = .error x) : exec (.ld q f) s = faulted s 0x09 x :=
  exec_faults (by rfl) ((act_of_ready (Nat.not_le.2 hroom) hm).trans (withTower_of_outside ha hr)) h

variable {key : Nat} (hr : towerRange s a (2 ^ f.sz) = .ok key) (hs : s.served a.col key = true)
include hr hs

theorem exec_ld_misaligned (ho : a.off % 2 ^ f.sz ≠ 0) : exec (.ld q f) s = faulted s 0x0B (BitVec.ofNat 64 a.prog) :=
  exec_faults (by rfl) ((act_of_ready (Nat.not_le.2 hroom) hm).trans
    ((withTower_of_served ha hr hs).trans (if_pos ho))) h

theorem exec_ld_closed (ho : a.off % 2 ^ f.sz = 0) (hstrict : strictMode s = true) (hc : s.rowClosed key = true) :
    exec (.ld q f) s = faulted s 0x08 (BitVec.ofNat 64 a.prog) := by
  have hfirst : [wordPiece f a key].find? (fun p => s.rowClosed p.key) = some (wordPiece f a key) := by simp [wordPiece, hc]
  exact exec_faults (by rfl) ((act_of_ready (Nat.not_le.2 hroom) hm).trans
    ((withTower_of_served ha hr hs).trans ((if_neg (not_not.2 ho)).trans (loadGo_of_closed hstrict hfirst)))) h

theorem exec_ld_loads (ho : a.off % 2 ^ f.sz = 0) (hopen : strictMode s = false ∨ s.rowClosed key = false) :
    exec (.ld q f) s = issued s (.ld q f) q (wordLoad f a key s) :=
  exec_goes (by rfl) ((act_of_ready (Nat.not_le.2 hroom) hm).trans
    ((withTower_of_served ha hr hs).trans ((if_neg (not_not.2 ho)).trans (loadGo_word hopen)))) h

end Load

section Store
variable (hroom : s.storeCount s.cur < 16)

section Whole
variable (h : canGo s (.st q f) q [.s f.data, .s f.base] = true)
include hm ha hroom h

theorem exec_st_outside {x : Word} (hr : towerRange s a (2 ^ f.sz) = .error x) : exec (.st q f) s = faulted s 0x09 x :=
  exec_faults (by rfl) ((act_of_ready (Nat.not_le.2 hroom) hm).trans (withTower_of_outside ha hr)) h

variable {key : Nat} (hr : towerRange s a (2 ^ f.sz) = .ok key) (hs : s.served a.col key = true)
include hr hs

theorem exec_st_misaligned (ho : a.off % 2 ^ f.sz ≠ 0) : exec (.st q f) s = faulted s 0x0B (BitVec.ofNat 64 a.prog) :=
  exec_faults (by rfl) ((act_of_ready (Nat.not_le.2 hroom) hm).trans
    ((withTower_of_served ha hr hs).trans (if_pos ho))) h

theorem exec_st_stores (ho : a.off % 2 ^ f.sz = 0) : exec (.st q f) s = issued s (.st q f) q
    (stored s .write [⟨storeDist s a.col 0 a.cell, key, wordBytesOf (s.sv f.data) (2 ^ f.sz), (s.e.sreg f.data).mark.isSome, 0⟩]) :=
  exec_goes (by rfl) ((act_of_ready (Nat.not_le.2 hroom) hm).trans
    ((withTower_of_served ha hr hs).trans (if_neg (not_not.2 ho)))) h

end Whole

section Half
variable (h : canGo s (.nst q f) q [.s f.data, .s f.base] = true)
include hm ha hroom h

theorem exec_nst_outside {x : Word} (hr : towerRange s a 1 = .error x) : exec (.nst q f) s = faulted s 0x09 x :=
  exec_faults (by rfl) ((act_of_ready (Nat.not_le.2 hroom) hm).trans (withTower_of_outside ha hr)) h

theorem exec_nst_stores {key : Nat} (hr : towerRange s a 1 = .ok key) (hs : s.served a.col key = true) :
    exec (.nst q f) s = issued s (.nst q f) q (stored s (.nibble (f.sub % 2 == 1))
      [⟨storeDist s a.col 0 a.cell, key, [(s.sv f.data).toNat % 16], (s.e.sreg f.data).mark.isSome, 0⟩]) :=
  exec_goes (by rfl) ((act_of_ready (Nat.not_le.2 hroom) hm).trans (withTower_of_served ha hr hs)) h

end Half
end Store
end Scalar

/-- Settles O20: each word by what stands at its address. -/
theorem scalarTowerWords : Obligations.ScalarTowerWords := by
  intro q f s a hm ha
  exact ⟨fun hroom h => ⟨fun key => exec_ld_loads hm ha hroom h, fun key => exec_ld_closed hm ha hroom h, fun key => exec_ld_misaligned hm ha hroom h,
      fun x => exec_ld_outside hm ha hroom h⟩,
    fun hroom => ⟨fun h => ⟨fun key => exec_st_stores hm ha hroom h, fun key => exec_st_misaligned hm ha hroom h,
      fun x => exec_st_outside hm ha hroom h⟩,
      fun h key => exec_nst_stores hm ha hroom h, fun h x => exec_nst_outside hm ha hroom h⟩⟩

/-! ### VLD and VST (R240) -/

section Vector
variable {q : Seq} {f : FmtC} {s : State}

/-- The pieces of a VLD, one for each lane. -/
def lanePieces (l : List (Nat × TAddr × Nat)) : List Piece := l.map fun x => ⟨x.1, x.2.2, x.2.1.prog, 4, 0, false, 0, none⟩

theorem find?_lanePieces (l : List (Nat × TAddr × Nat)) (closed : Nat → Bool) :
    (lanePieces l).find? (fun p => closed p.key) =
      (l.find? fun x => closed x.2.2).map fun x => ⟨x.1, x.2.2, x.2.1.prog, 4, 0, false, 0, none⟩ :=
  List.find?_map ..

/-- What a VLD does with its lanes: it loads them, unless a row stops it, and reserves a place of its queue register. -/
def laneLoad (f : FmtC) (s : State) (a : TAddr) (l : List (Nat × TAddr × Nat)) : Act :=
  match loadGo s (lanePieces l) (loadLatency s a) [] (.loadQ f.data f.fmt) with
  | .go d => .go { d with st := d.st.setSl (d.st.sl.reserveQueue f.data) }
  | x => x

theorem laneLoad_of_closed {a : TAddr} {l : List (Nat × TAddr × Nat)} {x : Nat × TAddr × Nat} (hs : strictMode s = true)
    (hx : l.find? (fun x => s.rowClosed x.2.2) = some x) : laneLoad f s a l = .fault 0x08 (BitVec.ofNat 64 x.2.1.prog) := by
  have hfirst := find?_lanePieces l s.rowClosed
  rw [hx] at hfirst
  rw [laneLoad, loadGo_of_closed hs hfirst]

/-- What a VLD does where no row stops it. -/
def laneLoadDone (f : FmtC) (s : State) (a : TAddr) (l : List (Nat × TAddr × Nat)) : Done :=
  let d := loadDone s (lanePieces l) (loadLatency s a) (.loadQ f.data f.fmt)
  { d with st := d.st.setSl (d.st.sl.reserveQueue f.data) }

theorem laneLoad_of_open {a : TAddr} {l : List (Nat × TAddr × Nat)} (ho : strictMode s = false ∨ ∀ x ∈ l, s.rowClosed x.2.2 = false) :
    laneLoad f s a l = .go (laneLoadDone f s a l) := by
  have hopen : strictMode s = false ∨ (lanePieces l).all (fun p => !s.rowClosed p.key) = true := by simpa [lanePieces] using ho
  rw [laneLoad, loadGo_of_open hopen]
  rfl

section Load

theorem exec_vld_misuse (h : canGo s (.vld q f) q [.s f.base] = true) (hw : ¬(4 ≤ f.data ∧ s.sl.writerOf f.data = engCode s.cur.eng)) :
    exec (.vld q f) s = faulted s 0x14 (BitVec.ofNat 64 (f.data + 8)) := by
  rw [not_and_or, Nat.not_le] at hw
  exact exec_faults (by rfl) (if_pos hw) h

variable {a : TAddr} (h : canGo s (.vld q f) q [.s f.base] = true) (hm : s.markOf [f.base] = none) (hroom : s.loadCount s.cur < 16)
  (hw : 4 ≤ f.data ∧ s.sl.writerOf f.data = engCode s.cur.eng) (hq : (s.sl.queue f.data).hasRoom f.data s.cyc = true)
include hm hroom hw hq

/-- A VLD goes on to its lanes where its load queue and its queue register have room. -/
theorem vld_reaches_lanes : ∃ own, exec (.vld q f) s = wordIssue (.vld q f) q [.s f.base] own s ∧ own s = withLanes s f (laneLoad f s) := by
  have hmine : ¬(f.data < 4 ∨ s.sl.writerOf f.data ≠ engCode s.cur.eng) := by simpa using hw
  have hready : ¬(16 ≤ s.loadCount s.cur ∨ (!(s.sl.queue f.data).hasRoom f.data s.cyc) = true) := by simp [hroom, hq]
  exact ⟨_, show execVld q f s = _ from rfl, (if_neg hmine).trans (act_of_ready hready hm)⟩

variable (ha : s.towerAddr (s.effAddr f) (globalBit f) f.col = .ok a)
include ha h

theorem exec_vld_outside {x : Word} (hl : laneRange s a = .error x) : exec (.vld q f) s = faulted s 0x09 x := by
  obtain ⟨own, hi, hown⟩ := vld_reaches_lanes (q := q) hm hroom hw hq
  exact exec_faults hi (hown.trans (withLanes_of_outside ha hl)) h

variable {l : List (Nat × TAddr × Nat)} (hl : laneRange s a = .ok l)
include hl

theorem exec_vld_misaligned (ho : a.off % 64 ≠ 0) : exec (.vld q f) s = faulted s 0x0B (BitVec.ofNat 64 a.prog) := by
  obtain ⟨own, hi, hown⟩ := vld_reaches_lanes (q := q) hm hroom hw hq
  exact exec_faults hi (hown.trans (withLanes_of_misaligned ha hl ho)) h

variable (ho : a.off % 64 = 0) (hs : (l.all fun x => s.served a.col x.2.2) = true)
include ho hs

theorem exec_vld_closed {x : Nat × TAddr × Nat} (hstrict : strictMode s = true) (hx : l.find? (fun x => s.rowClosed x.2.2) = some x) :
    exec (.vld q f) s = faulted s 0x08 (BitVec.ofNat 64 x.2.1.prog) := by
  obtain ⟨own, hi, hown⟩ := vld_reaches_lanes (q := q) hm hroom hw hq
  exact exec_faults hi (hown.trans ((withLanes_of_served ha hl ho hs).trans (laneLoad_of_closed hstrict hx))) h

theorem exec_vld_loads (hopen : strictMode s = false ∨ ∀ x ∈ l, s.rowClosed x.2.2 = false) :
    exec (.vld q f) s = issued s (.vld q f) q (laneLoadDone f s a l) := by
  obtain ⟨own, hi, hown⟩ := vld_reaches_lanes (q := q) hm hroom hw hq
  exact exec_goes hi (hown.trans ((withLanes_of_served ha hl ho hs).trans (laneLoad_of_open hopen))) h

end Load

/-- What a VST does with its vector: it takes it from its queue register, and its lanes enter the store queue. -/
def laneStore (f : FmtC) (s : State) (v : VReg) (l : List (Nat × TAddr × Nat)) : Done :=
  stored (s.setSl (s.sl.setQueue f.data ((s.sl.queue f.data).dropFront s.cyc))) .write (vectorWrites s v l)

section Store

theorem exec_vst_misuse (h : canGo s (.vst q f) q [.s f.base] = true) (hr : ¬(4 ≤ f.data ∧ s.sl.readerOf f.data = engCode s.cur.eng)) :
    exec (.vst q f) s = faulted s 0x14 (BitVec.ofNat 64 f.data) := by
  rw [not_and_or, Nat.not_le] at hr
  exact exec_faults (by rfl) (if_pos hr) h

variable {a : TAddr} {v : VReg} (h : canGo s (.vst q f) q [.s f.base] = true) (hroom : s.storeCount s.cur < 16)
  (hr : 4 ≤ f.data ∧ s.sl.readerOf f.data = engCode s.cur.eng)
  (hq : (s.sl.queue f.data).front s.cyc = some (.v v))
include hroom hr hq

/-- A VST goes on to the vector at the front of its queue register where its store queue has room. -/
theorem vst_reaches_vector : ∃ own, exec (.vst q f) s = wordIssue (.vst q f) q [.s f.base] own s ∧
    own s = if f.fmt ≠ 0 ∧ v.tag ≠ f.fmt then .fault 0x04 (mismatchInfo f.fmt v.tag f.data 0)
      else consuming s [f.base] (withLanes s f fun _ l => .go (laneStore f s v l)) := by
  have hmine : ¬(f.data < 4 ∨ s.sl.readerOf f.data ≠ engCode s.cur.eng) := by simpa using hr
  refine ⟨_, show execVst q f s = _ from rfl, ?_⟩
  simp only [if_neg hmine, if_neg (Nat.not_le.2 hroom), hq]
  rfl

include h

theorem exec_vst_mismatch (hf : f.fmt ≠ 0) (ht : v.tag ≠ f.fmt) :
    exec (.vst q f) s = faulted s 0x04 (mismatchInfo f.fmt v.tag f.data 0) := by
  obtain ⟨own, hi, hown⟩ := vst_reaches_vector (q := q) hroom hr hq
  exact exec_faults hi (hown.trans (if_pos ⟨hf, ht⟩)) h

variable (hm : s.markOf [f.base] = none) (ha : s.towerAddr (s.effAddr f) (globalBit f) f.col = .ok a) (ht : f.fmt = 0 ∨ v.tag = f.fmt)
include hm ht

omit h in
/-- A VST whose vector has its tag goes on to its lanes. -/
theorem vst_reaches_lanes : ∃ own, exec (.vst q f) s = wordIssue (.vst q f) q [.s f.base] own s ∧
    own s = withLanes s f fun _ l => .go (laneStore f s v l) := by
  obtain ⟨own, hi, hown⟩ := vst_reaches_vector (q := q) hroom hr hq
  have htag : ¬(f.fmt ≠ 0 ∧ v.tag ≠ f.fmt) := not_and_or.2 (ht.imp not_not.2 not_not.2)
  exact ⟨own, hi, hown.trans ((if_neg htag).trans (consuming_of_unmarked hm))⟩

include ha

theorem exec_vst_outside {x : Word} (hl : laneRange s a = .error x) : exec (.vst q f) s = faulted s 0x09 x := by
  obtain ⟨own, hi, hown⟩ := vst_reaches_lanes (q := q) hroom hr hq hm ht
  exact exec_faults hi (hown.trans (withLanes_of_outside ha hl)) h

variable {l : List (Nat × TAddr × Nat)} (hl : laneRange s a = .ok l)
include hl

theorem exec_vst_misaligned (ho : a.off % 64 ≠ 0) : exec (.vst q f) s = faulted s 0x0B (BitVec.ofNat 64 a.prog) := by
  obtain ⟨own, hi, hown⟩ := vst_reaches_lanes (q := q) hroom hr hq hm ht
  exact exec_faults hi (hown.trans (withLanes_of_misaligned ha hl ho)) h

theorem exec_vst_stores (ho : a.off % 64 = 0) (hs : (l.all fun x => s.served a.col x.2.2) = true) :
    exec (.vst q f) s = issued s (.vst q f) q (laneStore f s v l) := by
  obtain ⟨own, hi, hown⟩ := vst_reaches_lanes (q := q) hroom hr hq hm ht
  exact exec_goes hi (hown.trans (withLanes_of_served ha hl ho hs)) h

end Store
end Vector

/-- Settles O21: each word by what its queue register and its lanes are. -/
theorem vectorTowerWords : Obligations.VectorTowerWords := by
  intro q f s writer reader
  refine ⟨exec_vld_misuse, exec_vst_misuse, fun a hm ha =>
    ⟨fun hroom hw hq h => ⟨fun x => exec_vld_outside h hm hroom hw hq ha, fun l hl => ?load⟩,
    fun v hroom hr hq h => ⟨exec_vst_mismatch h hroom hr hq, fun ht => ⟨fun x => exec_vst_outside h hroom hr hq hm ha ht, fun l hl => ?store⟩⟩⟩⟩
  case load =>
    exact ⟨exec_vld_misaligned h hm hroom hw hq ha hl, fun ho hs => ⟨fun x => exec_vld_closed h hm hroom hw hq ha hl ho hs,
      fun hopen => ⟨_, exec_vld_loads h hm hroom hw hq ha hl ho hs hopen,
        congrArg (fun keys => s.request (pieceReqs _ _ _ _ keys)) (List.map_map ..)⟩⟩⟩
  case store =>
    exact ⟨exec_vst_misaligned h hroom hr hq hm ha ht hl, fun ho hs => ⟨_, exec_vst_stores h hroom hr hq hm ha ht hl ho hs, rfl⟩⟩

/-! ### ACT, PRE and REF (R241) -/

@[simp] theorem abandonAudit_cur (s : State) (g r w : Nat) : (s.abandonAudit g r w).cur = s.cur := by
  unfold State.abandonAudit
  cases s.groups.get? g <;> rfl

@[simp] theorem abandonAudit_quads (s : State) (g r w : Nat) : (s.abandonAudit g r w).quads = s.quads := by
  unfold State.abandonAudit
  cases s.groups.get? g <;> rfl

@[simp] theorem auditAway_cur (s : State) (sk opc : Nat) : (s.auditAway sk opc).cur = s.cur := by
  unfold State.auditAway
  cases s.groupOf sk with
  | none => rfl
  | some g => exact (apply_ite State.cur ..).trans (by rw [abandonAudit_cur, ite_self])

@[simp] theorem auditAway_quads (s : State) (sk opc : Nat) : (s.auditAway sk opc).quads = s.quads := by
  unfold State.auditAway
  cases s.groupOf sk with
  | none => rfl
  | some g => exact (apply_ite State.quads ..).trans (by rw [abandonAudit_quads, ite_self])

/-- An audit that is abandoned leaves the quads as they are (R478, R491). -/
@[simp] theorem auditAway_quadServes (s : State) (sk opc col : Nat) : (s.auditAway sk opc).quadServes col = s.quadServes col := by
  unfold State.quadServes State.quadAt
  rw [auditAway_quads]

/-- The byte that names the row of a row word: in the tower of its cell, or in that of cell 0 where it means all sixteen. -/
def rowTarget (f : FmtC) (a : TAddr) : TAddr := if f.sub / 4 % 2 = 1 then { a with cell := 0 } else a

@[simp] theorem rowTarget_col (f : FmtC) (a : TAddr) : (rowTarget f a).col = a.col := by
  unfold rowTarget
  split <;> rfl

/-- The keys of the rows that a row word means, by the key of its byte. -/
def rowKeys (f : FmtC) (key : Nat) : List Nat := if f.sub / 4 % 2 = 1 then (List.range 16).map fun c => key + c * 2 ^ 22 else [key]

/-- What a row word does: it asks the banks of its rows for its operation (R241). -/
def rowDone (f : FmtC) (op : RowOpKind) (lat key : Nat) (s : State) : Done :=
  { st := s.request (pieceReqs s.cur s.nextId (.op op) (opCtx s) (rowKeys f key)), lat := lat, pend := .rows }

section Row
variable {i : Instr} {q : Seq} {f : FmtC} {op : RowOpKind} {lat : Nat} {s : State} {a : TAddr} (hi : exec i s = rowWord i q f op lat s)
  (hm : s.markOf [f.base] = none) (ha : s.towerAddr (s.effAddr f) (globalBit f) f.col = .ok a) (h : canGo s i q [.s f.base] = true)
include hi hm ha h

theorem exec_row_outside {x : Word} (hr : towerRange s (rowTarget f a) 1 = .error x) : exec i s = faulted s 0x09 x := by
  unfold rowTarget at hr
  refine exec_faults hi ?_ h
  simp only [consuming_of_unmarked hm, ha, hr]

variable {key : Nat} (hr : towerRange s (rowTarget f a) 1 = .ok key)
include hr

theorem exec_row_own (hc : a.col = s.cur.col) : exec i s = issued s i q (rowDone f op lat key s) := by
  have hcol : (rowTarget f a).col = s.cur.col := (rowTarget_col ..).trans hc
  unfold rowTarget at hr hcol
  refine exec_goes hi ?_ h
  simp only [consuming_of_unmarked hm, ha, hr, hcol, if_true, ne_eq, not_true_eq_false, false_and, if_false]
  rfl

variable (hc : a.col ≠ s.cur.col)
include hc

/-- In a neighbour column the operation comes 6 cycles later, and an audit of the group ends (R241, R478). -/
theorem exec_row_neighbour (hs : s.quadServes a.col = true) :
    exec i s = issued s i q (rowDone f op (lat + 6) key (s.auditAway s.cur.sk ((i.form.map Form.opc).getD 0))) := by
  have hcol : (rowTarget f a).col = a.col := rowTarget_col ..
  unfold rowTarget at hr hcol
  refine exec_goes hi ?_ h
  simp only [consuming_of_unmarked hm, ha, hr, hcol, hc, auditAway_cur, auditAway_quadServes, hs, Bool.true_eq_false, and_false, if_false]
  rw [rowDone, auditAway_cur]
  rfl

theorem exec_row_waits (hs : s.quadServes a.col = false) : exec i s = .next s := by
  have hcol : (rowTarget f a).col = a.col := rowTarget_col ..
  unfold rowTarget at hr hcol
  refine hi.trans (wordIssue_wait h rfl ?_)
  simp only [consuming_of_unmarked hm, ha, hr, hcol, hc, auditAway_cur, auditAway_quadServes, hs, ne_eq, not_false_eq_true, and_self, if_false, if_true]

end Row

/-! ### REFHOLD and REFREL (R242) -/

@[simp] theorem sl_setSl (s : State) (v : Slot) : (s.setSl v).sl = v := State.slotAt_setSlot_same ..

/-- REFHOLD reads LEFT of its slot's window and holds it (R226, R242). -/
theorem exec_refhold_holds {q : Seq} {g : FmtF} {s : State} (h : canGo s (.refhold q g) q [.s g.dst] = true) :
    exec (.refhold q g) s = issued s (.refhold q g) q
      { st := (s.touchColumn s.cur.col).setSl { (s.touchColumn s.cur.col).sl with hold := true },
        writes := [.s g.dst { val := BitVec.ofNat 64 (s.windowLeft s.cur.col (windowOf (s.twin s.cur.col (bitsAt (s.sl.ctlr 0x120) 33 32)))) }] } :=
  exec_goes (by rfl) rfl h

/-- REFREL ends the hold (R226, R242). -/
theorem exec_refrel_releases {q : Seq} {g : FmtF} {s : State} (h : canGo s (.refrel q g) q [] = true) :
    exec (.refrel q g) s = issued s (.refrel q g) q { st := s.setSl { s.sl with hold := false } } :=
  exec_goes (by rfl) rfl h

/-- Settles O22: a row word by the column and the quad of its row, REFHOLD and REFREL by what they leave in their slot. -/
theorem rowWords : Obligations.RowWords := by
  intro q f g s
  refine ⟨fun a hm ha => ?rows, fun h => ⟨_, exec_refhold_holds h, congrArg Slot.hold (sl_setSl ..), rfl, rfl⟩, exec_refrel_releases⟩
  case rows =>
    have row (i : Instr) (op : RowOpKind) (lat : Nat) (hi : exec i s = rowWord i q f op lat s) (h : canGo s i q [.s f.base] = true) :=
      And.intro (fun x => exec_row_outside (x := x) hi hm ha h) fun key hr =>
        And.intro (exec_row_own (key := key) hi hm ha h hr) (And.intro (exec_row_neighbour hi hm ha h hr) (exec_row_waits hi hm ha h hr))
    exact ⟨row _ _ _ rfl, row _ _ _ rfl, row _ _ _ rfl⟩

end Sys2Proof.Machine
end

section
/-! PROOFS. What happens at the banks and in the write queues of a tower: row operations, refreshes, drains, errors and row sparing (R213, R216,
R222–R233, R303). -/

namespace Sys2Proof.Machine

/-! ### Banks -/

@[simp] theorem bankAt_setBank_same (s : State) (tower bank : Nat) (b : Bank) : (s.setBank tower bank b).bankAt tower bank = b := by
  simp [State.bankAt, State.setBank]

@[simp] theorem setBank_mem (s : State) (tower bank : Nat) (b : Bank) : (s.setBank tower bank b).mem = s.mem := rfl
@[simp] theorem setBank_reqs (s : State) (tower bank : Nat) (b : Bank) : (s.setBank tower bank b).reqs = s.reqs := rfl

@[simp] theorem towerAt_setBank_same (s : State) (tower bank : Nat) (b : Bank) :
    (s.setBank tower bank b).towerAt tower = { s.towerAt tower with banks := (s.towerAt tower).banks.put bank b } :=
  State.towerAt_setTower_same ..

/-! ### The end of a row operation (R213, R222) -/

/-- A bank as the end of its first operation leaves it, at cycle `c`; `phys` gives the physical row of a row. -/
def Bank.ended (b : Bank) (o : RowOp) (rest : List RowOp) (phys : Nat → Nat) (c : Nat) : Bank :=
  let left := match b.buf with | some r => b.restored.put (phys r) c | none => b.restored
  match o.kind with
  | .open_ => { b with ops := rest, buf := some o.row, restored := left.put (phys o.row) c }
  | .close => { b with ops := rest, buf := none, restored := left }
  | .refresh => { b with ops := rest, restored := b.restored.put (phys o.row) c }

section Ended
variable {b : Bank} {o : RowOp} {rest : List RowOp} {phys : Nat → Nat} {c : Nat}

@[simp] theorem Bank.ended_ops : (b.ended o rest phys c).ops = rest := by
  unfold Bank.ended
  cases o.kind <;> rfl

theorem Bank.ended_open (h : o.kind = .open_) :
    (b.ended o rest phys c).buf = some o.row ∧ (b.ended o rest phys c).restored.get? (phys o.row) = some c := by
  unfold Bank.ended
  rw [h]
  exact ⟨rfl, Map.get?_put_same ..⟩

theorem Bank.ended_close (h : o.kind = .close) :
    (b.ended o rest phys c).buf = none ∧ ∀ r, b.buf = some r → (b.ended o rest phys c).restored.get? (phys r) = some c := by
  unfold Bank.ended
  rw [h]
  refine ⟨rfl, fun r hr => ?_⟩
  rw [hr]
  exact Map.get?_put_same ..

theorem Bank.ended_refresh (h : o.kind = .refresh) :
    (b.ended o rest phys c).buf = b.buf ∧ (b.ended o rest phys c).restored.get? (phys o.row) = some c := by
  unfold Bank.ended
  rw [h]
  exact ⟨rfl, Map.get?_put_same ..⟩

end Ended

section Operation
variable {tower bank : Nat} {s : State} {o : RowOp} {rest : List RowOp} (ho : (s.bankAt tower bank).ops = o :: rest)
include ho

theorem exec_rowOperationEnd_ends (hs : o.stop ≤ s.cyc + 1) : exec (.rowOperationEnd tower bank) s =
    .next (s.setBank tower bank ((s.bankAt tower bank).ended o rest ((s.towerAt tower).physRow bank) (s.cyc + 1))) := by
  show execRowOperationEnd tower bank s = _
  simp only [execRowOperationEnd, ho, if_neg (Nat.not_lt.2 hs)]
  rfl

theorem exec_rowOperationEnd_early (hs : s.cyc + 1 < o.stop) : exec (.rowOperationEnd tower bank) s = .next s := by
  show execRowOperationEnd tower bank s = _
  simp only [execRowOperationEnd, ho, if_pos hs]

end Operation

/-! ### The sequencer (R224–R226) -/

theorem foldl_field_eq {α β : Type} (field : State → β) (l : List α) (f : State → α → State) (hf : ∀ s a, field (f s a) = field s)
    (s : State) : field (l.foldl f s) = field s :=
  List.foldlRecOn (motive := fun t => field t = field s) l f rfl fun t ht a _ => (hf t a).trans ht

/-- Which rows a column's slots hold is in its slots and window registers, as they were at the start of the cycle (R92, R226). -/
theorem atDawn_rowHeld_congr {s t : State} (hd : t.dawn = s.dawn) (hs : t.slots = s.slots) (hc : t.cols = s.cols) (col row : Nat) :
    t.atDawn.rowHeld col row = s.atDawn.rowHeld col row := by
  have hslots : t.atDawn.slots = s.atDawn.slots := by
    unfold State.atDawn
    rw [hd]
    cases s.dawn with
    | none => exact hs
    | some d => rfl
  have hcols : t.atDawn.cols = s.atDawn.cols := by
    unfold State.atDawn
    rw [hd]
    cases s.dawn with
    | none => exact hc
    | some d => rfl
  unfold State.rowHeld State.twin State.slotAt State.colAt
  rw [hslots, hcols]

/-- The sequencer of a tower goes on to its next row (R224). -/
def State.seqGoesOn (s : State) (tower : Nat) : State :=
  (s.setTower tower { s.towerAt tower with seqOn := true, seqIdx := (nextRefresh (s.epochs tower) s.cyc).1 }).due
    (nextRefresh (s.epochs tower) s.cyc).2 25 (.backgroundRefresh tower)

@[simp] theorem seqGoesOn_rowOpen (s : State) (tower bank phys : Nat) : (s.seqGoesOn tower).rowOpen tower bank phys = s.rowOpen tower bank phys := by
  simp [State.rowOpen, State.seqGoesOn, State.bankAt, Tower.logicalRow]

@[simp] theorem seqGoesOn_rowHeld (s : State) (tower col row : Nat) : (s.seqGoesOn tower).atDawn.rowHeld col row = s.atDawn.rowHeld col row :=
  atDawn_rowHeld_congr (t := s.seqGoesOn tower) (s := s) rfl rfl rfl col row

/-- A slot holds a window with the row that a physical row of a bank holds (R226). -/
def State.physHeld (s : State) (tower bank phys : Nat) : Bool :=
  ((s.towerAt tower).logicalRow bank phys).any fun r => s.atDawn.rowHeld (tower / 16) r

/-- What the sequencer does at its row: it leaves one that is open, keeps the age of one that is held, and asks for any other (R224–R226). -/
theorem execBackgroundRefresh_eq (tower : Nat) (s : State) :
    let i := (s.towerAt tower).seqIdx
    execBackgroundRefresh tower s = if s.rowOpen tower (i % 16) (i / 16) then .next (s.seqGoesOn tower)
      else if s.physHeld tower (i % 16) (i / 16) then
        let r := (s.seqGoesOn tower).restoredAt tower (i % 16) (i / 16)
        .next (((s.seqGoesOn tower).setBank tower (i % 16) { s.bankAt tower (i % 16) with
          restored := (s.bankAt tower (i % 16)).restored.put (i / 16) r }).due (r + (s.seqGoesOn tower).forceAge tower) 24
            (.forcedRefresh tower (i % 16) (i / 16)))
      else .next { s.seqGoesOn tower with reqs := s.reqs ++ [⟨none, 3, 0, tower, i % 16, i / 16, .op .refresh, none, none⟩] } := by
  intro i
  rw [← seqGoesOn_rowOpen, State.physHeld]
  simp only [← seqGoesOn_rowHeld s tower]
  rfl

section Background
variable {tower : Nat} {s : State}

theorem exec_backgroundRefresh_skips (h : s.rowOpen tower ((s.towerAt tower).seqIdx % 16) ((s.towerAt tower).seqIdx / 16) = true ∨
    s.physHeld tower ((s.towerAt tower).seqIdx % 16) ((s.towerAt tower).seqIdx / 16) = true) :
    ∃ t, exec (.backgroundRefresh tower) s = .next t ∧ t.reqs = s.reqs := by
  have hexec := execBackgroundRefresh_eq tower s
  dsimp only at hexec
  split at hexec
  · exact ⟨_, hexec, rfl⟩
  · next hopen =>
    rw [if_pos (h.resolve_left hopen)] at hexec
    exact ⟨_, hexec, rfl⟩

theorem exec_backgroundRefresh_asks (ho : s.rowOpen tower ((s.towerAt tower).seqIdx % 16) ((s.towerAt tower).seqIdx / 16) = false)
    (hh : s.physHeld tower ((s.towerAt tower).seqIdx % 16) ((s.towerAt tower).seqIdx / 16) = false) :
    ∃ t, exec (.backgroundRefresh tower) s = .next t ∧ t.reqs = s.reqs ++
      [⟨none, 3, 0, tower, (s.towerAt tower).seqIdx % 16, (s.towerAt tower).seqIdx / 16, .op .refresh, none, none⟩] := by
  have hexec := execBackgroundRefresh_eq tower s
  simp only [ho, hh, Bool.false_eq_true, if_false] at hexec
  exact ⟨_, hexec, rfl⟩

end Background

/-! ### Forced refreshes (R223, R225) -/

/-- The slots of a column whose windows hold a row count its forced refresh (R225). -/
def State.noteForced (s : State) (tower bank row : Nat) : State :=
  (List.range 4).foldl (fun s n =>
    let sk := slotKey (tower / 16) n
    let sl := s.slotAt sk
    let w := s.twin (tower / 16) (bitsAt (sl.ctlr 0x120) 33 32)
    if sl.gid.isSome && ((s.towerAt tower).logicalRow bank row).any fun r => decide (bitsAt w 8 0 ≤ r ∧ r < bitsAt w 25 16) then
      s.setSlot sk (sl.setCtl 0x51 (setBits (sl.ctlr 0x51) 47 40 (min 255 (bitsAt (sl.ctlr 0x51) 47 40 + 1))))
    else s) s

@[simp] theorem noteForced_reqs (s : State) (tower bank row : Nat) : (s.noteForced tower bank row).reqs = s.reqs :=
  foldl_field_eq State.reqs _ _ (fun s n => by dsimp only; split <;> rfl) s

@[simp] theorem noteForced_towers (s : State) (tower bank row : Nat) : (s.noteForced tower bank row).towers = s.towers :=
  foldl_field_eq State.towers _ _ (fun s n => by dsimp only; split <;> rfl) s

@[simp] theorem noteForced_towerAt (s : State) (tower bank row n : Nat) : (s.noteForced tower bank row).towerAt n = s.towerAt n := by
  simp only [State.towerAt, noteForced_towers]

/-- A tower counts a forced refresh, and one of 2^20 cycles posts a health event (R225, R470). -/
def State.countForced (s : State) (tower : Nat) : State :=
  let t := s.towerAt tower
  let n := t.forced + 1
  let u := s.setTower tower { t with forced := n, forcedAt := if t.forced = 0 ∨ t.forcedAt + 2 ^ 20 ≤ s.cyc then s.cyc else t.forcedAt }
  if t.forced = 0 ∨ t.forcedAt + 2 ^ 20 ≤ u.cyc then u.health { code := 0x0D, loc := u.cellLoc tower, info := BitVec.ofNat 64 n } else u

@[simp] theorem countForced_reqs (s : State) (tower : Nat) : (s.countForced tower).reqs = s.reqs := by
  simp only [State.countForced, apply_ite State.reqs, State.health_reqs, State.setTower_reqs, ite_self]

theorem countForced_forced (s : State) (tower : Nat) : ((s.countForced tower).towerAt tower).forced = (s.towerAt tower).forced + 1 := by
  simp only [State.countForced, apply_ite (State.towerAt · tower), State.towerAt_health, State.towerAt_setTower_same, ite_self]

@[simp] theorem touch_reqs (s : State) (tower : Nat) : (s.touch tower).reqs = s.reqs := by
  simp only [State.touch, apply_ite State.reqs, State.due_reqs, State.setTower_reqs, setBank_reqs, ite_self]

@[simp] theorem touch_forced (s : State) (tower : Nat) : ((s.touch tower).towerAt tower).forced = (s.towerAt tower).forced := by
  simp only [State.touch, apply_ite (State.towerAt · tower), apply_ite Tower.forced, State.towerAt_due, State.towerAt_setTower_same,
    towerAt_setBank_same, ite_self]

/-- Looking for the next row to be forced puts down at most its time (R225). -/
theorem planForced_due (s : State) (tower bank t : Nat) (but : Option Nat) :
    s.planForced tower bank t but = s ∨ ∃ at_ p i, s.planForced tower bank t but = s.due at_ p i := by
  unfold State.planForced
  dsimp only
  split
  · exact .inl rfl
  · split
    · exact .inl rfl
    · exact .inr ⟨_, _, _, rfl⟩

@[simp] theorem planForced_reqs (s : State) (tower bank t : Nat) (but : Option Nat) : (s.planForced tower bank t but).reqs = s.reqs := by
  rcases planForced_due s tower bank t but with h | ⟨_, _, _, h⟩
  · rw [h]
  · rw [h]
    rfl

@[simp] theorem planForced_towerAt (s : State) (tower bank t : Nat) (but : Option Nat) (n : Nat) :
    (s.planForced tower bank t but).towerAt n = s.towerAt n := by
  rcases planForced_due s tower bank t but with h | ⟨_, _, _, h⟩
  · rw [h]
  · rw [h]
    rfl

/-- What a forced refresh does beside its request: it is counted, and the next row of its bank is looked for (R223, R225). -/
def State.forcing (s : State) (tower bank row : Nat) : State :=
  let u := (s.noteForced tower bank row).countForced tower
  (u.touch tower).planForced tower bank (u.cyc + 8) (some row)

@[simp] theorem forcing_reqs (s : State) (tower bank row : Nat) : (s.forcing tower bank row).reqs = s.reqs := by
  simp only [State.forcing, planForced_reqs, touch_reqs, countForced_reqs, noteForced_reqs]

theorem forcing_forced (s : State) (tower bank row : Nat) : ((s.forcing tower bank row).towerAt tower).forced = (s.towerAt tower).forced + 1 := by
  simp only [State.forcing, planForced_towerAt, touch_forced, countForced_forced, noteForced_towerAt]

theorem towerAt_reqs (s : State) (l : List PortReq) (n : Nat) : ({ s with reqs := l } : State).towerAt n = s.towerAt n := rfl

section Forced
variable {tower bank row : Nat} {s : State}

/-- A row that is old enough is asked for where its bank has no operation in progress and no other forced refresh (R225). -/
theorem exec_forcedRefresh_asks (ho : s.rowOpen tower bank row = false) (ha : s.forceAge tower ≤ s.cyc - s.restoredAt tower bank row)
    (hb : (s.bankAt tower bank).ops.any (fun o => decide (o.start < s.cyc ∧ s.cyc < o.stop)) = false)
    (hr : s.reqs.any (fun r => r.step == 1 && r.tower == tower && r.bank == bank) = false) :
    exec (.forcedRefresh tower bank row) s = .next { s.forcing tower bank row with
      reqs := (s.forcing tower bank row).reqs ++ [⟨none, 1, 0, tower, bank, row, .op .refresh, none, none⟩] } := by
  have hold : ¬(s.rowOpen tower bank row = true ∨ s.cyc - s.restoredAt tower bank row < s.forceAge tower) := by simp [ho, ha]
  have hfree : ¬((s.bankAt tower bank).ops.any (fun o => decide (o.start < s.cyc ∧ s.cyc < o.stop)) = true ∨
      s.reqs.any (fun r => r.step == 1 && r.tower == tower && r.bank == bank) = true) := by
    simp only [hb, hr, Bool.false_eq_true, or_self, not_false_eq_true]
  exact (if_neg hold).trans (if_neg hfree)

end Forced

/-! ### A line that drains (R231) -/

theorem drainOn_queue (s : State) (tower : Nat) : ((s.drainOn tower).towerAt tower).queue = (s.towerAt tower).queue := by
  unfold State.drainOn
  split <;> rfl

@[simp] theorem keepFromLoads_queue (s : State) (tower bank : Nat) :
    ((s.keepFromLoads tower bank).towerAt tower).queue = (s.towerAt tower).queue := by
  rw [State.keepFromLoads, towerAt_setBank_same]

section Drain
variable {tower l : Nat} {s : State}

/-- A line with no word in part, in a tower where no correction waits, only leaves its queue. -/
theorem drainLine_of_whole (hp : (s.towerAt tower).partly = []) (hb : (s.towerAt tower).backs = []) :
    s.drainLine tower l = s.setTower tower { s.towerAt tower with queue := (s.towerAt tower).queue.tail, partly := [] } := by
  simp [State.drainLine, State.retryBacks, hp, hb]

/-- A bank that nothing keeps is free for a line, be the queue full or not (R231). -/
theorem drainBusy_of_free (hf : (s.bankAt tower (keyBank (l * 64))).freeAt ≤ s.cyc) (hn : (s.bankAt tower (keyBank (l * 64))).nextLoad ≤ s.cyc)
    (ho : (s.bankAt tower (keyBank (l * 64))).ops.any (fun o => decide (o.start ≤ s.cyc ∧ s.cyc < o.stop)) = false) (hr : s.reqs = []) :
    s.drainBusy tower l = false := by
  unfold State.drainBusy
  simp only [ho, hr, List.any_nil, Nat.not_lt.2 hf, Nat.not_lt.2 hn, decide_false, Bool.or_self, ite_self]

end Drain

/-! ### Errors of tower words (R228, R229) -/

theorem mem_insertKey_self (l : List Nat) (k : Nat) : k ∈ State.insertKey l k := by
  induction l with
  | nil => simp [State.insertKey]
  | cons j t ih =>
    unfold State.insertKey
    split
    · simp
    · split
      · next hj => simp [hj]
      · simp [ih]

@[simp] theorem queueLine_poison (s : State) (k : Nat) : (s.queueLine k).poison = s.poison := by
  simp only [State.queueLine, apply_ite State.poison, State.due_poison, State.setTower_poison, ite_self]

@[simp] theorem queueLine_bitErrs (s : State) (k : Nat) : (s.queueLine k).bitErrs = s.bitErrs := by
  simp only [State.queueLine, apply_ite State.bitErrs, State.due_bitErrs, State.setTower_bitErrs, ite_self]

/-- What a read makes of the error `e` of a word: an uncorrectable one poisons it, a single-bit one is corrected and written back (R228, R229). -/
def State.settleError (s : State) (w e : Nat) : State :=
  if e == 2 then { s with bitErrs := s.bitErrs.del w, poison := State.insertKey s.poison w } else s.writeBack w

section Error
variable {s : State} {w : Nat}

/-- A read that finds an error settles it, and posts its event (R228, R229, R470). -/
theorem checkWord_found {e : Nat} (he : s.bitErrs.get? w = some e) :
    (s.checkWord w).poison = (s.settleError w e).poison ∧ (s.checkWord w).bitErrs = (s.settleError w e).bitErrs ∧
    ∃ v ∈ (s.checkWord w).hevents, v.code = (if e == 2 then 0x02 else 0x01) ∧ v.info = BitVec.ofNat 64 ((w - towerBase) % 2 ^ 22) := by
  obtain ⟨tw, v, cause, hw, hcode, hinfo⟩ : ∃ (tw : Tower) (v : HEvent) (cause : Bool), s.checkWord w =
        (let u := ((s.settleError w e).setTower (keyTower w) tw).health v
        if cause then u.due u.cyc 860 (.rowSpareCopyVerify (keyTower w) true) 1 else u) ∧
      v.code = (if e == 2 then 0x02 else 0x01) ∧ v.info = BitVec.ofNat 64 ((w - towerBase) % 2 ^ 22) := by
    simp only [State.checkWord, he]
    exact ⟨_, _, _, rfl, rfl, rfl⟩
  have hevents : (s.checkWord w).hevents = (s.settleError w e).hevents ++ [v] := by
    simp only [hw, apply_ite State.hevents, State.due_hevents, State.health_hevents, State.setTower_hevents, ite_self]
  refine ⟨?_, ?_, v, by simp [hevents], hcode, hinfo⟩
  · simp only [hw, apply_ite State.poison, State.due_poison, State.health_poison, State.setTower_poison, ite_self]
  · simp only [hw, apply_ite State.bitErrs, State.due_bitErrs, State.health_bitErrs, State.setTower_bitErrs, ite_self]

/-- A single-bit error is corrected where the write queue has room for its line. -/
theorem checkWord_corrected (he : s.bitErrs.get? w = some 1) (hr : s.lineBlocked w = false) :
    (s.checkWord w).poison = s.poison ∧ (s.checkWord w).bitErrs.get? w = none ∧
    ∃ v ∈ (s.checkWord w).hevents, v.code = 0x01 ∧ v.info = BitVec.ofNat 64 ((w - towerBase) % 2 ^ 22) := by
  obtain ⟨hpoison, herrs, hevent⟩ := checkWord_found he
  have hback : s.settleError w 1 = ({ s with bitErrs := s.bitErrs.del w }.setTower (keyTower w)
      { s.towerAt (keyTower w) with backs := (s.towerAt (keyTower w)).backs.filter (· != w) }).queueLine w := by
    simp [State.settleError, State.writeBack, hr]
  rw [hback] at hpoison herrs
  exact ⟨by rw [hpoison, queueLine_poison, State.setTower_poison], by rw [herrs, queueLine_bitErrs, State.setTower_bitErrs, Map.get?_del_same], hevent⟩

/-- An uncorrectable error poisons its word. -/
theorem checkWord_poisoned (ha : w % 8 = 0) (he : s.bitErrs.get? w = some 2) :
    (s.checkWord w).poisoned w = true ∧ (s.checkWord w).bitErrs.get? w = none ∧
    ∃ v ∈ (s.checkWord w).hevents, v.code = 0x02 ∧ v.info = BitVec.ofNat 64 ((w - towerBase) % 2 ^ 22) := by
  obtain ⟨hpoison, herrs, hevent⟩ := checkWord_found he
  have hword : w / 8 * 8 = w := by omega
  have hin : w ∈ (s.checkWord w).poison := by
    rw [hpoison]
    exact mem_insertKey_self ..
  refine ⟨by simp [State.poisoned, hword, hin], ?_, hevent⟩
  rw [herrs]
  exact Map.get?_del_same ..

end Error

/-! ### Row sparing (R233) -/

/-- A tower that copies no row and has no copy asked for starts none. -/
theorem startSpare_of_idle {s : State} {tower : Nat} (hn : (s.towerAt tower).spareNow = none) (hr : (s.towerAt tower).spareReqs = []) :
    s.startSpare tower = s.setTower tower { s.towerAt tower with spareReqs := [] } := by
  simp [State.startSpare, State.startCopies, hn, hr]

/-- A spare row takes the row that has been copied to it (R233). -/
def State.spareTakes (s : State) (tower : Nat) (r : SpareReq) (sp : Nat) : State :=
  let t := s.towerAt tower
  let was := (t.spares.get? (r.bank * 512 + r.row)).toList.map fun o => r.bank * 8 + (o - 512)
  let u := s.setTower tower { t with spares := t.spares.put (r.bank * 512 + r.row) sp, badSpares := t.badSpares ++ was, spareNow := none }
  let b := u.bankAt tower r.bank
  (u.setBank tower r.bank { b with restored := b.restored.put sp u.cyc }).health
    { code := 0x05, loc := s.towerLoc tower r.bank r.row, info := BitVec.ofNat 64 sp }

section Takes
variable (s : State) (tower : Nat) (r : SpareReq) (sp : Nat)

theorem spareTakes_spareNow : ((s.spareTakes tower r sp).towerAt tower).spareNow = none := by simp [State.spareTakes]
theorem spareTakes_spareReqs : ((s.spareTakes tower r sp).towerAt tower).spareReqs = (s.towerAt tower).spareReqs := by simp [State.spareTakes]
theorem spareTakes_spares : ((s.spareTakes tower r sp).towerAt tower).spares.get? (r.bank * 512 + r.row) = some sp := by simp [State.spareTakes]

end Takes

/-- The copy of a row goes on: when it ends, and whether the spare shows an error, is left open (R233). -/
def State.copyOn (s : State) (tower : Nat) : State :=
  s.freeNat.2.freeNat.2.due (s.freeNat.2.freeNat.2.cyc + 1 + s.freeNat.1) 20 (.rowSpareCopyVerify tower (s.freeNat.2.freeNat.1 % 2 == 0))

@[simp] theorem copyOn_towerAt (s : State) (tower n : Nat) : (s.copyOn tower).towerAt n = s.towerAt n := rfl
@[simp] theorem copyOn_hevents (s : State) (tower : Nat) : (s.copyOn tower).hevents = s.hevents := rfl

theorem towerLoc_setTower_badSpares (s : State) (tower bank row : Nat) (l : List Nat) :
    (s.setTower tower { s.towerAt tower with badSpares := l }).towerLoc tower bank row = s.towerLoc tower bank row := by
  simp [State.towerLoc, State.cellLoc, State.colLoc, Tower.physRow]

/-- A spare row that shows an error is left bad (R233). -/
def State.spareFails (s : State) (tower : Nat) (r : SpareReq) (sp : Nat) : State :=
  let u := s.setTower tower { s.towerAt tower with badSpares := (s.towerAt tower).badSpares ++ [r.bank * 8 + (sp - 512)] }
  u.health { code := 0x06, loc := u.towerLoc tower r.bank r.row, info := BitVec.ofNat 64 sp }

theorem spareFails_hevents (s : State) (tower : Nat) (r : SpareReq) (sp : Nat) : (s.spareFails tower r sp).hevents =
    s.hevents ++ [{ code := 0x06, loc := s.towerLoc tower r.bank r.row, info := BitVec.ofNat 64 sp }] := by
  simp only [State.spareFails, State.health_hevents, towerLoc_setTower_badSpares, State.setTower_hevents]

section Spare
variable {tower sp : Nat} {r : SpareReq} {s : State} (h0 : s.subject = 0) (hn : (s.towerAt tower).spareNow = some (r, sp))
include h0 hn

theorem exec_rowSpareCopyVerify_verified :
    exec (.rowSpareCopyVerify tower true) s = .next ((s.spareTakes tower r sp).startSpare tower) := by
  show execRowSpareCopyVerify tower true s = _
  simp only [execRowSpareCopyVerify, h0, hn, if_true, Nat.zero_ne_one, if_false]
  rfl

/-- The copy starts again on the next good spare row. -/
theorem exec_rowSpareCopyVerify_restarts {n : Nat} {l : List Nat} (hg : State.goodSpares { s.towerAt tower with
      badSpares := (s.towerAt tower).badSpares ++ [r.bank * 8 + (sp - 512)] } r.bank = n :: l) :
    exec (.rowSpareCopyVerify tower false) s = .next (((s.spareFails tower r sp).setTower tower
      { (s.spareFails tower r sp).towerAt tower with spareNow := some (r, n) }).copyOn tower) := by
  show execRowSpareCopyVerify tower false s = _
  simp only [hn] at hg
  simp only [execRowSpareCopyVerify, State.spareFails, h0, hn, Bool.false_eq_true, Nat.zero_ne_one, if_false, State.towerAt_health,
    State.towerAt_setTower_same, hg, List.head?_cons]
  rfl

end Spare

/-- Settles O33: each step by the lemma that says what it does. -/
theorem towerSteps : Obligations.TowerSteps := by
  intro tower bank s
  refine ⟨fun o rest ho => ⟨fun hs => ?ended, exec_rowOperationEnd_early ho⟩, ⟨exec_backgroundRefresh_asks, exec_backgroundRefresh_skips⟩,
    fun row ho ha hb hr => ?forced, fun id dist e he hs hf hl => ?reach, fun l rest hq hp hb hf hn ho hr => ?drain, fun col value => rfl,
    fun w ha he hl => ⟨checkWord_mem s w, checkWord_corrected he hl⟩, fun w ha he => ⟨checkWord_mem s w, checkWord_poisoned ha he⟩,
    fun r sp h0 hn => ⟨fun hr => ?verified, fun n l hg => ?restarts⟩⟩
  case ended =>
    refine ⟨_, exec_rowOperationEnd_ends ho hs, ?_⟩
    rw [bankAt_setBank_same]
    exact ⟨Bank.ended_ops, Bank.ended_open, Bank.ended_close, Bank.ended_refresh, rfl⟩
  case forced =>
    exact ⟨_, exec_forcedRefresh_asks ho ha hb hr, by rw [forcing_reqs], by rw [towerAt_reqs, forcing_forced]⟩
  case reach =>
    exact exec_storeReachPort_lands he (by rw [State.storeWaits, hs, hf, hl]; rfl)
  case drain =>
    have hexec := exec_writeQueueDrain_drains hq (drainBusy_of_free hf hn ho hr)
    refine ⟨_, hexec, ?_, exec_writeQueueDrain_mem hexec⟩
    have hline : ((s.drainLine tower l).towerAt tower).queue = rest := by rw [drainLine_of_whole hp hb, State.towerAt_setTower_same, hq, List.tail_cons]
    rw [drainOn_queue]
    split
    · exact (keepFromLoads_queue ..).trans hline
    · exact hline
  case verified =>
    refine ⟨_, exec_rowSpareCopyVerify_verified h0 hn, ?_⟩
    rw [startSpare_of_idle (spareTakes_spareNow ..) ((spareTakes_spareReqs ..).trans hr), State.towerAt_setTower_same]
    exact ⟨spareTakes_spares .., spareTakes_spareNow .., rfl⟩
  case restarts =>
    exact ⟨_, exec_rowSpareCopyVerify_restarts h0 hn hg, by rw [copyOn_towerAt, State.towerAt_setTower_same], spareFails_hevents ..⟩

end Sys2Proof.Machine
end

section
/-! PROOFS. The words that act on a handle entry (R245–R251, R262, R265–R268): what each does where it issues, and at its completion. -/

namespace Sys2Proof.Machine

/-! ### Loads that hold their engine or keep a register busy -/

/-- The effect of a load whose rows are open, or that is outside strict mode (R210, R214). -/
def openLoad (s : State) (ps : List Piece) (lat : Nat) (busy : List Reg) (pend : Pend) (hold : Bool) : Done :=
  { st := s.request (pieceReqs s.cur s.nextId .load (opCtx s) (ps.map Piece.key)), lat := lat, busy := busy, pend := pend, pieces := ps, hold := hold }

theorem loadGo_eq_openLoad {s : State} {ps : List Piece} {lat : Nat} {busy : List Reg} {pend : Pend} {hold : Bool}
    (h : strictMode s = false ∨ ∀ p ∈ ps, s.rowClosed p.key = false) :
    loadGo s ps lat busy pend hold = .go (openLoad s ps lat busy pend hold) := by
  have hopen : (if strictMode s = true then ps.find? fun p => s.rowClosed p.key else none) = none := by
    rcases h with h | h
    · simp [h]
    · have hnone : (ps.find? fun p => s.rowClosed p.key) = none := by simpa using h
      rw [hnone, ite_self]
  rw [loadGo, hopen]
  rfl

theorem loadGo_eq_fault {s : State} {ps : List Piece} {lat : Nat} {busy : List Reg} {pend : Pend} {hold : Bool} {p : Piece}
    (hs : strictMode s = true) (hp : ps.find? (fun p => s.rowClosed p.key) = some p) :
    loadGo s ps lat busy pend hold = .fault 0x08 (BitVec.ofNat 64 p.prog) := by
  rw [loadGo, if_pos hs, hp]

/-! ### HDEF at issue (R262) -/

section Define
variable {q : Seq} {f : FmtG} {s : State}

section Bind
variable (ho : f.sub % 2 = 1) (hm : s.markOf [f.c0] = none) (h : canGo s (.hdef q f) q [.s f.c0, .h f.h] = true)
include ho hm

omit h in
/-- The register form of HDEF looks at the state of the entry that it names. -/
theorem hdef_names_entry : ∃ own, exec (.hdef q f) s = wordIssue (.hdef q f) q [.s f.c0, .h f.h] own s ∧
    own s = if 4096 ≤ (s.sv f.c0).toNat ∨ (s.entry (s.ctxOf s.cur) (s.sv f.c0).toNat).state = 0 ∨ (s.entry (s.ctxOf s.cur) (s.sv f.c0).toNat).state = 4
      then .fault 0x10 (handleInfo s s.cur f.h) else .go { st := s, lat := 2, writes := [.h f.h (some (s.sv f.c0).toNat)] } :=
  ⟨_, show execHdef q f s = _ from if_pos ho, consuming_of_unmarked hm⟩

include h

theorem exec_hdef_binds (he : (s.sv f.c0).toNat < 4096) (h0 : (s.entry (s.ctxOf s.cur) (s.sv f.c0).toNat).state ≠ 0)
    (h4 : (s.entry (s.ctxOf s.cur) (s.sv f.c0).toNat).state ≠ 4) :
    exec (.hdef q f) s = issued s (.hdef q f) q { st := s, lat := 2, writes := [.h f.h (some (s.sv f.c0).toNat)] } := by
  obtain ⟨own, hi, hown⟩ := hdef_names_entry ho hm
  exact exec_goes hi (hown.trans (if_neg (by omega))) h

theorem exec_hdef_unusable (hbad : 4096 ≤ (s.sv f.c0).toNat ∨ (s.entry (s.ctxOf s.cur) (s.sv f.c0).toNat).state = 0 ∨
    (s.entry (s.ctxOf s.cur) (s.sv f.c0).toNat).state = 4) : exec (.hdef q f) s = faulted s 0x10 (handleInfo s s.cur f.h) := by
  obtain ⟨own, hi, hown⟩ := hdef_names_entry ho hm
  exact exec_faults hi (hown.trans (if_pos hbad)) h

end Bind

/-- The eight words of an HDEF's template at an address (R262). -/
def templatePieces (x : TAddr) (key : Nat) : List Piece := (List.range 8).map fun n => ⟨n, key + 8 * n, x.prog + 8 * n, 8, 0, false, 0, none⟩

section Template
variable (ho : f.sub % 2 = 0) (hroom : s.loadCount s.cur < 16) (hm : s.markOf [f.data, f.c0] = none)
  (h : canGo s (.hdef q f) q [.s f.data, .s f.c0, .h f.h] = true)
include ho hroom hm

omit h in
/-- The template form of HDEF looks at the address of its template. -/
theorem hdef_names_template : ∃ own, exec (.hdef q f) s = wordIssue (.hdef q f) q [.s f.data, .s f.c0, .h f.h] own s ∧
    own s = if (s.sv f.data).toNat % 64 ≠ 0 then .fault 0x0B (BitVec.ofNat 64 ((s.sv f.data).toNat % 2 ^ 52))
      else match s.towerAddr (s.sv f.data) true 0 with
        | .error i => .fault 0x09 i
        | .ok x =>
          match towerRange s x 64 with
          | .error i => .fault 0x09 i
          | .ok key => if !s.served x.col key then .wait
            else loadGo s (templatePieces x key) (loadLatency s x + 4) [] (.handle [(s.sv f.c0).toNat]) true :=
  ⟨_, show execHdef q f s = _ from if_neg (by omega), act_of_ready (Nat.not_le.2 hroom) hm⟩

include h

theorem exec_hdef_misaligned (ha : (s.sv f.data).toNat % 64 ≠ 0) :
    exec (.hdef q f) s = faulted s 0x0B (BitVec.ofNat 64 ((s.sv f.data).toNat % 2 ^ 52)) := by
  obtain ⟨own, hi, hown⟩ := hdef_names_template (q := q) ho hroom hm
  exact exec_faults hi (hown.trans (if_pos ha)) h

variable (ha : (s.sv f.data).toNat % 64 = 0)
include ha

theorem exec_hdef_no_tower {i : Word} (hx : s.towerAddr (s.sv f.data) true 0 = .error i) : exec (.hdef q f) s = faulted s 0x09 i := by
  obtain ⟨own, hi, hown⟩ := hdef_names_template (q := q) ho hroom hm
  exact exec_faults hi (by simp [hown, ha, hx]) h

variable {x : TAddr} (hx : s.towerAddr (s.sv f.data) true 0 = .ok x)
include hx

theorem exec_hdef_outside {i : Word} (hr : towerRange s x 64 = .error i) : exec (.hdef q f) s = faulted s 0x09 i := by
  obtain ⟨own, hi, hown⟩ := hdef_names_template (q := q) ho hroom hm
  exact exec_faults hi (by simp [hown, ha, hx, hr]) h

variable {key : Nat} (hr : towerRange s x 64 = .ok key) (hs : s.served x.col key = true)
include hr hs

omit h in
/-- An HDEF whose template lies in its window goes on to load it. -/
theorem hdef_reaches_template : ∃ own, exec (.hdef q f) s = wordIssue (.hdef q f) q [.s f.data, .s f.c0, .h f.h] own s ∧
    own s = loadGo s (templatePieces x key) (loadLatency s x + 4) [] (.handle [(s.sv f.c0).toNat]) true := by
  obtain ⟨own, hi, hown⟩ := hdef_names_template (q := q) ho hroom hm
  exact ⟨own, hi, by simp [hown, ha, hx, hr, hs]⟩

theorem exec_hdef_loads (hopen : strictMode s = false ∨ ∀ p ∈ templatePieces x key, s.rowClosed p.key = false) :
    exec (.hdef q f) s = issued s (.hdef q f) q 
      (openLoad s (templatePieces x key) (loadLatency s x + 4) [] (.handle [(s.sv f.c0).toNat]) true) := by
  obtain ⟨own, hi, hown⟩ := hdef_reaches_template (q := q) ho hroom hm ha hx hr hs
  exact exec_goes hi (hown.trans (loadGo_eq_openLoad hopen)) h

theorem exec_hdef_closed {p : Piece} (hstrict : strictMode s = true)
    (hp : (templatePieces x key).find? (fun p => s.rowClosed p.key) = some p) :
    exec (.hdef q f) s = faulted s 0x08 (BitVec.ofNat 64 p.prog) := by
  obtain ⟨own, hi, hown⟩ := hdef_reaches_template (q := q) ho hroom hm ha hx hr hs
  exact exec_faults hi (hown.trans (loadGo_eq_fault hstrict hp)) h

end Template
end Define

/-! ### RELAY, HCLOSE, HQUERY and HWAIT at issue (R265–R268) -/

/-- What a handle word does that acts at its completion, `lat` cycles on: it holds its engine (R251). -/
def handleDone (s : State) (lat : Nat) (args : List Nat) : Done :=
  { st := s.due (s.cyc + lat - 1) 610 (.wordComplete s.nextId), lat := lat, pend := .handle args, hold := true }

section Issue
variable {q : Seq} {f : FmtG} {s : State}

/-- The scalar registers that a RELAY reads (R265). -/
def relayRegs (f : FmtG) : List Nat := [f.data, f.c0, f.c1] ++ if f.sub % 2 = 1 then [f.c2] else []

theorem exec_relay_issues (h : canGo s (.relay q f) q ((relayRegs f).map Reg.s ++ [.h f.h]) = true) :
    exec (.relay q f) s = issued s (.relay q f) q (handleDone s 4
      (((s.markOf (relayRegs f)).map fun m => m.toNat + 1).getD 0 :: (relayRegs f).map fun r => (s.sv r).toNat)) := by
  have hregs : [f.data, f.c0, f.c1] ++ (if (f.sub % 2 == 1) = true then [f.c2] else []) = relayRegs f := by simp [relayRegs]
  have hexec : exec (.relay q f) s = wordIssue (.relay q f) q ((relayRegs f).map Reg.s ++ [.h f.h])
      (fun s => handleGo s 4 (((s.markOf (relayRegs f)).map fun m => m.toNat + 1).getD 0 :: (relayRegs f).map fun r => (s.sv r).toNat)) s := by
    rw [← hregs]
    rfl
  exact exec_goes hexec rfl h

section Close
variable (h : canGo s (.hclose q f) q [.h f.h] = true)
include h

theorem exec_hclose_unbinds (hu : f.sub % 4 = 2) :
    exec (.hclose q f) s = issued s (.hclose q f) q { st := s, lat := 2, writes := [.h f.h none] } :=
  exec_goes (by rfl) (if_pos hu) h

theorem exec_hclose_issues (hu : f.sub % 4 ≠ 2) : exec (.hclose q f) s = issued s (.hclose q f) q (handleDone s 2 []) :=
  exec_goes (by rfl) (if_neg hu) h

end Close

section Query
variable (h : canGo s (.hquery q f) q [.s f.data, .h f.h] = true)
include h

theorem exec_hquery_unbound (hb : s.boundEntry s.cur f.h = none) : exec (.hquery q f) s = faulted s 0x10 (handleInfo s s.cur f.h) :=
  exec_faults (by rfl) (by simp only [hb]) h

/-- HQUERY reads a word of its entry's descriptor, and 0 of a Free one (R267). -/
theorem exec_hquery_reads {n : Nat} (hb : s.boundEntry s.cur f.h = some n) :
    exec (.hquery q f) s = issued s (.hquery q f) q (scalarDone s f.data (BitVec.ofNat 64
      (if (s.entry (s.ctxOf s.cur) n).state = 0 then 0 else (s.entryWords (s.ctxOf s.cur) n).getD (f.sub % 8) 0)) 4) :=
  exec_goes (by rfl) (by simp only [hb, decide_eq_true_eq]; rfl) h

end Query

section Wait
variable (h : canGo s (.hwait q f) q ([.s f.data, .h f.h] ++ if f.sub % 2 = 1 then [.cf] else []) = true)

/-- HWAIT looks at the state of its entry (R266). -/
theorem hwait_looks : ∃ own, exec (.hwait q f) s = wordIssue (.hwait q f) q ([.s f.data, .h f.h] ++ if f.sub % 2 = 1 then [.cf] else []) own s ∧
    own s = match s.boundEntry s.cur f.h with
      | none => .fault 0x10 (handleInfo s s.cur f.h)
      | some e =>
        let st := (s.entry (s.ctxOf s.cur) e).state
        if f.sub % 2 = 1 then
          .go { st := s, writes := if st = 2 ∨ st = 4 then [.cf false] else [.cf true, .s f.data { val := BitVec.ofNat 64 st }] }
        else if st = 2 ∨ st = 4 then .wait else .go (scalarDone s f.data (BitVec.ofNat 64 st)) := by
  have hregs : (if (f.sub % 2 == 1) = true then [Reg.cf] else []) = if f.sub % 2 = 1 then [Reg.cf] else [] := by simp
  rw [← hregs]
  refine ⟨?own, ?hi, ?ho⟩
  case hi =>
    show execHwait q f s = _
    unfold execHwait
    exact rfl
  cases s.boundEntry s.cur f.h with
  | none => rfl
  | some e => simp only [beq_iff_eq, decide_eq_true_eq]; rfl

include h

theorem exec_hwait_unbound (hb : s.boundEntry s.cur f.h = none) : exec (.hwait q f) s = faulted s 0x10 (handleInfo s s.cur f.h) := by
  obtain ⟨own, hi, hown⟩ := hwait_looks (q := q) (f := f) (s := s)
  exact exec_faults hi (by rw [hown, hb]) h

variable {n : Nat} (hb : s.boundEntry s.cur f.h = some n)
include hb

theorem exec_hwait_tries_busy (ht : f.sub % 2 = 1) (hn : (s.entry (s.ctxOf s.cur) n).state = 2 ∨ (s.entry (s.ctxOf s.cur) n).state = 4) :
    exec (.hwait q f) s = issued s (.hwait q f) q { st := s, writes := [.cf false] } := by
  obtain ⟨own, hi, hown⟩ := hwait_looks (q := q) (f := f) (s := s)
  exact exec_goes hi (by simp only [hown, hb, if_pos ht, if_pos hn]) h

theorem exec_hwait_tries_ready (ht : f.sub % 2 = 1) (h2 : (s.entry (s.ctxOf s.cur) n).state ≠ 2) (h4 : (s.entry (s.ctxOf s.cur) n).state ≠ 4) :
    exec (.hwait q f) s = issued s (.hwait q f) q
      { st := s, writes := [.cf true, .s f.data { val := BitVec.ofNat 64 (s.entry (s.ctxOf s.cur) n).state }] } := by
  obtain ⟨own, hi, hown⟩ := hwait_looks (q := q) (f := f) (s := s)
  exact exec_goes hi (by simp only [hown, hb, if_pos ht, if_neg (not_or.2 ⟨h2, h4⟩)]) h

theorem exec_hwait_waits (ht : f.sub % 2 = 0) (hn : (s.entry (s.ctxOf s.cur) n).state = 2 ∨ (s.entry (s.ctxOf s.cur) n).state = 4) :
    exec (.hwait q f) s = .next s := by
  obtain ⟨own, hi, hown⟩ := hwait_looks (q := q) (f := f) (s := s)
  have hsub : f.sub % 2 ≠ 1 := by omega
  exact hi.trans (wordIssue_wait h rfl (by simp only [hown, hb, if_neg hsub, if_pos hn]))

theorem exec_hwait_reads (ht : f.sub % 2 = 0) (h2 : (s.entry (s.ctxOf s.cur) n).state ≠ 2) (h4 : (s.entry (s.ctxOf s.cur) n).state ≠ 4) :
    exec (.hwait q f) s = issued s (.hwait q f) q (scalarDone s f.data (BitVec.ofNat 64 (s.entry (s.ctxOf s.cur) n).state)) := by
  obtain ⟨own, hi, hown⟩ := hwait_looks (q := q) (f := f) (s := s)
  have hsub : f.sub % 2 ≠ 1 := by omega
  exact exec_goes hi (by simp only [hown, hb, if_neg hsub, if_neg (not_or.2 ⟨h2, h4⟩)]) h

end Wait
end Issue

/-! ### What handle words do at their completion (R251) -/

section Complete
variable {s : State} {id : Nat} {fl : Flight} {a : List Nat} (hfl : s.flight id = some fl)
  (hprod : ((s.colAt fl.at_.col).products.find? fun p => p.id == id) = none)
  (hconv : ((s.colAt fl.at_.col).converts.find? fun v => v.id == id) = none) (hb : handleBefore s fl = false) (hp : fl.pend = .handle a)
include hfl hprod hconv hb hp

theorem exec_wordComplete_ends {t : State} (he : handleEnd s fl = .ok t) : exec (.wordComplete id) s = .next (t.endWord fl) := by
  show execWordComplete id s = _
  simp only [execWordComplete, hfl, hprod, hconv, hp, State.endHandle, hb, he]
  rfl

theorem exec_wordComplete_faults {c : Nat} {i : Word} (he : handleEnd s fl = .error (c, i)) :
    exec (.wordComplete id) s = .next (s.lateFault fl c i) := by
  show execWordComplete id s = _
  simp only [execWordComplete, hfl, hprod, hconv, hp, State.endHandle, hb, he]
  rfl

end Complete

/-! #### HDEF (R262) -/

section Template
variable {s : State} {fl : Flight} {g : FmtG} {n : Nat}

theorem hdefEnd_of_marked {m : Nat} (hm : fl.pieces.findSome? Piece.mark = some m) :
    hdefEnd s fl g n = .error (0x0D, BitVec.ofNat 64 m) := by
  simp only [hdefEnd, hm]

variable (hm : fl.pieces.findSome? Piece.mark = none)
include hm

theorem hdefEnd_of_taken (hbad : fl.at_.fw = true ∨ 4096 ≤ n ∨ (s.entry (s.ctxOf fl.at_) n).state ≠ 0) :
    hdefEnd s fl g n = .error (0x10, handleInfo s fl.at_ g.h) := by
  simp only [hdefEnd, hm, if_pos hbad]

variable (hfw : fl.at_.fw = false) (hn : n < 4096) (h0 : (s.entry (s.ctxOf fl.at_) n).state = 0)
include hfw hn h0

/-- A Free entry takes the template if it is one (R247, R262). -/
theorem hdefEnd_of_free : hdefEnd s fl g n = match templateReserved (fl.pieces.map Piece.got) with
    | some b => .error (0x02, BitVec.ofNat 64 b)
    | none =>
      let d := Desc.ofWords (fl.pieces.map Piece.got)
      if (d.illegal || !s.regionFits (s.ctxOf fl.at_) d.lay none) = true then .error (0x10, handleInfo s fl.at_ g.h)
      else .ok ((s.setEntry (s.ctxOf fl.at_) n { d with state := if d.ro then 3 else 1 }.words).applyWrite fl.at_ (.h g.h (some n))) := by
  have hfree : ¬(fl.at_.fw = true ∨ 4096 ≤ n ∨ (s.entry (s.ctxOf fl.at_) n).state ≠ 0) := by simp [hfw, hn, h0]
  simp only [hdefEnd, hm, if_neg hfree]
  rfl

theorem hdefEnd_of_reserved {b : Nat} (hr : templateReserved (fl.pieces.map Piece.got) = some b) :
    hdefEnd s fl g n = .error (0x02, BitVec.ofNat 64 b) := by
  rw [hdefEnd_of_free hm hfw hn h0, hr]

variable (hr : templateReserved (fl.pieces.map Piece.got) = none)
include hr

theorem hdefEnd_of_illegal (hbad : (Desc.ofWords (fl.pieces.map Piece.got)).illegal = true ∨
    s.regionFits (s.ctxOf fl.at_) (Desc.ofWords (fl.pieces.map Piece.got)).lay none = false) :
    hdefEnd s fl g n = .error (0x10, handleInfo s fl.at_ g.h) := by
  rw [hdefEnd_of_free hm hfw hn h0, hr]
  exact if_pos (by simpa using hbad)

theorem hdefEnd_of_legal (hl : (Desc.ofWords (fl.pieces.map Piece.got)).illegal = false)
    (hf : s.regionFits (s.ctxOf fl.at_) (Desc.ofWords (fl.pieces.map Piece.got)).lay none = true) :
    hdefEnd s fl g n = .ok ((s.setEntry (s.ctxOf fl.at_) n
      { Desc.ofWords (fl.pieces.map Piece.got) with state := if (Desc.ofWords (fl.pieces.map Piece.got)).ro then 3 else 1 }.words).applyWrite
        fl.at_ (.h g.h (some n))) := by
  rw [hdefEnd_of_free hm hfw hn h0, hr]
  exact if_neg (by simp [hl, hf])

end Template

/-! #### HCLOSE (R268) -/

section Closed
variable {s : State} {fl : Flight} {g : FmtG}

theorem hcloseEnd_of_unbound (hb : s.boundEntry fl.at_ g.h = none) : hcloseEnd s fl g = .error (0x10, handleInfo s fl.at_ g.h) := by
  simp only [hcloseEnd, hb]

variable {n : Nat} (hb : s.boundEntry fl.at_ g.h = some n)
include hb

theorem hcloseEnd_seals_ready (hs : g.sub % 4 = 1) (h1 : (s.entry (s.ctxOf fl.at_) n).state = 1) :
    hcloseEnd s fl g = .ok (s.setEntry (s.ctxOf fl.at_) n { s.entry (s.ctxOf fl.at_) n with ro := true, state := 3 }.words) := by
  simp only [hcloseEnd, hb, if_pos hs, if_pos h1]

theorem hcloseEnd_seals_converting (hs : g.sub % 4 = 1) (h2 : (s.entry (s.ctxOf fl.at_) n).state = 2) :
    hcloseEnd s fl g = .ok (s.setEntry (s.ctxOf fl.at_) n { s.entry (s.ctxOf fl.at_) n with ro := true }.words) := by
  have h1 : (s.entry (s.ctxOf fl.at_) n).state ≠ 1 := by omega
  simp only [hcloseEnd, hb, if_pos hs, if_neg h1, if_pos h2]

theorem hcloseEnd_seal_invalid (hs : g.sub % 4 = 1) (h1 : (s.entry (s.ctxOf fl.at_) n).state ≠ 1) (h2 : (s.entry (s.ctxOf fl.at_) n).state ≠ 2) :
    hcloseEnd s fl g = .error (0x10, handleInfo s fl.at_ g.h) := by
  simp only [hcloseEnd, hb, if_pos hs, if_neg h1, if_neg h2]

theorem hcloseEnd_closes (hs : g.sub % 4 ≠ 1) (h13 : (s.entry (s.ctxOf fl.at_) n).state = 1 ∨ (s.entry (s.ctxOf fl.at_) n).state = 3) :
    hcloseEnd s fl g = .ok (((s.setEntry (s.ctxOf fl.at_) n { s.entry (s.ctxOf fl.at_) n with state := 4 }.words).applyWrite fl.at_ (.h g.h none)).due
      (s.cyc + 1) 605 (.handleEntryFree (s.ctxOf fl.at_) n)) := by
  simp only [hcloseEnd, hb, if_neg hs, if_pos h13]
  rfl

theorem hcloseEnd_close_invalid (hs : g.sub % 4 ≠ 1) (h1 : (s.entry (s.ctxOf fl.at_) n).state ≠ 1) (h3 : (s.entry (s.ctxOf fl.at_) n).state ≠ 3) :
    hcloseEnd s fl g = .error (0x10, handleInfo s fl.at_ g.h) := by
  simp only [hcloseEnd, hb, if_neg hs, if_neg (not_or.2 ⟨h1, h3⟩)]

end Closed

/-! #### RELAY (R250, R265) -/

/-- The layout that a RELAY's operands give, with the strides of the present one (R265). -/
def relayLay (d : Desc) (base lw : Nat) : Lay :=
  { d.lay with tag := lw % 8, space := lw / 8 % 2, base := base, th := lw / 256 % 256, tw := lw / 2 ^ 16 % 256 }

/-- The descriptor that a RELAY aims at: its layout with dense strides (R250, R265). -/
def relayDesc (d : Desc) (base lw : Nat) : Desc := { d with lay := (relayLay d base lw).dense d.ndim }

/-- The entry as a RELAY leaves it: Converting, with its old layout beside the new one (R250, R265). -/
def convertingDesc (d : Desc) (base lw map : Nat) : Desc :=
  { d with state := 2, olayout := d.lay.tag, ospace := d.lay.space, obase := d.lay.base, oth := d.lay.th, otw := d.lay.tw, map := map, done := 0,
           lay := { relayLay d base lw with s1 := d.lay.s1, s2 := d.lay.s2, s3 := d.lay.s3 } }

/-- Bytes of a context's window in a pier that a RELAY's map or barrier takes (R265). -/
def relayInside (s : State) (ctx pier x len : Nat) : Bool := decide (x < 2 ^ 34) && s.inWindow ctx (x / 2 ^ 26) (x % 2 ^ 22) len (some pier)

theorem relayInside_iff {s : State} {ctx pier x len : Nat} :
    relayInside s ctx pier x len = true ↔ x < 2 ^ 34 ∧ s.inWindow ctx (x / 2 ^ 26) (x % 2 ^ 22) len (some pier) = true := by
  rw [relayInside, Bool.and_eq_true, decide_eq_true_eq]

/-- A RELAY may convert a descriptor to the layout of its operands, were its base aligned (R247, R265). -/
structure RelayLegal (d : Desc) (base lw : Nat) : Prop where
  ready : d.state = 1 ∨ d.state = 3
  high : lw / 2 ^ 24 = 0
  middle : lw / 16 % 16 = 0
  s1 : (relayDesc d base lw).lay.s1 < 2 ^ 32
  s2 : (relayDesc d base lw).lay.s2 < 2 ^ 32
  s3 : (relayDesc d base lw).lay.s3 < 2 ^ 32
  legal : { relayDesc d base lw with lay := { (relayDesc d base lw).lay with base := base / 64 * 64 } }.illegal = false
  inForm : base < 2 ^ 52

/-- The region, the map and the barrier of a RELAY, and the old region of its entry, lie in the towers of its pier (R253, R265). -/
structure RelayFits (s : State) (ctx pier : Nat) (d : Desc) (base lw map : Nat) (bar : Option Nat) : Prop where
  aligned : ∀ b ∈ bar, b % 16 = 0
  region : s.regionFits ctx (relayDesc d base lw).lay (some pier) = true
  map_ : relayInside s ctx pier map (ceilDiv (relayDesc d base lw).tiles 4) = true
  barrier : ∀ b ∈ bar, relayInside s ctx pier b 16 = true
  old : d.lay.space = 0 → (s.physCol ctx d.lay.col).map (· / 64) = some pier

/-- The parity that a RELAY finds at its barrier (R265, R329). -/
def relayParity (s : State) (ctx b : Nat) : Nat :=
  ((s.physCol ctx (b / 2 ^ 26)).bind fun c => (s.ctxWindow ctx c).map fun w =>
    (s.bword (towerKey c (b / 2 ^ 22 % 16) (w.base + b % 2 ^ 22))).phase).getD 0

/-- The job of the entry `n` that a RELAY starts in a state in which the entry converts (R253). -/
def relayJob (u : State) (fl : Flight) (ctx n : Nat) (bar : Option Nat) : Job :=
  { ctx := ctx, entry := n, pier := fl.at_.col / 64, gid := (u.groupOf fl.at_.sk).map (·.1), at_ := fl.at_,
    barrier := bar.map fun b => (b, relayParity u ctx b) }

/-- A relayout engine gets a job. -/
def State.addJob (s : State) (j : Job) : State := { s with jobs := s.jobs ++ [j] }

/-! ##### What the checks of a RELAY find -/

theorem RelayLegal.not_busy {d : Desc} {base lw : Nat} (h : RelayLegal d base lw) : ¬(d.state ≠ 1 ∧ d.state ≠ 3) := by
  have hready := h.ready
  omega

theorem RelayLegal.fields_fit {d : Desc} {base lw : Nat} (h : RelayLegal d base lw) :
    ¬(lw / 2 ^ 24 ≠ 0 ∨ lw / 16 % 16 ≠ 0 ∨
      [(relayDesc d base lw).lay.s1, (relayDesc d base lw).lay.s2, (relayDesc d base lw).lay.s3].any (fun x => decide (2 ^ 32 ≤ x)) = true) := by
  obtain ⟨-, high, middle, s1, s2, s3, -, -⟩ := h
  simp only [List.any_cons, List.any_nil, Bool.or_false, Bool.or_eq_true, decide_eq_true_eq]
  omega

theorem RelayLegal.not_illegal {d : Desc} {base lw : Nat} (h : RelayLegal d base lw) :
    ¬(({ relayDesc d base lw with lay := { (relayDesc d base lw).lay with base := base / 64 * 64 } }.illegal || decide (2 ^ 52 ≤ base)) = true) := by
  rw [h.legal, Bool.false_or, decide_eq_true_eq]
  exact Nat.not_le.2 h.inForm

section Fits
variable {s : State} {ctx pier base lw map : Nat} {d : Desc} {bar : Option Nat} (h : RelayFits s ctx pier d base lw map bar)
include h

theorem RelayFits.barrier_aligned : ¬(bar.map fun b => b % 16 != 0) = some true := by
  rw [Option.map_eq_some_iff]
  rintro ⟨b, hb, hoff⟩
  simp [h.aligned b hb] at hoff

theorem RelayFits.barrier_inside : ¬(bar.map fun b => relayInside s ctx pier b 16) = some false := by
  rw [Option.map_eq_some_iff]
  rintro ⟨b, hb, hout⟩
  simp [h.barrier b hb] at hout

theorem RelayFits.region_fits : ¬(!s.regionFits ctx (relayDesc d base lw).lay (some pier)) = true := by simp [h.region]

theorem RelayFits.map_inside : ¬(!relayInside s ctx pier map (ceilDiv (relayDesc d base lw).tiles 4)) = true := by simp [h.map_]

theorem RelayFits.old_inside : ¬(d.lay.space = 0 ∧ (s.physCol ctx d.lay.col).map (· / 64) ≠ some pier) := fun ⟨h0, hne⟩ => hne (h.old h0)

end Fits

/-! ##### The end of a RELAY -/

section Relay
variable {s : State} {fl : Flight} {g : FmtG}

theorem relayEnd_of_unbound {m : Nat} {a : List Nat} (hb : s.boundEntry fl.at_ g.h = none) :
    relayEnd s fl g m a = .error (0x10, handleInfo s fl.at_ g.h) := by
  simp only [relayEnd, hb]

variable {n : Nat} {d : Desc} (hb : s.boundEntry fl.at_ g.h = some n) (hd : s.entry (s.ctxOf fl.at_) n = d)
include hb hd

theorem relayEnd_of_busy {m : Nat} {a : List Nat} (h1 : d.state ≠ 1) (h3 : d.state ≠ 3) :
    relayEnd s fl g m a = .error (0x10, handleInfo s fl.at_ g.h) := by
  rw [relayEnd, hb]
  simp only [hd]
  exact if_pos ⟨h1, h3⟩

theorem relayEnd_of_marked {m : Nat} {a : List Nat} (h13 : d.state = 1 ∨ d.state = 3) (hm : m ≠ 0) :
    relayEnd s fl g m a = .error (0x0D, BitVec.ofNat 64 (m - 1)) := by
  have hready : ¬(d.state ≠ 1 ∧ d.state ≠ 3) := by omega
  rw [relayEnd, hb]
  simp only [hd, if_neg hready, if_pos hm]

variable {base lw map : Nat} {bars : List Nat} (hl : RelayLegal d base lw)
include hl

/-- A RELAY with a legal layout turns on where its operands lie (R265). -/
theorem relayEnd_of_legal : ∃ rest : HEnd,
    relayEnd s fl g 0 (base :: lw :: map :: bars) = (if base % 64 ≠ 0 then .error (0x0B, BitVec.ofNat 64 base)
      else if map % 8 ≠ 0 then .error (0x0B, BitVec.ofNat 64 (map % 2 ^ 52)) else rest) ∧
    (RelayFits s (s.ctxOf fl.at_) (fl.at_.col / 64) d base lw map bars.head? →
      let u := s.setEntry (s.ctxOf fl.at_) n (convertingDesc d base lw map).words
      rest = .ok ((u.addJob (relayJob u fl (s.ctxOf fl.at_) n bars.head?)).relayTurn (fl.at_.col / 64))) := by
  refine ⟨?rest, ?chain, ?fits⟩
  case chain =>
    rw [relayEnd, hb]
    simp only [hd]
    refine (if_neg hl.not_busy).trans ((if_neg (not_not.2 rfl)).trans ((if_neg hl.fields_fit).trans ((if_neg hl.not_illegal).trans ?_)))
    simp only [bne_iff_ne, Nat.mod_eq_of_lt hl.inForm, List.getD_cons_zero, List.getD_cons_succ]
    exact rfl
  case fits =>
    rw [show bars.head? = (base :: lw :: map :: bars)[3]? by cases bars <;> rfl]
    intro hf
    exact (if_neg hf.barrier_aligned).trans ((if_neg hf.region_fits).trans ((if_neg hf.map_inside).trans
      ((if_neg hf.barrier_inside).trans ((if_neg hf.old_inside).trans rfl))))

theorem relayEnd_of_misbased (ho : base % 64 ≠ 0) :
    relayEnd s fl g 0 (base :: lw :: map :: bars) = .error (0x0B, BitVec.ofNat 64 base) := by
  obtain ⟨rest, hrest, -⟩ := relayEnd_of_legal (map := map) (bars := bars) hb hd hl
  exact hrest.trans (if_pos ho)

theorem relayEnd_of_mismapped (ho : base % 64 = 0) (hm : map % 8 ≠ 0) :
    relayEnd s fl g 0 (base :: lw :: map :: bars) = .error (0x0B, BitVec.ofNat 64 (map % 2 ^ 52)) := by
  obtain ⟨rest, hrest, -⟩ := relayEnd_of_legal (map := map) (bars := bars) hb hd hl
  exact hrest.trans ((if_neg (not_not.2 ho)).trans (if_pos hm))

theorem relayEnd_of_fits (ho : base % 64 = 0) (hm : map % 8 = 0)
    (hf : RelayFits s (s.ctxOf fl.at_) (fl.at_.col / 64) d base lw map bars.head?) :
    let u := s.setEntry (s.ctxOf fl.at_) n (convertingDesc d base lw map).words
    relayEnd s fl g 0 (base :: lw :: map :: bars) = .ok ((u.addJob (relayJob u fl (s.ctxOf fl.at_) n bars.head?)).relayTurn (fl.at_.col / 64)) := by
  obtain ⟨rest, hrest, hends⟩ := relayEnd_of_legal (map := map) (bars := bars) hb hd hl
  exact hrest.trans ((if_neg (not_not.2 ho)).trans ((if_neg (not_not.2 hm)).trans (hends hf)))

end Relay

/-! ### The obligation -/

/-- Settles O26: each word by what it does where it issues, and by the end of the entry's word. -/
theorem handleWords : Obligations.HandleWords := by
  intro q f s
  refine ⟨fun ho hm h => ⟨exec_hdef_binds ho hm h, exec_hdef_unusable ho hm h⟩,
    fun ho hroom hm h => ⟨exec_hdef_misaligned ho hroom hm h, fun x ha => exec_hdef_no_tower ho hroom hm h ha,
      fun x ha hx => ⟨fun i => exec_hdef_outside ho hroom hm h ha hx, fun key hr hs =>
        ⟨exec_hdef_loads ho hroom hm h ha hx hr hs, fun p => exec_hdef_closed ho hroom hm h ha hx hr hs⟩⟩⟩,
    exec_relay_issues, fun h => ⟨exec_hclose_unbinds h, exec_hclose_issues h⟩,
    fun h => ⟨fun n => exec_hquery_reads h, exec_hquery_unbound h⟩,
    fun h => ⟨exec_hwait_unbound h, fun n hb =>
      ⟨exec_hwait_tries_busy h hb, exec_hwait_tries_ready h hb, exec_hwait_waits h hb, exec_hwait_reads h hb⟩⟩,
    ?_⟩
  intro id fl hfl hprod hconv hbefore k own ends bad invalid
  have hends : ∀ {a t}, fl.pend = .handle a → handleEnd s fl = .ok t → ends t := fun hp => exec_wordComplete_ends hfl hprod hconv hbefore hp
  have hbad : ∀ {a c i}, fl.pend = .handle a → handleEnd s fl = .error (c, i) → bad c i := fun hp => exec_wordComplete_faults hfl hprod hconv hbefore hp
  refine ⟨fun n hins hp => ?hdef, fun base lw map bars hins hp => ?relay, fun m a hins hm hp n hb h13 => ?marked, fun a hins hp => ?hclose⟩
  case hdef =>
    have hend : handleEnd s fl = hdefEnd s fl f n := by rw [handleEnd, hins, hp]
    exact ⟨fun m hm => hbad hp (hend.trans (hdefEnd_of_marked hm)), fun hm =>
      ⟨fun htaken => hbad hp (hend.trans (hdefEnd_of_taken hm htaken)), fun hfw hn h0 =>
        ⟨fun b hr => hbad hp (hend.trans (hdefEnd_of_reserved hm hfw hn h0 hr)),
          fun hr hill => hbad hp (hend.trans (hdefEnd_of_illegal hm hfw hn h0 hr hill)),
          fun hr hl hf => hends hp (hend.trans (hdefEnd_of_legal hm hfw hn h0 hr hl hf))⟩⟩⟩
  case relay =>
    have hend : handleEnd s fl = relayEnd s fl f 0 (base :: lw :: map :: bars) := by rw [handleEnd, hins, hp]
    refine ⟨fun hb => hbad hp (hend.trans (relayEnd_of_unbound hb)), fun n hb =>
      ⟨fun h1 h3 => hbad hp (hend.trans (relayEnd_of_busy hb rfl h1 h3)), fun ready high middle s1 s2 s3 legal inForm => ?_⟩⟩
    have hl : RelayLegal (s.entry (s.ctxOf fl.at_) n) base lw := ⟨ready, high, middle, s1, s2, s3, legal, inForm⟩
    refine ⟨fun ho => hbad hp (hend.trans (relayEnd_of_misbased hb rfl hl ho)), fun ho hm => hbad hp (hend.trans (relayEnd_of_mismapped hb rfl hl ho hm)),
      fun ho hm aligned region map_ barrier old => ?_⟩
    have hfits := relayEnd_of_fits hb rfl hl ho hm ⟨aligned, region, relayInside_iff.2 map_,
      fun b hb => relayInside_iff.2 (barrier b hb), old⟩
    exact ⟨_, rfl, rfl, rfl, by cases bars <;> rfl, rfl, hends hp (hend.trans hfits)⟩
  case marked =>
    have hend : handleEnd s fl = relayEnd s fl f m a := by rw [handleEnd, hins, hp]
    exact hbad hp (hend.trans (relayEnd_of_marked hb rfl h13 hm))
  case hclose =>
    have hend : handleEnd s fl = hcloseEnd s fl f := by rw [handleEnd, hins, hp]
    exact ⟨fun hb => hbad hp (hend.trans (hcloseEnd_of_unbound hb)), fun n hb =>
      ⟨fun hs h1 => hends hp (hend.trans (hcloseEnd_seals_ready hb hs h1)), fun hs h2 => hends hp (hend.trans (hcloseEnd_seals_converting hb hs h2)),
        fun hs h1 h2 => hbad hp (hend.trans (hcloseEnd_seal_invalid hb hs h1 h2)), fun hs h13 => hends hp (hend.trans (hcloseEnd_closes hb hs h13)),
        fun hs h1 h3 => hbad hp (hend.trans (hcloseEnd_close_invalid hb hs h1 h3))⟩⟩

end Sys2Proof.Machine
end

section
/-! PROOFS. HLD and HST (R248, R256, R261, R263, R264, R270): the entry that serves them, the places of their elements, and what they do there. -/

namespace Sys2Proof.Machine

/-! ### The entry (R261, R263, R264) -/

/-- No entry serves an element word through a handle register: none is bound to it, or one that is Free, Closed or far. -/
def Unserved (s : State) (h : Nat) : Prop := s.boundEntry s.cur h = none ∨ ∃ e, s.boundEntry s.cur h = some e ∧
  ((s.entry (s.ctxOf s.cur) e).state = 0 ∨ (s.entry (s.ctxOf s.cur) e).state = 4 ∨ (s.entry (s.ctxOf s.cur) e).lay.space = 1)

theorem withHandle_of_unserved {s : State} {h : Nat} {act : Nat → Nat → Desc → Act} (hu : Unserved s h) :
    withHandle s h act = .fault 0x10 (handleInfo s s.cur h) := by
  rcases hu with hb | ⟨e, hb, hs⟩
  · simp only [withHandle, hb]
  · simp only [withHandle, hb]
    exact if_pos hs

/-- The entry `e` with descriptor `d` of context `ctx` serves an element word through a handle register. -/
structure Serves (s : State) (h ctx e : Nat) (d : Desc) : Prop where
  context : s.ctxOf s.cur = ctx
  bound : s.boundEntry s.cur h = some e
  desc : s.entry ctx e = d
  used : d.state ≠ 0
  open_ : d.state ≠ 4
  near : d.lay.space ≠ 1

theorem withHandle_of_serves {s : State} {h ctx e : Nat} {d : Desc} {act : Nat → Nat → Desc → Act} (hs : Serves s h ctx e d) :
    withHandle s h act = act ctx e d := by
  obtain ⟨hctx, bound, desc, used, open_, near⟩ := hs
  simp only [withHandle, bound, hctx, desc]
  exact if_neg (by simp [used, open_, near])

/-! ### The coordinates (R263) -/

/-- The extent of a dimension. -/
def extent (d : Desc) (k : Nat) : Nat := [d.lay.d0, d.lay.d1, d.lay.d2, d.lay.d3].getD k 0

theorem coordBad_eq_none {d : Desc} {c : List Nat} (h : ∀ k < 4, c.getD k 0 < extent d k) : coordBad d c = none := by
  rw [coordBad, List.find?_range_eq_none]
  intro k hk
  simpa [extent] using h k hk

theorem coordBad_eq_some {d : Desc} {c : List Nat} {k : Nat} (hk : k < 4) (hbad : extent d k ≤ c.getD k 0)
    (hok : ∀ j < k, c.getD j 0 < extent d j) : coordBad d c = some k := by
  rw [coordBad, List.find?_range_eq_some]
  refine ⟨decide_eq_true hbad, List.mem_range.2 hk, fun j hj => ?_⟩
  simpa [extent] using hok j hj

/-! ### The places of the elements (R248, R263, R264) -/

/-- The places of the elements that a word names, or the TRAPINFO of its TOWER_BOUNDS. -/
def namedElems (s : State) (ctx e : Nat) (d : Desc) (vec store : Bool) (c : List Nat) : Except Word (List ElemAcc) :=
  (wordElems d vec c).mapM fun (x : Nat × List Nat) => elemAcc s ctx e d store x.1 x.2

/-- Every element of a word lies in a tower that serves it, and none waits for its tile (R256, R491). -/
def Reached (s : State) (l : List ElemAcc) : Prop :=
  (l.all fun x => x.parts.all fun p => s.served p.2.1.col p.2.2.1) = true ∧ l.any ElemAcc.wait = false

/-- No row of an element, nor of a bitmap word that places it, stops a load (R210, R214). -/
def RowsOpen (s : State) (l : List ElemAcc) : Prop :=
  ∀ x ∈ l, ∀ p ∈ (x.parts.map fun p => (p.2.1, p.2.2.1)) ++ x.bits, s.rowClosed p.2 = false

section Elems
variable {s : State} {f : FmtG} {ctx e : Nat} {d : Desc} {vec store : Bool} {act : List ElemAcc → Act}

theorem withElems_of_marked {m : Word} (hm : s.markOf [f.c0, f.c1, f.c2, f.c3] = some m) :
    withElems s f ctx e d vec store act = .fault 0x0D m := by
  simp only [withElems, hm]

variable (hm : s.markOf [f.c0, f.c1, f.c2, f.c3] = none)
include hm

theorem withElems_of_outOfExtent {k : Nat} (hc : coordBad d (coords s f) = some k) :
    withElems s f ctx e d vec store act = .fault 0x11 (BitVec.ofNat 64 (f.h + 16 * k)) := by
  simp only [withElems, hm, hc]

variable (hc : coordBad d (coords s f) = none)
include hc

theorem withElems_of_outside {x : Word} (hl : namedElems s ctx e d vec store (coords s f) = .error x) :
    withElems s f ctx e d vec store act = .fault 0x09 x := by
  unfold namedElems at hl
  simp only [withElems, hm, hc, hl]

theorem withElems_of_reached {l : List ElemAcc} (hl : namedElems s ctx e d vec store (coords s f) = .ok l) (hr : Reached s l)
    (hopen : store = true ∨ strictMode s = false ∨ RowsOpen s l) : withElems s f ctx e d vec store act = act l := by
  unfold namedElems at hl
  have hclosed : (if (strictMode s && !store) = true then l.findSome? fun x =>
      ((x.parts.map fun p => (p.2.1, p.2.2.1)) ++ x.bits).find? fun p => s.rowClosed p.2 else none) = none := by
    rcases hopen with hstore | hstrict | hrows
    · rw [hstore, Bool.not_true, Bool.and_false]
      rfl
    · rw [hstrict, Bool.false_and]
      rfl
    · have hnone : (l.findSome? fun x => ((x.parts.map fun p => (p.2.1, p.2.2.1)) ++ x.bits).find? fun p => s.rowClosed p.2) = none :=
        List.findSome?_eq_none_iff.2 fun x hx => List.find?_eq_none.2 fun p hp => by simp [hrows x hx p hp]
      rw [hnone, ite_self]
  obtain ⟨hserved, hwait⟩ := hr
  simp only [withElems, hm, hc, hl, hclosed, hserved, hwait]
  rfl

end Elems

/-! ### The faults that HLD and HST share -/

section Bounds
variable {s : State} {i : Instr} {q : Seq} {f : FmtG} {regs : List Reg} {own : State → Act} {ctx e : Nat} {d : Desc} {vec store : Bool}
  {act : List ElemAcc → Act} (hi : exec i s = wordIssue i q regs own s) (hown : own s = withElems s f ctx e d vec store act)
  (h : canGo s i q regs = true)
include hi hown h

theorem exec_elems_marked {m : Word} (hm : s.markOf [f.c0, f.c1, f.c2, f.c3] = some m) : exec i s = faulted s 0x0D m :=
  exec_faults hi (hown.trans (withElems_of_marked hm)) h

theorem exec_elems_outOfExtent {k : Nat} (hk : k < 4) (hm : s.markOf [f.c0, f.c1, f.c2, f.c3] = none)
    (hbad : extent d k ≤ (coords s f).getD k 0) (hok : ∀ j < k, (coords s f).getD j 0 < extent d j) :
    exec i s = faulted s 0x11 (BitVec.ofNat 64 (f.h + 16 * k)) :=
  exec_faults hi (hown.trans (withElems_of_outOfExtent hm (coordBad_eq_some hk hbad hok))) h

theorem exec_elems_outside {x : Word} (hm : s.markOf [f.c0, f.c1, f.c2, f.c3] = none) (hc : ∀ k < 4, (coords s f).getD k 0 < extent d k)
    (hl : namedElems s ctx e d vec store (coords s f) = .error x) : exec i s = faulted s 0x09 x :=
  exec_faults hi (hown.trans (withElems_of_outside hm (coordBad_eq_none hc) hl)) h

end Bounds

/-- The scalar registers and the handle register of an element word. -/
def elemRegs (f : FmtG) : List Reg := [.s f.c0, .s f.c1, .s f.c2, .s f.c3, .h f.h] ++ if f.sub / 2 % 2 == 1 then [] else [.s f.data]

/-! ### HLD (R263) -/

theorem bitmap_pieces_keep (l : List (TAddr × Nat)) (ps : List Piece) :
    ∀ r ∈ ps, r ∈ l.foldl (fun ps p => if ps.any fun (q : Piece) => q.key == p.2 then ps
      else ps ++ [⟨bitmapLane, p.2, p.1.prog, 8, 0, false, 0, none⟩]) ps := by
  induction l generalizing ps with
  | nil => exact fun r hr => hr
  | cons p t ih =>
    intro r hr
    rw [List.foldl_cons]
    refine ih _ r ?_
    split
    · exact hr
    · exact List.mem_append_left _ hr

/-- Each bitmap word that places an element of an HLD is among its pieces (R263). -/
theorem bitmap_pieces_cover (l : List (TAddr × Nat)) (ps : List Piece) :
    ∀ p ∈ l, ∃ r ∈ l.foldl (fun ps p => if ps.any fun (q : Piece) => q.key == p.2 then ps
      else ps ++ [⟨bitmapLane, p.2, p.1.prog, 8, 0, false, 0, none⟩]) ps, r.key = p.2 := by
  induction l generalizing ps with
  | nil => exact fun p hp => absurd hp List.not_mem_nil
  | cons a t ih =>
    intro p hp
    rw [List.foldl_cons]
    rcases List.mem_cons.1 hp with rfl | hp
    · split
      · next hany =>
        obtain ⟨r, hr, hkey⟩ := List.any_eq_true.1 hany
        exact ⟨r, bitmap_pieces_keep t ps r hr, beq_iff_eq.1 hkey⟩
      · exact ⟨⟨bitmapLane, p.2, p.1.prog, 8, 0, false, 0, none⟩, bitmap_pieces_keep t _ _ (List.mem_append_right _ (List.mem_singleton.2 rfl)), rfl⟩
    · exact ih _ p hp

/-- The rows of an HLD's pieces are those of its elements and of the bitmap words that place them. -/
theorem rowsOpen_of_pieces {s : State} {l : List ElemAcc} (h : ∀ p ∈ hldPieces l, s.rowClosed p.key = false) : RowsOpen s l := by
  intro x hx p hp
  rcases List.mem_append.1 hp with hpart | hbit
  · obtain ⟨r, hr, rfl⟩ := List.mem_map.1 hpart
    have hpiece : (⟨x.no * 2 + x.nib + 2 ^ 20 * r.1, r.2.2.1, r.2.1.prog, r.2.2.2, 0, false, 0, none⟩ : Piece) ∈ hldPieces l := by
      unfold hldPieces
      exact List.mem_append_left _ (List.mem_flatMap.2 ⟨x, hx, List.mem_map.2 ⟨r, hr, rfl⟩⟩)
    have hrow := h _ hpiece
    exact hrow
  · obtain ⟨r, hr, hkey⟩ := bitmap_pieces_cover (l.flatMap fun x => x.bits) [] p (List.mem_flatMap.2 ⟨x, hx, hbit⟩)
    exact hkey ▸ h r (List.mem_append_right _ hr)

/-- An element that lies in one piece and in no bitmap takes 2 cycles more than a load of its place (R270). -/
theorem hldLatency_single {s : State} {x : ElemAcc} {p : Nat × TAddr × Nat × Nat} (hp : x.parts = [p]) (hb : x.bits = []) :
    hldLatency s [x] = loadLatency s p.2.1 + 2 := by
  simp only [hldLatency, List.flatMap_cons, List.flatMap_nil, hp, hb, List.map_cons, List.map_nil, List.append_nil, List.foldl_cons, List.foldl_nil,
    distinct, List.filter_nil, List.filter_cons, beq_self_eq_true, List.any_cons, List.any_nil]
  simp

/-- What an HLD does with its elements: it loads them, unless a row stops it, and reserves a place of its queue register where it has one (R263). -/
def elemLoad (f : FmtG) (s : State) (ctx e : Nat) (d : Desc) (l : List ElemAcc) : Act :=
  let vec := f.sub / 2 % 2 == 1
  let pend := if vec then Pend.elemV f.data d.fmt d.lay.w else .elemS f.data d.lay.w ((l.head?.map ElemAcc.nib).getD 0) (f.sub % 2 == 1)
  match loadGo s (hldPieces l) (hldLatency s l) (if vec then [] else [.s f.data]) pend with
  | .go g => .go { g with st := if vec then g.st.setSl (g.st.sl.reserveQueue f.data) else g.st, uses := elemUses ctx e l,
                          spots := l.filterMap ElemAcc.spot }
  | x => x

/-- The effect of an HLD that no row stops. -/
def elemLoadDone (vec : Bool) (f : FmtG) (s : State) (ctx e : Nat) (d : Desc) (l : List ElemAcc) : Done :=
  let t := s.request (pieceReqs s.cur s.nextId .load (opCtx s) ((hldPieces l).map Piece.key))
  if vec then
    { st := t.setSl (t.sl.reserveQueue f.data), lat := hldLatency s l, pend := .elemV f.data d.fmt d.lay.w, pieces := hldPieces l,
      uses := elemUses ctx e l, spots := l.filterMap ElemAcc.spot }
  else { st := t, lat := hldLatency s l, busy := [.s f.data],
         pend := .elemS f.data d.lay.w ((l.head?.map ElemAcc.nib).getD 0) (f.sub % 2 == 1), pieces := hldPieces l,
         uses := elemUses ctx e l, spots := l.filterMap ElemAcc.spot }

theorem elemLoad_of_open {f : FmtG} {s : State} {ctx e : Nat} {d : Desc} {l : List ElemAcc}
    (h : strictMode s = false ∨ ∀ p ∈ hldPieces l, s.rowClosed p.key = false) :
    elemLoad f s ctx e d l = .go (elemLoadDone (f.sub / 2 % 2 == 1) f s ctx e d l) := by
  rw [elemLoad, loadGo_eq_openLoad h]
  cases f.sub / 2 % 2 == 1 <;> rfl

section Load
variable {q : Seq} {f : FmtG} {s : State}

theorem exec_hld_unserved (hu : Unserved s f.h) (h : canGo s (.hld q f) q (elemRegs f) = true) :
    exec (.hld q f) s = faulted s 0x10 (handleInfo s s.cur f.h) :=
  exec_faults (by rfl) (withHandle_of_unserved hu) h

variable {ctx e : Nat} {d : Desc} (hs : Serves s f.h ctx e d) (h : canGo s (.hld q f) q (elemRegs f) = true)
include hs

theorem exec_hld_misuse (h : canGo s (.hld q f) q (elemRegs f) = true) (hv : (f.sub / 2 % 2 == 1) = true)
    (hw : f.data < 4 ∨ s.sl.writerOf f.data ≠ engCode s.cur.eng) : exec (.hld q f) s = faulted s 0x14 (BitVec.ofNat 64 (f.data + 8)) :=
  have hmisused : (f.sub / 2 % 2 == 1) = true ∧ (f.data < 4 ∨ s.sl.writerOf f.data ≠ engCode s.cur.eng) := ⟨hv, hw⟩
  exec_faults (by rfl) ((withHandle_of_serves hs).trans (if_pos hmisused)) h

variable (hroom : s.loadCount s.cur < 16) (hq : (f.sub / 2 % 2 == 1) = true →
  4 ≤ f.data ∧ s.sl.writerOf f.data = engCode s.cur.eng ∧ (s.sl.queue f.data).hasRoom f.data s.cyc = true)
include hroom hq

/-- An HLD goes on to its elements where its load queue and its queue register have room. -/
theorem hld_reaches_elems : ∃ own, exec (.hld q f) s = wordIssue (.hld q f) q (elemRegs f) own s ∧
    own s = withElems s f ctx e d (f.sub / 2 % 2 == 1) false (elemLoad f s ctx e d) := by
  have hmine : ¬((f.sub / 2 % 2 == 1) = true ∧ (f.data < 4 ∨ s.sl.writerOf f.data ≠ engCode s.cur.eng)) := by
    rintro ⟨hv, hw⟩
    obtain ⟨hdata, hwriter, -⟩ := hq hv
    omega
  have hready : ¬(16 ≤ s.loadCount s.cur ∨ ((f.sub / 2 % 2 == 1) = true ∧ (!(s.sl.queue f.data).hasRoom f.data s.cyc) = true)) := by
    rintro (hfull | ⟨hv, hnone⟩)
    · omega
    · simp [(hq hv).2.2] at hnone
  refine ⟨?own, ?word, ?act⟩
  case word =>
    show execHld q f s = _
    unfold execHld
    exact rfl
  case act => exact (withHandle_of_serves hs).trans ((if_neg hmine).trans (if_neg hready))

theorem exec_hld_loads {l : List ElemAcc} (h : canGo s (.hld q f) q (elemRegs f) = true) (hm : s.markOf [f.c0, f.c1, f.c2, f.c3] = none)
    (hc : ∀ k < 4, (coords s f).getD k 0 < extent d k) (hl : namedElems s ctx e d (f.sub / 2 % 2 == 1) false (coords s f) = .ok l)
    (hr : Reached s l) (hopen : strictMode s = false ∨ ∀ p ∈ hldPieces l, s.rowClosed p.key = false) :
    exec (.hld q f) s = issued s (.hld q f) q (elemLoadDone (f.sub / 2 % 2 == 1) f s ctx e d l) := by
  obtain ⟨own, hi, hown⟩ := hld_reaches_elems (q := q) hs hroom hq
  have hreach := withElems_of_reached (act := elemLoad f s ctx e d) hm (coordBad_eq_none hc) hl hr (.inr (hopen.imp id rowsOpen_of_pieces))
  have hfifos : (elemLoadDone (f.sub / 2 % 2 == 1) f s ctx e d l).fifos = [] := by
    unfold elemLoadDone
    split <;> rfl
  exact exec_goes hi (hown.trans (hreach.trans (elemLoad_of_open hopen))) (hfifos ▸ h)

end Load

/-! ### HST (R264) -/

/-- The store of the elements of an HST, each with the bytes that `bytes` gives it, in the state `st` (R264). -/
def elemStore (st : State) (ctx e : Nat) (l : List ElemAcc) (bytes : ElemAcc → List HByte) : Done :=
  { st := { st with stores := st.stores ++
    [⟨st.nextId, st.cur, .write, hstPieces (joinNibbles (l.flatMap bytes)), none, true, elemUses ctx e l⟩] } }

/-- The bytes of an element that an HST takes from its scalar register. -/
def scalarElem (f : FmtG) (s : State) (d : Desc) (x : ElemAcc) : List HByte :=
  elemBytes s d.lay.w 0 ((s.sv f.data).toNat % 2 ^ d.lay.w) (s.e.sreg f.data).mark.isSome x

/-- The bytes of an element that an HST takes from a vector of its queue register. -/
def vectorElem (s : State) (d : Desc) (v : VReg) (x : ElemAcc) : List HByte :=
  let lane := x.no / (32 / d.lay.w)
  elemBytes s d.lay.w (lane / 16) (element (elems d.lay.w (v.lanes.getD lane 0)) (x.no % (32 / d.lay.w))) (v.marks.get? lane).isSome x

/-- The state after an HST has taken the front of its queue register. -/
def State.tookFront (s : State) (n : Nat) : State := s.setSl (s.sl.setQueue n ((s.sl.queue n).dropFront s.cyc))

section Store
variable {q : Seq} {f : FmtG} {s : State}

theorem exec_hst_unserved (hu : Unserved s f.h) (h : canGo s (.hst q f) q (elemRegs f) = true) :
    exec (.hst q f) s = faulted s 0x10 (handleInfo s s.cur f.h) :=
  exec_faults (by rfl) (withHandle_of_unserved hu) h

variable {ctx e : Nat} {d : Desc} (hs : Serves s f.h ctx e d)
include hs

theorem exec_hst_refused (h : canGo s (.hst q f) q (elemRegs f) = true) (hro : d.ro = true ∨ d.lay.tag = 4) :
    exec (.hst q f) s = faulted s 0x13 (hstPermission s ctx e d (coords s f)) :=
  exec_faults (by rfl) ((withHandle_of_serves hs).trans (if_pos hro)) h

variable (hro : d.ro = false) (htag : d.lay.tag ≠ 4)
include hro htag

theorem exec_hst_misuse (h : canGo s (.hst q f) q (elemRegs f) = true) (hv : (f.sub / 2 % 2 == 1) = true)
    (hr : f.data < 4 ∨ s.sl.readerOf f.data ≠ engCode s.cur.eng) : exec (.hst q f) s = faulted s 0x14 (BitVec.ofNat 64 f.data) := by
  have hwrite : ¬(d.ro = true ∨ d.lay.tag = 4) := by simp [hro, htag]
  exact exec_faults (by rfl) ((withHandle_of_serves hs).trans ((if_neg hwrite).trans ((if_pos hv).trans (if_pos hr)))) h

variable (hroom : s.storeCount s.cur < 16)
include hroom

/-- The scalar form of HST goes on to its element where its store queue has room. -/
theorem hst_reaches_element (hv : (f.sub / 2 % 2 == 1) = false) :
    ∃ own, exec (.hst q f) s = wordIssue (.hst q f) q (elemRegs f) own s ∧
      own s = withElems s f ctx e d (f.sub / 2 % 2 == 1) true fun l => .go (elemStore s ctx e l (scalarElem f s d)) := by
  have hwrite : ¬(d.ro = true ∨ d.lay.tag = 4) := by simp [hro, htag]
  refine ⟨?own, ?word, ?act⟩
  case word =>
    show execHst q f s = _
    unfold execHst
    exact rfl
  rw [hv]
  exact (withHandle_of_serves hs).trans ((if_neg hwrite).trans ((if_neg Bool.false_ne_true).trans (if_neg (Nat.not_le.2 hroom))))

/-- The vector form of HST goes on to the vector at the front of its queue register where its store queue has room. -/
theorem hst_reaches_vector {v : VReg} (hv : (f.sub / 2 % 2 == 1) = true) (hr : 4 ≤ f.data ∧ s.sl.readerOf f.data = engCode s.cur.eng)
    (hq : (s.sl.queue f.data).front s.cyc = some (.v v)) :
    ∃ own, exec (.hst q f) s = wordIssue (.hst q f) q (elemRegs f) own s ∧
      own s = if v.tag ≠ 0 ∧ v.tag ≠ d.fmt then .fault 0x04 (mismatchInfo d.fmt v.tag f.data 0)
        else withElems s f ctx e d (f.sub / 2 % 2 == 1) true fun l => .go (elemStore (s.tookFront f.data) ctx e l (vectorElem s d v)) := by
  have hwrite : ¬(d.ro = true ∨ d.lay.tag = 4) := by simp [hro, htag]
  have hmine : ¬(f.data < 4 ∨ s.sl.readerOf f.data ≠ engCode s.cur.eng) := by
    obtain ⟨hdata, hreader⟩ := hr
    omega
  refine ⟨?own, ?word, ?act⟩
  case word =>
    show execHst q f s = _
    unfold execHst
    exact rfl
  rw [hv]
  refine (withHandle_of_serves hs).trans ((if_neg hwrite).trans ((if_pos rfl).trans ((if_neg hmine).trans ((if_neg (Nat.not_le.2 hroom)).trans ?_))))
  simp only [hq]
  rfl

/-- The scalar form of HST stores the low bits of its register (R264). -/
theorem exec_hst_stores {l : List ElemAcc} (h : canGo s (.hst q f) q (elemRegs f) = true) (hv : (f.sub / 2 % 2 == 1) = false)
    (hm : s.markOf [f.c0, f.c1, f.c2, f.c3] = none) (hc : ∀ k < 4, (coords s f).getD k 0 < extent d k)
    (hl : namedElems s ctx e d (f.sub / 2 % 2 == 1) true (coords s f) = .ok l) (hr : Reached s l) :
    exec (.hst q f) s = issued s (.hst q f) q (elemStore s ctx e l (scalarElem f s d)) := by
  obtain ⟨own, hi, hown⟩ := hst_reaches_element (q := q) hs hro htag hroom hv
  exact exec_goes hi (hown.trans (withElems_of_reached hm (coordBad_eq_none hc) hl hr (.inl rfl))) h

section Vector
variable {v : VReg} (hv : (f.sub / 2 % 2 == 1) = true) (hr : 4 ≤ f.data ∧ s.sl.readerOf f.data = engCode s.cur.eng)
  (hq : (s.sl.queue f.data).front s.cyc = some (.v v))
include hv hr hq

theorem exec_hst_mismatch (h : canGo s (.hst q f) q (elemRegs f) = true) (h0 : v.tag ≠ 0) (hd : v.tag ≠ d.fmt) :
    exec (.hst q f) s = faulted s 0x04 (mismatchInfo d.fmt v.tag f.data 0) := by
  obtain ⟨own, hi, hown⟩ := hst_reaches_vector (q := q) hs hro htag hroom hv hr hq
  exact exec_faults hi (hown.trans (if_pos ⟨h0, hd⟩)) h

variable (ht : v.tag = 0 ∨ v.tag = d.fmt)
include ht

/-- The vector form of HST goes on to its elements where the vector has the entry's tag, or none. -/
theorem hst_reaches_elems : ∃ own, exec (.hst q f) s = wordIssue (.hst q f) q (elemRegs f) own s ∧
    own s = withElems s f ctx e d (f.sub / 2 % 2 == 1) true fun l => .go (elemStore (s.tookFront f.data) ctx e l (vectorElem s d v)) := by
  obtain ⟨own, hi, hown⟩ := hst_reaches_vector (q := q) hs hro htag hroom hv hr hq
  exact ⟨own, hi, hown.trans (if_neg (not_and_or.2 (ht.imp not_not.2 not_not.2)))⟩

/-- The vector form of HST stores the elements of the front of its queue register (R264). -/
theorem exec_hst_stores_vector {l : List ElemAcc} (h : canGo s (.hst q f) q (elemRegs f) = true)
    (hm : s.markOf [f.c0, f.c1, f.c2, f.c3] = none) (hc : ∀ k < 4, (coords s f).getD k 0 < extent d k)
    (hl : namedElems s ctx e d (f.sub / 2 % 2 == 1) true (coords s f) = .ok l) (hreach : Reached s l) :
    exec (.hst q f) s = issued s (.hst q f) q (elemStore (s.tookFront f.data) ctx e l (vectorElem s d v)) := by
  obtain ⟨own, hi, hown⟩ := hst_reaches_elems (q := q) hs hro htag hroom hv hr hq ht
  exact exec_goes hi (hown.trans (withElems_of_reached hm (coordBad_eq_none hc) hl hreach (.inl rfl))) h

end Vector
end Store

/-- Settles O27: each word by the entry that serves it, its queue register, and the places of its elements. -/
theorem elementWords : Obligations.ElementWords := by
  intro q f s vec regs ctx c unserved
  refine ⟨fun hu => ⟨exec_hld_unserved hu, exec_hst_unserved hu⟩, fun e bound used open_ near => ?_⟩
  intro d w ext inExtent named reached bounds
  have hs : Serves s f.h ctx e d := ⟨rfl, bound, rfl, used, open_, near⟩
  have hbounds : ∀ {i store own act}, exec i s = wordIssue i q regs own s → own s = withElems s f ctx e d vec store act →
      canGo s i q regs = true → bounds i store := fun hi hown h =>
    ⟨fun m => exec_elems_marked hi hown h, fun k hk hm hbad hok => exec_elems_outOfExtent hi hown h hk hm hbad hok,
      fun x hm hc hl => exec_elems_outside hi hown h hm hc hl⟩
  refine ⟨fun h => ⟨exec_hld_misuse hs h, fun hroom hq => ⟨?_, fun l hm hc hl hr hopen => exec_hld_loads hs hroom hq h hm hc hl hr hopen,
      fun x p => hldLatency_single⟩⟩,
    fun h => ⟨exec_hst_refused hs h, fun hro htag => ⟨exec_hst_misuse hs hro htag h, fun hv hroom => ⟨?_, fun l hm hc hl hr =>
      exec_hst_stores hs hro htag hroom h hv hm hc hl hr⟩, fun v hv hdata hreader hroom hq =>
        ⟨exec_hst_mismatch hs hro htag hroom hv ⟨hdata, hreader⟩ hq h, fun ht => ⟨?_, fun l hm hc hl hr =>
          exec_hst_stores_vector hs hro htag hroom hv ⟨hdata, hreader⟩ hq ht h hm hc hl hr⟩⟩⟩⟩⟩
  · obtain ⟨own, hi, hown⟩ := hld_reaches_elems (q := q) hs hroom hq
    exact hbounds hi hown h
  · obtain ⟨own, hi, hown⟩ := hst_reaches_element (q := q) hs hro htag hroom hv
    exact hbounds hi hown h
  · obtain ⟨own, hi, hown⟩ := hst_reaches_elems (q := q) hs hro htag hroom hv ⟨hdata, hreader⟩ hq ht
    exact hbounds hi hown h

end Sys2Proof.Machine
end

section
/-! PROOFS. What the reading of keys leaves as it was, and how a channel goes on (R271–R284, R292–R295, R446). -/

namespace Sys2Proof.Machine

/-! ### Keys that are read (R228–R231, R470) -/

/-- A line that joins a write queue changes its tower and the agenda alone. -/
theorem queueLine_only (s : State) (k : Nat) : ∃ tw ag, s.queueLine k = { s with towers := tw, agenda := ag } := by
  simp only [State.queueLine]
  split_ifs
  · exact ⟨s.towers, s.agenda, rfl⟩
  · exact ⟨_, _, rfl⟩
  · exact ⟨_, s.agenda, rfl⟩

theorem writeBack_only (s : State) (w : Nat) : ∃ b tw ag, s.writeBack w = { s with bitErrs := b, towers := tw, agenda := ag } := by
  simp only [State.writeBack]
  split_ifs
  · exact ⟨s.bitErrs, _, s.agenda, rfl⟩
  · obtain ⟨tw, ag, e⟩ := queueLine_only (({ s with bitErrs := s.bitErrs.del w } : State).setTower (keyTower w)
      { s.towerAt (keyTower w) with backs := (s.towerAt (keyTower w)).backs.filter (· != w) }) w
    exact ⟨_, tw, ag, e⟩

/-- What a read of tower words and its reports may change: errors and marks of words, their towers, the agenda and the health events. -/
def SameButChecks (t s : State) : Prop :=
  ∃ p b tw ag he, t = { s with poison := p, bitErrs := b, towers := tw, agenda := ag, hevents := he }

namespace SameButChecks

theorem refl (s : State) : SameButChecks s s := ⟨s.poison, s.bitErrs, s.towers, s.agenda, s.hevents, rfl⟩

theorem trans {s t u : State} (h : SameButChecks u t) (h' : SameButChecks t s) : SameButChecks u s := by
  obtain ⟨p, b, tw, ag, he, rfl⟩ := h
  obtain ⟨p', b', tw', ag', he', rfl⟩ := h'
  exact ⟨p, b, tw, ag, he, rfl⟩

theorem foldl {α : Type} (l : List α) {f : State → α → State} (hf : ∀ s a, SameButChecks (f s a) s) (s : State) : SameButChecks (l.foldl f s) s :=
  List.foldlRecOn (motive := fun t => SameButChecks t s) l f (refl s) fun t ht a _ => (hf t a).trans ht

variable {s t : State} (h : SameButChecks t s)
include h

theorem cyc : t.cyc = s.cyc := by
  obtain ⟨p, b, tw, ag, he, rfl⟩ := h
  rfl

theorem slots : t.slots = s.slots := by
  obtain ⟨p, b, tw, ag, he, rfl⟩ := h
  rfl

end SameButChecks

theorem checkWord_sameButChecks (s : State) (w : Nat) : SameButChecks (s.checkWord w) s := by
  unfold State.checkWord
  split
  · exact .refl s
  · next e _ =>
    have hsettled : ∃ p b tw ag, s.settleError w e = { s with poison := p, bitErrs := b, towers := tw, agenda := ag } := by
      unfold State.settleError
      split_ifs
      · exact ⟨_, _, s.towers, s.agenda, rfl⟩
      · obtain ⟨b, tw, ag, e⟩ := writeBack_only s w
        exact ⟨s.poison, b, tw, ag, e⟩
    obtain ⟨p, b, tw, ag, hs⟩ := hsettled
    unfold State.settleError at hs
    dsimp only
    rw [hs]
    split_ifs
    all_goals exact ⟨_, _, _, _, _, rfl⟩

theorem checkKeys_sameButChecks (s : State) (l : List Nat) : SameButChecks (s.checkKeys l) s :=
  SameButChecks.foldl _ (fun t (e : Nat × Nat) => checkWord_sameButChecks t e.1) s

theorem noteFailed_sameButChecks (s : State) (l : List Nat) : SameButChecks (s.noteFailed l) s := by
  refine (SameButChecks.foldl _ (fun t u => ?_) (s.checkKeys l)).trans (checkKeys_sameButChecks s l)
  split_ifs
  · exact ⟨t.poison, t.bitErrs, t.towers, t.agenda, _, rfl⟩
  · exact .refl t

/-! ### A channel's state -/

@[simp] theorem chanAt_setChan_same (s : State) (x : Chan) (v : ChanState) : (s.setChan x v).chanAt x = v := by
  unfold State.setChan State.chanAt
  split
  · next h => simpa [Map.getD] using (beq_iff_eq.1 h).symm
  · exact Map.getD_put_same ..

@[simp] theorem setCommand_cyc (s : State) (x : Chan) (c : Command) : (s.setCommand x c).cyc = s.cyc := rfl

@[simp] theorem slotAt_setCommand (s : State) (x : Chan) (c : Command) (n : Nat) : (s.setCommand x c).slotAt n = s.slotAt n := rfl

/-- A pier channel goes on through a save of its group (R285). -/
def onPier : Chan → Bool
  | .pier .. => true
  | .column .. => false

/-- A command after a sector that has written `bytes` bytes (R276). -/
def movedOn (c : Command) (bytes : Nat) : Command := { c with sector := c.sector + 1, written := c.written + bytes }

/-- The cycles that a sector's bytes take, 64 of them a cycle (R271). -/
def sectorCycles (c : Command) (bytes : Nat) : Nat := ceilDiv (c.written + bytes) 64 - ceilDiv c.written 64

/-- The next sector of a command, and what follows it (R276). -/
def sectorTurn (x : Chan) (c : Command) (s : State) : Out :=
  match sectorRun s x c with
  | (.error e, t) => .next (chanStop t x c e)
  | (.ok bytes, t) =>
    let e := movedOn c bytes
    let u := t.setCommand x e
    if e.sector < e.sectors then .next (u.due (u.cyc + sectorCycles c bytes) 45 (chanEvent x))
    else .next ((overhead u x e).2.due ((overhead u x e).2.cyc + sectorCycles c bytes + (overhead u x e).1) 560 (.commandComplete x))

theorem onPier_or {x : Chan} {p : Prop} (h : match x with | .pier .. => True | .column .. => p) : onPier x = true ∨ p := by
  cases x with
  | column col slot ch => exact .inr h
  | pier pier n => exact .inl rfl

/-- What a channel does with its command `c` once nothing stops it or makes it wait (R276, R294, R295): the rest of `execChannelCommandStart`. -/
def channelTurn (x : Chan) (c : Command) (s : State) : Out :=
  if c.kind = .aatom then
    match aatomRun s x c with
    | (.error e, t) => .next (chanStop t x c e)
    | (.ok none, t) => .next t
    | (.ok (some old), t) => .next ((t.freeNat.2.setCommand x { c with aux := old }).due (t.cyc + 1 + t.freeNat.1) 560 (.commandComplete x))
  else if c.sectors ≤ c.sector then
    let sl := s.slotAt c.at_.sk
    let p := sl.ports.getD (c.target % 16) {}
    let t := match c.kind with
      | .stbind _ => s.setSlot c.at_.sk { sl with ports := sl.ports.put (c.target % 16) { p with bound := false } }
      | _ => s
    .next (t.due (t.cyc + 1) 560 (.commandComplete x))
  else match c.kind with
    | .stbind _ =>
      if portRoom s c then .next (s.freeNat.2.due (s.cyc + max 1 (ceilDiv (min 1024 (c.len - 1024 * c.sector)) 64) + s.freeNat.1) 45 (.streamPortVector x))
      else .next (s.due (s.cyc + 1) 45 (chanEvent x))
    | _ => sectorTurn x c s

/-- A sector that stops makes its stop the channel's next event (R276, R282–R284). -/
theorem sectorTurn_of_error {s v : State} {x : Chan} {c : Command} {e : Stop} (hrun : sectorRun s x c = (.error e, v)) :
    sectorTurn x c s = .next (chanStop v x c e) := by
  rw [sectorTurn, hrun]

/-- A sector that runs moves its command on, 64 bytes a cycle: to the next sector, or after the last one to the completion (R271, R276). -/
theorem sectorTurn_of_ok {s v : State} {x : Chan} {c : Command} {bytes : Nat} (hrun : sectorRun s x c = (.ok bytes, v)) :
    ((movedOn c bytes).sector < (movedOn c bytes).sectors →
      sectorTurn x c s = .next ((v.setCommand x (movedOn c bytes)).due (v.cyc + sectorCycles c bytes) 45 (chanEvent x))) ∧
    ((movedOn c bytes).sectors ≤ (movedOn c bytes).sector → ∃ t, sectorTurn x c s = .next t ∧ t.mem = v.mem ∧
      ∃ d ∈ t.agenda, v.cyc + sectorCycles c bytes ≤ d.at_ ∧ d.ev = .commandComplete x) := by
  rw [sectorTurn, hrun]
  refine ⟨fun hmore => if_pos hmore, fun hlast => ⟨_, if_neg (Nat.not_lt.2 hlast), rfl, _, List.mem_append_right _ (List.mem_singleton.2 rfl), ?_, rfl⟩⟩
  exact Nat.le_add_right ..

/-- A channel takes its turn with a command that has started: it is neither Suspended nor stopped by a save, and waits for nothing (R276, R279, R282, R285,
R458). -/
structure TakesTurn (s : State) (x : Chan) (c : Command) : Prop where
  command : s.chanCommand x = some c
  started : c.started = true
  awake : (s.chanAt x).susp = none
  thawed : onPier x = true ∨ chanFrozen s c = false
  acquired : (c.acq && acquireWaits (s.setCommand x c) c) = false
  submitted : collHolds (s.setCommand x c) c = false

namespace TakesTurn

variable {s : State} {x : Chan} {c : Command} (h : TakesTurn s x c)
include h

theorem exec_eq : exec (.channelCommandStart x) s = channelTurn x c (s.setCommand x c) := by
  have hgoes : ¬ ((s.chanAt x).susp.isSome || (!onPier x && chanFrozen s c)) = true := by
    rcases h.thawed with hp | hf
    · simp [h.awake, hp]
    · simp [h.awake, hf]
  have hfree : ¬ ((c.acq && acquireWaits (s.setCommand x c) c) || collHolds (s.setCommand x c) c) = true := by
    simp [h.acquired, h.submitted]
  have hbegun : (if (!c.started) = true then c.begin s else c) = c := if_neg (by simp [h.started])
  show execChannelCommandStart x s = _
  simp only [execChannelCommandStart, h.command, hbegun]
  exact (if_neg hgoes).trans ((if_neg hfree).trans rfl)

/-- A command that has written all its sectors ends (R276). -/
theorem ends (hatom : c.kind ≠ .aatom) (hdone : c.sectors ≤ c.sector) (hkind : ∀ b, c.kind ≠ .stbind b) :
    exec (.channelCommandStart x) s = .next ((s.setCommand x c).due (s.cyc + 1) 560 (.commandComplete x)) := by
  rw [h.exec_eq, channelTurn, if_neg hatom, if_pos hdone]
  dsimp only
  split
  · next b hb => exact absurd hb (hkind b)
  · rfl

/-- A command that moves bytes runs its next sector (R276). -/
theorem runs_sector (hatom : c.kind ≠ .aatom) (hmore : c.sector < c.sectors) (hkind : ∀ b, c.kind ≠ .stbind b) :
    exec (.channelCommandStart x) s = sectorTurn x c (s.setCommand x c) := by
  rw [h.exec_eq, channelTurn, if_neg hatom, if_neg (Nat.not_le.2 hmore)]
  split
  · next b hb => exact absurd hb (hkind b)
  · rfl

/-- A stream with room at its port sends a vector there (R294). -/
theorem sends_vector {b : Bool} (hmore : c.sector < c.sectors) (hkind : c.kind = .stbind b) (hroom : portRoom (s.setCommand x c) c = true) :
    ∃ t, exec (.channelCommandStart x) s = .next t ∧ ∃ d ∈ t.agenda, s.cyc < d.at_ ∧ d.ev = .streamPortVector x := by
  have hatom : c.kind ≠ .aatom := by simp [hkind]
  rw [h.exec_eq, channelTurn, if_neg hatom, if_neg (Nat.not_le.2 hmore), hkind]
  refine ⟨_, if_pos hroom, _, List.mem_append_right _ (List.mem_singleton.2 rfl), ?_, rfl⟩
  simp only [setCommand_cyc]
  omega

/-- An AATOM that has its old value completes later; one that waits for its port goes on there (R295). -/
theorem does_aatom (hatom : c.kind = .aatom) :
    (∀ old v, aatomRun (s.setCommand x c) x c = (.ok (some old), v) → ∃ t, exec (.channelCommandStart x) s = .next t ∧ t.mem = v.mem ∧
      ∃ d ∈ t.agenda, v.cyc < d.at_ ∧ d.ev = .commandComplete x) ∧
    (∀ v, aatomRun (s.setCommand x c) x c = (.ok none, v) → exec (.channelCommandStart x) s = .next v) := by
  rw [h.exec_eq, channelTurn, if_pos hatom]
  constructor
  · intro old v hrun
    rw [hrun]
    exact ⟨_, rfl, rfl, _, List.mem_append_right _ (List.mem_singleton.2 rfl), by dsimp only; omega, rfl⟩
  · intro v hrun
    rw [hrun]

end TakesTurn

/-! ### Translation faults, completions and faults (R255, R279, R280, R282–R284) -/

section Ends
variable {s : State} {x : Chan} {c : Command}

/-- A translation fault waits for the writes before it; then its channel is Suspended until its record is answered (R282). -/
theorem translationFault_ends (record : Nat) :
    (s.unitReached (State.chanKey x) 5 = true → (s.pages.open_.any fun p => p.id == record && p.who.contains (.chan x)) = true →
      ∃ t, exec (.translationFault x record) s = .next t ∧ (t.chanAt x).susp = some record ∧ (t.chanAt x).queue = (s.chanAt x).queue) ∧
    (s.unitReached (State.chanKey x) 5 = true → (s.pages.open_.any fun p => p.id == record && p.who.contains (.chan x)) = false →
      exec (.translationFault x record) s = .next (s.resumeChan x)) ∧
    (s.unitReached (State.chanKey x) 5 = false →
      exec (.translationFault x record) s = .next (s.due (s.cyc + 1) 47 (.translationFault x record))) := by
  show (_ → _ → ∃ t, execTranslationFault x record s = .next t ∧ _) ∧ (_ → _ → execTranslationFault x record s = _) ∧
    (_ → execTranslationFault x record s = _)
  unfold execTranslationFault
  refine ⟨fun hhere hopen => ⟨s.setChan x { s.chanAt x with susp := some record }, ?_, ?_, ?_⟩, fun hhere hopen => ?_, fun hhere => ?_⟩
  · rw [if_neg (by simp [hhere]), if_pos hopen]
  · rw [chanAt_setChan_same]
  · rw [chanAt_setChan_same]
  · rw [if_neg (by simp [hhere]), if_neg (Bool.eq_false_iff.1 hopen)]
  · rw [if_pos (by simp [hhere])]

end Ends

section Column
variable {s : State} {col slot ch : Nat} {c : Command} (hq : (s.chanAt (.column col slot ch)).queue.head? = some c)
include hq

/-- The command of a column's channel signals, and the channel goes on, once its writes are where they must be (R279, R280). -/
theorem commandComplete_column :
    (s.unitReached (State.chanKey (.column col slot ch)) (if c.rel then c.scope else 5) c.since = true →
      exec (.commandComplete (.column col slot ch)) s = .next (chanNext (chanSignal s (.column col slot ch) c) (.column col slot ch))) ∧
    (s.unitReached (State.chanKey (.column col slot ch)) (if c.rel then c.scope else 5) c.since = false →
      exec (.commandComplete (.column col slot ch)) s = .next (s.due (s.cyc + 1) 560 (.commandComplete (.column col slot ch)))) := by
  have hcommand : s.chanCommand (.column col slot ch) = some c := hq
  show (_ → execCommandComplete _ s = _) ∧ (_ → execCommandComplete _ s = _)
  simp only [execCommandComplete, hq, hcommand, Option.getD_some]
  exact ⟨fun hdone => if_neg (by simp [hdone]), fun hdone => if_pos (by simp [hdone])⟩

/-- A fault of a column's channel is its group's engine fault, or stops the firmware context, and the channel goes on (R283). -/
theorem engineFault_column (hdone : s.unitReached (State.chanKey (.column col slot ch)) 5 c.since = true) :
    (∀ g code info, c.gid = some g → code ≠ 0x13 → exec (.engineFault (.column col slot ch) code info) s =
      .next (chanNext ((giveBack (endPort s c) c).engineFault g ⟨c.at_.eng, ch, code, BitVec.ofNat 64 info⟩) (.column col slot ch))) ∧
    (∀ code info, c.gid = none → exec (.engineFault (.column col slot ch) code info) s =
      .next (chanNext ((giveBack (endPort s c) c).stopFirmware c.at_ code) (.column col slot ch))) := by
  have hnow : ¬ (!s.unitReached (State.chanKey (.column col slot ch)) 5 c.since) = true := by simp [hdone]
  show (∀ g code info, _ → _ → execEngineFault _ code info s = _) ∧ (∀ code info, _ → execEngineFault _ code info s = _)
  constructor
  · intro g code info hg hcode
    simp only [execEngineFault, hq, hg, if_neg hcode]
    exact if_neg hnow
  · intro code info hg
    simp only [execEngineFault, hq, hg]
    exact if_neg hnow

end Column

section Pier
variable {s : State} {pier n : Nat} {c : Command} (hq : (s.chanAt (.pier pier n)).queue.head? = some c)
include hq

/-- A record's command that has completed ends its record (R280, R292). -/
theorem commandComplete_record {r : Command} (hinner : (s.chanAt (.pier pier n)).inner = some r) (herr : (s.chanAt (.pier pier n)).err = none)
    (hdone : s.unitReached (State.chanKey (.pier pier n)) (if r.rel then r.scope else 5) r.since = true) :
    exec (.commandComplete (.pier pier n)) s = .next (recordDone (if r.cmpl = 1 then chanArrive s (.pier pier n) r else s) pier n 0) := by
  have hcommand : s.chanCommand (.pier pier n) = some r := hinner
  show execCommandComplete _ s = _
  simp only [execCommandComplete, hq, hcommand, hinner, herr, Option.getD_some]
  exact if_neg (by simp [hdone])

/-- A chain that has ended signals, and its channel is free (R280, R292). -/
theorem commandComplete_chain (hinner : (s.chanAt (.pier pier n)).inner = none) (herr : (s.chanAt (.pier pier n)).err = none)
    (hdone : s.unitReached (State.chanKey (.pier pier n)) (if c.rel then c.scope else 5) c.since = true) :
    exec (.commandComplete (.pier pier n)) s = .next ((chanSignal s (.pier pier n) c).setChan (.pier pier n) {}) := by
  have hcommand : s.chanCommand (.pier pier n) = none := hinner
  show execCommandComplete _ s = _
  simp only [execCommandComplete, hq, hcommand, hinner, herr, Option.getD_none]
  exact if_neg (by simp [hdone])

/-- A fault of a record ends it with an ERR (R292). -/
theorem engineFault_pier (code info : Nat) (hdone : s.unitReached (State.chanKey (.pier pier n)) 5 = true) :
    exec (.engineFault (.pier pier n) code info) s =
      .next (recordDone s pier n (if code = 0x12 ∨ (code = 0x13 ∧ info < 2 ^ 52) then 3 else if code = 0x01 ∨ code = 0x04 then 1 else 2)) := by
  show execEngineFault _ code info s = _
  simp only [execEngineFault, hq]
  exact if_neg (by simp [hdone])

end Pier

/-! ### The records of a chain (R273, R292) -/

/-- A pier channel is at the record of its chain `c`: it has begun the chain, and performs no record's command (R292). -/
structure AtRecord (s : State) (x : Chan) (c : Command) : Prop where
  queue : (s.chanAt x).queue = [c]
  started : c.started = true
  awake : (s.chanAt x).susp = none
  idle : (s.chanAt x).inner = none
  sound : (s.chanAt x).err = none
  thawed : chanFrozen s { c with started := true } = false

/-- A channel that reads its record is not Parked. -/
def reading (s : State) (x : Chan) (c : Command) : State := s.setChan x { s.chanAt x with queue := [c], parked := false }

/-- What becomes of a record's words: one without OWN parks the channel, and any other is performed or ends its chain (R273, R292): the end of
`execChainRecord`. -/
def recordTurn (pier n : Nat) (c : Command) (words : List Nat) (s : State) : Out :=
  let x : Chan := .pier pier n
  if words.getD 0 0 % 2 = 0 then .next ((s.setChan x { s.chanAt x with parked := true }).due (s.cyc + 1024) 46 (.chainRecordPoll pier n))
  else
    let s := s.setChan x { s.chanAt x with next := words.getD 1 0 }
    match recordCommand c words with
    | none => .next (recordDone s pier n 1)
    | some r =>
      match operandFault s c.at_ r with
      | some (code, _) => .next (recordDone s pier n (if code = 1 then 1 else 2))
      | none =>
        let t := auditReach s r 0xD1
        .next ((t.setChan x { t.chanAt x with inner := some r }).due (t.cyc + 1) 45 (.channelCommandStart x))

section Record
variable {s u r : State} {pier n : Nat} {c : Command} {keys words : List Nat}

theorem recordTurn_parks (hown : words.getD 0 0 % 2 = 0) : ∃ t, recordTurn pier n c words s = .next t ∧ (t.chanAt (.pier pier n)).parked = true ∧
    ∃ d ∈ t.agenda, d.at_ = s.cyc + 1024 ∧ d.ev = .chainRecordPoll pier n := by
  refine ⟨_, if_pos hown, ?_, _, List.mem_append_right _ (List.mem_singleton.2 rfl), rfl, rfl⟩
  exact congrArg ChanState.parked (chanAt_setChan_same s (.pier pier n) _)

theorem recordTurn_performs {z : Command} (hown : words.getD 0 0 % 2 = 1) (hz : recordCommand c words = some z)
    (hok : operandFault (s.setChan (.pier pier n) { s.chanAt (.pier pier n) with next := words.getD 1 0 }) c.at_ z = none) :
    ∃ t, recordTurn pier n c words s = .next t ∧ (t.chanAt (.pier pier n)).inner = some z ∧
      ∃ d ∈ t.agenda, d.at_ = t.cyc + 1 ∧ d.ev = .channelCommandStart (.pier pier n) := by
  unfold recordTurn
  simp only [hown, hz, hok, Nat.one_ne_zero, if_false]
  refine ⟨_, rfl, ?_, _, List.mem_append_right _ (List.mem_singleton.2 rfl), rfl, rfl⟩
  exact congrArg ChanState.inner (chanAt_setChan_same _ (.pier pier n) _)

variable (h : AtRecord s (.pier pier n) c)
include h

/-- A channel that can read its record goes on as the record's words say (R292). -/
theorem chainRecord_reads (hacq : c.acq = false)
    (hkeys : recordKeys (reading s (.pier pier n) c) (.pier pier n) c (s.chanAt (.pier pier n)).at_ 0 = (.ok keys, u))
    (hwords : readRecord u (.pier pier n) (s.chanAt (.pier pier n)).at_ keys = (.ok words, r)) :
    exec (.chainRecord pier n) s = recordTurn pier n c words r := by
  have hgoes : ¬ ((s.chanAt (.pier pier n)).susp.isSome || (s.chanAt (.pier pier n)).inner.isSome || (s.chanAt (.pier pier n)).err.isSome ||
      chanFrozen s { c with started := true }) = true := by
    simp [h.awake, h.idle, h.sound, h.thawed]
  have hbegun : (if c.started = true then c else c.begin s) = c := if_pos h.started
  have hfree : ¬ (c.acq && acquireWaits (reading s (.pier pier n) c) c) = true := by simp [hacq]
  show execChainRecord pier n s = _
  simp only [execChainRecord, h.queue, List.head?_cons, hbegun]
  refine (if_neg hgoes).trans ((if_neg hfree).trans ?_)
  dsimp only [reading] at hkeys
  rw [hkeys]
  dsimp only
  rw [hwords]
  rfl

/-- A Parked channel that finds no OWN reads its record again 1,024 cycles later (R273). -/
theorem chainRecordPoll_waits (hparked : (s.chanAt (.pier pier n)).parked = true)
    (hkeys : recordKeys s (.pier pier n) c (s.chanAt (.pier pier n)).at_ 0 = (.ok keys, u))
    (hwords : readRecord u (.pier pier n) (s.chanAt (.pier pier n)).at_ (keys.take 8) = (.ok words, r)) (hown : words.getD 0 0 % 2 = 0) :
    exec (.chainRecordPoll pier n) s = .next (r.due (r.cyc + 1024) 46 (.chainRecordPoll pier n)) := by
  have hgoes : ¬ (!(s.chanAt (.pier pier n)).parked || (s.chanAt (.pier pier n)).susp.isSome || chanFrozen s { c with started := true }) = true := by
    simp [h.awake, hparked, h.thawed]
  show execChainRecordPoll pier n s = _
  simp only [execChainRecordPoll, h.queue, List.head?_cons]
  refine (if_neg hgoes).trans ?_
  rw [hkeys]
  dsimp only
  rw [hwords]
  exact if_pos hown

end Record

/-! ### The vectors of a stream, and host memory (R294, R446) -/

section Stream
variable {s : State} {x : Chan} {c : Command} {src : EA} (hc : s.chanCommand x = some c) (hsrc : EA.parse c.src = some src)
include hc hsrc

/-- A vector waits for its port's room (R294). -/
theorem streamPortVector_waits (hroom : portRoom s c = false) :
    exec (.streamPortVector x) s = .next (s.due (s.cyc + 1) 45 (.streamPortVector x)) := by
  show execStreamPortVector x s = _
  simp only [execStreamPortVector, hc, Option.bind_some, hsrc]
  exact if_pos (by simp [hroom])

/-- The port holds one vector more once an unscaled stream's bytes have been read (R294). -/
theorem streamPortVector_lands (hkind : c.kind = .stbind false) (hroom : portRoom s c = true) {pages : List (Nat × Nat)} {u : State}
    (hpages : transPages s x c.at_ (eaPages (src.at_ (1024 * c.sector)) (min 1024 (c.len - 1024 * c.sector)) 0) [] = (.ok pages, u))
    (hserved : keysServed u (eaKeys u c.at_ pages (src.at_ (1024 * c.sector)) (min 1024 (c.len - 1024 * c.sector))) = true) :
    ∃ t, exec (.streamPortVector x) s = .next t ∧
      ((t.slotAt c.at_.sk).ports.getD (c.target % 16) {}).held.length = ((u.slotAt c.at_.sk).ports.getD (c.target % 16) {}).held.length + 1 := by
  have hslot : ∀ l, (u.noteFailed l).slotAt c.at_.sk = u.slotAt c.at_.sk := fun l => by
    unfold State.slotAt
    rw [(noteFailed_sameButChecks u l).slots]
  show ∃ t, execStreamPortVector x s = .next t ∧ _
  simp only [execStreamPortVector, hc, Option.bind_some, hsrc, hroom, Bool.not_true, Bool.false_eq_true, if_false, hkind, hpages, hserved, if_true]
  refine ⟨_, rfl, ?_⟩
  split_ifs
  all_goals
    simp [hslot]

end Stream

/-- An access to host memory that has waited for less than its limit waits on (R446). -/
theorem hostAccessTimeout_waits {s : State} {x : Chan} {t0 r : Nat}
    (hwait : s.hostWaits.find? (fun w => w.1 == Requester.chan x) = some (Requester.chan x, t0, r)) (hdown : s.hostUp = false)
    (hlimit : s.cyc < t0 + s.linkLimit) :
    exec (.hostAccessTimeout x) s = .next (s.due (t0 + s.linkLimit) 44 (.hostAccessTimeout x)) := by
  show execHostAccessTimeout x s = _
  simp only [execHostAccessTimeout, hwait, hdown, Bool.false_eq_true, if_false]
  exact if_pos hlimit

/-- Settles O37: what a command's turn does is `channelTurn`, what a record's words do `recordTurn`; the other steps are the branches of their events. -/
theorem channelSteps : Obligations.ChannelSteps := by
  intro s
  refine ⟨?_, ?_, fun x r => translationFault_ends r, ?_, ?_, ?_, fun x c src hc hsrc => streamPortVector_waits hc hsrc, ?_,
    fun x t0 r => hostAccessTimeout_waits⟩
  · intro x c hcommand hstarted hawake hthawed hatom u hacq hcoll
    have h : TakesTurn s x c := ⟨hcommand, hstarted, hawake, onPier_or hthawed, hacq, hcoll⟩
    refine ⟨h.ends hatom, fun hmore hkind => ?_, fun hmore b hkind => h.sends_vector hmore hkind⟩
    rw [h.runs_sector hatom hmore hkind]
    exact ⟨fun e v => sectorTurn_of_error, fun bytes v => sectorTurn_of_ok⟩
  · intro x c hcommand hstarted hatom hawake hthawed u hacq hcoll
    have h : TakesTurn s x c := ⟨hcommand, hstarted, hawake, onPier_or hthawed, hacq, hcoll⟩
    exact h.does_aatom hatom
  · intro col slot ch c x hq
    obtain ⟨hsignals, hwaits⟩ := commandComplete_column hq
    exact ⟨hsignals, hwaits, engineFault_column hq⟩
  · intro pier n c x hq
    exact ⟨fun r => commandComplete_record hq, commandComplete_chain hq, engineFault_pier hq⟩
  · intro pier n c keys u words r x v hq hstarted hawake hidle hsound hthawed
    have h : AtRecord s (.pier pier n) c := ⟨hq, hstarted, hawake, hidle, hsound, hthawed⟩
    refine ⟨fun hacq hkeys hwords => ?_, chainRecordPoll_waits h⟩
    rw [chainRecord_reads h hacq hkeys hwords]
    exact ⟨recordTurn_parks, fun z => recordTurn_performs⟩
  · intro x c src hc hsrc hkind hroom o n pages u hpages hserved
    exact streamPortVector_lands hc hsrc hkind hroom hpages hserved

end Sys2Proof.Machine
end

section
/-! PROOFS. Pages, the fault ring, and the turns of a relayout (R250–R260, R429–R437, R446). -/

namespace Sys2Proof.Machine

/-! ### Stores at physical addresses -/

/-- Words stored at physical addresses change memory, its marks and its checks, or note an address with no byte. -/
theorem storeWords_only (s : State) (k : Nat) (l : List Nat) :
    ∃ m p b h c x, s.storeWords k l = { s with mem := m, poison := p, bitErrs := b, hbmMeta := h, hbmCheck := c, hole := x } := by
  induction l generalizing s k with
  | nil => exact ⟨s.mem, s.poison, s.bitErrs, s.hbmMeta, s.hbmCheck, s.hole, rfl⟩
  | cons w t ih =>
    obtain ⟨m, p, b, h, c, x, e⟩ := farStore_only s k 8 w
    obtain ⟨m', p', b', h', c', x', e'⟩ := ih (s.farStore k 8 w) (k + 8)
    exact ⟨m', p', b', h', c', x', by rw [State.storeWords, e', e]⟩

@[simp] theorem setEntry_cyc (s : State) (ctx e : Nat) (l : List Nat) : (s.setEntry ctx e l).cyc = s.cyc := by
  obtain ⟨m, p, b, h, c, x, e⟩ := storeWords_only s (s.entryAddr ctx e) l
  rw [State.setEntry, e]

@[simp] theorem setEntry_jobs (s : State) (ctx e : Nat) (l : List Nat) : (s.setEntry ctx e l).jobs = s.jobs := by
  obtain ⟨m, p, b, h, c, x, e⟩ := storeWords_only s (s.entryAddr ctx e) l
  rw [State.setEntry, e]

@[simp] theorem setQuar_cyc (s : State) (page q : Nat) : (s.setQuar page q).cyc = s.cyc := by
  unfold State.setQuar
  dsimp only
  generalize (_ : Nat) + _ = v
  obtain ⟨m, p, b, h, c, x, e⟩ := farStore_only s (s.quarKey page) 1 v
  rw [e]

@[simp] theorem setMap_cyc (s : State) (ctx : Nat) (d : Desc) (m v : Nat) : (s.setMap ctx d m v).cyc = s.cyc := by
  unfold State.setMap
  split <;> rfl

/-! ### Invalidations, quarantine and answers (R429, R430, R434, R436) -/

section Pages
variable {s : State} {page : Nat}

theorem invalidationComplete_clears (h : s.invalidating = false) :
    ∃ t, exec .invalidationComplete s = .next t ∧ t.pages.invBusy = false ∧ t.mem = s.mem ∧ t.pages.cache = s.pages.cache :=
  ⟨_, congrArg Host.Outcome.next (if_neg (Bool.eq_false_iff.1 h)), rfl, rfl, rfl⟩

theorem invalidationComplete_waits (h : s.invalidating = true) :
    exec .invalidationComplete s = .next (s.due (s.cyc + 1) 20 .invalidationComplete) :=
  congrArg Host.Outcome.next (if_pos h)

/-- A QCMD acts on a page that stands in the state that it wants (R436). -/
theorem qcmd_acts {want : Nat} {act : State → State} (hidle : s.pages.scrubbing = none) (hpage : page < localPages) (hstate : s.quarState page = want) :
    qcmd page want act s = act s := by
  rw [qcmd, if_neg (by simp [hidle]), if_neg (by simp [hstate, hpage])]

/-- A QCMD on a page in another state sets QERR (R436, R439). -/
theorem qcmd_refuses {want : Nat} {act : State → State} (hidle : s.pages.scrubbing = none) (hstate : s.quarState page ≠ want) :
    qcmd page want act s = { s with pages := { s.pages with qerr := true, qerrNow := true } } := by
  rw [qcmd, if_neg (by simp [hidle]), if_pos (.inr hstate)]

theorem quarantine_commands (hidle : s.pages.scrubbing = none) (hpage : page < localPages) :
    (s.quarState page = 0 → exec (.quarantine page) s = .next (s.quarantinePage page)) ∧
    (s.quarState page = 1 → ∃ t, exec (.scrub page) s = .next t ∧ t.pages.scrubbing = some page ∧
      ∃ d ∈ t.agenda, s.cyc < d.at_ ∧ d.ev = .scrubComplete) ∧
    (s.quarState page = 3 → exec (.release page) s = .next (s.setQuar page 0)) ∧
    (s.quarState page ≠ 0 → ∃ t, exec (.quarantine page) s = .next t ∧ t.pages.qerr = true ∧ t.mem = s.mem) := by
  refine ⟨fun h => congrArg Host.Outcome.next (qcmd_acts hidle hpage h), fun h => ?_, fun h => congrArg Host.Outcome.next (qcmd_acts hidle hpage h),
    fun h => ⟨_, congrArg Host.Outcome.next (qcmd_refuses hidle h), rfl, rfl⟩⟩
  refine ⟨_, congrArg Host.Outcome.next (qcmd_acts hidle hpage h), rfl, _, List.mem_append_right _ (List.mem_singleton.2 rfl), ?_, rfl⟩
  show s.cyc < (s.setQuar page 2).cyc + 1 + _
  rw [setQuar_cyc]
  omega

theorem scrubComplete_ends {p : Nat} (h : s.pages.scrubbing = some p) : ∃ t, exec .scrubComplete s = .next t ∧ t.pages.scrubbing = none := by
  show ∃ t, execScrubComplete s = .next t ∧ _
  unfold execScrubComplete
  rw [h]
  exact ⟨_, rfl, rfl⟩

end Pages

/-! ### The fault ring (R433, R446) -/

/-- The low half of a register that takes a count holds it, and the high half stays. -/
theorem bitsAt_setBits_low (w : Word) (v : Nat) :
    bitsAt (setBits w 31 0 v) 31 0 = v % 2 ^ 32 ∧ bitsAt (setBits w 31 0 v) 63 32 = bitsAt w 63 32 := by
  have hw := w.isLt
  simp only [bitsAt, setBits, BitVec.toNat_ofNat]
  omega

/-- The oldest of some records is their first where no later one has a lower number (R433). -/
theorem foldl_oldest {r : PageRecord} {l : List PageRecord} (h : ∀ x ∈ l, r.seqno ≤ x.seqno) :
    l.foldl (fun a b => if b.seqno < a.seqno then b else a) r = r := by
  induction l with
  | nil => rfl
  | cons x t ih =>
    rw [List.foldl_cons, if_neg (Nat.not_lt.2 (h x (List.mem_cons_self ..)))]
    exact ih fun y hy => h y (List.mem_cons_of_mem x hy)

@[simp] theorem raiseIrq_devr (s : State) (v n : Nat) : (s.raiseIrq v).devr n = s.devr n := by
  unfold State.raiseIrq State.sendIrqs
  split <;> rfl

@[simp] theorem raiseIrq_pages (s : State) (v : Nat) : (s.raiseIrq v).pages = s.pages := by
  unfold State.raiseIrq State.sendIrqs
  split <;> rfl

/-- The record with a number has been written (R433). -/
def State.markWritten (s : State) (id : Nat) : State :=
  { s with pages := { s.pages with open_ := s.pages.open_.map fun x => if x.id == id then { x with written := true } else x } }

@[simp] theorem markWritten_devr (s : State) (id n : Nat) : (s.markWritten id).devr n = s.devr n := rfl

theorem written_of_mem_markWritten {s : State} {id : Nat} {x : PageRecord} (hx : x ∈ (s.markWritten id).pages.open_) (hid : x.id = id) :
    x.written = true := by
  obtain ⟨y, -, rfl⟩ := List.mem_map.1 hx
  split at hid
  · next hy => rw [if_pos hy]
  · next hy => exact absurd (beq_iff_eq.2 hid) hy

/-- An interrupt that may be raised leaves control registers and pages as they are. -/
theorem irq_keeps (s : State) (v : Nat) (p : Prop) [Decidable p] (n : Nat) :
    (if p then s.raiseIrq v else s).devr n = s.devr n ∧ (if p then s.raiseIrq v else s).pages = s.pages := by
  split_ifs
  · exact ⟨raiseIrq_devr s v n, raiseIrq_pages s v⟩
  · exact ⟨rfl, rfl⟩

/-- The fault ring has no room for a record, or its memory cannot be reached (R433, R446). -/
def ringShut (s : State) : Prop :=
  2 ^ (bitsAt (s.devr 0x160) 3 0 + 6) ≤ (bitsAt (s.devr 0x161) 31 0 + 2 ^ 32 - bitsAt (s.devr 0x161) 63 32) % 2 ^ 32 ∨
    s.reachable (bitsAt (s.devr 0x160) 51 12 * 4096) = false

section Ring
variable {s : State} {r : PageRecord} {t : List PageRecord} (hunwritten : s.pages.open_.filter (fun r => !r.written) = r :: t)
include hunwritten

/-- A fault record waits for room in its ring, and for the ring's memory (R433, R446; log 182). -/
theorem faultRecordWrite_waits (hshut : ringShut s) : exec .faultRecordWrite s = .next (s.due (s.cyc + 1) 10 .faultRecordWrite) := by
  show execFaultRecordWrite s = _
  simp only [execFaultRecordWrite, hunwritten]
  exact if_pos hshut

/-- A fault record that its ring has room for is written, and the ring's head moves on (R433). -/
theorem faultRecordWrite_writes (holdest : ∀ x ∈ t, r.seqno ≤ x.seqno) (hopen : ¬ ringShut s) :
    ∃ u, exec .faultRecordWrite s = .next u ∧ bitsAt (u.devr 0x161) 31 0 = (bitsAt (s.devr 0x161) 31 0 + 1) % 2 ^ 32 ∧
      bitsAt (u.devr 0x161) 63 32 = bitsAt (s.devr 0x161) 63 32 ∧ ∀ x ∈ u.pages.open_, x.id = r.id → x.written = true := by
  obtain ⟨v, n, w, hexec⟩ : ∃ (v : State) (n : Nat) (w : Word), exec .faultRecordWrite s = .next (
      let u := (v.setDev 0x161 (setBits (s.devr 0x161) 31 0 (bitsAt (s.devr 0x161) 31 0 + 1))).markWritten r.id
      if bitsAt w 16 16 = 1 then u.raiseIrq n else u) := by
    show ∃ v n w, execFaultRecordWrite s = _
    simp only [execFaultRecordWrite, hunwritten, foldl_oldest holdest]
    exact ⟨_, _, _, if_neg hopen⟩
  refine ⟨_, hexec, ?_⟩
  obtain ⟨hdevr, hpages⟩ := irq_keeps
    ((v.setDev 0x161 (setBits (s.devr 0x161) 31 0 (bitsAt (s.devr 0x161) 31 0 + 1))).markWritten r.id) n (bitsAt w 16 16 = 1) 0x161
  obtain ⟨hlow, hhigh⟩ := bitsAt_setBits_low (s.devr 0x161) (bitsAt (s.devr 0x161) 31 0 + 1)
  dsimp only
  rw [hdevr, hpages, markWritten_devr, State.devr_setDev_same]
  exact ⟨hlow, hhigh, fun x => written_of_mem_markWritten⟩

end Ring

/-! ### The turns of a relayout (R250, R252–R260) -/

@[simp] theorem relayTurn_jobs (s : State) (pier : Nat) : (s.relayTurn pier).jobs = s.jobs := by
  unfold State.relayTurn
  dsimp only
  split <;> rfl

/-- A relayout engine that looks for its next turn drops nothing from the agenda. -/
theorem mem_relayTurn_agenda {s : State} {d : Due} (pier : Nat) (h : d ∈ s.agenda) : d ∈ (s.relayTurn pier).agenda := by
  unfold State.relayTurn
  dsimp only
  split
  · exact h
  · exact List.mem_append_left _ h

/-- A job that takes the place of its entry's jobs is the one that the entry has. -/
theorem jobOf_replaced {s : State} {ctx entry : Nat} {j y : Job} {l : List Job}
    (hjobs : s.jobs = (l.filter fun (x : Job) => !(x.ctx == ctx && x.entry == entry)) ++ [j]) (hy : s.jobOf ctx entry = some y) : y = j := by
  have hmem := List.mem_of_find?_eq_some hy
  have hentry := List.find?_some hy
  rw [hjobs] at hmem
  rcases List.mem_append.1 hmem with hold | hnew
  · have hother := (List.mem_filter.1 hold).2
    rw [hentry] at hother
    cases hother
  · exact List.mem_singleton.1 hnew

/-- A job that can go on passes the guard of RELAYOUT_TILE_MOVING (R253). -/
theorem tileMoving_goes {s : State} {ctx : Nat} {j : Job} {d : Desc} (hrun : (s.ctxAt ctx).state = 1) (hstate : d.state = 2) (hstill : j.moving = false)
    (hmore : d.done < d.tiles) : ¬ ((s.ctxAt ctx).state ≠ 1 ∨ d.state ≠ 2 ∨ j.moving ∨ d.tiles ≤ d.done) := by
  simp [hrun, hstate, hstill, hmore]

section Turn
variable {s : State} {ctx entry : Nat} {j : Job} (hjob : s.jobOf ctx entry = some j)
include hjob

section Moving
variable (hrun : (s.ctxAt ctx).state = 1) (hstate : (s.entry ctx entry).state = 2) (hstill : j.moving = false)
  (hmore : (s.entry ctx entry).done < (s.entry ctx entry).tiles)
include hrun hstate hstill hmore

/-- A relayout engine converts one tile at a time (R253). -/
theorem tileMoving_busy (hbusy : (s.jobs.any fun o => o.pier == j.pier && o.moving) = true) :
    exec (.relayoutTileMoving ctx entry) s = .next s := by
  show execRelayoutTileMoving ctx entry s = _
  unfold execRelayoutTileMoving
  rw [hjob]
  dsimp only
  rw [if_neg (tileMoving_goes hrun hstate hstill hmore), if_pos hbusy]

variable (hfree : (s.jobs.any fun o => o.pier == j.pier && o.moving) = false)
include hfree

/-- A tile waits while a column of its regions serves no access (R491). -/
theorem tileMoving_waits (hserved : jobServed s j (s.entry ctx entry) = false) :
    exec (.relayoutTileMoving ctx entry) s = .next (s.due (s.cyc + 1) 580 (.relayoutTileMoving ctx entry)) := by
  show execRelayoutTileMoving ctx entry s = _
  unfold execRelayoutTileMoving
  rw [hjob]
  dsimp only
  rw [if_neg (tileMoving_goes hrun hstate hstill hmore), if_neg (Bool.eq_false_iff.1 hfree), if_pos (by simp [hserved])]

/-- A tile whose pages are held becomes MOVING, and NEW within 3,500 cycles if nothing holds it up (R253, R254). -/
theorem tileMoving_holds {l : List (Nat × Nat)} {u : State} (hbegan : j.began = true) (hserved : jobServed s j (s.entry ctx entry) = true)
    (hpages : holdPages s j ((farPages ((s.entry ctx entry).oldBytes (s.entry ctx entry).done)).map (fun v => (v, 0)) ++
      (farPages ((s.entry ctx entry).newSpan (s.entry ctx entry).done)).map fun v => (v, 1)) [] = (.ok 0, l, u)) :
    ∃ t, exec (.relayoutTileMoving ctx entry) s = .next t ∧ ∃ b ∈ t.agenda, u.cyc < b.at_ ∧ b.at_ ≤ u.cyc + 3500 ∧
      b.ev = .relayoutTileNew ctx entry := by
  have hsame : ({ j with began := true } : Job) = j := by rw [← hbegan]
  rw [← hsame] at hpages
  show ∃ t, execRelayoutTileMoving ctx entry s = .next t ∧ _
  unfold execRelayoutTileMoving
  rw [hjob]
  dsimp only
  rw [if_neg (tileMoving_goes hrun hstate hstill hmore), if_neg (Bool.eq_false_iff.1 hfree), if_neg (by simp [hserved]), if_pos hbegan, hpages]
  refine ⟨_, rfl, _, List.mem_append_right _ (List.mem_singleton.2 rfl), ?_, ?_, rfl⟩
  all_goals
    simp only [State.freeNat, setMap_cyc, (checkKeys_sameButChecks u _).cyc]
    omega

end Moving

section New
variable (hmoving : j.moving = true)
include hmoving

/-- A MOVING tile waits for the stores that saw it as OLD, and for the columns of its regions (R254, R491). -/
theorem tileNew_waits (h : (s.stores.any fun e => e.uses.contains (ctx * 4096 + entry, (s.entry ctx entry).done + 1)) = true ∨
      jobServed s j (s.entry ctx entry) = false) :
    exec (.relayoutTileNew ctx entry) s = .next (s.due (s.cyc + 1) 580 (.relayoutTileNew ctx entry)) := by
  show execRelayoutTileNew ctx entry s = _
  unfold execRelayoutTileNew
  rw [hjob]
  dsimp only
  rw [if_neg (by simp [hmoving])]
  rcases h with hstores | hserved
  · exact if_pos (by rw [hstores, Bool.true_or])
  · exact if_pos (by rw [hserved, Bool.not_false, Bool.or_true])

variable (hstores : (s.stores.any fun e => e.uses.contains (ctx * 4096 + entry, (s.entry ctx entry).done + 1)) = false)
  (hserved : jobServed s j (s.entry ctx entry) = true)
include hstores hserved

/-- A MOVING tile's new bytes are written once (R254). -/
theorem tileNew_writes (hwrote : j.wrote = false) :
    exec (.relayoutTileNew ctx entry) s = .next (((s.asyncWrite 3 j.pier (relayUnit j.pier) j.gid
        ((tileWrites s j (s.entry ctx entry) (s.entry ctx entry).done).map fun (x : Nat × Nat × Bool) => (x.1, x.2.1, x.2.2))
        ((tileScales s j (s.entry ctx entry) (s.entry ctx entry).done).map fun (x : Nat × List Nat) => (x.1, x.2, false))).setJob
          { j with wrote := true }).due (s.cyc + 1) 580 (.relayoutTileNew ctx entry)) := by
  show execRelayoutTileNew ctx entry s = _
  unfold execRelayoutTileNew
  rw [hjob]
  dsimp only
  rw [if_neg (by simp [hmoving]), hstores, hserved, if_neg (by simp), if_pos (by simp [hwrote])]

/-- A tile becomes NEW only when its new bytes have reached DEV (R254). -/
theorem tileNew_reaches (hwrote : j.wrote = true) (hreached : s.unitReached (relayUnit j.pier) 2 = false) :
    exec (.relayoutTileNew ctx entry) s = .next (s.due (s.cyc + 1) 580 (.relayoutTileNew ctx entry)) := by
  show execRelayoutTileNew ctx entry s = _
  unfold execRelayoutTileNew
  rw [hjob]
  dsimp only
  rw [if_neg (by simp [hmoving]), hstores, hserved, if_neg (by simp), if_neg (by simp [hwrote]), if_pos (by simp [hreached])]

/-- A tile that has become NEW leaves its engine free, and the last one ends the relayout (R254, R259). -/
theorem tileNew_ends (hwrote : j.wrote = true) (hreached : s.unitReached (relayUnit j.pier) 2 = true) :
    ∃ t, exec (.relayoutTileNew ctx entry) s = .next t ∧ (∀ y, t.jobOf ctx entry = some y → y.moving = false) ∧
      ((s.entry ctx entry).done + 1 = (s.entry ctx entry).tiles → ∃ b ∈ t.agenda, b.at_ = s.cyc ∧ b.ev = .relayoutComplete ctx entry) := by
  show ∃ t, execRelayoutTileNew ctx entry s = .next t ∧ _
  unfold execRelayoutTileNew
  rw [hjob]
  dsimp only
  rw [if_neg (by simp [hmoving]), hstores, hserved, if_neg (by simp), if_neg (by simp [hwrote]), if_neg (by simp [hreached])]
  refine ⟨_, rfl, fun y hy => ?_, fun hlast => ?_⟩
  · rw [jobOf_replaced (l := _) (by rw [relayTurn_jobs]; split_ifs <;> rfl) hy]
  · rw [if_pos hlast]
    refine ⟨_, mem_relayTurn_agenda _ (List.mem_append_right _ (List.mem_singleton.2 rfl)), ?_, rfl⟩
    simp

end New

/-- An entry whose every tile is NEW, and that nothing sees as OLD any more, leaves Converting (R250, R259). -/
theorem relayoutComplete_ends (hstate : (s.entry ctx entry).state = 2) (hdone : (s.entry ctx entry).tiles ≤ (s.entry ctx entry).done)
    (huses : s.usesOf (ctx * 4096 + entry) (· != 0) = false) (hbarrier : j.barrier = none) :
    ∃ t, exec (.relayoutComplete ctx entry) s = .next t ∧ t.jobs = s.jobs.filter fun (x : Job) => !(x.ctx == ctx && x.entry == entry) := by
  have hgoes : ¬ ((s.entry ctx entry).state ≠ 2 ∨ (s.entry ctx entry).done < (s.entry ctx entry).tiles) := by
    simp [hstate, hdone]
  show ∃ t, execRelayoutComplete ctx entry s = .next t ∧ _
  unfold execRelayoutComplete
  rw [hjob]
  dsimp only
  rw [if_neg hgoes, if_neg (Bool.eq_false_iff.1 huses)]
  refine ⟨_, rfl, ?_⟩
  rw [relayArrival, hbarrier]
  simp

/-- A tile whose page was refused is tried again (R434). -/
theorem tileRetry_turns :
    exec (.relayoutTileRetry ctx entry) s = .next ((s.setJob { j with stuck := false }).relayTurn j.pier) := by
  show execRelayoutTileRetry ctx entry s = _
  unfold execRelayoutTileRetry
  rw [hjob]

end Turn

/-- A Closed entry becomes Free once the accesses issued before have completed (R250). -/
theorem handleEntryFree_ends {s : State} {ctx entry : Nat} (hclosed : (s.entry ctx entry).state = 4) :
    (s.usesOf (ctx * 4096 + entry) (fun _ => true) = false → exec (.handleEntryFree ctx entry) s = .next (s.setEntry ctx entry (List.replicate 8 0))) ∧
    (s.usesOf (ctx * 4096 + entry) (fun _ => true) = true → exec (.handleEntryFree ctx entry) s =
      .next (s.due (s.cyc + 1) 605 (.handleEntryFree ctx entry))) := by
  show (_ → execHandleEntryFree ctx entry s = _) ∧ (_ → execHandleEntryFree ctx entry s = _)
  unfold execHandleEntryFree
  rw [if_neg (not_not.2 hclosed)]
  exact ⟨fun h => if_neg (Bool.eq_false_iff.1 h), fun h => if_pos h⟩

/-- Settles O43: each clause is a branch of its event; the ring's is the oldest record's, and a relayout's turns are those of its entry's one job. -/
theorem pageAndHandleSteps : Obligations.PageAndHandleSteps := by
  intro s
  refine ⟨fun ctx vpage => rfl, rfl, rfl, invalidationComplete_clears, invalidationComplete_waits, fun id => ⟨rfl, rfl, rfl⟩,
    fun pier col w => ⟨_, rfl, rfl⟩, fun page => quarantine_commands, fun p => scrubComplete_ends, ?_, ?_, fun ctx entry => handleEntryFree_ends⟩
  · intro r t hunwritten holdest n used there
    refine ⟨faultRecordWrite_waits hunwritten, fun hroom hthere => faultRecordWrite_writes hunwritten holdest ?_⟩
    rintro (hfull | haway)
    · exact absurd hroom (Nat.not_lt.2 hfull)
    · exact absurd haway (by simp [show s.reachable _ = true from hthere])
  · intro ctx entry j hjob d id busy
    refine ⟨tileMoving_busy hjob, tileMoving_waits hjob, fun l u hrun hstate hstill hbegan hmore hfree hserved =>
      tileMoving_holds hjob hrun hstate hstill hmore hfree hbegan hserved, tileNew_waits hjob, fun hmoving hstores hserved => ⟨?_, ?_, ?_⟩,
      relayoutComplete_ends hjob, tileRetry_turns hjob⟩
    · exact tileNew_writes hjob hmoving hstores hserved
    · exact tileNew_reaches hjob hmoving hstores hserved
    · exact tileNew_ends hjob hmoving hstores hserved

end Sys2Proof.Machine
end

section
/-! PROOFS. How a copy-and-stream word gives its channel a command (R271, R272, R287–R296). -/

namespace Sys2Proof.Machine

/-! ### What a word does before its command enters the channel -/

/-- An audit that is abandoned changes its group, the auditor and the health events alone (R475, R478). -/
theorem abandonAudit_only (s : State) (g r w : Nat) :
    ∃ gr au he, s.abandonAudit g r w = { s with groups := gr, auditor := au, hevents := he } := by
  unfold State.abandonAudit
  cases s.groups.get? g with
  | none => exact ⟨s.groups, s.auditor, s.hevents, rfl⟩
  | some v => exact ⟨_, _, _, rfl⟩

theorem auditReach_only (s : State) (c : Command) (opc : Nat) :
    ∃ gr au he, auditReach s c opc = { s with groups := gr, auditor := au, hevents := he } := by
  unfold auditReach
  cases c.gid with
  | none => exact ⟨s.groups, s.auditor, s.hevents, rfl⟩
  | some g =>
    dsimp only
    generalize (if c.cmpl = 1 then ((chanWindow s c.at_ (c.target / 2 ^ 26)).map (·.1)).toList else []) = arrival
    split
    · exact abandonAudit_only ..
    · exact ⟨s.groups, s.auditor, s.hevents, rfl⟩

/-- What a command reserves is in its slot: a stream port or a place of a queue register (R280, R294, R295). -/
theorem chanReserve_only (s : State) (c : Command) : ∃ sl, chanReserve s c = { s with slots := sl } := by
  unfold chanReserve
  split
  · exact ⟨_, rfl⟩
  · exact ⟨_, rfl⟩
  · exact ⟨_, rfl⟩
  · exact ⟨s.slots, rfl⟩

/-- The state in which a command enters its channel: the audit has seen it, and its places are reserved. -/
def reservedFor (c : Command) (opc : Nat) (s : State) : State := chanReserve (auditReach s c opc) c

/-- Neither the audit nor the reservation touches what the entry reads. -/
theorem reservedFor_only (s : State) (c : Command) (opc : Nat) :
    ∃ sl gr au he, reservedFor c opc s = { s with slots := sl, groups := gr, auditor := au, hevents := he } := by
  obtain ⟨gr, au, he, ha⟩ := auditReach_only s c opc
  obtain ⟨sl, hr⟩ := chanReserve_only (auditReach s c opc) c
  exact ⟨sl, gr, au, he, by rw [reservedFor, hr, ha]⟩

section Reserved
variable (s : State) (c : Command) (opc : Nat)

@[simp] theorem reservedFor_cyc : (reservedFor c opc s).cyc = s.cyc := by
  obtain ⟨sl, gr, au, he, h⟩ := reservedFor_only s c opc
  rw [h]

@[simp] theorem reservedFor_cur : (reservedFor c opc s).cur = s.cur := by
  obtain ⟨sl, gr, au, he, h⟩ := reservedFor_only s c opc
  rw [h]

@[simp] theorem reservedFor_chans : (reservedFor c opc s).chans = s.chans := by
  obtain ⟨sl, gr, au, he, h⟩ := reservedFor_only s c opc
  rw [h]

@[simp] theorem reservedFor_chanAt (x : Chan) : (reservedFor c opc s).chanAt x = s.chanAt x :=
  congrArg (fun m : Map ChanState => m.getD (State.chanKey x) {}) (reservedFor_chans s c opc)

@[simp] theorem reservedFor_freePier (p : Nat) : freePier (reservedFor c opc s) p = freePier s p := by
  simp only [freePier, reservedFor_chans]

end Reserved

/-! ### The command enters its channel (R271, R272, R292) -/

@[simp] theorem chanAt_due (s : State) (t p : Nat) (i : Instr) (a : Nat) (x : Chan) : (s.due t p i a).chanAt x = s.chanAt x := rfl

/-- A command of a column channel goes behind those that wait there, and an idle channel starts it in the next cycle. -/
theorem chanEnter_column {s : State} {c : Command} (ch : Nat) (hkind : c.kind ≠ .chain) :
    let x : Chan := .column s.cur.col s.cur.slot ch
    ((chanEnter s ch c).chanAt x).queue = (s.chanAt x).queue ++ [c] ∧
    ((s.chanAt x).queue = [] → ∃ b ∈ (chanEnter s ch c).agenda, b.at_ = s.cyc + 1 ∧ b.ev = .channelCommandStart x) := by
  simp only [chanEnter, if_neg hkind]
  constructor
  · split <;> simp only [chanAt_due, chanAt_setChan_same]
  · intro hidle
    rw [if_pos (List.isEmpty_iff.2 hidle)]
    exact ⟨_, List.mem_append_right _ (List.mem_singleton.2 rfl), rfl, rfl⟩

/-- A CHAIN takes the free pier channel with the lowest number, which reads its first record in the next cycle. -/
theorem chanEnter_pier {s : State} {c : Command} {n : Nat} (ch : Nat) (hkind : c.kind = .chain) (hfree : freePier s (s.cur.col / 64) = some n) :
    ((chanEnter s ch c).chanAt (.pier (s.cur.col / 64) n)).queue = [c] ∧
    ∃ b ∈ (chanEnter s ch c).agenda, b.at_ = s.cyc + 1 ∧ b.ev = .chainRecord (s.cur.col / 64) n := by
  simp only [chanEnter, if_pos hkind, hfree, Option.getD_some]
  exact ⟨by rw [chanAt_due, chanAt_setChan_same], _, List.mem_append_right _ (List.mem_singleton.2 rfl), rfl, rfl⟩

/-! ### The words -/

/-- What a word that gives its channel the command of its operands does (R287, R296). -/
def commandGiven (i : Instr) (kind : CKind) (f : FmtE) (s : State) : Done :=
  let c := commandOf s kind f
  { st := chanEnter (reservedFor c ((i.form.map Form.opc).getD 0) s) f.ch c, fifos := if f.cmpl = 0 ∧ kind ≠ .aatom then [f.ctgt % 8] else [] }

section Word
variable {i : Instr} {q : Seq} {kind : CKind} {f : FmtE} {s : State}

/-- A word whose channel holds eight commands waits (R271). -/
theorem chanWord_of_full (hkind : kind ≠ .chain) (hfull : 8 ≤ (s.chanAt (.column s.cur.col s.cur.slot f.ch)).queue.length)
    (h : canGo s i q ((chanRegs kind f).map Reg.s) = true) : chanWord i q kind f s = .next s := by
  unfold chanWord
  exact wordIssue_wait h rfl (if_pos (by simp [hkind, hfull]))

/-- Nothing makes a word wait or turns it away before its operands are checked: none of them is marked, its column channel and what its command reserves
have room, and its engine writes the queue register that its command completes into (R230, R271, R287, R295). -/
structure ChanReady (kind : CKind) (f : FmtE) (s : State) : Prop where
  clean : s.markOf (chanRegs kind f) = none
  room : chanRoom s kind f = true
  writer : (commandOf s kind f).cmpl = 3 → s.sl.writerOf f.aux = engCode s.cur.eng
  queue : kind = .chain ∨ (s.chanAt (.column s.cur.col s.cur.slot f.ch)).queue.length < 8

variable (hr : ChanReady kind f s)
include hr

theorem not_full_of_ready :
    ¬(kind != .chain && decide (8 ≤ (s.chanAt (.column s.cur.col s.cur.slot f.ch)).queue.length) || !chanRoom s kind f) = true := by
  rcases hr.queue with hchain | hfew
  · simp [hr.room, bne_eq_false_iff_eq.2 hchain]
  · simp [hr.room, Nat.not_le.2 hfew]

/-- A ready word does what its operands decide: a fault of theirs turns it away, and else its command enters the channel. -/
theorem chanWord_of_ready : ∃ own, chanWord i q kind f s = wordIssue i q ((chanRegs kind f).map Reg.s) own s ∧
    own s = match operandFault s s.cur (commandOf s kind f) with
      | some (k, a) => if k = 1 then .fault 0x01 (illegalInfo i) else .fault k (BitVec.ofNat 64 a)
      | none => .go (commandGiven i kind f s) := by
  have hwriter : ¬((commandOf s kind f).cmpl = 3 ∧ s.sl.writerOf f.aux ≠ engCode s.cur.eng) := fun hw => hw.2 (hr.writer hw.1)
  unfold chanWord
  refine ⟨_, rfl, ?_⟩
  refine (act_of_ready (not_full_of_ready hr) hr.clean).trans ?_
  cases operandFault s s.cur (commandOf s kind f) with
  | none => exact (if_neg (by simp)).trans (if_neg hwriter)
  | some x =>
    obtain ⟨k, a⟩ := x
    by_cases hk : k = 1
    · simp [hk]
    · simp [hk, hwriter]

theorem chanWord_illegal {a : Nat} (h : canGo s i q ((chanRegs kind f).map Reg.s) = true)
    (hbad : operandFault s s.cur (commandOf s kind f) = some (1, a)) : chanWord i q kind f s = faulted s 0x01 (illegalInfo i) := by
  obtain ⟨own, hi, hown⟩ := chanWord_of_ready (i := i) (q := q) hr
  rw [hbad] at hown
  exact hi.trans (wordIssue_fault h rfl hown)

theorem chanWord_faulted {k a : Nat} (hk : k ≠ 1) (h : canGo s i q ((chanRegs kind f).map Reg.s) = true)
    (hbad : operandFault s s.cur (commandOf s kind f) = some (k, a)) : chanWord i q kind f s = faulted s k (BitVec.ofNat 64 a) := by
  obtain ⟨own, hi, hown⟩ := chanWord_of_ready (i := i) (q := q) hr
  rw [hbad] at hown
  exact hi.trans (wordIssue_fault h rfl (hown.trans (if_neg hk)))

theorem chanWord_gives (hgood : operandFault s s.cur (commandOf s kind f) = none)
    (h : canGo s i q ((chanRegs kind f).map Reg.s) (commandGiven i kind f s).fifos = true) :
    chanWord i q kind f s = issued s i q (commandGiven i kind f s) := by
  obtain ⟨own, hi, hown⟩ := chanWord_of_ready (i := i) (q := q) hr
  rw [hgood] at hown
  exact hi.trans (wordIssue_go h rfl hown)

end Word

section Given
variable (i : Instr) {kind : CKind} (f : FmtE) (s : State)

theorem commandGiven_column (hkind : kind ≠ .chain) :
    let x : Chan := .column s.cur.col s.cur.slot f.ch
    let t := (commandGiven i kind f s).st
    (t.chanAt x).queue = (s.chanAt x).queue ++ [commandOf s kind f] ∧
    ((s.chanAt x).queue = [] → ∃ b ∈ t.agenda, b.at_ = s.cyc + 1 ∧ b.ev = .channelCommandStart x) := by
  simpa [commandGiven] using chanEnter_column (s := reservedFor (commandOf s kind f) ((i.form.map Form.opc).getD 0) s) (c := commandOf s kind f) f.ch hkind

theorem commandGiven_pier {n : Nat} (hkind : kind = .chain) (hfree : freePier s (s.cur.col / 64) = some n) :
    let t := (commandGiven i kind f s).st
    (t.chanAt (.pier (s.cur.col / 64) n)).queue = [commandOf s kind f] ∧
    ∃ b ∈ t.agenda, b.at_ = s.cyc + 1 ∧ b.ev = .chainRecord (s.cur.col / 64) n := by
  simpa [commandGiven] using chanEnter_pier (s := reservedFor (commandOf s kind f) ((i.form.map Form.opc).getD 0) s) (c := commandOf s kind f) f.ch hkind
    (by simpa using hfree)

end Given

/-- Settles O28: all seven words are one word with a kind of command, so one argument over the kind serves them. -/
theorem channelWords : Obligations.ChannelWords := by
  intro q f s x gives
  have hgives (i : Instr) (kind : CKind) (hi : exec i s = chanWord i q kind f s) : gives i kind := by
    intro hclean hroom hwriter
    rw [hi]
    refine ⟨fun hqueue => ?_, chanWord_of_full⟩
    have hr : ChanReady kind f s := ⟨hclean, hroom, hwriter, hqueue⟩
    refine ⟨fun hgood h => ?_, chanWord_illegal hr, fun k a hk => chanWord_faulted hr hk⟩
    exact ⟨commandGiven i kind f s, chanWord_gives hr hgood h, rfl, rfl, commandGiven_column i f s,
      fun hchain n => commandGiven_pier i f s hchain⟩
  exact ⟨hgives _ _ rfl, hgives _ _ rfl, hgives _ _ rfl, hgives _ _ rfl, hgives _ _ rfl, hgives _ _ rfl, hgives _ _ rfl⟩

end Sys2Proof.Machine
end

section
/-! PROOFS. The words of order: ATOM, RED and SEAL, fences and MARK, and the barrier words (R308, R309, R314–R323, R330–R340). -/

namespace Sys2Proof.Machine

/-! ### What a port word finds at its address (R315, R337) -/

theorem withTower_served {s : State} {f : FmtC} {a : TAddr} {g : Bool} {n key : Nat} {act : TAddr → Nat → Act}
    (ha : s.towerAddr (s.effAddr f) g f.col = .ok a) (hr : towerRange s a n = .ok key) (hs : s.served a.col key = true) :
    withTower s f g n act = act a key := by
  simp only [withTower, ha, hr, hs, if_true]

/-- A word with room in both queues, no earlier write to wait for and no mark on its operands goes on to its act (R301, R323). -/
theorem portAct_of_ready {s : State} {f : FmtC} {rs : List Nat} {act : Act} (hloads : s.loadCount s.cur < 16) (hstores : s.storeCount s.cur < 16)
    (hrel : relWaits s f = false) (hm : s.markOf rs = none) :
    (if (queuesFull s || relWaits s f) = true then .wait else consuming s rs act) = act :=
  act_of_ready (by simp [queuesFull, hloads, hstores, hrel]) hm

/-- A RED with room in its store queue, no earlier write to wait for and no mark on its operands goes on to its act (R301, R323). -/
theorem redAct_of_ready {s : State} {f : FmtC} {rs : List Nat} {act : Act} (hstores : s.storeCount s.cur < 16) (hrel : relWaits s f = false)
    (hm : s.markOf rs = none) : (if 16 ≤ s.storeCount s.cur ∨ relWaits s f = true then .wait else consuming s rs act) = act :=
  act_of_ready (by simp [hstores, hrel]) hm

/-- A load whose rows are open, or whose slot is not in strict mode, takes its place at its banks (R210, R214). -/
theorem loadGo_of_rowsOpen {s : State} {ps : List Piece} {lat : Nat} {busy : List Reg} {pend : Pend} {hold : Bool} {word : Option Nat}
    (h : strictMode s = false ∨ ∀ p ∈ ps, s.rowClosed p.key = false) :
    loadGo s ps lat busy pend hold word =
      .go { st := s.request (pieceReqs s.cur s.nextId .load (opCtx s) (ps.map Piece.key) word), lat := lat, busy := busy,
            pend := pend, pieces := ps, hold := hold } := by
  have hopen : (if strictMode s = true then ps.find? fun p => s.rowClosed p.key else none) = none := by
    rcases h with h | h
    · simp [h]
    · simpa using fun _ => h
  rw [loadGo, hopen]

/-! ### ATOM, RED and SEAL (R315–R323) -/

section Port
variable {q : Seq} {f : FmtC} {s : State} {a : TAddr} {key : Nat}

/-- The low bytes of a register that an operation of the word's width takes. -/
def portOperand (f : FmtC) (w : Word) : Nat := w.toNat % 2 ^ (8 * 2 ^ f.sz)

/-- The registers whose marks an ATOM consumes, and those it reads or writes: a compare and swap also compares its destination and writes cf (R319). -/
def atomMarks (f : FmtC) : List Nat := [f.base, f.aux] ++ if f.sub % 16 = 1 then [f.data] else []
def atomRegs (f : FmtC) : List Reg := [.s f.data, .s f.base, .s f.aux] ++ if f.sub % 16 = 1 then [.cf] else []

/-- What an ATOM does once its bytes are found: it goes to their port in the load's way with its captured operands (R315, R319). -/
def atomGiven (f : FmtC) (a : TAddr) (key : Nat) (s : State) : Done :=
  { st := s.request (pieceReqs s.cur s.nextId .load (opCtx s) [key] (some (key / 8))), lat := loadLatency s a,
    busy := .s f.data :: if f.sub % 16 = 1 then [.cf] else [],
    pend := .port key [f.sub % 16, f.mask, portOperand f (s.sv f.aux), portOperand f (s.sv f.data)],
    pieces := [wordPiece f a key], hold := ordAcq f }

/-- What a SEAL does once its bytes are found (R322). -/
def sealGiven (f : FmtC) (a : TAddr) (key : Nat) (s : State) : Done :=
  { st := s.request (pieceReqs s.cur s.nextId .plain none [key] (some (key / 8))), lat := loadLatency s a, busy := [.s f.data],
    pend := .port key [f.aux, f.mask], pieces := [⟨0, key, a.prog, 4, 0, false, 0, none⟩], hold := ordAcq f }

/-- What a RED does once its bytes are found: its operation enters the store queue (R320). -/
def redGiven (f : FmtC) (a : TAddr) (key : Nat) (s : State) (op : StoreOp) : Done :=
  stored s op [⟨storeDist s a.col 0 a.cell, key, List.replicate (2 ^ f.sz) 0, false, 0⟩]

/-- A release waits for the earlier writes of its stream, whatever its operands (R323). -/
theorem exec_atom_waits (hrel : relWaits s f = true) (h : canGo s (.atom q f) q (atomRegs f) = true) : exec (.atom q f) s = .next s := by
  have hwait : (queuesFull s || relWaits s f) = true := by simp [hrel]
  exact exec_waits (by rfl) (if_pos hwait) h

variable (hrel : relWaits s f = false) (ha : s.towerAddr (s.effAddr f) (f.sub / 16 % 2 == 1) f.col = .ok a) (hs : s.served a.col key = true)
  (hstores : s.storeCount s.cur < 16)
include hrel ha hs hstores

section Atom
variable (hloads : s.loadCount s.cur < 16) (hm : s.markOf (atomMarks f) = none) (hr : towerRange s a (2 ^ f.sz) = .ok key)
  (h : canGo s (.atom q f) q (atomRegs f) = true)
include hloads hm hr h

theorem exec_atom_misaligned (ho : a.off % 2 ^ f.sz ≠ 0) : exec (.atom q f) s = faulted s 0x0B (BitVec.ofNat 64 a.prog) :=
  exec_faults (by rfl) ((portAct_of_ready hloads hstores hrel hm).trans ((withTower_served ha hr hs).trans (if_pos ho))) h

theorem exec_atom_closed (ho : a.off % 2 ^ f.sz = 0) (hstrict : strictMode s = true) (hc : s.rowClosed key = true) :
    exec (.atom q f) s = faulted s 0x08 (BitVec.ofNat 64 a.prog) := by
  have hfirst : [wordPiece f a key].find? (fun p => s.rowClosed p.key) = some (wordPiece f a key) := by simp [wordPiece, hc]
  refine exec_faults (by rfl) ((portAct_of_ready hloads hstores hrel hm).trans
    ((withTower_served ha hr hs).trans ((if_neg (not_not.2 ho)).trans ?_))) h
  rw [loadGo, if_pos hstrict]
  exact hfirst ▸ rfl

theorem exec_atom_goes (ho : a.off % 2 ^ f.sz = 0) (hopen : strictMode s = false ∨ s.rowClosed key = false) :
    exec (.atom q f) s = issued s (.atom q f) q (atomGiven f a key s) :=
  exec_goes (by rfl) ((portAct_of_ready hloads hstores hrel hm).trans
    ((withTower_served ha hr hs).trans ((if_neg (not_not.2 ho)).trans (loadGo_of_rowsOpen (ps := [wordPiece f a key]) (by simpa [wordPiece] using hopen))))) h

end Atom

section Red
variable (hm : s.markOf [f.base, f.data] = none) (hr : towerRange s a (2 ^ f.sz) = .ok key)
  (h : canGo s (.red q f) q [.s f.data, .s f.base] = true)
include hm hr h

theorem exec_red_outside (hcode : f.sub % 16 = 13) (hwin : slotWindow s a.col f.aux = false) :
    exec (.red q f) s = faulted s 0x09 (BitVec.ofNat 64 a.prog) := by
  have hout : f.sub % 16 = 13 ∧ (!slotWindow s a.col f.aux) = true := ⟨hcode, by simp [hwin]⟩
  exact exec_faults (by rfl) ((redAct_of_ready hstores hrel hm).trans ((withTower_served ha hr hs).trans (if_pos hout))) h

variable (hwin : ¬(f.sub % 16 = 13 ∧ (!slotWindow s a.col f.aux) = true))
include hwin

theorem exec_red_misaligned (ho : a.off % 2 ^ f.sz ≠ 0) : exec (.red q f) s = faulted s 0x0B (BitVec.ofNat 64 a.prog) :=
  exec_faults (by rfl) ((redAct_of_ready hstores hrel hm).trans
    ((withTower_served ha hr hs).trans ((if_neg hwin).trans (if_pos ho)))) h

theorem exec_red_enters (ho : a.off % 2 ^ f.sz = 0) : exec (.red q f) s = issued s (.red q f) q (redGiven f a key s
    (if f.sub % 16 = 13 then .redx (keyTower key) f.aux f.mask (portOperand f (s.sv f.data))
      else .red (f.sub % 16) f.mask (2 ^ f.sz) (portOperand f (s.sv f.data)))) :=
  exec_goes (by rfl) ((redAct_of_ready hstores hrel hm).trans
    ((withTower_served ha hr hs).trans ((if_neg hwin).trans (if_neg (not_not.2 ho))))) h

end Red

section Seal
variable (hloads : s.loadCount s.cur < 16) (hm : s.markOf [f.base] = none) (hr : towerRange s a 4 = .ok key)
  (h : canGo s (.seal q f) q [.s f.data, .s f.base] = true)
include hloads hm hr h

theorem exec_seal_outside (hwin : (!slotWindow s a.col f.aux) = true) : exec (.seal q f) s = faulted s 0x09 (BitVec.ofNat 64 a.prog) :=
  exec_faults (by rfl) ((portAct_of_ready hloads hstores hrel hm).trans ((withTower_served ha hr hs).trans (if_pos hwin))) h

variable (hwin : ¬(!slotWindow s a.col f.aux) = true)
include hwin

theorem exec_seal_misaligned (ho : a.off % 4 ≠ 0) : exec (.seal q f) s = faulted s 0x0B (BitVec.ofNat 64 a.prog) :=
  exec_faults (by rfl) ((portAct_of_ready hloads hstores hrel hm).trans
    ((withTower_served ha hr hs).trans ((if_neg hwin).trans (if_pos ho)))) h

theorem exec_seal_goes (ho : a.off % 4 = 0) : exec (.seal q f) s = issued s (.seal q f) q (sealGiven f a key s) :=
  exec_goes (by rfl) ((portAct_of_ready hloads hstores hrel hm).trans
    ((withTower_served ha hr hs).trans ((if_neg hwin).trans (if_neg (not_not.2 ho))))) h

end Seal
end Port

/-- Settles O23: each word by what it waits for, where its address lies, and its operation there. -/
theorem portWords : Obligations.PortWords := by
  intro q f s a key n cas lat op hbase ha hstores
  have hcas : (if cas then [Reg.cf] else []) = if f.sub % 16 = 1 then [Reg.cf] else [] := by simp [cas]
  have hin (hwin : f.sub % 16 ≠ 13 ∨ slotWindow s a.col f.aux = true) : ¬(f.sub % 16 = 13 ∧ (!slotWindow s a.col f.aux) = true) := by
    simpa [Decidable.imp_iff_not_or] using hwin
  refine ⟨fun hloads hr hs ho hm h => ⟨fun hrel hopen => ?_, fun hrel => exec_atom_closed hrel ha hs hstores hloads hm hr h ho,
      fun hrel => exec_atom_waits hrel h⟩, fun hrel hr hs ho => ⟨fun hloads hm h => exec_atom_misaligned hrel ha hs hstores hloads hm hr h ho,
      fun hm hwin h => exec_red_misaligned hrel ha hs hstores hm hr h (hin hwin) ho⟩,
    fun hrel hr hs ho hm h => ⟨fun hcode => ?_, fun hcode hwin => ?_, exec_red_outside hrel ha hs hstores hm hr h⟩,
    fun hloads hrel hr hs h => ⟨fun ho hwin => exec_seal_goes hrel ha hs hstores hloads hbase hr h (by simp [hwin]) ho,
      fun ho hwin => exec_seal_misaligned hrel ha hs hstores hloads hbase hr h (by simp [hwin]) ho,
      fun hwin => exec_seal_outside hrel ha hs hstores hloads hbase hr h (by simp [hwin])⟩⟩
  · rw [hcas]
    exact exec_atom_goes hrel ha hs hstores hloads hm hr h ho hopen
  · have hgoes := exec_red_enters hrel ha hs hstores hm hr h (hin (.inl hcode)) ho
    rwa [if_neg hcode] at hgoes
  · have hgoes := exec_red_enters hrel ha hs hstores hm hr h (hin (.inr hwin)) ho
    rwa [if_pos hcode] at hgoes


/-! ### FENCE and MARK (R308, R309, R314) -/

section Order
variable {q : Seq} {f : FmtF} {s : State}

/-- What a fence does once its loads have completed, by its delay and the state that the delay leaves (R309). -/
def fenceGiven (f : FmtF) (late : Bool) (d : Nat × State) : Done :=
  if late = true then { st := d.2, lat := d.1 + 1, pend := .fence (f.sub % 4) d.1, hold := f.sub % 4 == 3 }
  else { st := d.2, lat := d.1 + 1, hold := f.sub % 4 == 3 && decide (0 < d.1) }

/-- A fence waits for earlier writes: no ACQ fence does (R309). -/
def fenceLate (s : State) (f : FmtF) : Bool := decide (f.sub % 4 ≠ 0) && s.writesBefore s.cur s.nextId

theorem fenceGiven_fifos (f : FmtF) (late : Bool) (d : Nat × State) : (fenceGiven f late d).fifos = [] := by
  unfold fenceGiven
  split <;> rfl

variable (h : canGo s (.fence q f) q [] = true)
include h

theorem exec_fence_waits (hk : f.sub % 4 ≠ 1) (hp : loadsPending s s.cur = true) : exec (.fence q f) s = .next s :=
  have hloads : f.sub % 4 ≠ 1 ∧ loadsPending s s.cur = true := ⟨hk, hp⟩
  exec_waits (by rfl) (if_pos hloads) h

theorem exec_fence_goes (hready : f.sub % 4 = 1 ∨ loadsPending s s.cur = false) :
    exec (.fence q f) s = issued s (.fence q f) q (fenceGiven f (fenceLate s f) (fenceDelay s (f.sub % 4) (f.sub / 4))) := by
  have hloads : ¬(f.sub % 4 ≠ 1 ∧ loadsPending s s.cur = true) := by simpa [Decidable.imp_iff_not_or] using hready
  refine exec_goes (by rfl) ((if_neg hloads).trans ?_) (by rwa [fenceGiven_fifos])
  unfold fenceGiven
  exact (apply_ite Act.go (fenceLate s f = true) _ _).symm

end Order

/-- The delay of a fence that is not an SC fence at DOM or SYS is fixed (R309). -/
theorem fenceDelay_fixed (s : State) {kind scope : Nat} (h : kind ≠ 3 ∨ scope ≤ 2) :
    fenceDelay s kind scope = (if kind = 3 then (if scope = 1 then 2 else if scope = 2 then 6 else 0) else 0, s) := by
  unfold fenceDelay
  by_cases hk : kind = 3
  · have hscope : scope = 0 ∨ scope = 1 ∨ scope = 2 := by omega
    rcases hscope with rfl | rfl | rfl <;> simp [hk]
  · simp [hk]

/-- An SC fence at DOM or SYS takes a free delay (R309). -/
theorem fenceDelay_free (s : State) {scope : Nat} (h : 2 < scope) : fenceDelay s 3 scope = s.freeNat := by
  obtain ⟨n, rfl⟩ : ∃ n, scope = n + 3 := ⟨scope - 3, by omega⟩
  rfl

/-- MARK takes an entry of the store queue (R308, R314). -/
theorem exec_mark_enters {q : Seq} {f : FmtF} {s : State} (h : canGo s (.mark q f) q [] = true) (hl : s.loadCount s.cur < 16)
    (hs : s.storeCount s.cur < 16) : exec (.mark q f) s = issued s (.mark q f) q (stored s .mark []) := by
  have hroom : ¬queuesFull s = true := by simp [queuesFull, hl, hs]
  exact exec_goes (by rfl) (if_neg hroom) h

/-- Settles O24: a fence by its delay and by whether earlier writes of its stream are on their way. -/
theorem fenceWords : Obligations.FenceWords := by
  intro q f s delay
  refine ⟨fun h => ⟨exec_fence_waits h, fun hready hscope => ?_, fun hp hk hscope => ?_⟩, exec_mark_enters⟩
  · have hgoes := exec_fence_goes h hready
    rw [fenceDelay_fixed s (by omega)] at hgoes
    refine ⟨fun hk hw => ?_, fun hw => ?_⟩
    · have hlate : fenceLate s f = true := by simp [fenceLate, hk, hw]
      rwa [hlate] at hgoes
    · have hlate : fenceLate s f = false := by simpa [fenceLate, Decidable.imp_iff_not_or] using hw
      rwa [hlate] at hgoes
  · have hgoes := exec_fence_goes h (.inr hp)
    rw [hk, fenceDelay_free s hscope] at hgoes
    refine ⟨s.freeNat.1, s.freeNat.2, hgoes.trans ?_, rfl⟩
    simp [fenceGiven, fenceLate, hk]

/-! ### The barrier words (R323, R330–R340) -/

section Barrier
variable {i : Instr} {q : Seq} {f : FmtC} {s : State} {marks : List Nat} {busy : List Reg} {ill : State → Bool} {args : State → List Nat}

/-- What a barrier word does once its word is found: it goes to the port with its captured operands and holds its engine (R323, R338). -/
def barrierGiven (busy : List Reg) (args : List Nat) (a : TAddr) (key : Nat) (s : State) : Done :=
  { st := s.request (pieceReqs s.cur s.nextId .plain none [key] (some (key / 8))), lat := loadLatency s a, busy := busy,
    pend := .port key args, pieces := [⟨0, key, a.prog, 16, never, false, 0, none⟩], hold := true }

variable (hi : exec i s = barrierWord i q f marks busy ill args s) (hloads : s.loadCount s.cur < 16) (hstores : s.storeCount s.cur < 16)
  (hrel : relWaits s f = false) (hm : s.markOf marks = none) (h : canGo s i q (busy ++ [.s f.base, .s f.aux, .s f.data]) = true)
include hi hloads hstores hrel hm h

/-- An operand that R337 forbids is an illegal encoding. -/
theorem exec_barrier_illegal (hill : ill s = true) : exec i s = faulted s 0x01 (BitVec.ofNat 64 ((encodeWord i).getD 0 / 2 ^ 32)) :=
  hi.trans (wordIssue_fault h rfl ((portAct_of_ready hloads hstores hrel hm).trans (if_pos hill)))

variable {a : TAddr} {key : Nat} (ha : s.towerAddr (s.effAddr f) (f.sub / 16 % 2 == 1) f.col = .ok a) (hr : towerRange s a 16 = .ok key)
  (hs : s.served a.col key = true) (hok : ill s = false)
include ha hr hs hok

theorem exec_barrier_misaligned (ho : a.off % 16 ≠ 0) : exec i s = faulted s 0x0B (BitVec.ofNat 64 a.prog) :=
  hi.trans (wordIssue_fault h rfl ((portAct_of_ready hloads hstores hrel hm).trans
    ((if_neg (by simp [hok])).trans ((withTower_served ha hr hs).trans (if_pos ho)))))

theorem exec_barrier_goes (ho : a.off % 16 = 0) : exec i s = issued s i q (barrierGiven busy (args s) a key s) :=
  hi.trans (wordIssue_go h rfl ((portAct_of_ready hloads hstores hrel hm).trans
    ((if_neg (by simp [hok])).trans ((withTower_served ha hr hs).trans (if_neg (not_not.2 ho))))))

end Barrier


section Words
variable (q : Seq) (f : FmtC) (s : State)

theorem exec_binit_eq : exec (.binit q f) s = barrierWord (.binit q f) q f [f.base, f.aux] []
    (fun s => (s.sv f.aux).toNat == 0 || decide (65535 < (s.sv f.aux).toNat)) (fun s => [(s.sv f.aux).toNat]) s := rfl
theorem exec_arrive_eq : exec (.arrive q f) s = barrierWord (.arrive q f) q f [f.base, f.aux] [.s f.data] (fun _ => false)
    (fun s => [parityOf f s]) s := rfl
theorem exec_arrdrop_eq : exec (.arrdrop q f) s = barrierWord (.arrdrop q f) q f [f.base, f.aux] [.s f.data] (fun _ => false)
    (fun s => [parityOf f s]) s := rfl
theorem exec_bexpect_eq : exec (.bexpect q f) s = barrierWord (.bexpect q f) q f [f.base, f.aux, f.data] []
    (fun s => decide (2 ^ 41 ≤ (s.sv f.data).toNat)) (fun s => [parityOf f s, (s.sv f.data).toNat]) s := rfl
theorem exec_btest_eq : exec (.btest q f) s = barrierWord (.btest q f) q f [f.base, f.aux] [.s f.data, .cf] (fun _ => false)
    (fun s => [parityOf f s]) s := rfl
theorem exec_bwait_eq : exec (.bwait q f) s = barrierWord (.bwait q f) q f [f.base, f.aux] [.s f.data] (fun _ => false)
    (fun s => [parityOf f s]) s := rfl

end Words

/-- Settles O25: the six words are one word with its own operands, so one argument serves them. -/
theorem barrierWords : Obligations.BarrierWords := by
  intro q f s a key par regs cnt bytes goes hm ha hr hs hloads hstores hrel
  have hcnt (h1 : 1 ≤ cnt) (h2 : cnt ≤ 65535) : ((s.sv f.aux).toNat == 0 || decide (65535 < (s.sv f.aux).toNat)) = false := by
    simp [cnt] at h1 h2 ⊢
    omega
  have hbytes (h : bytes < 2 ^ 41) : decide (2 ^ 41 ≤ (s.sv f.data).toNat) = false := by simpa [bytes] using h
  refine ⟨fun ho => ⟨fun h h1 h2 => ?_, fun h => ?_, fun h => ?_, fun hmd h hb => ?_, fun h => ?_, fun h => ?_⟩,
    fun ho => ⟨fun h h1 h2 => ?_, fun h => ?_, fun h => ?_, fun hmd h hb => ?_, fun h => ?_, fun h => ?_⟩, fun hbad h => ?_, fun hbad hmd h => ?_⟩
  · exact exec_barrier_goes (exec_binit_eq q f s) hloads hstores hrel hm h ha hr hs (hcnt h1 h2) ho
  · exact exec_barrier_goes (exec_arrive_eq q f s) hloads hstores hrel hm h ha hr hs rfl ho
  · exact exec_barrier_goes (exec_arrdrop_eq q f s) hloads hstores hrel hm h ha hr hs rfl ho
  · exact exec_barrier_goes (exec_bexpect_eq q f s) hloads hstores hrel hmd h ha hr hs (hbytes hb) ho
  · exact exec_barrier_goes (exec_btest_eq q f s) hloads hstores hrel hm h ha hr hs rfl ho
  · exact exec_barrier_goes (exec_bwait_eq q f s) hloads hstores hrel hm h ha hr hs rfl ho
  · exact exec_barrier_misaligned (exec_binit_eq q f s) hloads hstores hrel hm h ha hr hs (hcnt h1 h2) ho
  · exact exec_barrier_misaligned (exec_arrive_eq q f s) hloads hstores hrel hm h ha hr hs rfl ho
  · exact exec_barrier_misaligned (exec_arrdrop_eq q f s) hloads hstores hrel hm h ha hr hs rfl ho
  · exact exec_barrier_misaligned (exec_bexpect_eq q f s) hloads hstores hrel hmd h ha hr hs (hbytes hb) ho
  · exact exec_barrier_misaligned (exec_btest_eq q f s) hloads hstores hrel hm h ha hr hs rfl ho
  · exact exec_barrier_misaligned (exec_bwait_eq q f s) hloads hstores hrel hm h ha hr hs rfl ho
  · exact exec_barrier_illegal (exec_binit_eq q f s) hloads hstores hrel hm h (by simpa [cnt] using hbad)
  · exact exec_barrier_illegal (exec_bexpect_eq q f s) hloads hstores hrel hmd h (by simpa [bytes] using hbad)

end Sys2Proof.Machine
end

section
/-! PROOFS. Barriers (R326–R332): what one operation does to a barrier word, and its update in memory. -/

namespace Sys2Proof.Machine

/-! ### One operation, and the end of its cycle (R330) -/

section Rules
variable {w : BWord} (hw : w.poison = false ∧ w.malformed = false)
include hw

theorem apply_expect_counts {p n : Nat} (he : w.expected ≠ 0) (hp : p = w.phase) :
    w.apply (.expect p n) = ({ w with pending := (w.pending + n) % 2 ^ 48 }, .ok) := by
  simp [BWord.apply, hw, he, hp]

theorem apply_expect_overrun {p n : Nat} (h : w.expected = 0 ∨ p ≠ w.phase) : w.apply (.expect p n) = (w, .overrun) := by
  simp [BWord.apply, hw, h]

theorem apply_arrive_counts {p : Nat} (b : Nat) (d : Bool) (he : w.expected ≠ 0) (hp : p = w.phase) (ha : w.arrived < w.expected) :
    w.apply (.arrive p b d) = ({ w with arrived := w.arrived + 1, pending := (w.pending + 2 ^ 48 - b % 2 ^ 48) % 2 ^ 48,
                                        drop := w.drop + d.toNat }, .ok) := by
  simp [BWord.apply, hw, he, hp, ha.ne]

theorem apply_arrive_overrun {p b : Nat} {d : Bool} (h : w.expected = 0 ∨ p ≠ w.phase ∨ w.arrived = w.expected) :
    w.apply (.arrive p b d) = (w, .overrun) := by
  simp [BWord.apply, hw, h]

theorem apply_read (p : Nat) : w.apply (.read p) = (w, .ok) := by simp [BWord.apply, hw]

theorem close_completes (he : w.expected ≠ 0) (ha : w.arrived = w.expected) (hp : w.pending = 0) :
    w.close = ({ w with phase := 1 - w.phase, expected := w.expected - w.drop, arrived := 0, drop := 0 }, true) := by
  simp [BWord.close, hw, he, ha, hp]

theorem close_waits (h : w.expected = 0 ∨ w.arrived ≠ w.expected ∨ w.pending ≠ 0) : w.close = (w, false) := by
  have hopen : ¬(w.expected ≠ 0 ∧ w.arrived = w.expected ∧ w.pending = 0) := by tauto
  unfold BWord.close
  rw [if_neg]
  simpa [hw, and_assoc] using hopen

end Rules

/-- An arrival takes its bytes off the pending count, modulo 2^48 (R330). -/
theorem pending_after_arrival (w b : Nat) : ((w + 2 ^ 48 - b % 2 ^ 48) % 2 ^ 48 + b) % 2 ^ 48 = w % 2 ^ 48 := by omega

/-- Settles O34: each operation by whether the word counts it. -/
theorem barrierWordRules : Obligations.BarrierWordRules := by
  intro w p n b d hpoison hform
  have hw := And.intro hpoison hform
  refine ⟨rfl, apply_expect_counts hw, apply_expect_overrun hw, fun he hp ha => ?_, apply_arrive_overrun hw, apply_read hw p, close_completes hw,
    close_waits hw⟩
  refine ⟨_, apply_arrive_counts hw b d he hp ha, rfl, ?_, pending_after_arrival w.pending b, Nat.mod_lt _ (by decide), rfl, rfl⟩
  cases d <;> rfl

/-! ### The update in memory -/

/-- A barrier word at byte 0 of HBM that expects two arrivals, and one arrival there that it counts. The check that is stored for its 64 bytes is
listed, and holds. -/
def arrivalInHbm : State :=
  { State.reset with
    mem := [(0, 2)], hbmCheck := [(0, ({ State.reset with mem := [(0, 2)] } : State).checkField 0)],
    arrivals := [{ id := 1, key := 0, prog := 0, parity := 0, bytes := 0, reached := true }] }

/-- A step leaves the barrier word at byte 0 poisoned. -/
def leavesPoison : Out → Bool
  | .next t => (t.bword 0).poison
  | _ => false

theorem barrierReqs_hbm : barrierReqs arrivalInHbm 0 = [⟨100, .arrive 0 0 false, none,
    some { id := 1, key := 0, prog := 0, parity := 0, bytes := 0, reached := true }⟩] := by rfl

/-- The stored check is that of the bytes before the update, so that the check fails after it (R39). -/
theorem barrierUpdate_hbm_poisons : leavesPoison (exec (.barrierUpdate 0) arrivalInHbm) = true := by decide +kernel

/-- Refutes O35: the statement does not ask that the barrier word lies in a tower. At a word of HBM whose stored check is listed, the update leaves the
check of the old bytes, and the word reads as poisoned. -/
theorem not_barrierSteps : ¬ Obligations.BarrierSteps := by
  intro h
  obtain ⟨-, -, hcounts⟩ := h arrivalInHbm
  obtain ⟨t, ht, hword, -⟩ := hcounts 0 100 0 0 _ rfl barrierReqs_hbm (fun f hf => absurd hf List.not_mem_nil)
    (by decide +kernel) (by decide +kernel) (by decide +kernel) (by decide +kernel) (by decide +kernel)
  have hpoison := barrierUpdate_hbm_poisons
  rw [ht, leavesPoison, hword] at hpoison
  exact absurd hpoison (by decide +kernel)

end Sys2Proof.Machine
end

section
/-! PROOFS. The words of the pool, of the queues and of other groups (R353, R357–R360, R381–R383). -/

namespace Sys2Proof.Machine

/-! ### POPW and ENQW (R353, R357, R358) -/

section Pool
variable {q : Seq} {f : FmtF} {s : State} {n : Nat} {l : Launch} (hl : s.ownLaunch s.cur = some (n, l))

/-- The registers of a POPW, and the indices of an item that one that decodes writes. -/
def popRegs (f : FmtF) : List Reg := [.s f.dst, .cf] ++ if (f.sub / 2 % 2 == 1) = true then (List.range 7).map fun n => .s (56 + n) else []
def popIndices (f : FmtF) (l : Launch) (x : Word) : List Write :=
  if (f.sub / 2 % 2 == 1) = true then (itemIndices l x.toNat ++ [x.toNat]).zipIdx.map fun i => .s (56 + i.2) { val := BitVec.ofNat 64 i.1 } else []

/-- A latency that the device leaves open takes one free value (R4). -/
def freeLat (s : State) (bound : Nat) : Nat := 1 + s.freeNat.1 % bound

theorem freeLat_bounds (s : State) {bound : Nat} (h : 0 < bound) : 1 ≤ freeLat s bound ∧ freeLat s bound ≤ bound := by
  have := Nat.mod_lt s.freeNat.1 h
  unfold freeLat
  omega

include hl

section Popw
variable (h : canGo s (.popw q f) q (popRegs f) = true)
include h

theorem exec_popw_takes {x : Word} {w : Bool} (hh : l.head s.cyc = some (x, w)) : exec (.popw q f) s = issued s (.popw q f) q
    { st := s.freeNat.2.setLaunch n l.pop, lat := freeLat s 24, writes := .s f.dst { val := x } :: .cf true :: popIndices f l x, hold := w } :=
  exec_goes (by rfl) (by simp only [hl, hh]; rfl) h

variable (hh : l.head s.cyc = none)
include hh

theorem exec_popw_ended (ht : l.terminated = true) : exec (.popw q f) s = issued s (.popw q f) q
    { st := s.freeNat.2, lat := freeLat s 24, writes := [.s f.dst { val := 1 }, .cf false] } :=
  exec_goes (by rfl) (by simp only [hl, hh, ht, if_true]; rfl) h

theorem exec_popw_tries (ht : l.terminated = false) (htry : f.sub % 2 = 1) : exec (.popw q f) s = issued s (.popw q f) q
    { st := s.freeNat.2, lat := freeLat s 24, writes := [.s f.dst {}, .cf false] } :=
  exec_goes (by rfl) (by simp only [hl, hh, ht, htry, Bool.false_eq_true, if_false, beq_self_eq_true, if_true]; rfl) h

theorem exec_popw_waits (ht : l.terminated = false) (htry : f.sub % 2 = 0) : exec (.popw q f) s = .next s :=
  exec_waits (by rfl) (by simp only [hl, hh, ht, htry, Bool.false_eq_true, if_false, Nat.reduceBEq]) h

end Popw

section Enqw

/-- The registers of an ENQW, which writes cf where it only tries. -/
def enqwRegs (f : FmtF) : List Reg := .s f.oa :: if (f.sub % 2 == 1) = true then [.cf] else []

variable (hw : s.writesBefore s.cur s.nextId = false) (hm : s.markOf [f.oa] = none) (h : canGo s (.enqw q f) q (enqwRegs f) = true)
include hw hm h

theorem exec_enqw_adds (hroom : l.pool.length < 65536) : exec (.enqw q f) s = issued s (.enqw q f) q
    { st := s.freeNat.2.setLaunch n { l with pool := l.pool ++ [⟨s.sv f.oa, s.cyc, s.cur.ek, s.cyc + 1 + s.freeNat.1 % 24⟩] },
      writes := if (f.sub % 2 == 1) = true then [.cf true] else [] } :=
  exec_goes (by rfl) (by simp only [hw, hl, consuming_of_unmarked hm, if_neg (Nat.not_le.2 hroom), Bool.false_eq_true, if_false]) h

variable (hfull : 65536 ≤ l.pool.length)
include hfull

theorem exec_enqw_tries (htry : f.sub % 2 = 1) : exec (.enqw q f) s = issued s (.enqw q f) q { st := s, writes := [.cf false] } :=
  exec_goes (by rfl) (by simp only [hw, hl, consuming_of_unmarked hm, if_pos hfull, htry, Bool.false_eq_true, if_false, beq_self_eq_true, if_true]) h

theorem exec_enqw_waits (htry : f.sub % 2 = 0) : exec (.enqw q f) s = .next s :=
  exec_waits (by rfl) (by simp only [hw, hl, consuming_of_unmarked hm, if_pos hfull, htry, Bool.false_eq_true, if_false, Nat.reduceBEq]) h

end Enqw
end Pool

/-- Settles O29: each word by what its launch's pool holds. -/
theorem workQueueWords : Obligations.WorkQueueWords := by
  intro q f s n l regs hl
  obtain ⟨hlo, hhi⟩ := freeLat_bounds s (show 0 < 24 by decide)
  have hregs : regs = popRegs f := by simp [regs, popRegs]
  have hcf (b : Bool) : (if f.sub % 2 = 1 then [Write.cf b] else []) = if (f.sub % 2 == 1) = true then [.cf b] else [] := by simp
  have henqw : (Reg.s f.oa :: if f.sub % 2 = 1 then [Reg.cf] else []) = enqwRegs f := by simp [enqwRegs]
  rw [hregs, henqw]
  refine ⟨fun h => ⟨fun x w hh => ⟨_, hlo, hhi, ?_⟩, fun hh hend => ⟨_, hlo, hhi, ?_⟩, exec_popw_waits hl h⟩,
    fun hw hm h => ⟨fun hroom => ⟨s.cyc + 1 + s.freeNat.1 % 24, by omega, by unfold freeLat at hhi; omega, ?_⟩, exec_enqw_tries hl hw hm h, exec_enqw_waits hl hw hm h⟩⟩
  · have htakes := exec_popw_takes hl h hh
    simp only [popIndices, beq_iff_eq] at htakes
    exact htakes
  · cases ht : l.terminated with
    | true => exact exec_popw_ended hl h hh ht
    | false => exact exec_popw_tries hl h hh ht (by simpa [ht] using hend)
  · rw [hcf]
    exact exec_enqw_adds hl hw hm h hroom

/-! ### ENQ (R359, R360) -/

section Enq
variable {q : Seq} {f : FmtF} {s : State}

/-- The queue that an ENQ names, and its descriptor, which the front end reads for a queue that is Undefined (R359, R385). -/
def enqQueue (f : FmtF) (s : State) : Nat := queueIndex (s.ctxOf s.cur) (f.imm16 % 4096)
def enqDesc (f : FmtF) (s : State) : Option FQueue :=
  if (s.queueAt (enqQueue f s)).state = 0 then (s.readDesc (enqQueue f s)).bind id else some (s.queueAt (enqQueue f s))

def enqRegs (f : FmtF) : List Reg := [.s f.dst, .s f.oa] ++ if (f.sub % 2 == 1) = true then [.cf] else []
def enqFlag (f : FmtF) (b : Bool) : List Write := if (f.sub % 2 == 1) = true then [.cf b] else []

/-- What an ENQ does with the packet at a place of its window (R359). -/
def enqAt (f : FmtF) (a : TAddr) (key : Nat) (s : State) : Act :=
  if a.off % 64 ≠ 0 then .fault 0x0B (BitVec.ofNat 64 a.prog)
  else match (if s.ctxOf s.cur = 0 then none else enqDesc f s) with
    | none => .fault 0x13 (BitVec.ofNat 64 a.prog)
    | some d =>
      if !s.served a.col key then .wait
      else if !s.enqRoom (enqQueue f s) d then
        (if (f.sub % 2 == 1) = true then .go { st := s.freeNat.2, lat := freeLat s 18, writes := .s f.dst {} :: enqFlag f false } else .wait)
      else .go { st := s.freeNat.2.checkRead key 64, lat := freeLat s 18, writes := .s f.dst {} :: enqFlag f true,
                 pend := .enq (enqQueue f s) (s.readRun ((List.range 64).map fun i => key + i)) }

/-- The act of an ENQ (R359). -/
def enqAct (f : FmtF) (s : State) : Act :=
  if s.writesBefore s.cur s.nextId then .wait
  else consuming s [f.oa] (match s.towerAddr (s.sv f.oa) true 0 with
    | .error x => .fault 0x09 x
    | .ok a => match towerRange s a 64 with
      | .error x => .fault 0x09 x
      | .ok key => enqAt f a key s)

/-- An ENQ is its act, unless it finds a descriptor that is VALID and not legal, which is a health event besides (R385). -/
theorem exec_enq_eq (hd : (s.queueAt (enqQueue f s)).state ≠ 0 ∨ s.readDesc (enqQueue f s) ≠ some none) :
    exec (.enq q f) s = wordIssue (.enq q f) q (enqRegs f) (enqAct f) s := by
  have hsilent : ((s.queueAt (enqQueue f s)).state == 0 && s.readDesc (enqQueue f s) == some none) = false := by
    rcases hd with hd | hd <;> simp [hd]
  show execEnq q f s = _
  unfold execEnq
  dsimp only
  split
  · next t ht =>
    refine Eq.trans (congrArg Host.Outcome.next (if_neg ?_)) ht.symm
    intro hsaid
    simp only [Bool.and_eq_true] at hsaid
    obtain ⟨⟨⟨⟨-, hstate⟩, hdesc⟩, -⟩, -⟩ := hsaid
    exact Bool.false_ne_true (hsilent.symm.trans (Bool.and_eq_true_iff.2 ⟨hstate, hdesc⟩))
  · rfl

/-- The ENQ's own act is reached. -/
theorem enqAct_eq {a : TAddr} {key : Nat} (hw : s.writesBefore s.cur s.nextId = false) (hm : s.markOf [f.oa] = none)
    (ha : s.towerAddr (s.sv f.oa) true 0 = .ok a) (hr : towerRange s a 64 = .ok key) : enqAct f s = enqAt f a key s := by
  simp only [enqAct, hw, consuming_of_unmarked hm, ha, hr, Bool.false_eq_true, if_false]

section Reached
variable (hw : s.writesBefore s.cur s.nextId = false) (hm : s.markOf [f.oa] = none)
  (hd : (s.queueAt (enqQueue f s)).state ≠ 0 ∨ s.readDesc (enqQueue f s) ≠ some none) (h : canGo s (.enq q f) q (enqRegs f) = true)
include hw hm hd h

theorem exec_enq_unnamed {x : Word} (ha : s.towerAddr (s.sv f.oa) true 0 = .error x) : exec (.enq q f) s = faulted s 0x09 x :=
  exec_faults (exec_enq_eq hd) (by simp only [enqAct, hw, consuming_of_unmarked hm, ha, Bool.false_eq_true, if_false]) h

variable {a : TAddr} (ha : s.towerAddr (s.sv f.oa) true 0 = .ok a)
include ha

theorem exec_enq_outside {x : Word} (hr : towerRange s a 64 = .error x) : exec (.enq q f) s = faulted s 0x09 x :=
  exec_faults (exec_enq_eq hd) (by simp only [enqAct, hw, consuming_of_unmarked hm, ha, hr, Bool.false_eq_true, if_false]) h

variable {key : Nat} (hr : towerRange s a 64 = .ok key)
include hr

theorem exec_enq_misaligned (ho : a.off % 64 ≠ 0) : exec (.enq q f) s = faulted s 0x0B (BitVec.ofNat 64 a.prog) :=
  exec_faults (exec_enq_eq hd) ((enqAct_eq hw hm ha hr).trans (if_pos ho)) h

variable (ho : a.off % 64 = 0)
include ho

theorem exec_enq_undefined (hnone : s.ctxOf s.cur = 0 ∨ enqDesc f s = none) : exec (.enq q f) s = faulted s 0x13 (BitVec.ofNat 64 a.prog) := by
  have hq : (if s.ctxOf s.cur = 0 then none else enqDesc f s) = none := by
    rcases hnone with hnone | hnone <;> simp [hnone]
  exact exec_faults (exec_enq_eq hd) ((enqAct_eq hw hm ha hr).trans ((if_neg (not_not.2 ho)).trans (by rw [hq]))) h

variable {d : FQueue} (hctx : s.ctxOf s.cur ≠ 0) (hdesc : enqDesc f s = some d) (hserved : s.served a.col key = true)
include hctx hdesc hserved

omit hd h in
/-- An ENQ to a defined queue, whose packet can be read, does what the queue's room allows. -/
theorem enqAct_defined : enqAct f s = if !s.enqRoom (enqQueue f s) d then
      (if (f.sub % 2 == 1) = true then .go { st := s.freeNat.2, lat := freeLat s 18, writes := .s f.dst {} :: enqFlag f false } else .wait)
    else .go { st := s.freeNat.2.checkRead key 64, lat := freeLat s 18, writes := .s f.dst {} :: enqFlag f true,
               pend := .enq (enqQueue f s) (s.readRun ((List.range 64).map fun i => key + i)) } := by
  rw [enqAct_eq hw hm ha hr, enqAt, if_neg (not_not.2 ho), if_neg hctx, hdesc]
  simp only [hserved, Bool.not_true, Bool.false_eq_true, if_false]

theorem exec_enq_hands (hroom : s.enqRoom (enqQueue f s) d = true) : exec (.enq q f) s = issued s (.enq q f) q
    { st := s.freeNat.2.checkRead key 64, lat := freeLat s 18, writes := .s f.dst {} :: enqFlag f true,
      pend := .enq (enqQueue f s) (s.readRun ((List.range 64).map fun i => key + i)) } :=
  exec_goes (exec_enq_eq hd) ((enqAct_defined hw hm ha hr ho hctx hdesc hserved).trans (if_neg (by simp [hroom]))) h

theorem exec_enq_tries (hfull : s.enqRoom (enqQueue f s) d = false) (htry : f.sub % 2 = 1) : exec (.enq q f) s = issued s (.enq q f) q
    { st := s.freeNat.2, lat := freeLat s 18, writes := [.s f.dst {}, .cf false] } := by
  refine exec_goes (exec_enq_eq hd) ((enqAct_defined hw hm ha hr ho hctx hdesc hserved).trans ((if_pos (by simp [hfull])).trans ?_)) h
  simp [htry, enqFlag]

theorem exec_enq_waits (hfull : s.enqRoom (enqQueue f s) d = false) (htry : f.sub % 2 = 0) : exec (.enq q f) s = .next s :=
  exec_waits (exec_enq_eq hd) ((enqAct_defined hw hm ha hr ho hctx hdesc hserved).trans
    ((if_pos (by simp [hfull])).trans (if_neg (by simp [htry])))) h

end Reached
end Enq

/-! ### YIELD and GSIG (R381–R383) -/

section Groups
variable {q : Seq} {f : FmtF} {s : State}

section Yield
variable (h : canGo s (.yield q f) q [.cf] = true)
include h

theorem exec_yield_firmware (hg : s.groupOf s.cur.sk = none) : exec (.yield q f) s = faulted s 0x14 0 :=
  exec_faults (by rfl) (by simp only [hg]) h

/-- A YIELD wants its slot given up where it always does, or where a placement of no greater priority number waits (R381, R382). -/
theorem exec_yield_group {g : Nat} {v : Group} (hg : s.groupOf s.cur.sk = some (g, v)) {want : Bool}
    (hwant : want = (f.sub % 2 == 1 || (slotWaiters s s.cur.col).any fun p => decide (p ≤ v.region.prio))) :
    exec (.yield q f) s = issued s (.yield q f) q { st := if want then s.preemptGroup g false true else s, writes := [.cf want] } :=
  exec_goes (by rfl) (by simp only [hg, hwant]) h

end Yield

/-- How long a message takes at most: in its column, in its pier, or beyond (R383). -/
def messageBound (s : State) (to_ : Nat) : Nat :=
  let col := ((s.groups.get? to_).map Group.col).getD s.cur.col
  if col = s.cur.col then 4 else if col / 64 = s.cur.col / 64 then 40 else 180

theorem messageBound_bounds (s : State) (to_ : Nat) : 0 < messageBound s to_ ∧ messageBound s to_ ≤ 180 := by
  unfold messageBound
  dsimp only
  split
  · omega
  · split <;> omega

section Gsig
variable (hw : f.sub % 2 = 0 ∨ s.writesBefore s.cur s.nextId = false) (hm : s.markOf [f.dst, f.oa] = none)
  (h : canGo s (.gsig q f) q [.s f.dst, .s f.oa, .cf] = true)
include hw hm h

omit hm h in
/-- A GSIG that has no earlier write to wait for does not wait (R381). -/
theorem gsig_ready : ¬(f.sub % 2 = 1 ∧ s.writesBefore s.cur s.nextId = true) := by
  rintro ⟨hrel, hbefore⟩
  rcases hw with hw | hw
  · omega
  · exact Bool.false_ne_true (hw.symm.trans hbefore)

theorem exec_gsig_firmware (hfw : s.cur.fw = true) : exec (.gsig q f) s = faulted s 0x14 0 :=
  exec_faults (by rfl) (by simp only [if_neg (gsig_ready hw), consuming_of_unmarked hm, hfw, if_true]) h

theorem exec_gsig_sends (hfw : s.cur.fw = false) :
    let to_ := (s.sibling s.cur.sk (s.sv f.dst).toNat).getD (2 ^ 64)
    let lat := freeLat s (messageBound s to_)
    exec (.gsig q f) s = issued s (.gsig q f) q
      { st := s.freeNat.2.due (s.cyc + lat - 1) 620 (.messageLand to_ (f.imm16 % 4) (s.sv f.oa).toNat s.nextId) ((s.cyc + lat - 1) * 1024 + s.cur.col),
        lat := lat, busy := [.cf], pend := .message (s.sv f.dst).toNat } :=
  exec_goes (by rfl) (by simp only [if_neg (gsig_ready hw), consuming_of_unmarked hm, hfw, Bool.false_eq_true, if_false]; rfl) h

end Gsig
end Groups

/-- Settles O30: ENQ by its address, its queue and the queue's room; YIELD and GSIG by who issues them and who waits. -/
theorem packetAndGroupWords : Obligations.PacketAndGroupWords := by
  intro q f s k
  have hregs : ([Reg.s f.dst, .s f.oa] ++ if f.sub % 2 = 1 then [Reg.cf] else []) = enqRegs f := by simp [enqRegs]
  rw [hregs]
  refine ⟨fun hw hm hd h => ⟨fun x => exec_enq_unnamed hw hm hd h, fun a ha => ⟨fun x => exec_enq_outside hw hm hd h ha, fun key hr =>
      ⟨exec_enq_misaligned hw hm hd h ha hr, exec_enq_undefined hw hm hd h ha hr, fun d ho hctx hdesc hserved => ⟨fun hroom => ?_, fun hfull htry => ?_,
        exec_enq_waits hw hm hd h ha hr ho hctx hdesc hserved⟩⟩⟩⟩,
    fun h => ⟨fun g v hg => ⟨fun hwant => ?_, fun htry hnone => ?_⟩, exec_yield_firmware h⟩,
    fun hw hm h => ⟨exec_gsig_firmware hw hm h, fun hfw => ?_⟩⟩
  · obtain ⟨hlo, hhi⟩ := freeLat_bounds s (show 0 < 18 by decide)
    have hhands := exec_enq_hands hw hm hd h ha hr ho hctx hdesc hserved hroom
    simp only [enqFlag, beq_iff_eq] at hhands
    exact ⟨_, hlo, hhi, hhands⟩
  · obtain ⟨hlo, hhi⟩ := freeLat_bounds s (show 0 < 18 by decide)
    exact ⟨_, hlo, hhi, exec_enq_tries hw hm hd h ha hr ho hctx hdesc hserved hfull htry⟩
  · exact exec_yield_group h hg (want := true) (by simpa using hwant)
  · exact exec_yield_group h hg (want := false) (by simpa [htry] using hnone)
  · obtain ⟨hpos, hbound⟩ := messageBound_bounds s ((s.sibling s.cur.sk (s.sv f.dst).toNat).getD (2 ^ 64))
    obtain ⟨hlo, hhi⟩ := freeLat_bounds s hpos
    exact ⟨_, hlo, hhi.trans hbound, exec_gsig_sends hw hm h hfw⟩

end Sys2Proof.Machine
end

section
/-! PROOFS. Every word and every event answers a next state, and so does a step that comes to no byteless address (R79, R82, R426). -/

namespace Sys2Proof.Machine

/-- A choice between two answers answers. -/
theorem ite_next {c : Prop} [Decidable c] {a b : Out} (ha : ∃ t, a = .next t) (hb : ∃ t, b = .next t) : ∃ t, (if c then a else b) = .next t := by
  split <;> assumption

/-- What is done with a checked ring answers where both of its ways do. -/
theorem ring_next {x : Except (Nat × Word) (Nat × Nat × RingDesc)} {bad : Nat → Word → Out} {good : Nat → Nat → RingDesc → Out}
    (hbad : ∀ c i, ∃ t : State, bad c i = .next t) (hgood : ∀ key ring d, ∃ t, good key ring d = .next t) :
    ∃ t : State, (match x with | .error (c, i) => bad c i | .ok (key, ring, d) => good key ring d : Out) = .next t := by
  rcases x with ⟨c, i⟩ | ⟨key, ring, d⟩
  · exact hbad c i
  · exact hgood key ring d

/-- A shared push or pop that is retried answers a next state. -/
theorem execCsSharedRetry_next (col slot : Nat) (s : State) : ∃ t, execCsSharedRetry col slot s = .next t := by
  unfold execCsSharedRetry
  extract_lets again later
  have hagain : ∀ s, ∃ t, again s = .next t := fun _ => ⟨_, rfl⟩
  have hlater : ∀ s, ∃ t, later s = .next t := fun _ => ⟨_, rfl⟩
  clear_value again later
  split
  · exact ⟨_, rfl⟩
  next f _ =>
  split
  next desc args _ =>
  extract_lets fmt
  split
  · exact hlater s
  split
  · refine ite_next (hlater s) ?_
    refine ring_next (fun c i => ⟨_, rfl⟩) fun key ring d => ?_
    extract_lets recs held
    refine ite_next (hagain _) ?_
    split <;> exact ⟨_, rfl⟩
  · refine ring_next (fun c i => ⟨_, rfl⟩) fun key ring d => ?_
    extract_lets held
    clear_value held
    split
    · exact ite_next ⟨_, rfl⟩ (hagain _)
    · extract_lets u
      split <;> exact ⟨_, rfl⟩
  · exact ⟨_, rfl⟩
/-- A word that checks nothing at decode answers a next state. -/
theorem exec_next_of_word {i : Instr} {q : Seq} {regs : List Reg} {own : State → Act} {s : State} (hi : exec i s = wordIssue i q regs own s) :
    ∃ t, exec i s = .next t :=
  hi ▸ wordIssue_next i q regs own s _

/-- A word with checks at decode answers a next state. -/
theorem exec_next_of_decodedWord {i : Instr} {q : Seq} {regs : List Reg} {own : State → Act} {s : State} {dec : State → Option (Nat × Word)}
    (hi : exec i s = wordIssue i q regs own s dec) : ∃ t, exec i s = .next t :=
  hi ▸ wordIssue_next i q regs own s dec

/-- A stamped product answers a next state. -/
theorem stampedWord_answers (i : Instr) (q : Seq) (kind : Nat) (f : FmtD) (s : State) : ∃ t, stampedWord i q kind f s = .next t := by
  obtain ⟨t, ht⟩ := wordIssue_next i q [] (productAct kind f) s (productDec kind f)
  unfold stampedWord
  rw [ht]
  dsimp only [faultNow]
  repeat' split
  all_goals exact ⟨_, rfl⟩

theorem execEnq_next (q : Seq) (f : FmtF) (s : State) : ∃ t, execEnq q f s = .next t := by
  unfold execEnq
  dsimp only
  split
  · exact ⟨_, rfl⟩
  · next h => exact absurd (wordIssue_next ..) fun ⟨t, ht⟩ => h t ht

theorem execHdef_next (q : Seq) (f : FmtG) (s : State) : ∃ t, execHdef q f s = .next t := by
  unfold execHdef
  split <;> exact wordIssue_next ..

theorem execChannelCommandStart_next (x : Chan) (s : State) : ∃ t, execChannelCommandStart x s = .next t := by
  unfold execChannelCommandStart
  dsimp only
  repeat' split
  all_goals exact ⟨_, rfl⟩

theorem execHostWrite_next (offset : Nat) (data : List Nat) (s : State) : ∃ t, execHostWrite offset data s = .next t := by
  unfold execHostWrite
  dsimp only
  repeat' split
  all_goals exact ⟨_, rfl⟩

theorem execBarrierArrivalReach_next (a : Arrival) (s : State) : ∃ t, execBarrierArrivalReach a s = .next t := by
  unfold execBarrierArrivalReach
  dsimp only
  repeat' split
  all_goals exact ⟨_, rfl⟩

theorem execFlitReceive_next (port : Nat) (flit : Flit) (s : State) : ∃ t, execFlitReceive port flit s = .next t := by
  unfold execFlitReceive
  dsimp only
  repeat' split
  all_goals exact ⟨_, rfl⟩

theorem execForcedRefresh_next (tower bank row : Nat) (s : State) : ∃ t, execForcedRefresh tower bank row s = .next t := by
  unfold execForcedRefresh
  dsimp only
  repeat' split
  all_goals exact ⟨_, rfl⟩

theorem execWriteQueueDrain_next (tower : Nat) (s : State) : ∃ t, execWriteQueueDrain tower s = .next t := by
  unfold execWriteQueueDrain
  dsimp only
  repeat' split
  all_goals exact ⟨_, rfl⟩

theorem execRelayoutTileNew_next (ctx entry : Nat) (s : State) : ∃ t, execRelayoutTileNew ctx entry s = .next t := by
  unfold execRelayoutTileNew
  dsimp only
  repeat' split
  all_goals exact ⟨_, rfl⟩

theorem execBarrierUpdate_next (key : Nat) (s : State) : ∃ t, execBarrierUpdate key s = .next t := by
  unfold execBarrierUpdate
  dsimp only
  repeat' split
  all_goals exact ⟨_, rfl⟩

theorem execStreamPortVector_next (x : Chan) (s : State) : ∃ t, execStreamPortVector x s = .next t := by
  unfold execStreamPortVector
  dsimp only
  repeat' split
  all_goals exact ⟨_, rfl⟩

theorem execChainRecord_next (pier n : Nat) (s : State) : ∃ t, execChainRecord pier n s = .next t := by
  unfold execChainRecord
  dsimp only
  repeat' split
  all_goals exact ⟨_, rfl⟩

theorem execChainRecordPoll_next (pier n : Nat) (s : State) : ∃ t, execChainRecordPoll pier n s = .next t := by
  unfold execChainRecordPoll
  dsimp only
  repeat' split
  case isFalse => exact execChainRecord_next ..
  all_goals exact ⟨_, rfl⟩

/-- What a channel had waited for the link with runs again when its wait ends, and answers as it does. -/
theorem execHostAccessTimeout_next (x : Chan) (s : State) : ∃ t, execHostAccessTimeout x s = .next t := by
  unfold execHostAccessTimeout
  dsimp only
  split
  · exact ⟨_, rfl⟩
  split
  · exact ⟨_, rfl⟩
  split
  · exact ⟨_, rfl⟩
  split
  · exact ⟨_, rfl⟩
  split
  · exact execChannelCommandStart_next ..
  · exact execStreamPortVector_next ..
  · exact execChainRecord_next ..
  · exact execChainRecordPoll_next ..
  · exact ⟨_, rfl⟩

/-- Each word is an issue, each event the branches of its definition. -/
theorem exec_next (i : Instr) (s : State) : ∃ t, exec i s = .next t := by
  cases i with
  | vcvt | mld | mdrain | mzero | mperturb | mfree | mfold =>
    exact exec_next_of_decodedWord (by rfl)
  | mma | mmaq | mmac =>
    exact stampedWord_answers ..
  | channelCommandStart => exact execChannelCommandStart_next ..
  | hostWrite => exact execHostWrite_next ..
  | barrierArrivalReach => exact execBarrierArrivalReach_next ..
  | flitReceive => exact execFlitReceive_next ..
  | forcedRefresh => exact execForcedRefresh_next ..
  | writeQueueDrain => exact execWriteQueueDrain_next ..
  | relayoutTileNew => exact execRelayoutTileNew_next ..
  | barrierUpdate => exact execBarrierUpdate_next ..
  | streamPortVector => exact execStreamPortVector_next ..
  | chainRecord => exact execChainRecord_next ..
  | csSharedRetry => exact execCsSharedRetry_next ..
  | enq => exact execEnq_next ..
  | hdef => exact execHdef_next ..
  | hostAccessTimeout => exact execHostAccessTimeout_next ..
  | chainRecordPoll => exact execChainRecordPoll_next ..
  | rowspareStart | bypassGrant | thermalThrottle | ageingMarginLow | codeStoreCopyComplete | pageWalk | pfrespRetry | pfrespRefusePageFault
    | pfrespRefusePermission | pginvPage | quarantine | scrub | release | lightLoss | portDrained | routeWrite | evctlArm | gctlPreempt | rngseedWrite
    | qmapWrite | twinWrite | fwrst | auditNoColumn | columnRetired | quiesce | unblock | identityStoreRead | logicClockStop | logicRailUp
    | logicClockStart | identityStoreWrite | queueSliceEnd | queuePark | queueUnpark | launch | wait | signal | markPacket | evict | doorbellHalt
    | pginvContext | pginvAll | invalidationComplete | hostTrainingRequest | lnkctlTrain | lnkctlDrain | lnkctlDown | linkLaneFailure | linkDrained
    | portctlTrain | portctlDrain | portctlDown | latchOpen | latchClose | evctlFwdone | evictReserveAccept | quiesceComplete | routeDrainComplete =>
    exact ⟨_, rfl⟩
  | wordComplete | tokenAvailable | sectionDispatch | sectionRetire | scheduleMiss | loadPerformed | bedJointFailure | bypassFailure | leaseGrant =>
    dsimp only [exec, execWordComplete, execTokenAvailable, execSectionDispatch, execSectionRetire, execScheduleMiss, execLoadPerformed,
      execBedJointFailure, execBypassFailure, execLeaseGrant]
    repeat' split
    all_goals exact ⟨_, rfl⟩
  | storeReachPort | rowOperationEnd | backgroundRefresh =>
    dsimp only [exec, execStoreReachPort, execRowOperationEnd, execBackgroundRefresh]
    repeat' split
    all_goals exact ⟨_, rfl⟩
  | translationFault | commandComplete | engineFault | relayoutTileRetry | relayoutTileMoving | relayoutComplete | handleEntryFree | faultRecordWrite
    | scrubComplete =>
    dsimp only [exec, execTranslationFault, execCommandComplete, execEngineFault, execRelayoutTileRetry, execRelayoutTileMoving,
      execRelayoutComplete, execHandleEntryFree, execFaultRecordWrite, execScrubComplete]
    repeat' split
    all_goals exact ⟨_, rfl⟩
  | messageLand | groupPlace | codeBlockFetch | watchdog | forcedFullSave | saveComplete | migrationComplete | launchCheck | launchRetire
    | poolTerminate | doorbellAdvance | saveFrameWait | gctlMigrate | gregdataWrite | microPcRecordArrival | queueAdmit | queueActive | waitReread
    | waitTimeout | holdTimeout | doorbellResume | doorbellReset | create | switchout | switchin | teardown | switchoutDrainComplete
    | switchinRestoreComplete | teardownComplete =>
    dsimp only [exec, execMessageLand, execGroupPlace, execCodeBlockFetch, execWatchdog, execForcedFullSave, execSaveComplete, execMigrationComplete,
      execLaunchCheck, execLaunchRetire, execPoolTerminate, execDoorbellAdvance, execSaveFrameWait, execGctlMigrate, execGregdataWrite,
      execMicroPcRecordArrival, execQueueAdmit, execQueueActive, execWaitReread, execWaitTimeout, execHoldTimeout, execDoorbellResume,
      execDoorbellReset, execCreate, execSwitchout, execSwitchin, execTeardown, execSwitchoutDrainComplete, execSwitchinRestoreComplete,
      execTeardownComplete]
    repeat' split
    all_goals exact ⟨_, rfl⟩
  | hostRead | hostMessage | linkTrained | portTrained | wavelengthLoss | flitNak | pkgidWrite | collgo | collectiveComplete | streamingComplete
    | evictionFail =>
    dsimp only [exec, execHostRead, execHostMessage, execLinkTrained, execPortTrained, execWavelengthLoss, execFlitNak, execPkgidWrite, execCollgo,
      execCollectiveComplete, execStreamingComplete, execEvictionFail]
    repeat' split
    all_goals exact ⟨_, rfl⟩
  | rowSpareCopyVerify | thermalTrip | opPointChange | groupRetire | purge | purgeComplete | auditReplayPlace | auditCompare | remapGo | block | qwake
    | quadDrainComplete | quadRailOff | quadWakeComplete | attestReport | attestRemap | bringUp | capStep | remapComplete =>
    dsimp only [exec, execRowSpareCopyVerify, execThermalTrip, execOpPointChange, execGroupRetire, execPurge, execPurgeComplete,
      execAuditReplayPlace, execAuditCompare, execRemapGo, execBlock, execQwake, execQuadDrainComplete, execQuadRailOff, execQuadWakeComplete,
      execAttestReport, execAttestRemap, execBringUp, execCapStep, execRemapComplete]
    repeat' split
    all_goals exact ⟨_, rfl⟩
  | _ =>
    -- the words whose issue is a single `wordIssue`
    exact exec_next_of_word (by rfl)

/-- What a stream's fetch gives answers a next state: nothing, a fault at fetch, or a word. -/
theorem issueWord_next (k : Stream) (s : State) : ∃ t, issueWord s k = .next t := by
  unfold issueWord
  split
  · exact ⟨_, rfl⟩
  · exact ⟨_, rfl⟩
  · exact exec_next ..

/-- What a step comes to before the stop of R426 answers a next state: a due event, a picked word, a watched condition or the end of the cycle. -/
theorem stepOn_next (s : State) : ∃ t, stepOn s = .next t := by
  unfold stepOn
  split
  · exact exec_next ..
  extract_lets u
  split
  · exact issueWord_next ..
  split
  · exact exec_next ..
  split
  · exact exec_next ..
  · exact ⟨_, rfl⟩

/-- Settles O50: each word and event by its own arms, a step by what it comes to and the far address that it leaves without a byte. -/
theorem everyStepAnswers : Obligations.EveryStepAnswers := by
  refine ⟨exec_next, fun s => ?_, issueWord_next⟩
  obtain ⟨t, ht⟩ := stepOn_next s
  have hs : step s = holeFault (.next t) := congrArg holeFault ht
  cases hole : t.hole with
  | none => exact .inl ⟨t, by simp only [hs, holeFault, hole], hole⟩
  | some a => exact .inr ⟨a, by simp only [hs, holeFault, hole]⟩

end Sys2Proof.Machine
end

section
/-! PROOFS. The command front end (R384-R400): doorbells, hardware slots, and the packets in processing. -/

namespace Sys2Proof.Machine

/-! ### A queue and its descriptor -/

@[simp] theorem queueAt_setQueue_same (s : State) (k : Nat) (q : FQueue) : (s.setQueue k q).queueAt k = q := by
  simp [State.queueAt, State.setQueue]

@[simp] theorem setQueue_cyc (s : State) (k : Nat) (q : FQueue) : (s.setQueue k q).cyc = s.cyc := rfl

/-- The device's words of a descriptor change memory, its marks and its checks, or note an address with no byte. -/
theorem writeDesc_only (s : State) (k : Nat) :
    ∃ m p b h c x, s.writeDesc k = { s with mem := m, poison := p, bitErrs := b, hbmMeta := h, hbmCheck := c, hole := x } :=
  storeWords_only ..

@[simp] theorem writeDesc_cyc (s : State) (k : Nat) : (s.writeDesc k).cyc = s.cyc := by
  obtain ⟨m, p, b, h, c, x, e⟩ := writeDesc_only s k
  rw [e]

@[simp] theorem writeDesc_queueAt (s : State) (k n : Nat) : (s.writeDesc k).queueAt n = s.queueAt n := by
  obtain ⟨m, p, b, h, c, x, e⟩ := writeDesc_only s k
  rw [e]
  rfl

@[simp] theorem writeDesc_evict (s : State) (k : Nat) : (s.writeDesc k).evict = s.evict := by
  obtain ⟨m, p, b, h, c, x, e⟩ := writeDesc_only s k
  rw [e]

@[simp] theorem queueState_cyc (s : State) (k st : Nat) : (s.queueState k st).cyc = s.cyc := by
  unfold State.queueState
  split
  · rfl
  · rw [writeDesc_cyc, setQueue_cyc]

@[simp] theorem queueState_evict (s : State) (k st : Nat) : (s.queueState k st).evict = s.evict := by
  unfold State.queueState
  split
  · rfl
  · rw [writeDesc_evict]
    rfl

@[simp] theorem queueState_state (s : State) (k st : Nat) : ((s.queueState k st).queueAt k).state = st := by
  unfold State.queueState
  split
  · assumption
  · rw [writeDesc_queueAt, queueAt_setQueue_same]

/-! ### Doorbells and hardware slots -/

/-- Settles O40, an event of the front end at a time: its guard decides which of its answers it gives. -/
theorem queueSteps : Obligations.QueueSteps := by
  intro s k hk q v x below
  subst hk
  have hlive : s.queuesLive (s.subject / 4096) = true → exec .doorbellHalt s = .next (v.haltQueue s.subject) := fun hl => by
    simp [exec, execDoorbellHalt, hl, v]
  refine ⟨fun hl => ⟨fun ptr => ?_, ?_, ?_, ?_⟩,
    fun hl => ⟨fun (hx : (s.takeEnqs.openQueue s.subject |>.queueAt s.subject).state = 0) => ⟨fun ptr => ?_, ?_⟩,
      fun (hx : (s.takeEnqs.openQueue s.subject |>.queueAt s.subject).state ≠ 0) => ⟨fun ptr hb => ?_, fun ptr hb => ?_, ?_⟩, hlive hl,
      fun (hx : (s.takeEnqs.openQueue s.subject |>.queueAt s.subject).state = 6) => ?_,
      fun (hx : (s.takeEnqs.openQueue s.subject |>.queueAt s.subject).state ≠ 6) => ?_⟩,
    fun h => ?_, fun hf n t ha => ?_, fun h => ?_,
    fun (h2 : (s.queueAt s.subject).state = 2) h1 =>
      ⟨fun hc => ?_, fun p (hc : (s.queueAt s.subject).cur = some p) hb => ?_, fun p (hc : (s.queueAt s.subject).cur = some p) hb => ?_⟩,
    fun h hb => ?_, fun h hp => ?_, fun h => ?_⟩
  · simp only [exec, execDoorbellAdvance, hl, Bool.not_false, if_true]
  · simp only [exec, execDoorbellHalt, hl, Bool.false_eq_true, if_false]
  · simp only [exec, execDoorbellResume, hl, Bool.not_false, if_true]
  · simp only [exec, execDoorbellReset, hl, Bool.not_false, if_true]
  · simp only [exec, execDoorbellAdvance, hl, hx, Bool.not_true, Bool.false_eq_true, if_false, if_true, v]
  · simp only [exec, execDoorbellReset, hl, hx, Bool.not_true, Bool.false_eq_true, if_false, if_true, v]
  · simp only [exec, execDoorbellAdvance, hl, Bool.not_true, Bool.false_eq_true, if_false]
    exact (if_neg hx).trans (if_pos hb)
  · simp only [exec, execDoorbellAdvance, hl, Bool.not_true, Bool.false_eq_true, if_false]
    exact (if_neg hx).trans (if_neg (Bool.eq_false_iff.1 hb))
  · simp only [exec, execDoorbellReset, hl, Bool.not_true, Bool.false_eq_true, if_false]
    exact if_neg hx
  · simp only [exec, execDoorbellResume, hl, hx, Bool.not_true, Bool.false_eq_true, if_false, if_true, v, x]
  · simp only [exec, execDoorbellResume, hl, hx, Bool.not_true, Bool.false_eq_true, if_false, v]
  · rcases h with h | h
    · simp only [exec, execQueueAdmit, h, if_true]
    · simp only [exec, execQueueAdmit, h, ite_self]
  · simp only [exec, execQueueAdmit, hf, ha, if_false]
  · exact if_pos h
  · simp only [exec, execQueueActive, h2, h1, ne_eq, not_true_eq_false, or_self, if_false, hc, q, queueState_cyc, setQueue_cyc]
  · simp only [exec, execQueueActive, h2, h1, ne_eq, not_true_eq_false, or_self, if_false, hc, hb, if_true, q, queueState_cyc, setQueue_cyc]
  · simp only [exec, execQueueActive, h2, h1, ne_eq, not_true_eq_false, or_self, if_false, hc, hb, Option.isSome_none, Bool.false_eq_true, q,
      queueState_cyc, setQueue_cyc]
  · exact congrArg _ (if_pos ⟨h, hb⟩)
  · exact congrArg _ (if_pos ⟨h, hp⟩)
  · exact congrArg _ (if_pos h)

/-! ### Packets in processing (R389) -/

/-- A visit to a packet that has begun, with no end that waits for its record and no eviction in its way, does what its type says. -/
theorem visitPacket_begun {s : State} {k : Nat} {p : Packet} {go : State → Packet → State} (hp : (s.queueAt k).cur = some p) (hd : p.done = none)
    (hb : p.begun.isSome = true) (he : s.evicting = true → k = s.evict.queue) : s.visitPacket k go = go s p := by
  have he' : ¬(s.evicting = true ∧ k ≠ s.evict.queue) := fun h => h.2 (he h.1)
  simp only [State.visitPacket, hp, hd, he', hb, if_false, if_true]

/-- While the eviction of another queue is in progress a packet that has begun waits where it is (R393). -/
theorem visitPacket_evicting {s : State} {k : Nat} {p : Packet} {go : State → Packet → State} (hp : (s.queueAt k).cur = some p) (hd : p.done = none)
    (hb : p.begun.isSome = true) (he : s.evicting = true) (hk : k ≠ s.evict.queue) :
    s.visitPacket k go = (s.queueState k 4).due (s.cyc + 1) 49 p.event k := by
  simp only [State.visitPacket, hp, hd, he, hk, hb, ne_eq, not_false_eq_true, and_self, if_true]

section InProcessing

variable {s : State} {p : Packet} {t0 : Nat} {i : Instr} {go : State → Packet → State}

/-- An event that visits the packet in processing does what the packet's type says. -/
theorem exec_visit (hi : exec i s = .next (s.visitPacket s.subject go)) (hp : (s.queueAt s.subject).cur = some p) (hd : p.done = none)
    (hb : p.begun = some t0) (he : s.evicting = true → s.subject = s.evict.queue) : exec i s = .next (go s p) :=
  hi.trans (congrArg _ (visitPacket_begun hp hd (by rw [hb]; rfl) he))

/-- An event that visits the packet in processing waits with it for the eviction of another queue. -/
theorem exec_visit_evicting (hi : exec i s = .next (s.visitPacket s.subject go)) (hp : (s.queueAt s.subject).cur = some p) (hd : p.done = none)
    (hb : p.begun = some t0) (he : s.evicting = true) (hk : s.subject ≠ s.evict.queue) :
    exec i s = .next ((s.queueState s.subject 4).due (s.cyc + 1) 49 p.event s.subject) :=
  hi.trans (congrArg _ (visitPacket_evicting hp hd (by rw [hb]; rfl) he hk))

end InProcessing

@[simp] theorem launchNode_cyc (s : State) (ctx node : Nat) (l : Launch) : (s.launchNode ctx node l).cyc = s.cyc := rfl

/-- A WAIT whose word is readable and meets its condition ends with the word in USER (R391). -/
theorem waitRead_met {s u : State} {k a x : Nat} {p : Packet} {data : List (Nat × Bool)} (ht : p.typ = 2) (ha : s.attached (.queue k) = false)
    (hr : s.readVirt (k / 4096) (p.words.getD 1 0) 8 0 3 (.queue k) = (.ok a, data, u)) (hg : data.all (fun b => !b.2) = true)
    (hx : ((wordsOf (data.map fun b => b.1)).head?).getD 0 = x) (hc : condMet (p.words.getD 3 0 % 8) x (p.words.getD 2 0) = true) :
    s.waitRead k p = (u.setQueue k { u.queueAt k with cur := some { p with user := x, parkFrom := none } }).endPacket k 0 := by
  have hclean : (data.any fun b => b.2) = false := by
    simpa [List.any_eq_false] using hg
  simp only [State.waitRead, ha, ht, hr, hclean, hx, hc, Bool.false_eq_true, ne_eq, not_true_eq_false, or_self, if_false, if_true]

/-- An EVICT of a queue with PRIV holds its queue while its reservation is on its way (R393, R464). -/
theorem execEvict_reserves {s : State} {p : Packet} {t0 : Nat} (hp : (s.queueAt s.subject).cur = some p) (hd : p.done = none) (hb : p.begun = some t0)
    (ht : p.typ = 5) (he : s.evicting = false) (hq : (s.queueAt s.subject).priv = true) :
    ∃ t, exec .evict s = .next t ∧ t.evict.phase = 1 ∧ t.evict.queue = s.subject ∧ t.evict.target = p.words.getD 1 0 % 512 ∧
      t.evict.startedAt = s.cyc ∧ t.evict.safe = false ∧ (t.queueAt s.subject).state = 4 := by
  refine ⟨_, exec_visit rfl hp hd hb (by simp [he]), ?_⟩
  simp only [ht, he, hq, ne_eq, not_true_eq_false, Bool.not_true, Bool.false_eq_true, if_false]
  exact ⟨congrArg Evict.phase (queueState_evict ..), congrArg Evict.queue (queueState_evict ..), congrArg Evict.target (queueState_evict ..),
    congrArg Evict.startedAt (queueState_evict ..), congrArg Evict.safe (queueState_evict ..), queueState_state ..⟩

/-- Settles O41: a visit to the packet in processing, and then what the packet's type says. -/
theorem packetSteps : Obligations.PacketSteps := by
  intro s p t0
  dsimp only
  intro hp hd
  refine ⟨fun hb he hk i hi => ?_, fun hb ht => ?_, fun hb he => ?_, fun hb hh => ?_⟩
  · simp only [List.mem_cons, List.not_mem_nil, or_false] at hi
    rcases hi with rfl | rfl | rfl | rfl | rfl <;> exact exec_visit_evicting rfl hp hd hb he hk
  · simp only [exec, execWaitTimeout, hp, ht, hb, hd, Option.isSome_some, Option.isNone_none, and_self, if_true]
  · have hwait : exec .wait s = .next (s.waitRead s.subject p) := exec_visit (go := fun s p => s.waitRead s.subject p) rfl hp hd hb he
    refine ⟨fun ht h0 => ⟨_, exec_visit rfl hp hd hb he, ?_⟩, fun ht h0 => (exec_visit rfl hp hd hb he).trans ?_, hwait,
      fun ht ha a data u hr hg hc => hwait.trans (congrArg _ (waitRead_met ht ha hr hg rfl hc)), fun ht hs => ?_,
      fun ht h0 ha => ⟨fun a u hr => (exec_visit rfl hp hd hb he).trans ?_, fun u hr => (exec_visit rfl hp hd hb he).trans ?_⟩,
      fun ht h0 => (exec_visit rfl hp hd hb he).trans ?_, fun ht hev hpr => (exec_visit rfl hp hd hb he).trans ?_,
      fun ht hev => (exec_visit rfl hp hd hb he).trans ?_, fun ht hev hpr => execEvict_reserves hp hd hb ht hev hpr⟩
    · simp only [ht, hb, h0, ne_eq, not_true_eq_false, if_false, if_true]
      exact ⟨rfl, _, List.mem_append_right _ (List.mem_singleton_self _), by simp only [State.freeNat]; omega, by simp only [State.freeNat]; omega, rfl, rfl⟩
    · simp only [ht, hb, Option.some.injEq, h0, ne_eq, not_true_eq_false, if_false, launchNode_cyc]
    · have hv := visitPacket_begun (go := fun s p => s.waitRead s.subject p) hp hd (by rw [hb]; rfl) he
      simp only [exec, execWaitReread, hp, hb, ht, hs, Option.isSome_some, and_self, if_true]
      exact congrArg _ hv
    · simp only [ht, hb, ha, Option.some.injEq, h0, hr, ne_eq, not_true_eq_false, Bool.false_eq_true, or_self, if_false]
    · simp only [ht, hb, ha, Option.some.injEq, h0, hr, ne_eq, not_true_eq_false, Bool.false_eq_true, or_self, if_false]
    · simp only [ht, hb, Option.some.injEq, h0, ne_eq, not_true_eq_false, if_false]
    · simp only [ht, hev, hpr, ne_eq, not_true_eq_false, Bool.not_false, Bool.false_eq_true, if_false, if_true]
    · simp only [ht, hev, ne_eq, not_true_eq_false, if_false, if_true]
  · simp only [exec, execHoldTimeout, hp, hb, hh, Option.isNone_none, and_self, if_true]

end Sys2Proof.Machine
end

section
/-! PROOFS. Contexts (R406-R411, R418-R423): their commands, and the ends of their switches and teardowns. -/

namespace Sys2Proof.Machine

/-! ### A context and its record -/

@[simp] theorem ctxAt_setCtx_same (s : State) (c : Nat) (v : Context) : (s.setCtx c v).ctxAt c = v := by
  simp [State.ctxAt, State.setCtx]

/-- A context takes a state in the device and in its record, and nothing else changes but memory, its marks and its checks. -/
theorem enterState_only (s : State) (c st : Nat) : ∃ m p b h x o, s.enterState c st =
    { s.setCtx c { s.ctxAt c with state := st } with mem := m, poison := p, bitErrs := b, hbmMeta := h, hbmCheck := x, hole := o } :=
  farStore_only ..

@[simp] theorem enterState_ctxAt (s : State) (c st : Nat) : (s.enterState c st).ctxAt c = { s.ctxAt c with state := st } := by
  obtain ⟨m, p, b, h, x, o, e⟩ := enterState_only s c st
  rw [e]
  exact ctxAt_setCtx_same ..

@[simp] theorem enterState_cyc (s : State) (c st : Nat) : (s.enterState c st).cyc = s.cyc := by
  obtain ⟨m, p, b, h, x, o, e⟩ := enterState_only s c st
  rw [e]
  rfl

@[simp] theorem enterState_ctxBusy (s : State) (c st : Nat) : (s.enterState c st).ctxBusy = s.ctxBusy := by
  obtain ⟨m, p, b, h, x, o, e⟩ := enterState_only s c st
  rw [e]
  rfl

theorem not_mem_filter_ne (c : Nat) (l : List Nat) : c ∉ l.filter (· != c) := by
  simp

/-! ### Relayout engines -/

/-- A relayout engine that looks for its next turn draws a time and notes an event. -/
theorem relayTurns_only (s : State) : ∃ n a, s.relayTurns = { s with nextFree := n, agenda := a } := by
  unfold State.relayTurns
  refine List.foldlRecOn (motive := fun t => ∃ n a, t = { s with nextFree := n, agenda := a }) _ _ ⟨s.nextFree, s.agenda, rfl⟩ fun t ht pier _ => ?_
  obtain ⟨n, a, rfl⟩ := ht
  unfold State.relayTurn
  dsimp only
  split
  · exact ⟨_, _, rfl⟩
  · exact ⟨_, _, rfl⟩

@[simp] theorem relayTurns_ctxAt (s : State) (c : Nat) : s.relayTurns.ctxAt c = s.ctxAt c := by
  obtain ⟨n, a, e⟩ := relayTurns_only s
  rw [e]
  rfl

@[simp] theorem relayTurns_ctxBusy (s : State) : s.relayTurns.ctxBusy = s.ctxBusy := by
  obtain ⟨n, a, e⟩ := relayTurns_only s
  rw [e]

/-! ### The commands -/

section Commands

variable {s : State} {v : Context}

theorem execSwitchin_restores (hb : s.ctxBusy = []) (hs : (s.ctxAt s.subject).state = 3) (hr : s.readContext s.subject = .ok v)
    (hw : s.windowsFit s.subject v = true) : ∃ t, exec .switchin s = .next t ∧ (t.ctxAt s.subject).state = 4 ∧
      (t.ctxAt s.subject).nextSeq = (s.ctxAt s.subject).nextSeq ∧ s.subject ∈ t.ctxBusy ∧ t.ctxLast = s.subject ∧ t.ctxErr = 0 ∧
      ∃ d ∈ t.agenda, s.cyc < d.at_ ∧ d.ev = .switchinRestoreComplete ∧ d.arg = s.subject := by
  obtain ⟨u, hu, hcyc, hctx⟩ : ∃ u : State, (s.setCtx s.subject { v with
      frames := (s.ctxAt s.subject).frames, counters := (s.ctxAt s.subject).counters, nextSeq := (s.ctxAt s.subject).nextSeq,
      badPages := (s.ctxAt s.subject).badPages }).enterState s.subject 4 = u ∧ u.cyc = s.cyc ∧
      ((u.ctxAt s.subject).state = 4 ∧ (u.ctxAt s.subject).nextSeq = (s.ctxAt s.subject).nextSeq) :=
    ⟨_, rfl, enterState_cyc .., by simp⟩
  have hgo : exec .switchin s = .next ((({ u.freeNat.2 with ctxBusy := u.freeNat.2.ctxBusy ++ [s.subject] } : State).due
      (u.freeNat.2.cyc + 1 + u.freeNat.1) 20 .switchinRestoreComplete s.subject).ctxAnswer s.subject 0) := by
    simp [exec, execSwitchin, State.switchIn, hb, hs, hr, hw, hu]
  refine ⟨_, hgo, hctx.1, hctx.2, List.mem_append_right _ (List.mem_singleton_self _), rfl, rfl, _,
    List.mem_append_right _ (List.mem_singleton_self _), ?_, rfl, rfl⟩
  have : u.freeNat.2.cyc = s.cyc := hcyc
  simp only
  omega

/-- A refused or accepted command that starts a teardown: it takes hold in the next cycle (R423). -/
theorem execTeardown_starts (hc : s.subject < 65536) (h0 : (s.ctxAt s.subject).state ≠ 0) (h5 : (s.ctxAt s.subject).state ≠ 5) :
    ∃ t, exec .teardown s = .next t ∧ s.subject ∈ t.ctxBusy ∧ ∃ d ∈ t.agenda, d.at_ = s.cyc + 1 ∧ d.ev = .teardown ∧ d.arg = s.subject + 2 ^ 17 := by
  have hsame : s.subject % 65536 = s.subject := Nat.mod_eq_of_lt hc
  have hlate : ¬s.subject / 2 ^ 17 = 1 := by omega
  have hown : ¬s.subject / 65536 = 1 := by omega
  refine ⟨_, (if_neg hlate).trans (if_neg (by rw [hsame]; omega)), ?_⟩
  simp only [hsame, hown, decide_false, Bool.false_eq_true, if_false]
  exact ⟨List.mem_append_right _ (List.mem_singleton_self _), _, List.mem_append_right _ (List.mem_singleton_self _),
    congrArg (· + 1) (enterState_cyc s s.subject 5), rfl, rfl⟩

end Commands

/-! ### The ends of a switch -/

/-- The window registers of a context's windows lose their VALID bits (R418). -/
def State.closeWindows (s : State) (c : Nat) : State :=
  (s.ctxWindows c).foldl (fun s x =>
    let col := s.colAt x.2.1
    s.setCol x.2.1 (col.setCtl (0x121 + x.2.2) (setBits (col.ctlr (0x121 + x.2.2)) 63 63 0))) s

/-- The Saved groups of a context are queued at the head of their level (R421). -/
def State.queueSaved (s : State) (c : Nat) : State :=
  (s.groups.filter fun r => r.2.ctx == c && r.2.state == .saved).foldl (fun s r =>
    s.setGroup r.1 { r.2 with state := .queued, atTail := false, queuedAt := s.cyc }) s

@[simp] theorem queueSaved_ctxAt (s : State) (c n : Nat) : (s.queueSaved c).ctxAt n = s.ctxAt n := by
  refine foldl_field_eq (State.ctxAt · n) _ _ ?_ s
  intros
  rfl

@[simp] theorem queueSaved_ctxBusy (s : State) (c : Nat) : (s.queueSaved c).ctxBusy = s.ctxBusy := by
  refine foldl_field_eq State.ctxBusy _ _ ?_ s
  intros
  rfl

@[simp] theorem homeJobs_ctxAt (s : State) (c n : Nat) : (s.homeJobs c).ctxAt n = s.ctxAt n := rfl
@[simp] theorem homeJobs_ctxBusy (s : State) (c : Nat) : (s.homeJobs c).ctxBusy = s.ctxBusy := rfl

section Ends

variable {s u v : State} {a b n m : Nat}

/-- The image is out: the windows go and the context is Parked (R418, R420). -/
theorem execSwitchoutDrainComplete_parks (hs : (s.ctxAt s.subject).state = 2) (hi : (s.ctxAt s.subject).imaging = true)
    (ha : s.attached (.image s.subject) = false)
    (hp : s.inOrder (fun t x => t.writePart s.subject x) (s.ctxAt s.subject).imaged ((s.imageParts s.subject).drop (s.ctxAt s.subject).imaged) = (.ok a, n, u))
    (hw : u.inOrder (fun t x => t.writeSums s.subject x) 0 (u.ctxWindows s.subject) = (.ok b, m, v)) :
    exec .switchoutDrainComplete s = .next (
      let w := ((v.closeWindows s.subject).setCtx s.subject { (v.closeWindows s.subject).ctxAt s.subject with imaging := false }).enterState s.subject 3
      { w with ctxBusy := w.ctxBusy.filter (· != s.subject) }) := by
  have hgo : ¬((s.ctxAt s.subject).state ≠ 2 ∨ (!(s.ctxAt s.subject).imaging) = true ∨ s.attached (.image s.subject) = true) := by simp [hs, hi, ha]
  refine (if_neg hgo).trans ?_
  rw [hp]
  dsimp only
  rw [hw]
  rfl

/-- The image is back: the Saved groups are queued, relayout jobs go on and the context is Live (R421). -/
theorem execSwitchinRestoreComplete_lives (hs : (s.ctxAt s.subject).state = 4) (ha : s.attached (.image s.subject) = false)
    (hp : s.inOrder (fun t x => t.readPart s.subject x) 0 (s.imageParts s.subject) = (.ok a, n, u))
    (hw : u.inOrder (fun t x => t.readSums s.subject x) 0 (u.ctxWindows s.subject) = (.ok b, m, v)) :
    exec .switchinRestoreComplete s = .next (
      let w := v.enterState s.subject 1
      ((({ w with ctxBusy := w.ctxBusy.filter (· != s.subject) } : State).queueSaved s.subject).homeJobs s.subject).relayTurns) := by
  have hgo : ¬((s.ctxAt s.subject).state ≠ 4 ∨ s.attached (.image s.subject) = true) := by simp [hs, ha]
  refine (if_neg hgo).trans ?_
  rw [hp]
  dsimp only
  rw [hw]
  rfl

/-- A context that waits with its image whole becomes Parked (R418). -/
theorem execSwitchoutDrainComplete_parked (hs : (s.ctxAt s.subject).state = 2) (hi : (s.ctxAt s.subject).imaging = true)
    (ha : s.attached (.image s.subject) = false)
    (hp : s.inOrder (fun t x => t.writePart s.subject x) (s.ctxAt s.subject).imaged ((s.imageParts s.subject).drop (s.ctxAt s.subject).imaged) = (.ok a, n, u))
    (hw : u.inOrder (fun t x => t.writeSums s.subject x) 0 (u.ctxWindows s.subject) = (.ok b, m, v)) :
    ∃ t, exec .switchoutDrainComplete s = .next t ∧ (t.ctxAt s.subject).state = 3 ∧ (t.ctxAt s.subject).imaging = false ∧ s.subject ∉ t.ctxBusy := by
  refine ⟨_, execSwitchoutDrainComplete_parks hs hi ha hp hw, ?_⟩
  generalize v.closeWindows s.subject = w
  have hctx := enterState_ctxAt (w.setCtx s.subject { w.ctxAt s.subject with imaging := false }) s.subject 3
  rw [ctxAt_setCtx_same] at hctx
  exact ⟨congrArg Context.state hctx, congrArg Context.imaging hctx, not_mem_filter_ne _ _⟩

/-- A context whose image is back becomes Live (R421). -/
theorem execSwitchinRestoreComplete_live (hs : (s.ctxAt s.subject).state = 4) (ha : s.attached (.image s.subject) = false)
    (hp : s.inOrder (fun t x => t.readPart s.subject x) 0 (s.imageParts s.subject) = (.ok a, n, u))
    (hw : u.inOrder (fun t x => t.readSums s.subject x) 0 (u.ctxWindows s.subject) = (.ok b, m, v)) :
    ∃ t, exec .switchinRestoreComplete s = .next t ∧ (t.ctxAt s.subject).state = 1 ∧ s.subject ∉ t.ctxBusy := by
  refine ⟨_, execSwitchinRestoreComplete_lives hs ha hp hw, ?_, ?_⟩
  · rw [relayTurns_ctxAt, homeJobs_ctxAt, queueSaved_ctxAt]
    exact congrArg Context.state (enterState_ctxAt v s.subject 1)
  · rw [relayTurns_ctxBusy, homeJobs_ctxBusy, queueSaved_ctxBusy]
    exact not_mem_filter_ne _ _

end Ends

/-- Settles O42, a command or an end at a time. -/
theorem contextSteps : Obligations.ContextSteps := by
  intro s
  dsimp only
  have hidle : s.ctxBusy = [] → (!s.ctxBusy.isEmpty) = false := fun h => by rw [h]; rfl
  refine ⟨fun hb => ?_, fun hb => ⟨fun hs => ?_, fun e hs hr => ?_, fun v hs hr hw => ?_, fun v hs hr hw => ⟨_, ?_, rfl⟩, fun hs => ?_, fun hs => ?_, fun hs => ?_,
    fun e hs hr => ?_, fun v hs hr hw => ?_, fun v hs hr hw => execSwitchin_restores hb hs hr hw⟩, fun hc hs => ?_, fun hc h0 h5 => ?_, fun x hx hlt => ?_, fun hs hq => ?_,
    fun hs hq => ?_, fun a n u b m v hs hi ha hp hw => ?_, fun a n u b m v hs ha hp hw => ?_⟩
  · have hbusy : (!s.ctxBusy.isEmpty) = true := by simpa using hb
    exact ⟨if_pos hbusy, if_pos hbusy, if_pos hbusy⟩
  · exact (if_neg (by simp [hb])).trans (if_pos hs)
  · change execCreate s = _
    simp only [execCreate, hidle hb, hs, hr, Bool.false_eq_true, if_false, ne_eq, not_true_eq_false]
  · change execCreate s = _
    simp only [execCreate, hidle hb, hs, hr, hw, Bool.false_eq_true, if_false, ne_eq, not_true_eq_false, Bool.not_false, if_true]
  · change execCreate s = _
    simp only [execCreate, hidle hb, hs, hr, hw, Bool.false_eq_true, if_false, ne_eq, not_true_eq_false, Bool.not_true]
  · exact (if_neg (by simp [hb])).trans (if_pos hs)
  · exact (if_neg (by simp [hb])).trans (if_neg (by simp [hs]))
  · exact (if_neg (by simp [hb])).trans (if_pos hs)
  · change execSwitchin s = _
    simp only [execSwitchin, State.switchIn, hidle hb, hs, hr, Bool.false_eq_true, if_false, ne_eq, not_true_eq_false]
  · change execSwitchin s = _
    simp only [execSwitchin, State.switchIn, hidle hb, hs, hr, hw, Bool.false_eq_true, if_false, ne_eq, not_true_eq_false, Bool.not_false, if_true]
  · have hsame : s.subject % 65536 = s.subject := Nat.mod_eq_of_lt hc
    have hlate : ¬s.subject / 2 ^ 17 = 1 := by omega
    have hown : ¬s.subject / 65536 = 1 := by omega
    change execTeardown s = _
    simp only [execTeardown, hlate, hsame, hs, hown, if_false, if_true, decide_false, Bool.false_eq_true]
  · exact execTeardown_starts hc h0 h5
  · exact (if_pos (by omega)).trans (by rw [show s.subject % 65536 = x by omega])
  · change execTeardownComplete s = _
    simp only [execTeardownComplete, hs, hq, ne_eq, not_true_eq_false, if_false, Bool.not_false, if_true]
  · refine ⟨_, (if_neg (by simp [hs])).trans (if_neg (by simp [hq])), Map.get?_del_same .., not_mem_filter_ne _ _⟩
  · exact execSwitchoutDrainComplete_parked hs hi ha hp hw
  · exact execSwitchinRestoreComplete_live hs ha hp hw

end Sys2Proof.Machine
end

section
/-! PROOFS. The fabric (R426, R449-R455): ports, flits, routes and the package's number. -/

namespace Sys2Proof.Machine

@[simp] theorem portAt_setPort_same (s : State) (p : Nat) (v : FPort) : (s.setPort p v).portAt p = v := by
  simp [State.portAt, State.setPort]

/-- A port that carries flits: it is up, or it drains (R451). -/
theorem carries_iff (s : State) (port : Nat) :
    (!(s.portUp port || (s.portAt port).state == 4)) = false ↔ s.portUp port = true ∨ (s.portAt port).state = 4 := by
  cases s.portUp port <;> simp

section Flits

variable {s : State} {port : Nat} (hup : s.portUp port = true ∨ (s.portAt port).state = 4)

include hup

/-- A flit that is received is checked, and then delivered in order (R449, R450). -/
theorem execFlitReceive_carried (f : Flit) :
    (flitGood f = false → exec (.flitReceive port f) s = .next (s.setPort port { s.portAt port with naks := (s.portAt port).naks ++ [f.seqno] })) ∧
    (flitGood f = true → f.kind ≠ 5 → f.seqno ≠ (s.portAt port).rxSeq → exec (.flitReceive port f) s = .next s) ∧
    (flitGood f = true → f.kind < 5 → f.seqno = (s.portAt port).rxSeq → f.dst ≠ s.pkg →
      exec (.flitReceive port f) s = .next { s.setPort port { s.portAt port with rxSeq := ((s.portAt port).rxSeq + 1) % 1024 } with flits := s.flits ++ [f] }) := by
  have hcar := (carries_iff s port).2 hup
  refine ⟨fun hg => ?_, fun hg hk hn => ?_, fun hg hk hn hd => ?_⟩
  · change execFlitReceive port f s = _
    simp only [execFlitReceive, hcar, hg, Bool.false_eq_true, if_false, Bool.not_false, if_true]
  · change execFlitReceive port f s = _
    simp only [execFlitReceive, hcar, hg, hk, hn, Bool.false_eq_true, if_false, Bool.not_true, ne_eq, not_false_eq_true, if_true]
  · have h5 : f.kind ≠ 5 := by omega
    have h6 : ¬6 ≤ f.kind := by omega
    have hpkg : f.dst ≠ (s.setPort port { s.portAt port with rxSeq := ((s.portAt port).rxSeq + 1) % 1024 }).pkg := hd
    change execFlitReceive port f s = _
    simp only [execFlitReceive, hcar, hg, h5, h6, hn, Bool.false_eq_true, if_false, Bool.not_true, ne_eq, not_true_eq_false, hpkg]
    rfl

/-- A flit that the other side asks for is sent again; after 16 replays of it the port trains again (R450). -/
theorem execFlitNak_carried {n : Nat} (hr : (s.portAt port).replay.any (fun f => f.seqno == n) = true) :
    exec (.flitNak port n) s = .next (
      let v := s.portAt port
      let fails := if v.failSeq = some n then v.fails + 1 else 0
      if 16 ≤ fails then (s.setPort port { v with failSeq := none, fails := 0 }).portTrain port
      else s.setPort port { v with failSeq := some n, fails := fails, retry := min 0xFFFFFFFF (v.retry + 1) }) := by
  have hgo : ¬((!(s.portUp port || (s.portAt port).state == 4)) = true ∨ (!((s.portAt port).replay.any fun f => f.seqno == n)) = true) := by
    rw [(carries_iff s port).2 hup, hr]
    simp
  exact (if_neg hgo).trans (apply_ite Host.Outcome.next ..).symm

end Flits

/-- PKGID_WRITE: the number is written; the number that the package has already changes no memory (R440). -/
theorem execPkgidWrite_writes (s : State) (x : Nat) :
    ∃ t, exec (.pkgidWrite x) s = .next t ∧ (t.devr 0x170).toNat = x % 512 ∧ (x % 512 = s.pkg → t.mem = s.mem) := by
  have hnum : (BitVec.ofNat 64 (x % 512)).toNat = x % 512 := by
    rw [BitVec.toNat_ofNat]
    omega
  have hdev : ∀ u : State, u = (if bitsAt (s.devr 0x17B) 0 0 = 1 ∧ (s.setDev 0x170 (BitVec.ofNat 64 (x % 512))).evict.received = true then
      (s.setDev 0x170 (BitVec.ofNat 64 (x % 512))).setDev 0x17B (setBits (s.devr 0x17B) 0 0 0) else s.setDev 0x170 (BitVec.ofNat 64 (x % 512))) →
      (u.devr 0x170).toNat = x % 512 ∧ u.mem = s.mem := by
    rintro u rfl
    split
    · rw [State.devr_setDev_ne _ _ _ _ (by decide), State.devr_setDev_same]
      exact ⟨hnum, rfl⟩
    · rw [State.devr_setDev_same]
      exact ⟨hnum, rfl⟩
  obtain ⟨h1, h2⟩ := hdev _ rfl
  by_cases hx : x % 512 = s.pkg
  · exact ⟨_, if_pos hx, h1, fun _ => h2⟩
  · exact ⟨_, if_neg hx, h1, fun h => absurd h hx⟩

/-- Settles O45, an event of a port at a time. -/
theorem fabricSteps : Obligations.FabricSteps := by
  intro s port
  dsimp only
  refine ⟨fun h => congrArg Host.Outcome.next (if_pos h), fun h => ⟨_, congrArg Host.Outcome.next (if_pos h), ?_⟩, rfl, rfl, fun n h1 => ⟨fun hn => ?_, fun hn hlt => ?_, fun hn hs => ?_⟩,
    fun h hl => ?_, fun h hl => ?_, fun h => ⟨_, congrArg Host.Outcome.next (if_pos h), ?_⟩, rfl, rfl,
    fun f hup => ⟨fun hg => ⟨_, (execFlitReceive_carried hup f).1 hg, ?_⟩, (execFlitReceive_carried hup f).2.1,
      fun hg hk hn hd => ⟨_, (execFlitReceive_carried hup f).2.2 hg hk hn hd, ?_⟩⟩,
    fun n hup hr hf => ⟨_, execFlitNak_carried hup hr, ?_⟩, fun n hup hr hf h15 => ?_, fun x => ⟨_, rfl, Map.get?_put_same ..⟩, execPkgidWrite_writes s⟩
  · rw [portAt_setPort_same]
  · refine ⟨_, (if_neg (by omega)).trans (if_pos hn), ?_⟩
    simp only [portAt_setPort_same, and_self]
  · refine ⟨_, (if_neg (by omega)).trans ((if_neg (by omega)).trans (if_pos hn)), ?_⟩
    simp only [portAt_setPort_same, and_self]
  · exact (if_neg (by omega)).trans ((if_neg (by omega)).trans ((if_neg (by omega)).trans (if_pos hs)))
  · refine ⟨_, (if_neg (by simp [h])).trans (if_neg (by omega)), ?_⟩
    simp only [portAt_setPort_same, and_self]
  · exact (if_neg (by simp [h])).trans (if_pos (by omega))
  · rw [portAt_setPort_same]
  · simp only [portAt_setPort_same, and_self]
  · exact ⟨congrArg FPort.rxSeq (portAt_setPort_same s port _), rfl⟩
  · have h16 : ¬16 ≤ (if (s.portAt port).failSeq = some n then (s.portAt port).fails + 1 else 0) := by
      split
      · next he => exact fun h => absurd (hf.resolve_left (not_not_intro he)) (by omega)
      · omega
    simp only [h16, if_false, portAt_setPort_same, and_self]
  · rw [execFlitNak_carried hup hr]
    simp only [hf, if_true, show 16 ≤ (s.portAt port).fails + 1 by omega]

end Sys2Proof.Machine
end

section
/-! PROOFS. Launches (R348, R353, R355, R390, R413): the first cycle, the checks and the end of a launch. -/

namespace Sys2Proof.Machine

@[simp] theorem launches_setLaunch_same (s : State) (lid : Nat) (l : Launch) : (s.setLaunch lid l).launches.get? lid = some l :=
  Map.get?_put_same ..

theorem launches_setLaunch_ne (s : State) {lid n : Nat} (l : Launch) (h : n ≠ lid) : (s.setLaunch lid l).launches.get? n = s.launches.get? n :=
  Map.get?_put_ne _ _ _ _ h

/-! ### The first cycle (R348, R354, R413) -/

/-- What a launch takes from the words of its node (R354). -/
def Launch.ofNode (l : Launch) (w : List Nat) : Launch :=
  { l with reqtag := nbits (w.getD 1 0) 31 16, regionNode := nbits (w.getD 1 0) 63 48, image := nbits (w.getD 0 0) 51 0,
           succ := (List.range (nbits (w.getD 2 0) 62 60)).map fun j => nbits (w.getD 2 0) (12 * j + 11) (12 * j) }

/-- The health events of the limits that changed a region's values (R413). -/
def State.limitEvents (s : State) (ctx : Nat) (limits : List Nat) : State :=
  limits.foldl (fun s n => s.health { code := 0x21, ctx := ctx, info := BitVec.ofNat 64 n }) s

@[simp] theorem limitEvents_launches (s : State) (ctx : Nat) (l : List Nat) : (s.limitEvents ctx l).launches = s.launches := by
  unfold State.limitEvents
  refine foldl_field_eq State.launches l _ ?_ s
  intros
  rfl

@[simp] theorem limitEvents_cyc (s : State) (ctx : Nat) (l : List Nat) : (s.limitEvents ctx l).cyc = s.cyc := by
  unfold State.limitEvents
  refine foldl_field_eq State.cyc l _ ?_ s
  intros
  rfl

/-- A launch begins its checks, which end at a time the spec leaves open (R348). -/
def State.beginChecks (s : State) (lid : Nat) (v : Launch) : State :=
  let c := s.ctxAt v.ctx
  let r := s.region c (v.regionNode + 1) v.regionNode
  let u := s.limitEvents v.ctx r.2
  let bad : Region := { matrix := decide (v.regionNode < c.nodes) && (ownRegion v.regionNode (u.regionWords c v.regionNode)).matrix }
  let t := u.setLaunch lid { v with state := .checking, region := r.1.getD bad }
  t.freeNat.2.due (t.freeNat.2.cyc + 1 + t.freeNat.1) 22 (.launchCheck lid)

section FirstCycle

variable {s : State} {lid : Nat} {l : Launch} (hl : s.launches.get? lid = some l) (hs : l.state = .launched)
  (hp : ∀ n < 4, s.poisoned ((s.ctxAt l.ctx).graph + 32 * l.node + 8 * n) = false)

include hl hs hp

/-- In its first cycle, its node's words readable: a broken node fails a launch, one without an image retires it, and any other begins its checks unless
its region cannot be read. -/
theorem execLaunchCheck_first : let v := l.ofNode (s.nodeWords l.ctx l.node)
    exec (.launchCheck lid) s =
      if State.nodeBad (s.nodeWords l.ctx l.node) then .next ((s.setLaunch lid v).endLaunch lid 1)
      else if v.image = 0 then .next ((s.setLaunch lid v).endLaunch lid 0)
      else (s.regionPoison (s.ctxAt l.ctx) (v.regionNode + 1) v.regionNode).elim (.next (s.beginChecks lid v)) fun a => .next (s.tablePoison l.ctx a) := by
  have hread : ¬(s.poisoned ((s.ctxAt l.ctx).graph + 32 * l.node) || s.poisoned ((s.ctxAt l.ctx).graph + 32 * l.node + 8)
      || s.poisoned ((s.ctxAt l.ctx).graph + 32 * l.node + 16) || s.poisoned ((s.ctxAt l.ctx).graph + 32 * l.node + 24)) = true := by
    have h0 := hp 0 (by decide)
    have h1 := hp 1 (by decide)
    have h2 := hp 2 (by decide)
    have h3 := hp 3 (by decide)
    simp only [Nat.mul_zero, Nat.add_zero, Nat.reduceMul] at h0 h1 h2 h3
    simp only [h0, h1, h2, h3, Bool.or_self, Bool.false_eq_true, not_false_eq_true]
  change execLaunchCheck lid s = _
  unfold execLaunchCheck
  rw [hl]
  dsimp only
  split
  · refine (if_neg hread).trans ?_
    refine ite_congr rfl (fun _ => rfl) fun _ => ite_congr rfl (fun _ => rfl) fun _ => ?_
    dsimp only [Launch.ofNode]
    generalize s.regionPoison _ _ _ = bad
    cases bad <;> rfl
  · next h => exact absurd (hs.symm.trans h) (by decide)
  · next h _ => exact absurd hs h

end FirstCycle

/-- A launch that begins its checks is in Checking with what its node and its region say, and other launches are as they were. -/
theorem beginChecks_launches (s : State) (lid : Nat) (v : Launch) :
    (∃ x, (s.beginChecks lid v).launches.get? lid = some x ∧ x.state = .checking ∧ x.image = v.image ∧ x.reqtag = v.reqtag ∧ x.succ = v.succ ∧
      ∀ r, (s.region (s.ctxAt v.ctx) (v.regionNode + 1) v.regionNode).1 = some r → x.region = r) ∧
    (∀ n ≠ lid, (s.beginChecks lid v).launches.get? n = s.launches.get? n) ∧
    ∃ d ∈ (s.beginChecks lid v).agenda, s.cyc < d.at_ ∧ d.ev = .launchCheck lid := by
  refine ⟨⟨_, launches_setLaunch_same .., rfl, rfl, rfl, rfl, fun r hr => ?_⟩, fun n hn => ?_, _, List.mem_append_right _ (List.mem_singleton_self _), ?_, rfl⟩
  · simp only [hr, Option.getD_some]
  · exact (launches_setLaunch_ne _ _ hn).trans (congrArg (Map.get? · n) (limitEvents_launches ..))
  · have hcyc := limitEvents_cyc s v.ctx (s.region (s.ctxAt v.ctx) (v.regionNode + 1) v.regionNode).2
    simp only [State.freeNat]
    change s.cyc < (s.limitEvents v.ctx _).cyc + 1 + _
    omega

/-! ### The end (R348, R355, R390) -/

theorem launchSignal_of_none {s : State} {lid : Nat} {l : Launch} (hl : s.launches.get? lid = some l) (h : l.signal = (0, 0, 0)) :
    s.launchSignal lid = s := by
  simp only [State.launchSignal, hl, h, if_true]

/-- A running launch is over, without a purge, once its groups have retired and their writes are done. -/
theorem launchOver_of_retired {s : State} {lid : Nat} {l : Launch} (hr : l.state = .running) (he : l.ending = none)
    (hg : ∀ r ∈ s.launchGroups lid, r.2.state = .retired ∧ s.writesDone r.1 r.2 = true) : s.launchOver lid l = some 0 := by
  have hgone : ((s.launchGroups lid).map fun r => r.2.state).all (fun g => g == .retired || g == .purged) = true := by
    simp only [List.all_map, List.all_eq_true, Function.comp]
    intro r hr
    simp [(hg r hr).1]
  have hdone : (s.launchGroups lid).all (fun r => s.writesDone r.1 r.2) = true := List.all_eq_true.2 fun r hr => (hg r hr).2
  have hpurged : ((s.launchGroups lid).map fun r => r.2.state).contains .purged = false := by
    rw [List.contains_eq_any_beq, List.any_map, List.any_eq_false]
    intro r hr
    simp [(hg r hr).1]
  simp only [State.launchOver, he, hgone, hdone, hpurged, hr, Option.isSome_none, Bool.and_self, Bool.false_eq_true, if_false, and_self, if_true]

/-- A launch without a packet or a signal that retires: its pool is discarded and its successors are to be counted down. -/
theorem endLaunch_retired {s : State} {lid : Nat} {l : Launch} (hl : s.launches.get? lid = some l) (hp : l.packet = none) (hs : l.signal = (0, 0, 0)) :
    s.endLaunch lid 0 = { s.setLaunch lid { l with state := .retired, status := 0, pool := [], ending := none } with downs := s.downs ++ [(l.ctx, l.node, l.succ)] } := by
  simp only [State.endLaunch, hl, hp, State.closeLaunch, if_true]
  exact launchSignal_of_none (launches_setLaunch_same ..) hs

/-- Settles O39: the first cycle, the checks, the end and the pool of a launch. -/
theorem launchSteps : Obligations.LaunchSteps := by
  intro s lid l hl
  dsimp only
  refine ⟨fun hs hp => ?_, fun hs => ?_, fun st he => ?_, fun st he ho => ?_, fun he ho => ?_, fun hr hp hsig he hg => ?_, ?_⟩
  · have hfirst := execLaunchCheck_first hl hs hp
    dsimp only at hfirst
    refine ⟨fun hb => hfirst.trans (if_pos hb), fun hb hi => hfirst.trans ((if_neg (Bool.eq_false_iff.1 hb)).trans (if_pos hi)), fun hb hi hr => ⟨s.beginChecks lid (l.ofNode (s.nodeWords l.ctx l.node)), ?_, ?_⟩⟩
    · exact hfirst.trans ((if_neg (Bool.eq_false_iff.1 hb)).trans ((if_neg hi).trans (congrArg (fun o => Option.elim o _ _) hr)))
    · exact beginChecks_launches s lid (l.ofNode (s.nodeWords l.ctx l.node))
  · refine ⟨fun x t hc => ?_, fun st t hc => ?_, fun t hc => ?_⟩
    all_goals
      change execLaunchCheck lid s = _
      simp only [execLaunchCheck, hl, hs, hc]
  · change execLaunchRetire lid s = _
    simp only [execLaunchRetire, hl, he]
  · change execLaunchRetire lid s = _
    simp only [execLaunchRetire, hl, he, ho]
  · change execLaunchRetire lid s = _
    simp only [execLaunchRetire, hl, he, ho]
  · have hretire : exec (.launchRetire lid) s = .next (s.endLaunch lid 0) := by
      change execLaunchRetire lid s = _
      simp only [execLaunchRetire, hl, he, launchOver_of_retired hr he hg]
    refine ⟨_, hretire.trans (congrArg _ (endLaunch_retired hl hp hsig)), ⟨_, launches_setLaunch_same .., rfl, rfl, rfl⟩,
      fun n hn => launches_setLaunch_ne s _ hn, rfl, rfl, rfl⟩
  · have hend : exec (.poolTerminate lid) s = .next (s.setLaunch lid { l with terminated := true }) := by
      change execPoolTerminate lid s = _
      simp only [execPoolTerminate, hl]
    exact ⟨_, hend, congrArg (Option.map _) (launches_setLaunch_same ..), fun n hn => launches_setLaunch_ne s _ hn⟩

end Sys2Proof.Machine
end

section
/-! PROOFS. What a placement changes (R210, R351, R363), and what an engine that reaches a section header does (R79, R344). -/

namespace Sys2Proof.Machine

@[simp] theorem clearSums_cyc (s : State) (col win : Nat) : (s.clearSums col win).cyc = s.cyc := by
  obtain ⟨w, e⟩ := clearSums_only s col win
  rw [e]

@[simp] theorem zeroWindow_cyc (s : State) (col win : Nat) : (s.zeroWindow col win).cyc = s.cyc := clearSums_cyc ..

/-- A state differs from another in slots, engines, words in flight and groups at most. -/
def OnlyPlacement (s t : State) : Prop := ∃ sl en fl gr, t = { s with slots := sl, engs := en, flights := fl, groups := gr }

namespace OnlyPlacement

variable {s t : State}

theorem refl (s : State) : OnlyPlacement s s := ⟨s.slots, s.engs, s.flights, s.groups, rfl⟩

theorem setSlot (h : OnlyPlacement s t) (k : Nat) (v : Slot) : OnlyPlacement s (t.setSlot k v) := by
  obtain ⟨sl, en, fl, gr, rfl⟩ := h
  exact ⟨_, en, fl, gr, rfl⟩

theorem setEng (h : OnlyPlacement s t) (k : Nat) (v : Engine) : OnlyPlacement s (t.setEng k v) := by
  obtain ⟨sl, en, fl, gr, rfl⟩ := h
  exact ⟨sl, _, fl, gr, rfl⟩

theorem setGroup (h : OnlyPlacement s t) (g : Nat) (v : Group) : OnlyPlacement s (t.setGroup g v) := by
  obtain ⟨sl, en, fl, gr, rfl⟩ := h
  exact ⟨sl, en, fl, _, rfl⟩

theorem flights (h : OnlyPlacement s t) (l : List Flight) : OnlyPlacement s { t with flights := l } := by
  obtain ⟨sl, en, fl, gr, rfl⟩ := h
  exact ⟨sl, en, l, gr, rfl⟩

theorem foldl {α : Type} {l : List α} {f : State → α → State} (h : OnlyPlacement s t) (hf : ∀ u a, OnlyPlacement s u → OnlyPlacement s (f u a)) :
    OnlyPlacement s (l.foldl f t) :=
  List.foldlRecOn (motive := OnlyPlacement s) l f h fun u hu a _ => hf u a hu

theorem cyc (h : OnlyPlacement s t) : t.cyc = s.cyc := by
  obtain ⟨sl, en, fl, gr, rfl⟩ := h
  rfl

theorem agenda (h : OnlyPlacement s t) : t.agenda = s.agenda := by
  obtain ⟨sl, en, fl, gr, rfl⟩ := h
  rfl

theorem ctxAt (h : OnlyPlacement s t) (c : Nat) : t.ctxAt c = s.ctxAt c := by
  obtain ⟨sl, en, fl, gr, rfl⟩ := h
  rfl

end OnlyPlacement

/-- A placement initialises its slot, or gives it what the save record holds; nothing but slots, engines, words in flight and groups changes. -/
theorem placeGroup_only (s : State) (g col slot : Nat) : OnlyPlacement s (s.placeGroup g col slot) := by
  unfold State.placeGroup
  split
  · exact .refl s
  · dsimp only
    split
    · exact ((((OnlyPlacement.refl s).setSlot _ _).foldl fun u b hu => hu.setEng _ _).setGroup _ _)
    · exact (((((OnlyPlacement.refl s).setSlot _ _).flights _).foldl fun u b hu => hu.setEng _ _).setGroup _ _)

/-! ### Section headers -/

/-- A state differs from another in engines, drawn times and the agenda at most. -/
def OnlyFetch (s t : State) : Prop := ∃ en n ag, t = { s with engs := en, nextFree := n, agenda := ag }

namespace OnlyFetch

variable {s t : State}

theorem refl (s : State) : OnlyFetch s s := ⟨s.engs, s.nextFree, s.agenda, rfl⟩

theorem setEng (h : OnlyFetch s t) (k : Nat) (v : Engine) : OnlyFetch s (t.setEng k v) := by
  obtain ⟨en, n, ag, rfl⟩ := h
  exact ⟨_, n, ag, rfl⟩

theorem due (h : OnlyFetch s t) (at_ prio : Nat) (i : Instr) (arg : Nat) : OnlyFetch s (t.due at_ prio i arg) := by
  obtain ⟨en, n, ag, rfl⟩ := h
  exact ⟨en, n, _, rfl⟩

theorem freeNat (h : OnlyFetch s t) : OnlyFetch s t.freeNat.2 := by
  obtain ⟨en, n, ag, rfl⟩ := h
  exact ⟨en, _, ag, rfl⟩

theorem needBlock (h : OnlyFetch s t) (k : Stream) (b : Nat) : OnlyFetch s (t.needBlock k b) := by
  unfold State.needBlock
  dsimp only
  split
  · exact h.setEng ..
  · exact (h.setEng ..).freeNat.due ..

/-- A stream that reaches its header no earlier than this cycle waits for code, or is to start, without a fault yet. -/
theorem reachHeader (h : OnlyFetch s t) (k : Stream) {n : Nat} (hn : t.cyc ≤ n) : OnlyFetch s (t.reachHeader k n) := by
  have hlate : ∀ v, ¬n < (t.setEng k.ek v).cyc := fun v => Nat.not_lt.2 hn
  unfold State.reachHeader
  dsimp only
  split
  · exact h.setEng ..
  split
  · exact (h.setEng ..).needBlock ..
  split
  · rw [if_neg (hlate _)]
    exact (h.setEng ..).due ..
  split
  · exact (h.setEng ..).due ..
  · exact h.setEng ..

theorem foldl {α : Type} {l : List α} {f : State → α → State} (h : OnlyFetch s t) (hf : ∀ u a, OnlyFetch s u → OnlyFetch s (f u a)) :
    OnlyFetch s (l.foldl f t) :=
  List.foldlRecOn (motive := OnlyFetch s) l f h fun u hu a _ => hf u a hu

theorem cyc (h : OnlyFetch s t) : t.cyc = s.cyc := by
  obtain ⟨en, n, ag, rfl⟩ := h
  rfl

theorem slotAt (h : OnlyFetch s t) (k : Nat) : t.slotAt k = s.slotAt k := by
  obtain ⟨en, n, ag, rfl⟩ := h
  rfl

end OnlyFetch

/-! ### Firmware that starts again -/

/-- A state differs from another in what a slot has under way, and in slots, engines and channels, at most. -/
def OnlyFirmware (s t : State) : Prop := ∃ fl st ag sl en ch asy pg dn n, t = { s with
  flights := fl, stores := st, agenda := ag, slots := sl, engs := en, chans := ch, async := asy, pages := pg, denied := dn, nextFree := n }

namespace OnlyFirmware

variable {s t u : State}

theorem refl (s : State) : OnlyFirmware s s :=
  ⟨s.flights, s.stores, s.agenda, s.slots, s.engs, s.chans, s.async, s.pages, s.denied, s.nextFree, rfl⟩

theorem dropChan (h : OnlyFirmware s t) (x : Chan) : OnlyFirmware s (t.dropChan x) := by
  obtain ⟨fl, st, ag, sl, en, ch, asy, pg, dn, n, rfl⟩ := h
  unfold State.dropChan
  exact ⟨fl, st, _, sl, en, _, _, _, _, n, rfl⟩

theorem words (h : OnlyFirmware s t) (fl : List Flight) (st : List PortWrite) (ag : List Due) :
    OnlyFirmware s { t with flights := fl, stores := st, agenda := ag } := by
  obtain ⟨_, _, _, sl, en, ch, asy, pg, dn, n, rfl⟩ := h
  exact ⟨fl, st, ag, sl, en, ch, asy, pg, dn, n, rfl⟩

theorem setSlot (h : OnlyFirmware s t) (k : Nat) (v : Slot) : OnlyFirmware s (t.setSlot k v) := by
  obtain ⟨fl, st, ag, sl, en, ch, asy, pg, dn, n, rfl⟩ := h
  exact ⟨fl, st, ag, _, en, ch, asy, pg, dn, n, rfl⟩

theorem setEng (h : OnlyFirmware s t) (k : Nat) (v : Engine) : OnlyFirmware s (t.setEng k v) := by
  obtain ⟨fl, st, ag, sl, en, ch, asy, pg, dn, n, rfl⟩ := h
  exact ⟨fl, st, ag, sl, _, ch, asy, pg, dn, n, rfl⟩

theorem onlyFetch (h : OnlyFirmware s t) (hu : OnlyFetch t u) : OnlyFirmware s u := by
  obtain ⟨fl, st, ag, sl, en, ch, asy, pg, dn, n, rfl⟩ := h
  obtain ⟨en', n', ag', rfl⟩ := hu
  exact ⟨fl, st, ag', sl, en', ch, asy, pg, dn, n', rfl⟩

theorem foldl {α : Type} {l : List α} {f : State → α → State} (h : OnlyFirmware s t) (hf : ∀ u a, OnlyFirmware s u → OnlyFirmware s (f u a)) :
    OnlyFirmware s (l.foldl f t) :=
  List.foldlRecOn (motive := OnlyFirmware s) l f h fun u hu a _ => hf u a hu

end OnlyFirmware

/-- Firmware that starts again drops what its slot had under way, and its streams reach their headers (R474). -/
theorem startFirmware_only (s : State) (col : Nat) : OnlyFirmware s (s.startFirmware col) := by
  unfold State.startFirmware
  refine ((((OnlyFirmware.refl s).foldl fun _ x hu => hu.dropChan x).words _ _ _).setSlot _ _ |>.foldl fun _ b hu => hu.setEng _ _).foldl fun u k hu => ?_
  split
  · exact hu
  · exact hu.onlyFetch ((OnlyFetch.refl u).reachHeader k (le_refl u.cyc))

end Sys2Proof.Machine
end

section
/-! PROOFS. Health (R475-R485): audits, retired columns and their remap, and ageing. -/

namespace Sys2Proof.Machine

/-! ### Audits (R479, R481) -/

/-- A column that enters Retiring keeps what the auditor counts, and the events that were posted (R88). -/
theorem retireColumn_posts (s : State) (col cause : Nat) :
    (s.retireColumn col cause).auditor = s.auditor ∧ ∀ e ∈ s.hevents, e ∈ (s.retireColumn col cause).hevents := by
  unfold State.retireColumn
  dsimp only
  split
  · exact ⟨rfl, fun e h => h⟩
  · exact ⟨rfl, fun e h => List.mem_append_left _ h⟩

/-- The replay of an audited group (R479). -/
def replayGroup (s : State) (g : Nat) (v : Group) (a : Audit) (c n : Nat) : Group :=
  { ctx := v.ctx, lid := v.lid, node := v.node, num := v.num, reqtag := v.reqtag, region := { v.region with prio := 31 },
    col := c, slot := n, ccol := v.ccol, queuedAt := s.cyc, hbind := v.hbind, sregs := v.sregs,
    audit := some { logSlot := a.logSlot, replayOf := some g } }

/-- The replay of an audited group is placed on the column that qualifies, and its code is copied next (R479). -/
theorem execAuditReplayPlace_places {s : State} {g c n w : Nat} {v : Group} {a : Audit} (hg : s.groups.get? g = some v) (ha : v.audit = some a)
    (hc : s.replayColumn v = some (c, n, w)) (ho : s.colOpen c (bitsAt (s.devr 0x186) 15 0) = true) :
    ∃ t, exec (.auditReplayPlace g) s = .next t ∧ ∃ d ∈ t.agenda, s.cyc < d.at_ ∧ d.ev = .codeStoreCopyComplete s.nextId := by
  obtain ⟨u, hu⟩ : ∃ u : State, u = (({ s with nextId := s.nextId + 1 }.setGroup s.nextId (replayGroup s g v a c n)).zeroWindow c w).placeGroup s.nextId c n := ⟨_, rfl⟩
  have hcyc : u.cyc = s.cyc := by
    rw [hu, (placeGroup_only ..).cyc, zeroWindow_cyc]
    rfl
  have hgo : exec (.auditReplayPlace g) s = .next (
      let t := u.setSlot (slotKey c n) ((u.slotAt (slotKey c n)).setCtl 0x120 (setBits ((u.slotAt (slotKey c n)).ctlr 0x120) 33 32 w))
      t.freeNat.2.due (t.freeNat.2.cyc + 1 + t.freeNat.1) 18 (.codeStoreCopyComplete s.nextId)) := by
    change execAuditReplayPlace g s = _
    simp only [execAuditReplayPlace, hg, ha, hc, ho, Bool.not_true, Bool.false_eq_true, if_false]
    rw [hu]
    rfl
  refine ⟨_, hgo, _, List.mem_append_right _ (List.mem_singleton_self _), ?_, rfl⟩
  change s.cyc < u.cyc + 1 + _
  omega

/-- A replay has been compared: the audit of its original is over (R481). -/
def State.compared (s : State) (g o : Nat) (r v : Group) (b : Audit) : State :=
  { (s.setGroup o { v with audit := none }).setGroup g { r with audit := some { b with replayOf := some o } } with
    auditor := { s.auditor with pending := s.auditor.pending - 1 } }

/-- A mismatch is counted, and posted with the site of the original and the column of the replay (R481). -/
def State.mismatched (s : State) (g o : Nat) (r v : Group) (a b : Audit) : State :=
  let u := s.compared g o r v b
  { u with auditor := { u.auditor with mismatch := min 0xFFFF (u.auditor.mismatch + 1) } }.health
    { code := 0x18, ctx := v.ctx, tag := v.reqtag, loc := a.site, info := BitVec.ofNat 64 r.col }

section Compare

variable {s : State} {g o : Nat} {r v : Group} {a b : Audit} (hg : s.groups.get? g = some r) (hr : r.audit = some b) (hb : b.replayOf = some o)
  (ho : s.groups.get? o = some v) (hv : v.audit = some a)

include hg hr hb ho hv

theorem execAuditCompare_goes : exec (.auditCompare g) s =
    .next (if a.sig = b.sig then s.compared g o r v b
      else if (s.mismatched g o r v a b).colLoc v.col = a.site then (s.mismatched g o r v a b).retireColumn v.col 3 else s.mismatched g o r v a b) := by
  change execAuditCompare g s = _
  unfold execAuditCompare
  rw [hg]
  dsimp only
  rw [hr]
  dsimp only
  rw [hb]
  dsimp only [Option.bind_some]
  rw [ho]
  dsimp only [Option.map_some]
  rw [hv]
  exact (apply_ite Host.Outcome.next ..).symm

/-- A replay with the signature of its original ends the audit (R481). -/
theorem execAuditCompare_same (he : a.sig = b.sig) : ∃ t, exec (.auditCompare g) s = .next t ∧ t.hevents = s.hevents ∧
    t.auditor.pending = s.auditor.pending - 1 ∧ t.auditor.mismatch = s.auditor.mismatch :=
  ⟨_, (execAuditCompare_goes hg hr hb ho hv).trans (congrArg _ (if_pos he)), rfl, rfl, rfl⟩

/-- A replay with another signature is counted and posted, and the original's column may enter Retiring (R481). -/
theorem execAuditCompare_differ (he : a.sig ≠ b.sig) : ∃ t, exec (.auditCompare g) s = .next t ∧ t.auditor.mismatch = min 0xFFFF (s.auditor.mismatch + 1) ∧
    { code := 0x18, ctx := v.ctx, tag := v.reqtag, loc := a.site, info := BitVec.ofNat 64 r.col } ∈ t.hevents := by
  have hposted : ({ code := 0x18, ctx := v.ctx, tag := v.reqtag, loc := a.site, info := BitVec.ofNat 64 r.col } : HEvent) ∈ (s.mismatched g o r v a b).hevents :=
    List.mem_append_right _ (List.mem_singleton_self _)
  refine ⟨_, (execAuditCompare_goes hg hr hb ho hv).trans (congrArg _ (if_neg he)), ?_⟩
  split
  · obtain ⟨haud, hev⟩ := retireColumn_posts (s.mismatched g o r v a b) v.col 3
    exact ⟨congrArg Auditor.mismatch haud, hev _ hposted⟩
  · exact ⟨rfl, hposted⟩

end Compare

/-! ### A remap (R484) -/

/-- A remap starts where its column is Retired, its spare is free and no other remap runs (R484). -/
theorem execRemapGo_starts {s : State} {value : Nat} (h4 : (s.colAt (value / 2 ^ 12 % 256)).state = 4)
    (hf : (s.freeSpares (value / 2 ^ 12 % 256 / 64)).contains (64 + value / 2 ^ 20 % 4) = true) (hn : s.remapping = none) :
    ∃ t, exec (.remapGo value) s = .next t ∧ t.remapping = some (value / 2 ^ 12 % 256, value / 2 ^ 20 % 4) ∧
      (t.colAt (value / 2 ^ 12 % 256)).state = 5 ∧ t.remapErr = false ∧ ∃ d ∈ t.agenda, s.cyc < d.at_ ∧ d.ev = .remapComplete := by
  have hgo : ¬((s.colAt (value / 2 ^ 12 % 256)).state ≠ 4 ∨ (!(s.freeSpares (value / 2 ^ 12 % 256 / 64)).contains (64 + value / 2 ^ 20 % 4)) = true ∨
      s.remapping.isSome = true) := by
    rw [h4, hf, hn]
    decide
  refine ⟨_, if_neg hgo, rfl, ?_, rfl, _, List.mem_append_right _ (List.mem_singleton_self _), ?_, rfl⟩
  · exact congrArg Column.state (State.colAt_setCol_same s _ _)
  · change s.cyc < s.cyc + 1 + _
    omega


/-- Everything that a remap leaves of the column, its site and itself is kept. -/
structure KeepsSite (col : Nat) (s t : State) : Prop where
  sites : t.sites = s.sites
  remapping : t.remapping = s.remapping
  state : (t.colAt col).state = (s.colAt col).state
  window : (t.colAt col).ctlr 0x121 = (s.colAt col).ctlr 0x121

namespace KeepsSite

variable {col : Nat} {s t u : State}

theorem refl (col : Nat) (s : State) : KeepsSite col s s := ⟨rfl, rfl, rfl, rfl⟩

theorem setSlot (h : KeepsSite col s t) (k : Nat) (v : Slot) : KeepsSite col s (t.setSlot k v) := ⟨h.sites, h.remapping, h.state, h.window⟩

theorem setTower (h : KeepsSite col s t) (k : Nat) (v : Tower) : KeepsSite col s (t.setTower k v) := ⟨h.sites, h.remapping, h.state, h.window⟩

/-- An update of other fields keeps the columns. -/
theorem of_cols (h : KeepsSite col s t) (hs : u.sites = t.sites) (hr : u.remapping = t.remapping) (hc : u.cols = t.cols) : KeepsSite col s u :=
  have hcol : u.colAt col = t.colAt col := congrArg (fun m : Map Column => m.getD col {}) hc
  ⟨hs.trans h.sites, hr.trans h.remapping, (congrArg Column.state hcol).trans h.state, (congrArg (Column.ctlr · 0x121) hcol).trans h.window⟩

theorem agenda (h : KeepsSite col s t) (ag : List Due) : KeepsSite col s { t with agenda := ag } := ⟨h.sites, h.remapping, h.state, h.window⟩

theorem health (h : KeepsSite col s t) (e : HEvent) : KeepsSite col s (t.health e) := ⟨h.sites, h.remapping, h.state, h.window⟩

theorem setCourses (h : KeepsSite col s t) (v : Word) : KeepsSite col s (t.setCol col ((t.colAt col).setCtl 0x110 v)) where
  sites := h.sites
  remapping := h.remapping
  state := by rw [State.colAt_setCol_same, Column.setCtl_state, h.state]
  window := by rw [State.colAt_setCol_same, Column.ctlr_setCtl_ne _ _ _ _ (by decide), h.window]

theorem foldl {α : Type} {l : List α} {f : State → α → State} (h : KeepsSite col s t) (hf : ∀ u a, KeepsSite col s u → KeepsSite col s (f u a)) :
    KeepsSite col s (l.foldl f t) :=
  List.foldlRecOn (motive := KeepsSite col s) l f h fun u hu a _ => hf u a hu

theorem applyCell (h : KeepsSite col s t) (e : Nat) : KeepsSite col s (State.applyCell col t e) := by
  unfold State.applyCell
  dsimp only
  split
  · exact h.setTower ..
  · exact h

theorem applyRow (h : KeepsSite col s t) (e : Nat) : KeepsSite col s (State.applyRow col t e) := by
  unfold State.applyRow
  dsimp only
  split
  · exact h.setCourses _
  split
  · exact h
  split
  · exact h.setTower ..
  · exact h.setTower ..

theorem applySite (h : KeepsSite col s t) : KeepsSite col s (t.applySite col) :=
  (h.foldl fun _ e hu => hu.applyCell e).foldl fun _ e hu => hu.applyRow e

theorem startFirmware (h : KeepsSite col s t) : KeepsSite col s (t.startFirmware col) := by
  obtain ⟨fl, st, ag, sl, en, ch, asy, pg, dn, n, e⟩ := startFirmware_only t col
  rw [e]
  exact h.of_cols rfl rfl rfl

end KeepsSite

/-- The column that the spare becomes, before what the remap area says of it (R484). -/
def State.movedTo (s : State) (col sp : Nat) : State :=
  let ctl := (s.colAt col).ctl.filter fun r => decide (0x121 ≤ r.1 ∧ r.1 ≤ 0x124)
  let old := s.sites.getD col (col % 64)
  let s := { s with remapping := none, sites := s.sites.put col (64 + sp),
                    failedSites := if old < 64 then s.failedSites else s.failedSites ++ [col / 64 * 128 + old] }
  let s := (s.clearMatrix col).setCol col { ctl := ctl }
  let s := (List.range 16).foldl (fun (s : State) t => s.setTower (col * 16 + t) { sums := (s.towerAt (col * 16 + t)).sums, queue := (s.towerAt (col * 16 + t)).queue }) s
  (List.range 4).foldl (fun (s : State) n => s.setSlot (slotKey col n) {}) s

/-- An entry of a map is among those that a filter of its keys leaves. -/
theorem Map.get?_filter {α : Type} (m : Map α) (p : Nat → Bool) (k : Nat) (h : p k = true) : Map.get? (m.filter fun r => p r.1) k = m.get? k := by
  induction m with
  | nil => rfl
  | cons x l ih =>
    by_cases hx : x.1 = k
    · simp [hx, h, Map.get?]
    · by_cases hp : p x.1 = true
      · simp [hp, hx, Map.get?, ih]
      · simp [hp, hx, Map.get?, ih]

theorem movedTo_site (s : State) (col sp : Nat) : (s.movedTo col sp).sites.get? col = some (64 + sp) ∧ (s.movedTo col sp).remapping = none ∧
    ((s.movedTo col sp).colAt col).state = 0 ∧ ((s.movedTo col sp).colAt col).ctlr 0x121 = (s.colAt col).ctlr 0x121 := by
  unfold State.movedTo
  dsimp only
  generalize ht : State.setCol _ col _ = t
  have hk : KeepsSite col t ((List.range 4).foldl (fun (s : State) n => s.setSlot (slotKey col n) {}) ((List.range 16).foldl (fun (s : State) i =>
      s.setTower (col * 16 + i) { sums := (s.towerAt (col * 16 + i)).sums, queue := (s.towerAt (col * 16 + i)).queue }) t)) :=
    ((KeepsSite.refl col t).foldl fun _ i hu => hu.setTower _ _).foldl fun _ n hu => hu.setSlot _ _
  rw [hk.sites, hk.remapping, hk.state, hk.window, ← ht, State.colAt_setCol_same]
  refine ⟨Map.get?_put_same .., rfl, rfl, ?_⟩
  exact congrArg (fun o : Option Word => o.getD (ctlReset 0x121)) (Map.get?_filter (s.colAt col).ctl (fun c => decide (0x121 ≤ c ∧ c ≤ 0x124)) 0x121 (by decide))

/-- The site of a column moves to a spare: what is made before its windows stand, and what the remap area and the firmware's start add keeps them. -/
theorem execRemapComplete_moves {s : State} {col sp : Nat} (h : s.remapping = some (col, sp)) :
    ∃ t, exec .remapComplete s = .next t ∧ t.remapping = none ∧ t.sites.get? col = some (64 + sp) ∧ (t.colAt col).state = 0 ∧
      (t.colAt col).ctlr 0x121 = (s.colAt col).ctlr 0x121 := by
  obtain ⟨hsite, hnone, hstate, hwin⟩ := movedTo_site s col sp
  obtain ⟨ag, e, hgo⟩ : ∃ ag e, exec .remapComplete s =
      .next (((({ s.movedTo col sp with agenda := ag } : State).applySite col).startFirmware col).health e) := by
    change ∃ ag e, execRemapComplete s = _
    unfold execRemapComplete
    rw [h]
    exact ⟨_, _, rfl⟩
  have hk : KeepsSite col (s.movedTo col sp) (((({ s.movedTo col sp with agenda := ag } : State).applySite col).startFirmware col).health e) :=
    (((KeepsSite.refl col (s.movedTo col sp)).agenda ag).applySite.startFirmware).health e
  exact ⟨_, hgo, hk.remapping.trans hnone, (congrArg (Map.get? · col) hk.sites).trans hsite, hk.state.trans hstate, hk.window.trans hwin⟩

/-! ### Ageing (R485) -/

theorem marginAt_age (s : State) (key margin : Nat) : ((s.marginAt key margin).ages.get? key).map Prod.fst = some (min margin 0xFFFF) := by
  unfold State.marginAt
  dsimp only
  split
  · exact congrArg (Option.map Prod.fst) (Map.get?_put_same s.ages key _)
  · exact congrArg (Option.map Prod.fst) (Map.get?_put_same s.ages key _)

/-- A margin that falls below the threshold is posted. -/
theorem marginAt_low {s : State} {key margin : Nat} (hlt : margin < bitsAt (s.devr 0x188) 47 32)
    (hle : bitsAt (s.devr 0x188) 47 32 ≤ (s.ages.getD key (0xFFFF, 0xFFFF)).1) : ∃ e, (s.marginAt key margin).hevents = s.hevents ++ [e] ∧ e.code = 0x0C := by
  have hlow : min margin 0xFFFF < bitsAt (s.devr 0x188) 47 32 ∧ bitsAt (s.devr 0x188) 47 32 ≤ (s.ages.getD key (0xFFFF, 0xFFFF)).1 := ⟨by omega, hle⟩
  unfold State.marginAt
  dsimp only
  rw [if_pos hlow]
  exact ⟨_, rfl, rfl⟩

theorem marginAt_high {s : State} {key margin : Nat} (hle : bitsAt (s.devr 0x188) 47 32 ≤ margin) (h16 : bitsAt (s.devr 0x188) 47 32 ≤ 0xFFFF) :
    (s.marginAt key margin).hevents = s.hevents := by
  have hhigh : ¬(min margin 0xFFFF < bitsAt (s.devr 0x188) 47 32 ∧ bitsAt (s.devr 0x188) 47 32 ≤ (s.ages.getD key (0xFFFF, 0xFFFF)).1) := by omega
  unfold State.marginAt
  dsimp only
  rw [if_neg hhigh]

/-- Settles O47, an event at a time. -/
theorem healthSteps : Obligations.HealthSteps := by
  intro s
  dsimp only
  refine ⟨fun g => rfl, fun g v a hg ha hc => ⟨fun hlt => ?_, fun hle => ?_⟩, fun g v a c n w hg ha hc ho => ?_,
    fun g v a c n w hg ha hc ho => execAuditReplayPlace_places hg ha hc ho, fun g r b o v a hg hr hb hne ho hv => ⟨fun he => ?_, fun he => ?_⟩,
    fun col h => ⟨_, congrArg Host.Outcome.next (if_pos h), ?_⟩, fun value => ⟨fun h4 hf hn => ?_, fun h4 => ?_⟩,
    fun col sp h => execRemapComplete_moves h, fun site course margin => ⟨_, rfl, ?_, fun hlt hle => ?_, fun hle h16 => ?_⟩⟩
  · change execAuditReplayPlace g s = _
    simp only [execAuditReplayPlace, hg, ha, hc, Nat.not_le.2 hlt, if_false]
  · change execAuditReplayPlace g s = _
    simp only [execAuditReplayPlace, hg, ha, hc, hle, if_true]
  · change execAuditReplayPlace g s = _
    simp only [execAuditReplayPlace, hg, ha, hc, ho, Bool.not_false, if_true]
  · exact execAuditCompare_same hg hr hb ho hv he
  · exact execAuditCompare_differ hg hr hb ho hv he
  · rw [State.colAt_setCol_same]
  · exact execRemapGo_starts h4 hf hn
  · exact if_pos (.inl h4)
  · exact marginAt_age ..
  · exact marginAt_low hlt hle
  · exact marginAt_high hle h16

end Sys2Proof.Machine
end

section
/-! PROOFS. Power (R487-R491): the operating point, the thermal rules, and the power states of a quad. -/

namespace Sys2Proof.Machine

/-! ### Operating points and temperatures (R487, R488) -/

/-- A margin that is reported leaves the operating point. -/
theorem marginAt_opPoint (s : State) (key margin : Nat) : (s.marginAt key margin).opPoint = s.opPoint := by
  unfold State.marginAt
  dsimp only
  split <;> rfl

/-- A bit that is clear is set by an update of that bit alone. -/
theorem bitsAt_setBits_one {w : Word} {b : Nat} (hb : b < 64) (h0 : bitsAt w b b = 0) : bitsAt (setBits w b b 1) b b = 1 := by
  have hpow : (2 : Nat) ^ 64 = 2 ^ b * 2 ^ (64 - b) := by rw [← Nat.pow_add]; congr 1; omega
  have hlow : w.toNat / 2 ^ b % 2 = 0 := by simpa [bitsAt] using h0
  have hset : setBits w b b 1 = BitVec.ofNat 64 (w.toNat + 2 ^ b) := by
    simp [setBits, h0]
  rw [hset, bitsAt, BitVec.toNat_ofNat, hpow, Nat.mod_mul_right_div_self, Nat.add_div_right _ (Nat.two_pow_pos b), show b + 1 - b = 1 by omega,
    show 64 - b = (63 - b) + 1 by omega, pow_succ', Nat.pow_one, Nat.mod_mul_right_mod]
  omega

@[simp] theorem heatAt_cyc (s : State) (site course celsius : Nat) : (s.heatAt site course celsius).cyc = s.cyc := by
  unfold State.heatAt
  dsimp only
  repeat' split
  all_goals rfl

theorem heatAt_devr (s : State) (site course celsius n : Nat) : (s.heatAt site course celsius).devr n = s.devr n := by
  unfold State.heatAt
  dsimp only
  repeat' split
  all_goals rfl

/-- The THR bit of a course of a column follows a temperature (R488). -/
def State.throttleBit (s : State) (site col course celsius : Nat) : State :=
  let throt := bitsAt (s.devr 0x195) 39 32
  let c := s.colAt col
  let v := c.ctlr 0x110
  let b := 4 + course % 4
  let new := if throt ≤ celsius then 1 else if celsius + 5 < throt then 0 else bitsAt v b b
  if new = bitsAt v b b then s
  else
    let v := setBits v b b new
    (s.setCol col (c.setCtl 0x110 v)).health { code := 0x0B, loc := siteLoc site (course % 4), info := BitVec.ofNat 64 (bitsAt v 7 4) }

theorem heatAt_of_col {s : State} {site col : Nat} (hcol : s.siteCol site = some col) (course celsius : Nat) : s.heatAt site course celsius =
    ({ s with heats := s.heats.put (site * 4 + course % 4) (celsius % 256) } : State).throttleBit site col course celsius := by
  unfold State.heatAt
  dsimp only
  split
  · next h => exact absurd (hcol.symm.trans h) (by simp)
  · next c h =>
    obtain rfl : c = col := Option.some.inj (h.symm.trans hcol)
    rfl

/-- A course at THROT whose THR bit is clear sets it, and that is posted (R488). -/
theorem throttleBit_sets {s : State} {site col course celsius : Nat} (ht : bitsAt (s.devr 0x195) 39 32 ≤ celsius)
    (h0 : bitsAt ((s.colAt col).ctlr 0x110) (4 + course % 4) (4 + course % 4) = 0) :
    bitsAt (((s.throttleBit site col course celsius).colAt col).ctlr 0x110) (4 + course % 4) (4 + course % 4) = 1 ∧
      ∃ e, (s.throttleBit site col course celsius).hevents = s.hevents ++ [e] ∧ e.code = 0x0B := by
  have h1 : ¬1 = bitsAt ((s.colAt col).ctlr 0x110) (4 + course % 4) (4 + course % 4) := by rw [h0]; decide
  unfold State.throttleBit
  dsimp only
  rw [if_pos ht, if_neg h1]
  refine ⟨?_, _, rfl, rfl⟩
  rw [State.colAt_health, State.colAt_setCol_same, Column.ctlr_setCtl_same]
  exact bitsAt_setBits_one (by omega) h0

/-! ### A trip (R488) -/

theorem portFall_cyc (s : State) (p : Nat) : (s.portFall p).cyc = s.cyc := by
  unfold State.portFall
  dsimp only
  split <;> rfl

/-- At the trip temperature the link goes Down, and the clocks stop within 1,750 cycles (R488). -/
theorem trip_falls (s : State) (site course celsius : Nat) : (s.trip site course celsius).link.state = 0 ∧
    ∃ d ∈ (s.trip site course celsius).agenda, s.cyc < d.at_ ∧ d.at_ ≤ s.cyc + 1750 ∧ d.ev = .thermalTrip site course celsius ∧ d.arg = 1 := by
  have hcyc : ((List.range 12).foldl (fun (s : State) p => s.portFall p) s).cyc = s.cyc := foldl_field_eq State.cyc _ _ portFall_cyc s
  refine ⟨rfl, _, List.mem_append_right _ (List.mem_singleton_self _), ?_, ?_, rfl, rfl⟩
  all_goals
    simp only [State.linkFall, hcyc]
    omega

/-! ### Quads (R490) -/

@[simp] theorem quadAt_setQuad_same (s : State) (q : Nat) (v : Quad) : (s.setQuad q v).quadAt q = v := by
  simp [State.quadAt, State.setQuad]

@[simp] theorem quadAt_due (s : State) (n p : Nat) (i : Instr) (a q : Nat) : (s.due n p i a).quadAt q = s.quadAt q := rfl
@[simp] theorem quadAt_freeNat (s : State) (q : Nat) : s.freeNat.2.quadAt q = s.quadAt q := rfl

/-- A quad whose work has drained is Gated, its clock stops after 16 more cycles, and its rail is discharged within 17,500 of those (R490). -/
theorem execQuadDrainComplete_gates {s : State} {quad : Nat} (h : s.quadIdle quad = true) : ∃ t, exec (.quadDrainComplete quad) s = .next t ∧
    (t.quadAt quad).state = 3 ∧ (t.quadAt quad).err = (s.quadAt quad).err ∧ (∃ d ∈ t.agenda, d.at_ = s.cyc + 17 ∧ d.ev = .logicClockStop quad) ∧
    ∃ d ∈ t.agenda, s.cyc + 17 ≤ d.at_ ∧ d.at_ ≤ s.cyc + 17501 ∧ d.ev = .quadRailOff quad := by
  have hgo : exec (.quadDrainComplete quad) s = .next (
      let t := s.setQuad quad { s.quadAt quad with state := 3, since := s.cyc }
      (t.freeNat.2.due (s.cyc + 17) 20 (.logicClockStop quad) (s.cyc + 1)).due (s.cyc + 17 + t.freeNat.1 % 17485) 21 (.quadRailOff quad) (s.cyc + 1)) :=
    if_neg (by simp [h])
  refine ⟨_, hgo, ?_, ?_, ⟨_, List.mem_append_left _ (List.mem_append_right _ (List.mem_singleton_self _)), rfl, rfl⟩,
    _, List.mem_append_right _ (List.mem_singleton_self _), ?_, ?_, rfl⟩
  · simp only [quadAt_due, quadAt_freeNat, quadAt_setQuad_same]
  · simp only [quadAt_due, quadAt_freeNat, quadAt_setQuad_same]
  all_goals
    dsimp only
    omega

/-- A quad that wakes brings its rail and its clock up, and the wake ends within 35,000 cycles (R490). -/
theorem execQwake_wakes {s : State} {quad : Nat} (h2 : 2 ≤ (s.quadAt quad).state) (h4 : (s.quadAt quad).state ≤ 4) :
    ∃ t, exec (.qwake quad) s = .next t ∧ (t.quadAt quad).state = 5 ∧
      ∃ d ∈ t.agenda, s.cyc < d.at_ ∧ d.at_ ≤ s.cyc + 35000 ∧ d.ev = .quadWakeComplete quad := by
  have hgo : exec (.qwake quad) s = .next (
      let t := s.quadState quad 5
      let t := t.setQuad quad { t.quadAt quad with rail := false, clk := false }
      let a := 1 + t.freeNat.1 % 11666
      let b := a + 1 + t.freeNat.2.freeNat.1 % 11666
      let c := b + t.freeNat.2.freeNat.2.freeNat.1 % 11667
      ((t.freeNat.2.freeNat.2.freeNat.2.due (s.cyc + a) 20 (.logicRailUp quad) (s.cyc + 1)).due (s.cyc + b) 20 (.logicClockStart quad) (s.cyc + 1)).due
        (s.cyc + c) 700 (.quadWakeComplete quad) (s.cyc + 1)) :=
    if_neg (by omega)
  refine ⟨_, hgo, ?_, _, List.mem_append_right _ (List.mem_singleton_self _), ?_, ?_, rfl⟩
  · simp only [quadAt_due, quadAt_freeNat, quadAt_setQuad_same, State.quadState]
  all_goals
    dsimp only
    omega

/-- A Gated quad whose rail is discharged is Off; what its columns lose is not the quad's (R490). -/
theorem execQuadRailOff_off {s : State} {quad : Nat} (h : s.quadDue quad 3 = true) :
    ∃ t, exec (.quadRailOff quad) s = .next t ∧ (t.quadAt quad).state = 4 ∧ (t.quadAt quad).rail = false := by
  obtain ⟨t, ht⟩ := exec_next (.quadRailOff quad) s
  have hgo : t.quadAt quad = { s.quadAt quad with state := 4, rail := false, clk := false, since := s.cyc, lost := true } := by
    have he := ht.symm.trans (if_neg (by simp [h]))
    rw [Host.Outcome.next.inj he, foldl_field_eq (State.quadAt · quad) _ _ ?_ _]
    · exact quadAt_setQuad_same ..
    intro u col
    dsimp only
    rw [foldl_field_eq (State.quadAt · quad) _ _ ?_ _]
    · split <;> rfl
    intro u tw
    split <;> rfl
  exact ⟨t, ht, congrArg Quad.state hgo, congrArg Quad.rail hgo⟩

theorem startFirmware_quads (s : State) (col : Nat) : (s.startFirmware col).quads = s.quads := by
  obtain ⟨fl, st, ag, sl, en, ch, asy, pg, dn, n, e⟩ := startFirmware_only s col
  rw [e]

theorem loadFirmware_quads (s : State) (col : Nat) : (s.loadFirmware col).quads = s.quads := rfl

theorem wakeColumn_quads (s : State) (col : Nat) : (s.wakeColumn col).quads = s.quads := by
  unfold State.wakeColumn
  extract_lets c fold kept keep u
  have hu : u.quads = s.quads := by
    refine foldl_field_eq State.quads _ _ ?_ (s.clearMatrix col)
    intros
    rfl
  clear_value u
  rw [loadFirmware_quads, State.setCol_quads, hu]

/-- A quad whose wake has ended is Blocked (R490). -/
theorem execQuadWakeComplete_blocked {s : State} {quad : Nat} (h : s.quadDue quad 5 = true) :
    ∃ t, exec (.quadWakeComplete quad) s = .next t ∧ (t.quadAt quad).state = 1 := by
  obtain ⟨t, ht⟩ := exec_next (.quadWakeComplete quad) s
  have hgo : t.quads = (s.setQuad quad { s.quadAt quad with state := 1, rail := true, clk := true, since := s.cyc, lost := false }).quads := by
    have he := ht.symm.trans (if_neg (by simp [h]))
    rw [Host.Outcome.next.inj he]
    refine foldl_field_eq State.quads _ _ (fun u col => ?_) _
    extract_lets v c w
    have hv : v.quads = u.quads := by
      simp only [v]
      split
      · exact wakeColumn_quads ..
      · rfl
    have hw : w.quads = v.quads := by
      simp only [w]
      split <;> rfl
    rw [startFirmware_quads, hw, hv]
  exact ⟨t, ht, congrArg Quad.state ((congrArg (fun m : Map Quad => m.getD quad {}) hgo).trans (quadAt_setQuad_same ..))⟩

/-- Settles O48, an event at a time. -/
theorem powerSteps : Obligations.PowerSteps := by
  intro s quad
  dsimp only
  refine ⟨fun n => ⟨fun hh => ⟨_, if_neg (by simp [hh]), ?_⟩, fun hh => if_pos hh⟩, fun site course celsius col hcol ht hlt h0 => ?_, fun hs => ⟨fun hm => ?_, fun hm => ?_⟩,
    fun site course celsius => ⟨fun h1 => if_pos h1, fun h1 hc => ⟨_, (if_neg h1).trans (if_neg (Nat.not_lt.2 hc)), ?_⟩, fun hc => ?_⟩,
    fun h => if_neg (not_not_intro h), fun h => if_pos h, fun h => congrArg Host.Outcome.next (if_pos h), fun h => congrArg Host.Outcome.next (if_neg h),
    fun h1 h0 => congrArg Host.Outcome.next (if_pos ⟨h1, h0⟩), fun h => congrArg Host.Outcome.next (if_neg (by omega)), execQuadDrainComplete_gates,
    fun hd => ⟨⟨_, congrArg Host.Outcome.next (if_pos hd), ?_⟩, execQuadRailOff_off hd⟩, execQwake_wakes, fun h => if_pos h,
    fun hd => ⟨⟨_, congrArg Host.Outcome.next (if_pos hd), ?_⟩, fun hr => ⟨_, congrArg Host.Outcome.next (if_pos ⟨hd, hr⟩), ?_⟩, execQuadWakeComplete_blocked hd⟩⟩
  · refine foldl_field_eq State.opPoint courseKeys _ (fun u k => ?_) _
    exact marginAt_opPoint ..
  · refine ⟨_, congrArg Host.Outcome.next (if_pos ?_), ?_⟩
    · rwa [heatAt_devr]
    · rw [heatAt_of_col hcol]
      exact throttleBit_sets ht h0
  · refine ⟨_, if_neg (by omega), ?_⟩
    simp only [hm]
  · refine ⟨_, if_neg (by omega), ?_⟩
    simp only [hm]
  · rw [← heatAt_cyc s site course celsius]
    exact trip_falls ..
  · refine ⟨_, congrArg Host.Outcome.next (if_neg ?_), ?_⟩
    · rw [heatAt_devr]
      exact Nat.not_lt.2 hc
    · rw [← heatAt_cyc s site course celsius]
      exact trip_falls ..
  · simp only [quadAt_setQuad_same, and_self]
  · rw [quadAt_setQuad_same]
  · rw [quadAt_setQuad_same]

end Sys2Proof.Machine
end

section
/-! PROOFS. The host and the link (R441-R446). -/

namespace Sys2Proof.Machine

/-! ### The host's accesses to memory (R441, R445) -/

/-- Local HBM lies below the doorbells and the register window in the aperture (R441). -/
theorem hbmBytes_lt_aperture : hbmBytes < 2 ^ 39 := by decide

/-- Writing consecutive bytes one by one writes them as a run. -/
theorem foldl_write_zipIdx (m : Memory) (k n : Nat) (data : List Nat) :
    (((data.zipIdx n).map fun b => (k + b.2, b.1, false)).foldl (fun m (x : Nat × Nat × Bool) => Memory.write m x.1 (BitVec.ofNat 8 x.2.1)) m) =
      Memory.writeBytes m (k + n) (data.map (BitVec.ofNat 8)) := by
  induction data generalizing m n with
  | nil => rfl
  | cons d t ih =>
    rw [List.zipIdx_cons, List.map_cons, List.foldl_cons, ih, List.map_cons, Memory.writeBytes]
    rfl

/-- A run of bytes that also notes who set the PRIV bits of descriptors sets those bytes of memory. -/
theorem rightRun_mem (s : State) (right : Bool) (l : List (Nat × Nat × Bool)) :
    (s.rightRun right l).mem = l.foldl (fun m x => Memory.write m x.1 (BitVec.ofNat 8 x.2.1)) s.mem :=
  writeRun_mem s l

/-- An access that lies in local HBM reaches every byte of it. -/
theorem filter_within_hbm {offset : Nat} {data : List Nat} (h : offset + data.length ≤ hbmBytes) :
    (data.zipIdx.filter fun b => decide (offset + b.2 < hbmBytes)) = data.zipIdx := by
  refine List.filter_eq_self.2 fun b hb => ?_
  have := (List.mem_zipIdx hb).2.1
  exact decide_eq_true (by omega)

/-- A link that is past training answers a read at once: refused, from HBM, or from the register window. -/
theorem hostRead_of_trained {s : State} {offset size : Nat} (hl : 2 ≤ s.link.state) :
    execHostRead offset size s = (if s.hostRefused offset || s.hostQuarantined offset then .next (s.answer [] true)
      else if offset < 2 ^ 39 then
        let keys := ((List.range size).map fun i => offset + i).map fun o => if o < hbmBytes then some (s.pkg * 2 ^ 42 + o) else none
        let s := s.noteFailed (keys.filterMap id)
        .next (s.answer (keys.map fun k => match k with | some a => (Memory.read s.mem a).toNat | none => 0))
      else
        .next (s.answer ((List.range size).map fun i =>
          if State.windowAt ≤ offset + i ∧ offset + i < State.portAtHost then s.windowByte (offset + i - State.windowAt) else 0))) :=
  (if_neg (by omega)).trans (if_neg (by omega))

/-- A read of local HBM answers its bytes and changes no byte (R441, R445). -/
theorem hostRead_hbm {s : State} {offset size : Nat} (hl : 2 ≤ s.link.state) (hr : s.hostRefused offset = false)
    (hq : s.hostQuarantined offset = false) (hfit : offset + size ≤ hbmBytes) :
    ∃ t, exec (.hostRead offset size) s = .next t ∧ t.mem = s.mem ∧
      t.answers = s.answers ++ [⟨(List.range size).map fun i => (Memory.read s.mem (s.pkg * 2 ^ 42 + offset + i)).toNat, false⟩] := by
  have hin : offset < 2 ^ 39 := Nat.lt_of_le_of_lt (by omega) hbmBytes_lt_aperture
  have hkeys : (((List.range size).map fun i => offset + i).map fun o => if o < hbmBytes then some (s.pkg * 2 ^ 42 + o) else none) =
      (List.range size).map fun i => some (s.pkg * 2 ^ 42 + offset + i) := by
    rw [List.map_map]
    refine List.map_congr_left fun i hi => ?_
    have := List.mem_range.1 hi
    simp only [Function.comp_apply, if_pos (show offset + i < hbmBytes by omega), Nat.add_assoc]
  have hgo := hostRead_of_trained (offset := offset) (size := size) hl
  rw [hr, hq, if_neg (by simp), if_pos hin, hkeys] at hgo
  refine ⟨_, hgo, ?_⟩
  obtain ⟨p, b, tw, ag, he, hs⟩ := noteFailed_sameButChecks s (((List.range size).map fun i => some (s.pkg * 2 ^ 42 + offset + i)).filterMap id)
  rw [hs]
  exact ⟨rfl, by rw [List.map_map]; rfl⟩

/-- A refused read is answered as an error (R441, R444). -/
theorem hostRead_refused {s : State} {offset size : Nat} (hl : 2 ≤ s.link.state)
    (h : s.hostRefused offset = true ∨ s.hostQuarantined offset = true) :
    exec (.hostRead offset size) s = .next (s.answer [] true) :=
  (hostRead_of_trained hl).trans (if_pos (by simpa using h))

/-- A write to local HBM is a run of bytes. -/
theorem hostWrite_hbm {s : State} {offset : Nat} {data : List Nat} (hl : 2 ≤ s.link.state) (hr : s.hostRefused offset = false)
    (hq : s.hostQuarantined offset = false) (hfit : offset + data.length ≤ hbmBytes) :
    ∃ t, exec (.hostWrite offset data) s = .next t ∧
      t.mem = Memory.writeBytes s.mem (s.pkg * 2 ^ 42 + offset) (data.map (BitVec.ofNat 8)) := by
  have hin : offset < 2 ^ 39 := Nat.lt_of_le_of_lt (by omega) hbmBytes_lt_aperture
  refine ⟨_, (if_neg (by omega)).trans <| (if_neg (by omega)).trans <| (if_neg (by simp [hr, hq])).trans <| if_pos hin, ?_⟩
  rw [filter_within_hbm hfit, rightRun_mem, foldl_write_zipIdx, Nat.add_zero]

/-- A write to local HBM leaves its bytes there, and every other byte as it was (R441, R445). -/
theorem hostWrite_bytes {s : State} {offset : Nat} {data : List Nat} (hm : s.MemOk) (hl : 2 ≤ s.link.state) (hr : s.hostRefused offset = false)
    (hq : s.hostQuarantined offset = false) (hfit : offset + data.length ≤ hbmBytes) :
    ∃ t, exec (.hostWrite offset data) s = .next t ∧
      (∀ i < data.length, (Memory.read t.mem (s.pkg * 2 ^ 42 + offset + i)).toNat = data.getD i 0 % 256) ∧
      ∀ k, (k < s.pkg * 2 ^ 42 + offset ∨ s.pkg * 2 ^ 42 + offset + data.length ≤ k) → Memory.read t.mem k = Memory.read s.mem k := by
  obtain ⟨t, ht, hmem⟩ := hostWrite_hbm hl hr hq hfit
  refine ⟨t, ht, fun i hi => ?_, fun k hk => ?_⟩
  · rw [hmem, Memory.read_writeBytes_at _ _ _ hm (by simpa using hi)]
    simp [List.getD_eq_getElem?_getD, hi]
  · rw [hmem, Memory.read_writeBytes_ne _ _ _ hm (by simpa using hk)]

/-- A message to a single group is sent to it (R380, R443). -/
theorem hostMessage_one {s : State} {value : Nat} {g : Nat × Group} (hw : s.subject / 2 ^ 64 < 2 ^ 30)
    (hg : (s.groups.filter fun g => g.2.ctx == s.subject / 2 ^ 64 % 2 ^ 16 && g.2.node == s.subject / 2 ^ 64 / 2 ^ 16 % 2 ^ 12 &&
      g.2.num == s.subject % 2 ^ 48 && (g.2.audit.bind Audit.replayOf).isNone && g.2.state != .retired && g.2.state != .purged) = [g]) :
    exec (.hostMessage value) s =
      .next (s.due s.cyc 620 (.messageLand g.1 (s.subject / 2 ^ 64 / 2 ^ 28 % 4) value (2 ^ 64)) (s.cyc * 1024 + 256)) := by
  change execHostMessage value s = _
  simp only [execHostMessage, if_neg (Nat.not_le.2 hw), hg, List.getLast?_singleton]

/-! ### The states of the link (R444) -/

/-- Requests held in training come when the link is trained, in their order, and are held no longer. -/
theorem linkRise_releases (s : State) (state width : Nat) :
    (s.linkRise state width).link.held = [] ∧
      ∀ i ∈ s.link.held, ∃ d ∈ (s.linkRise state width).agenda, d.at_ = s.cyc ∧ d.ev = i :=
  ⟨rfl, fun i hi => ⟨⟨s.cyc, 49, i, 0⟩, List.mem_append_left _ (List.mem_map.2 ⟨i, hi, rfl⟩), rfl, rfl⟩⟩

/-- What the lanes in use make of a link in training. -/
theorem linkTrained_lanes {s : State} (lanes : Nat) (h : s.link.state = 1) :
    (32 ≤ lanes → exec (.linkTrained lanes) s = .next (s.linkRise 2 0)) ∧
    (16 ≤ lanes → lanes < 32 → exec (.linkTrained lanes) s = .next (s.linkRise 3 1)) ∧
    (8 ≤ lanes → lanes < 16 → exec (.linkTrained lanes) s = .next (s.linkRise 3 2)) ∧
    (lanes < 8 → s.link.since + s.linkLimit ≤ s.cyc → exec (.linkTrained lanes) s = .next (s.linkFall.health { code := 0x27, info := 0xF })) := by
  have hn : ¬ s.link.state ≠ 1 := not_not_intro h
  refine ⟨fun h32 => ?_, fun h16 h32 => ?_, fun h8 h16 => ?_, fun h8 hover => ?_⟩
  · exact (if_neg hn).trans (if_pos h32)
  · exact (if_neg hn).trans <| (if_neg (by omega)).trans (if_pos h16)
  · exact (if_neg hn).trans <| (if_neg (by omega)).trans <| (if_neg (by omega)).trans (if_pos h8)
  · exact (if_neg hn).trans <| (if_neg (by omega)).trans <| (if_neg (by omega)).trans <| (if_neg (by omega)).trans (if_pos hover)

/-- Settles O44: a request goes by the state of the link; one that reaches local HBM is a read or a run of writes there. -/
theorem hostAndLinkSteps : Obligations.HostAndLinkSteps := by
  unfold Obligations.HostAndLinkSteps
  intro s
  refine ⟨fun offset size data h => ⟨if_pos h, if_pos h⟩, fun offset size data h => ⟨?_, ?_⟩, fun offset size hl hr hq hfit => hostRead_hbm hl hr hq hfit,
    fun offset size hl h => ⟨_, hostRead_refused hl h, rfl⟩, fun offset data hm hl hr hq hfit => hostWrite_bytes hm hl hr hq hfit,
    fun value g hw hg => hostMessage_one hw hg, fun h => ⟨?_, fun ht hs => ?_⟩, fun h => ?_, rfl, ⟨s.linkFall, rfl, rfl, rfl, rfl⟩,
    fun lanes h => ?_, fun h => ?_, fun h hq => ?_, fun h hq => ?_⟩
  · exact ⟨_, (if_neg (by omega)).trans (if_pos h), rfl, rfl, rfl⟩
  · exact ⟨_, (if_neg (by omega)).trans (if_pos h), rfl, rfl⟩
  · exact congrArg Host.Outcome.next (if_pos h)
  · exact congrArg Host.Outcome.next (if_pos ⟨h, ht, hs⟩)
  · exact congrArg Host.Outcome.next (if_neg h)
  · obtain ⟨hall, hhalf, hquarter, hover⟩ := linkTrained_lanes lanes h
    exact ⟨fun h32 => ⟨_, hall h32, rfl, rfl, linkRise_releases s 2 0⟩, fun h16 h32 => ⟨_, hhalf h16 h32, rfl, rfl⟩,
      fun h8 h16 => ⟨_, hquarter h8 h16, rfl, rfl⟩, fun h8 hlate => ⟨_, hover h8 hlate, rfl, rfl⟩⟩
  · exact congrArg Host.Outcome.next (if_pos h)
  · exact ⟨_, congrArg Host.Outcome.next ((if_neg (not_not_intro h)).trans (if_pos hq)), rfl⟩
  · exact congrArg Host.Outcome.next ((if_neg (not_not_intro h)).trans (if_neg (by simp [hq])))

end Sys2Proof.Machine
end

section
/-! PROOFS. Collectives and evictions (R457-R467). -/

namespace Sys2Proof.Machine

/-! ### A contribution that COLLGO cannot take (R457-R459, R471) -/

/-- The contribution that COLLGO begins with: its stream, its group and its descriptor; what the descriptor says comes later. -/
def State.newColl (s : State) (k : Stream) (desc : Nat) : Contribution :=
  { comm := 0, inst := 0, rank := 0, ctx := s.ctxOf k, at_ := k, gid := (s.groupOf k.sk).map fun g => g.1, desc := desc, reading := true,
    first := s.nextId }

/-- What becomes of a contribution whose descriptor is well formed, once its communicator's table has been asked for. -/
def State.acceptColl (r : State) (ctx desc : Nat) (x : Contribution) (retry : Instr) : Tr → Out
  | .refused => .next (r.writeErr ctx desc 3)
  | .waits | .full => .next (r.due (r.cyc + 1) 555 retry)
  | .ok _ =>
    match r.commPoison x.comm, r.readComm ctx x.comm with
    | some a, _ => .next (r.collPoison ctx (2 ^ 63 + a))
    | none, none => .next (r.writeErr ctx desc 1)
    | none, some (local_, list) =>
      if local_ ≤ x.rank then .next (r.writeErr ctx desc 1)
      else
        let x := { x with num := local_, list := list, inst := r.nextInst x.comm x.rank }
        if r.collDiffers x then .next (r.writeErr ctx desc 1)
        else
          let (x, s) := r.readElems x
          let x := if ((EA.parse x.dst).map fun e => s.collFits ctx e (x.count * collWidth x.fmt)) == some true then x
            else { x with err := (if x.err = 0 then 2 else x.err), reading := false }
          .next ((s.joinColl x).dropDiffering (s.colls.length + 1)).spreadErr

section
variable {s : State} {col slot desc key key' : Nat}

theorem collgo_noWindow (h : s.collTower (s.ctxOf ⟨col, slot, .a⟩) desc = none) : exec (.collgo col slot desc) s = .next s := by
  change execCollgo col slot desc s = _
  simp only [execCollgo, h]

theorem collgo_poisoned {n : Nat} (hk : s.collTower (s.ctxOf ⟨col, slot, .a⟩) desc = some key)
    (hk' : s.collTower (s.ctxOf ⟨col, slot, .a⟩) (desc + 63) = some key')
    (hn : (List.range 8).find? (fun n => (s.checkRead key 64).poisoned (key + 8 * n)) = some n) :
    exec (.collgo col slot desc) s = .next ((s.checkRead key 64).collPoison (s.ctxOf ⟨col, slot, .a⟩) (desc + 8 * n)) := by
  change execCollgo col slot desc s = _
  simp only [execCollgo, hk, hk', hn]

/-- None of the descriptor's words is poisoned. -/
theorem find_poisoned_none {u : State} (hclean : ∀ n < 8, u.poisoned (key + 8 * n) = false) :
    (List.range 8).find? (fun n => u.poisoned (key + 8 * n)) = none :=
  List.find?_eq_none.2 fun n hn => by simp [hclean n (List.mem_range.1 hn)]

theorem collgo_malformed (hk : s.collTower (s.ctxOf ⟨col, slot, .a⟩) desc = some key)
    (hk' : s.collTower (s.ctxOf ⟨col, slot, .a⟩) (desc + 63) = some key')
    (hclean : ∀ n < 8, (s.checkRead key 64).poisoned (key + 8 * n) = false)
    (hread : (s.checkRead key 64).readColl (s.newColl ⟨col, slot, .a⟩ desc) key = none) :
    exec (.collgo col slot desc) s = .next ((s.checkRead key 64).writeErr (s.ctxOf ⟨col, slot, .a⟩) desc 1) := by
  unfold State.newColl at hread
  change execCollgo col slot desc s = _
  simp only [execCollgo, hk, hk', find_poisoned_none hclean, hread]

/-- A well-formed descriptor is accepted or not by what the engine gets of its communicator's table. -/
theorem collgo_wellFormed {x : Contribution} {tr : Tr} {r : State} (hk : s.collTower (s.ctxOf ⟨col, slot, .a⟩) desc = some key)
    (hk' : s.collTower (s.ctxOf ⟨col, slot, .a⟩) (desc + 63) = some key')
    (hclean : ∀ n < 8, (s.checkRead key 64).poisoned (key + 8 * n) = false)
    (hread : (s.checkRead key 64).readColl (s.newColl ⟨col, slot, .a⟩ desc) key = some x)
    (hr : (s.checkRead key 64).commReach x.comm = (tr, r)) :
    exec (.collgo col slot desc) s = r.acceptColl (s.ctxOf ⟨col, slot, .a⟩) desc x (.collgo col slot desc) tr := by
  unfold State.newColl at hread
  change execCollgo col slot desc s = _
  simp only [execCollgo, hk, hk', find_poisoned_none hclean, hread, hr]
  cases tr with
  | ok a => rfl
  | refused => rfl
  | waits => rfl
  | full => rfl

end

theorem acceptColl_poisoned {r : State} {ctx desc p : Nat} {x : Contribution} (a : Nat) (retry : Instr) (hp : r.commPoison x.comm = some p) :
    r.acceptColl ctx desc x retry (.ok a) = .next (r.collPoison ctx (2 ^ 63 + p)) := by
  simp only [State.acceptColl, hp]

theorem acceptColl_malformed {r : State} {ctx desc : Nat} {x : Contribution} (a : Nat) (retry : Instr) (hp : r.commPoison x.comm = none)
    (hc : r.readComm ctx x.comm = none) : r.acceptColl ctx desc x retry (.ok a) = .next (r.writeErr ctx desc 1) := by
  simp only [State.acceptColl, hp, hc]

/-- What a contribution of a readable communicator comes to: an ERR of 1, or a place among its peers (R457, R459). -/
theorem acceptColl_member {r : State} {ctx desc local_ : Nat} {x : Contribution} {list : List Nat} (a : Nat) (retry : Instr)
    (hp : r.commPoison x.comm = none) (hc : r.readComm ctx x.comm = some (local_, list)) :
    let y : Contribution := { x with num := local_, list := list, inst := r.nextInst x.comm x.rank }
    let z := (r.readElems y).1
    let v := (r.readElems y).2
    let fits := ((EA.parse z.dst).map fun e => v.collFits ctx e (z.count * collWidth z.fmt))
    ((local_ ≤ x.rank ∨ r.collDiffers y = true) → r.acceptColl ctx desc x retry (.ok a) = .next (r.writeErr ctx desc 1)) ∧
    (x.rank < local_ → r.collDiffers y = false → fits = some true →
      r.acceptColl ctx desc x retry (.ok a) = .next ((v.joinColl z).dropDiffering (v.colls.length + 1)).spreadErr) ∧
    (x.rank < local_ → r.collDiffers y = false → fits ≠ some true →
      r.acceptColl ctx desc x retry (.ok a) = .next ((v.joinColl { z with err := (if z.err = 0 then 2 else z.err), reading := false }).dropDiffering
        (v.colls.length + 1)).spreadErr) := by
  intro y z v fits
  have hgo : r.acceptColl ctx desc x retry (.ok a) =
      if local_ ≤ x.rank then .next (r.writeErr ctx desc 1)
      else if r.collDiffers y then .next (r.writeErr ctx desc 1)
      else .next ((v.joinColl (if fits == some true then z else { z with err := (if z.err = 0 then 2 else z.err), reading := false })).dropDiffering
        (v.colls.length + 1)).spreadErr := by
    simp only [State.acceptColl, hp, hc]
    rfl
  refine ⟨fun h => ?_, fun hr hd hf => ?_, fun hr hd hf => ?_⟩
  · rw [hgo]
    split
    · rfl
    · next hr => exact if_pos (h.resolve_left hr)
  · rw [hgo, if_neg (by omega), if_neg (by simp [hd]), hf]
    rfl
  · rw [hgo, if_neg (by omega), if_neg (by simp [hd]), if_neg (by simpa using hf)]

/-! ### The end of a collective (R459-R462) -/

theorem writeErr_colls (s : State) (ctx desc err : Nat) : (s.writeErr ctx desc err).colls = s.colls := by
  unfold State.writeErr
  split
  · rfl
  · obtain ⟨m, p, b, h, c, e⟩ := writeRun_only s [(_ + 7, _ % 16 + err * 16, false)]
    dsimp only
    rw [e]

theorem collArrive_colls (s : State) (x : Contribution) (bytes : Nat) : (s.collArrive x bytes).colls = s.colls := by
  unfold State.collArrive
  split <;> rfl

/-- Every contribution in the place of one of `l` has ended. -/
def State.CollsEnded (s : State) (l : List Contribution) : Prop :=
  ∀ x ∈ l, ∀ y ∈ s.colls, y.comm = x.comm → y.inst = x.inst → y.rank = x.rank → y.ended = true

/-- After a contribution takes a new value, each one is that value or one of another place. -/
theorem mem_setColl {s : State} {x y : Contribution} (h : y ∈ (s.setColl x).colls) :
    y = x ∨ (y ∈ s.colls ∧ ¬ (y.comm = x.comm ∧ y.inst = x.inst ∧ y.rank = x.rank)) := by
  obtain ⟨w, hw, rfl⟩ := List.mem_map.1 h
  by_cases hplace : (w.comm == x.comm && w.inst == x.inst && w.rank == x.rank) = true
  · exact .inl (if_pos hplace)
  · rw [if_neg hplace]
    exact .inr ⟨hw, by simpa [and_assoc] using hplace⟩

/-- Once a contribution takes a value that has ended, its place has ended, and no place that had is open again. -/
theorem setColl_ended {s : State} {l : List Contribution} (x : Contribution) (h : s.CollsEnded l) :
    (s.setColl { x with ended := true }).CollsEnded (x :: l) := by
  intro z hz y hy hcomm hinst hrank
  rcases mem_setColl hy with rfl | ⟨hy', hne⟩
  · rfl
  · rcases List.mem_cons.1 hz with rfl | hz
    · exact absurd ⟨hcomm, hinst, hrank⟩ hne
    · exact h z hz y hy' hcomm hinst hrank

/-- The end of the contributions of a collective: ERR 0, the barrier's arrival, and the mark that it has ended. -/
theorem endAll_ended (ctx : Nat) (l done : List Contribution) {s : State} (h : s.CollsEnded done) :
    (l.foldl (fun (s : State) x =>
      ((s.writeErr ctx x.desc 0).collArrive x (x.count * collWidth x.fmt)).setColl { x with ended := true }) s).CollsEnded (l ++ done) := by
  induction l generalizing s done with
  | nil => exact h
  | cons x t ih =>
    have hstep : (((s.writeErr ctx x.desc 0).collArrive x (x.count * collWidth x.fmt)).setColl { x with ended := true }).CollsEnded (x :: done) := by
      refine setColl_ended x ?_
      unfold State.CollsEnded
      rw [collArrive_colls, writeErr_colls]
      exact h
    intro z hz
    exact ih (x :: done) hstep z (by simpa [or_left_comm] using hz)

/-- A complete collective whose destinations are there ends every contribution of it (R461). -/
theorem collectiveComplete_ends {s u : State} {comm inst : Nat} {keys : List (List Nat)} (hsub : s.subject ≠ 1) (hready : s.instReady comm inst = true)
    (hheld : s.collHeld ((((s.instColls comm inst).head?).map fun x => x.ctx).getD 0) = false)
    (hkeys : s.collTargets (s.instColls comm inst) [] = (.ok keys, u)) :
    ∃ t, exec (.collectiveComplete comm inst) s = .next t ∧ t.CollsEnded (s.instColls comm inst) := by
  obtain ⟨t, ht⟩ := exec_next (.collectiveComplete comm inst) s
  refine ⟨t, ht, ?_⟩
  change execCollectiveComplete comm inst s = _ at ht
  simp only [execCollectiveComplete, if_neg hsub, hready, Bool.not_true, Bool.false_eq_true, if_false, hheld, hkeys] at ht
  rw [← Host.Outcome.next.inj ht, ← List.append_nil (s.instColls comm inst)]
  simpa using endAll_ended _ (s.instColls comm inst) [] (fun x hx => absurd hx (List.not_mem_nil))

/-! ### Evictions (R464-R467) -/

/-- Ports and link that were draining train again, and the contexts that the eviction switched out switch back in (R466). -/
def State.retrainAll (u : State) : State :=
  let v := (List.range 12).foldl (fun (s : State) p => if (s.portAt p).state = 4 ∨ (s.portAt p).state = 5 then s.portTrain p else s) u
  (if v.link.state = 4 ∨ v.link.state = 5 then v.linkTrain else v).evictBack

/-- The failure comes while no eviction can fail, or is the end of a limit of an earlier eviction or of an earlier phase (R464-R466). -/
def State.evictionFailIgnored (s : State) : Prop :=
  s.evict.phase = 0 ∨ 5 ≤ s.evict.phase ∨ (decide (2 ≤ s.subject) && s.subject / 2 - 1 != s.evict.startedAt) = true ∨
    (decide (2 ≤ s.subject) = true ∧ s.subject % 2 = 0 ∧ s.evict.phase ≠ 1)

theorem evictionFail_counts {s : State} (h : ¬ s.evictionFailIgnored) :
    exec .evictionFail s = .next ({ s with evict := { s.evict with phase := 6 } }.endPacket s.evict.queue 12).retrainAll := by
  change execEvictionFail s = _
  unfold State.evictionFailIgnored at h
  unfold execEvictionFail State.retrainAll
  extract_lets own stale
  rw [if_neg h]

/-- A failure that the target sends counts until the eviction is safe (R466). -/
theorem not_evictionFailIgnored {s : State} (h0 : s.evict.phase ≠ 0) (h5 : s.evict.phase < 5) (hsub : s.subject < 2) : ¬ s.evictionFailIgnored := by
  have hown : decide (2 ≤ s.subject) = false := decide_eq_false (by omega)
  unfold State.evictionFailIgnored
  rw [hown]
  simp [h0, h5]

/-- Settles O46: COLLGO's answers case by case, the ends of a collective's contributions by the fold that makes them, and each phase of an eviction from
the condition it waits for. -/
theorem collectiveAndEvictionSteps : Obligations.CollectiveAndEvictionSteps := by
  unfold Obligations.CollectiveAndEvictionSteps
  intro s
  refine ⟨fun col slot desc => ⟨collgo_noWindow, fun key key' n hk hk' hn => collgo_poisoned hk hk' hn⟩,
    fun col slot desc key key' => ?_, fun comm inst h => if_pos h, fun comm inst hs hr => (if_neg hs).trans (if_pos (by simp [hr])),
    fun comm inst => ?_, fun value => ⟨_, rfl, ?_⟩,
    fun h => ⟨_, congrArg Host.Outcome.next (if_pos h), rfl⟩, fun h => congrArg Host.Outcome.next (if_pos h),
    fun h => ⟨_, congrArg Host.Outcome.next (if_pos h), rfl⟩, fun h => if_neg (not_not_intro h),
    fun h => congrArg Host.Outcome.next (if_pos h), fun h0 h5 hsub => evictionFail_counts (not_evictionFailIgnored h0 h5 hsub), fun h => if_pos ?_⟩
  · intro k ctx x0 u hk hk' hclean
    refine ⟨collgo_malformed hk hk' hclean, fun x hread => ⟨fun r hr => collgo_wellFormed hk hk' hclean hread hr, fun a r hr => ?_⟩⟩
    have hgo := collgo_wellFormed hk hk' hclean hread hr
    refine ⟨fun p hp => hgo.trans (acceptColl_poisoned a _ hp), fun hp hc => hgo.trans (acceptColl_malformed a _ hp hc), ?_⟩
    intro local_ list hp hc
    rw [hgo]
    exact acceptColl_member a _ hp hc
  · intro l hs hr _ hh keys u hk
    exact collectiveComplete_ends hs hr hh hk
  · exact State.devr_setDev_same ..
  · exact h.imp_right Or.inl

end Sys2Proof.Machine
end

section
/-! PROOFS. Groups (R344, R361, R363, R366, R369-R380, R472, R474). -/

namespace Sys2Proof.Machine

/-! ### Placement and start (R344, R361, R363) -/

section
variable {s u : State} {g col slot block : Nat} {v : Group}

/-- A saved group of no gang takes its slot, and its code is copied at a later time (R363). -/
theorem groupPlace_saved (hg : s.groups.get? g = some v) (hq : v.state = .queued) (hc : (s.ctxAt v.ctx).state = 1) (hf : s.slotFree col slot = true)
    (ho : s.colOpen col (s.groupWinCtx v) = true) (hp : (s.purges.any fun p => p.1 == v.ctx && p.2.1 == v.reqtag) = false)
    (hgang : v.gang = false) (hs : v.saved.isSome = true) :
    exec (.groupPlace g col slot) s = .next ((s.placeGroup g col slot).freeNat.2.due
      ((s.placeGroup g col slot).freeNat.2.cyc + 1 + (s.placeGroup g col slot).freeNat.1) 18 (.codeStoreCopyComplete g)) := by
  have hopen : ¬(v.state ≠ .queued ∨ (s.ctxAt v.ctx).state ≠ 1 ∨ (!s.slotFree col slot) = true ∨ (!s.colOpen col (s.groupWinCtx v)) = true) := by
    simp [hq, hc, hf, ho]
  have hnew : v.saved.isNone = false := by simpa [Option.isNone_iff_eq_none, ← Option.isSome_iff_ne_none] using hs
  change execGroupPlace g col slot s = _
  simp only [execGroupPlace, hg, if_neg hopen, hp, Bool.false_eq_true, if_false, hnew, hgang, Bool.false_and]

/-- Its code is there in a later cycle than that of its placement. -/
theorem placeGroup_later (s : State) (g col slot : Nat) :
    s.cyc < (s.placeGroup g col slot).freeNat.2.cyc + 1 + (s.placeGroup g col slot).freeNat.1 := by
  have hcyc : (s.placeGroup g col slot).freeNat.2.cyc = s.cyc := (placeGroup_only s g col slot).cyc
  omega

/-- A group alone whose code and frame are there starts (R344, R361). -/
theorem codeStoreCopyComplete_starts (hunit : ((s.gangOf g).filter fun h => ((s.groups.get? h).map Group.state) == some .placed) = [g])
    (hcode : s.copyCode g = (true, u)) (hrestore : (u.canRestore g).1 = true) :
    exec (.codeStoreCopyComplete g) s = .next ((u.canRestore g).2.startGroup g) := by
  change execCodeStoreCopyComplete g s = _
  simp only [execCodeStoreCopyComplete, hunit, List.foldl_cons, List.foldl_nil, Bool.not_true, Bool.false_eq_true, if_false, hcode, hrestore, if_true]

theorem codeStoreCopyComplete_none (hunit : ((s.gangOf g).filter fun h => ((s.groups.get? h).map Group.state) == some .placed) = []) :
    exec (.codeStoreCopyComplete g) s = .next s := by
  change execCodeStoreCopyComplete g s = _
  simp only [execCodeStoreCopyComplete, hunit, List.foldl_nil, if_true]

/-- The requester of a block of code: the first engine of the slot that waits for it. -/
def State.blockWanter (s : State) (col slot block : Nat) : Requester :=
  .fetch (((State.slotStreams col slot).filter fun k => (s.engAt k.ek).codeMiss == some block).headD ⟨col, slot, .a⟩)

/-- The bytes of a block of a group's code, with their virtual addresses (R344). -/
def State.blockPlaces (s : State) (v : Group) (block : Nat) : List (Nat × Nat) :=
  (List.range 1024).filterMap fun i => (imagePlace (s.launchOf v) (1024 * block + i)).map fun a => (1024 * block + i, a)

theorem codeBlockFetch_none (h : s.groupOf (slotKey col slot) = none) : exec (.codeBlockFetch col slot block) s = .next s := by
  change execCodeBlockFetch col slot block s = _
  simp only [execCodeBlockFetch, h]

theorem codeBlockFetch_full (h : s.groupOf (slotKey col slot) = some (g, v))
    (htr : s.transRange v.ctx 3 4 (s.blockWanter col slot block) (distinct ((s.blockPlaces v block).map fun (x : Nat × Nat) => x.2 / 65536)) =
      (.full, [], u)) :
    exec (.codeBlockFetch col slot block) s = .next (u.due (u.cyc + 1) 26 (.codeBlockFetch col slot block)) := by
  unfold State.blockWanter State.blockPlaces at htr
  change execCodeBlockFetch col slot block s = _
  simp only [execCodeBlockFetch, h, htr]

/-- A block whose pages are there is in the slot's code store, whatever its waiting engines then do (R344). -/
theorem codeBlockFetch_stores {a : Nat} {pages : List (Nat × Nat)} (h : s.groupOf (slotKey col slot) = some (g, v))
    (htr : s.transRange v.ctx 3 4 (s.blockWanter col slot block) (distinct ((s.blockPlaces v block).map fun (x : Nat × Nat) => x.2 / 65536)) =
      (.ok a, pages, u)) :
    ∃ t, exec (.codeBlockFetch col slot block) s = .next t ∧ block ∈ (t.slotAt (slotKey col slot)).code := by
  obtain ⟨t, ht⟩ := exec_next (.codeBlockFetch col slot block) s
  refine ⟨t, ht, ?_⟩
  unfold State.blockWanter State.blockPlaces at htr
  change execCodeBlockFetch col slot block s = _ at ht
  simp only [execCodeBlockFetch, h, htr] at ht
  rw [← Host.Outcome.next.inj ht]
  have hwake : ∀ (l : List Stream) (t : State), OnlyFetch t (l.foldl (fun s k =>
      let s := s.setEng k.ek { s.engAt k.ek with codeMiss := none }
      if (s.engAt k.ek).sec == .waiting then s.reachHeader k s.cyc else s) t) := by
    intro l t
    refine (OnlyFetch.refl t).foldl fun w k hw => ?_
    dsimp only
    split
    · exact (hw.setEng ..).reachHeader k (le_refl _)
    · exact hw.setEng ..
  rw [(hwake _ _).slotAt, State.slotAt_setSlot_same]
  exact List.mem_append_right _ (List.mem_singleton_self _)

end

/-! ### The watchdog, pre-emption and saves (R366, R371-R375, R407) -/

section
variable {s : State} {g col slot : Nat} {v : Group} {p : Preempt}

theorem watchdog_alone {k : Stream} (h : ((State.slotStreams col slot).filter fun k => (s.engAt k.ek).sec != .empty) = [k]) :
    exec (.watchdog col slot) s = .next (s.groupFault k 0x1A (BitVec.ofNat 64 (engCode k.eng)) false 0) := by
  change execWatchdog col slot s = _
  simp only [execWatchdog, h, List.foldl_nil]

/-- What a full save does with the group it is for, whose pre-emption is pending: by its state and by the limit (R373). -/
theorem forcedFullSave_of_pending (hg : s.groups.get? g = some v) (hp : (s.slotAt (slotKey v.col v.slot)).preempt = some p) :
    exec (.forcedFullSave g) s =
      if v.state = .placed then .next (s.due (s.cyc + 1) 40 (.forcedFullSave g))
      else if (v.state = .running ∨ v.state = .stalled ∨ v.state = .atSafe) ∧ p.at_ + (if p.force then 0 else v.region.plimit) ≤ s.cyc then
        .next (s.beginSave g true)
      else .next s := by
  change execForcedFullSave g s = _
  simp only [execForcedFullSave, hg, hp, decide_eq_true_eq]

/-- A group that runs is not one whose code is being copied. -/
theorem ne_placed_of_open (h : v.state = .running ∨ v.state = .stalled ∨ v.state = .atSafe) : v.state ≠ .placed := by
  rcases h with h | h | h <;> simp [h]

theorem saveComplete_eq (hg : s.groups.get? g = some v) :
    exec (.saveComplete g) s = .next (if (s.saveUnit g v).all s.canSave then (s.saveUnit g v).foldl State.saveOne s else s) := by
  change execSaveComplete g s = _
  simp only [execSaveComplete, hg]

/-- A save that finds no frame is reported and asked for again (R407). -/
theorem saveFrameWait_none (hg : s.groups.get? g = some v) (hs : v.state = .preempting) (hf : v.frame = none) (hn : s.freeFrame v.ctx = none) :
    exec (.saveFrameWait g) s = .next ((s.health { code := 0x24, ctx := v.ctx, tag := v.reqtag }).due (s.cyc + 2 ^ 20) 30 (.saveFrameWait g)) := by
  change execSaveFrameWait g s = _
  simp only [execSaveFrameWait, hg, hs, if_true, hf, hn, Option.isSome_none, Bool.false_eq_true, if_false]

theorem gctlPreempt_group {force : Bool} (h : s.groupOf (slotKey col slot) = some (g, v)) :
    exec (.gctlPreempt col slot force) s = .next (s.preemptGroup g force) := by
  change execGctlPreempt col slot force s = _
  simp only [execGctlPreempt, h]

theorem gctlPreempt_none {force : Bool} (h : s.groupOf (slotKey col slot) = none) : exec (.gctlPreempt col slot force) s = .next s := by
  change execGctlPreempt col slot force s = _
  simp only [execGctlPreempt, h]

/-- A group without an audit that has come to its end is Retired (R379). -/
theorem groupRetire_unaudited (hg : s.groups.get? g = some v) (ha : v.audit = none) :
    exec (.groupRetire g) s = .next (((s.dropLease v.col v.slot).clearSlot v.col v.slot).setGroup g { v with state := .retired }) := by
  change execGroupRetire g s = _
  simp only [execGroupRetire, hg, ha]

end

/-! ### Migration (R377, R378, R422) -/

theorem ctxAt_of_ctxs {s t : State} (h : t.ctxs = s.ctxs) (c : Nat) : t.ctxAt c = s.ctxAt c := by
  unfold State.ctxAt
  rw [h]

theorem checkRead_ctxs (s : State) (k n : Nat) : (s.checkRead k n).ctxs = s.ctxs := by
  obtain ⟨p, b, tw, ag, he, e⟩ := SameButChecks.foldl (s.bitErrs.filter fun e => decide (k < e.1 + 8 ∧ e.1 < k + n)) (f := fun s e => s.checkWord e.1)
    (fun t e => checkWord_sameButChecks t e.1) s
  unfold State.checkRead
  rw [e]

theorem moveTowers_ctxs (s : State) (m : Move) : (s.moveTowers m).ctxs = s.ctxs := by
  unfold State.moveTowers
  refine foldl_field_eq State.ctxs _ _ ?_ s
  intro t n
  exact (checkRead_ctxs _ _ _).trans (checkRead_ctxs _ _ _)

theorem followMove_ctxs (s : State) (m : Move) : (s.followMove m).ctxs = s.ctxs := rfl

theorem farStore_ctxs (s : State) (pa n v : Nat) : (s.farStore pa n v).ctxs = s.ctxs := by
  obtain ⟨m, p, b, h, c, x, e⟩ := farStore_only s pa n v
  rw [e]

theorem placeGroup_ctxs (s : State) (g col slot : Nat) : (s.placeGroup g col slot).ctxs = s.ctxs := by
  obtain ⟨sl, en, fl, gr, e⟩ := placeGroup_only s g col slot
  rw [e]

theorem relayTurns_ctxs (s : State) : s.relayTurns.ctxs = s.ctxs := by
  obtain ⟨n, a, e⟩ := relayTurns_only s
  rw [e]

theorem preemptOne_moves (s : State) (force byYield : Bool) (mig : Option (Nat × Nat)) (g : Nat) :
    (s.preemptOne force byYield mig g).moves = s.moves := by
  unfold State.preemptOne
  split
  · rfl
  · dsimp only
    split <;> rfl

section
variable {s : State} {ctx src dest dwin col slot g : Nat} {v : Group} {m : Move}

/-- A migration changes its context's map of columns as the two windows change places (R377). -/
theorem migrationComplete_colmap (hm : s.moves.find? (fun m => m.ctx == ctx && m.src == src && m.begun) = some m) :
    ∃ t, exec (.migrationComplete ctx src) s = .next t ∧ (t.ctxAt ctx).colmap = (let map := (s.ctxAt ctx).colmap.set ((s.ctxCol ctx src).getD src) m.dest
      match s.ctxCol ctx m.dest with | some d => map.set d src | none => map) := by
  obtain ⟨t, ht⟩ := exec_next (.migrationComplete ctx src) s
  refine ⟨t, ht, ?_⟩
  change execMigrationComplete ctx src s = _ at ht
  unfold execMigrationComplete at ht
  rw [hm] at ht
  dsimp -zeta only at ht
  extract_lets cs cd moved c map map' mapped entry stored stored' colv opened settled gs order at ht
  rw [← Host.Outcome.next.inj ht]
  have hmoved : moved.ctxs = s.ctxs := (followMove_ctxs _ m).trans (moveTowers_ctxs s m)
  have hstored : ∀ o : Option Nat, (match o with | some d => entry stored d src | none => stored : State).ctxs = mapped.ctxs := by
    intro o
    cases o with
    | none => exact farStore_ctxs ..
    | some d => exact (farStore_ctxs ..).trans (farStore_ctxs ..)
  have hopened : opened.ctxs = stored'.ctxs := (apply_ite State.ctxs _ _ _).trans (ite_self _)
  have hsettled : settled.ctxs = opened.ctxs := relayTurns_ctxs _
  rw [ctxAt_of_ctxs (foldl_field_eq State.ctxs _ _ ?_ settled), ctxAt_of_ctxs (hsettled.trans (hopened.trans (hstored cd))), ctxAt_setCtx_same]
  · have hmap : map = (s.ctxAt ctx).colmap.set cs m.dest :=
      congrArg (fun x : Context => x.colmap.set cs m.dest) (ctxAt_of_ctxs hmoved ctx)
    exact congrArg (fun l : List Nat => match cd with | some d => l.set d src | none => l) hmap
  · intro t r
    split
    · rfl
    · split
      · rfl
      · exact placeGroup_ctxs ..

/-- A migration that is not refused is of a Live context. -/
theorem live_of_not_migrationRefused (h : s.migrationRefused ctx src dest dwin = false) : (s.ctxAt ctx).state = 1 := by
  by_contra hn
  simp [State.migrationRefused, hn] at h

theorem gctlMigrate_refused (hg : s.groupOf (slotKey col slot) = some (g, v)) (hp : (s.slotAt (slotKey col slot)).preempt = none)
    (hr : s.migrationRefused v.ctx col dest dwin = true) :
    exec (.gctlMigrate col slot dest dwin) s =
      .next (s.setSlot (slotKey col slot) { s.slotAt (slotKey col slot) with preemptErr := true }) := by
  change execGctlMigrate col slot dest dwin s = _
  simp only [execGctlMigrate, hg, hp, Option.isSome_none, Bool.false_eq_true, if_false, hr, if_true, ite_self]

/-- A migration that is not refused is among the moves from now on (R377). -/
theorem gctlMigrate_moves (hg : s.groupOf (slotKey col slot) = some (g, v)) (hp : (s.slotAt (slotKey col slot)).preempt = none)
    (hr : s.migrationRefused v.ctx col dest dwin = false) :
    ∃ t, exec (.gctlMigrate col slot dest dwin) s = .next t ∧ ∃ m ∈ t.moves, m.ctx = v.ctx ∧ m.src = col ∧ m.dest = dest ∧ m.dwin = dwin := by
  obtain ⟨t, ht⟩ := exec_next (.gctlMigrate col slot dest dwin) s
  refine ⟨t, ht, ?_⟩
  change execGctlMigrate col slot dest dwin s = _ at ht
  have hlive : ¬(s.ctxAt v.ctx).state ≠ 1 := not_not_intro (live_of_not_migrationRefused hr)
  simp only [execGctlMigrate, hg, if_neg hlive, hp, Option.isSome_none, Bool.false_eq_true, if_false, hr] at ht
  rw [← Host.Outcome.next.inj ht, foldl_field_eq State.moves]
  · exact ⟨_, List.mem_append_right _ (List.mem_singleton_self _), rfl, rfl, rfl, rfl⟩
  · intro t r
    split
    · rfl
    · exact preemptOne_moves ..

end

/-! ### Firmware and Faulted groups (R367, R370, R472) -/

section
variable {s : State} {col value : Nat}

/-- The engine of a Faulted group that the selector of a column names (R370). -/
def State.selectedEng (s : State) (col : Nat) : Nat :=
  slotKey col (bitsAt ((s.colAt col).ctlr 0x083) 1 0) * 3 + bitsAt ((s.colAt col).ctlr 0x131) 21 20

/-- A write through GREGDATA into a Faulted group sets what the selector names: a scalar register, the condition flag, or a spill word (R370). -/
theorem gregdataWrite_faulted (hf : ((s.groupOf (slotKey col (bitsAt ((s.colAt col).ctlr 0x083) 1 0))).map fun g => g.2.state) = some .faulted) :
    let sel := (s.colAt col).ctlr 0x131
    let e := s.engAt (s.selectedEng col)
    let v := BitVec.ofNat 64 value
    (bitsAt sel 19 18 = 0 → exec (.gregdataWrite col value) s = .next (s.setEng (s.selectedEng col) (e.setS (bitsAt sel 17 0) { val := v }))) ∧
    (bitsAt sel 19 18 = 1 → exec (.gregdataWrite col value) s = .next (s.setEng (s.selectedEng col) { e with cf := v.getLsbD 0 })) ∧
    (bitsAt sel 19 18 = 2 → exec (.gregdataWrite col value) s =
      .next (s.setEng (s.selectedEng col) { e with spill := e.spill.put (bitsAt sel 17 0) { val := v } })) := by
  intro sel e v
  have hgo : exec (.gregdataWrite col value) s = _ := if_neg (not_not_intro hf)
  refine ⟨fun h => ?_, fun h => ?_, fun h => ?_⟩
  all_goals
    change bitsAt ((s.colAt col).ctlr 0x131) 19 18 = _ at h
    rw [hgo, h]
    rfl

theorem microPcRecordArrival_now {slot : Nat} (h : s.subject = 0 ∨ s.farTraffic = false) :
    exec (.microPcRecordArrival col slot) s = .next (s.setCol col ((s.colAt col).raisePend (2 ^ slot))) := by
  refine if_neg ?_
  rcases h with h | h <;> simp [h]

/-- A context that a purge can name: one that is there (R472). -/
theorem purge_accepted (hc : value / 2 ^ 32 % 65536 ≠ 0) (h1 : 1 ≤ (s.ctxAt (value / 2 ^ 32 % 65536)).state)
    (h4 : (s.ctxAt (value / 2 ^ 32 % 65536)).state ≤ 4) (hs : s.subject = 0)
    (hnew : (s.purges.any fun p => p.1 == value / 2 ^ 32 % 65536 && p.2.1 == value % 65536) = false) :
    exec (.purge value) s = .next { s with purgeErr := false, purges := s.purges ++ [(value / 2 ^ 32 % 65536, value % 65536, 0)] } := by
  have hok : ¬(value / 2 ^ 32 % 65536 = 0 ∨ (s.ctxAt (value / 2 ^ 32 % 65536)).state < 1 ∨ 4 < (s.ctxAt (value / 2 ^ 32 % 65536)).state) := by omega
  change execPurge value s = _
  simp only [execPurge, if_neg hok, if_pos hs, hnew, Bool.false_eq_true, if_false]

theorem purge_refused (h : value / 2 ^ 32 % 65536 = 0 ∨ (s.ctxAt (value / 2 ^ 32 % 65536)).state = 0 ∨ 5 ≤ (s.ctxAt (value / 2 ^ 32 % 65536)).state)
    (hs : s.subject = 0) : exec (.purge value) s = .next { s with purgeErr := true } :=
  (if_pos (h.imp_right (Or.imp (by omega) (by omega)))).trans (congrArg Host.Outcome.next (if_pos hs))

/-- A purge that ends is reported with the number of groups it has purged (R470, R472). -/
theorem purgeComplete_running {ctx tag : Nat} {p : Nat × Nat × Nat} (h : s.purges.find? (fun p => p.1 == ctx && p.2.1 == tag) = some p) :
    exec (.purgeComplete ctx tag) s = .next { s.health { code := 0x11, ctx := ctx, tag := tag, info := BitVec.ofNat 64 (p.2.2 - 1) } with
      purges := s.purges.filter fun q => !(q.1 == ctx && q.2.1 == tag) } := by
  change execPurgeComplete ctx tag s = _
  simp only [execPurgeComplete, h]
  rfl

/-- A message that is the first of its cycle for its mailbox, and that no word of the device sends, goes by what its group can do with it (R380). -/
theorem messageLand_first {gid mb : Nat} (hf : s.flight (2 ^ 64) = none) (hs : s.subject = 0) :
    (∀ kept t, s.message gid mb (BitVec.ofNat 64 value) = some (kept, t) → exec (.messageLand gid mb value (2 ^ 64)) s = .next t) ∧
    (s.message gid mb (BitVec.ofNat 64 value) = none →
      exec (.messageLand gid mb value (2 ^ 64)) s = .next (s.due (s.cyc + 1) 620 (.messageLand gid mb value (2 ^ 64)) 0)) := by
  have hfirst : ¬(s.agenda.any fun _ => false) = true := by simp
  refine ⟨fun kept t h => ?_, fun h => ?_⟩
  all_goals
    change execMessageLand gid mb value (2 ^ 64) s = _
    simp only [execMessageLand, hf, hs, Nat.not_lt_zero, decide_false, Bool.and_false, Bool.false_and, if_neg hfirst, h]

end

/-- Settles O38: each event of a group's life from the lemma that says what it does there. -/
theorem groupSteps : Obligations.GroupSteps := by
  unfold Obligations.GroupSteps
  intro s
  refine ⟨fun g col slot v hg hq hc hf ho hp hgang hs => ⟨_, groupPlace_saved hg hq hc hf ho hp hgang hs, ?_⟩,
    fun g v hg => ⟨codeStoreCopyComplete_none, fun u => codeStoreCopyComplete_starts⟩,
    fun col slot block => codeBlockFetch_none, fun col slot block g v u h => codeBlockFetch_full h,
    fun col slot block g v a pages u h => codeBlockFetch_stores h, fun col slot k => watchdog_alone,
    fun g v p hg hp => ⟨fun hopen hdue => ?_, fun hopen hdue => ?_, fun hplaced => ?_⟩,
    fun g v hg => ⟨fun hall => ?_, fun hall => ?_, fun hs hf hn => ⟨_, saveFrameWait_none hg hs hf hn, rfl⟩⟩,
    fun g v hg ha => ⟨_, groupRetire_unaudited hg ha, ?_⟩, fun ctx src m => migrationComplete_colmap,
    fun col slot force => ⟨fun g v => gctlPreempt_group, gctlPreempt_none⟩,
    fun col slot dest dwin g v hg hp hr => ⟨_, gctlMigrate_refused hg hp hr, ?_, rfl⟩, fun col slot dest dwin g v => gctlMigrate_moves,
    fun col value => ?_, fun col slot => ⟨fun h => ⟨_, microPcRecordArrival_now h, ?_⟩, fun h0 ht => if_pos ⟨h0, ht⟩⟩,
    fun value => ?_, fun ctx tag p h => ⟨_, purgeComplete_running h, rfl, rfl⟩, fun col => rfl, fun gid mb value => messageLand_first⟩
  · exact ⟨_, List.mem_append_right _ (List.mem_singleton_self _), placeGroup_later s g col slot, rfl⟩
  · exact (forcedFullSave_of_pending hg hp).trans ((if_neg (ne_placed_of_open hopen)).trans (if_pos ⟨hopen, hdue⟩))
  · exact (forcedFullSave_of_pending hg hp).trans ((if_neg (ne_placed_of_open hopen)).trans (if_neg fun h => Nat.not_le.2 hdue h.2))
  · exact (forcedFullSave_of_pending hg hp).trans (if_pos hplaced)
  · exact (saveComplete_eq hg).trans (congrArg Host.Outcome.next (if_pos hall))
  · exact (saveComplete_eq hg).trans (congrArg Host.Outcome.next (if_neg (by simp [hall])))
  · rw [State.setGroup_groups, Map.get?_put_same]
    rfl
  · rw [State.slotAt_setSlot_same]
  · intro sk sel ek hf
    obtain ⟨hreg, hcf, hspill⟩ := gregdataWrite_faulted (value := value) hf
    refine ⟨fun h hn => ⟨_, hreg h, ?_⟩, fun h => ⟨_, hcf h, ?_⟩, fun h => ⟨_, hspill h, ?_⟩⟩
    · exact (congrArg (Engine.sreg · _) (State.engAt_setEng_same ..)).trans (Engine.sreg_setS_same _ _ _ hn)
    · exact congrArg Engine.cf (State.engAt_setEng_same ..)
    · exact (congrArg (fun e : Engine => e.spill.get? _) (State.engAt_setEng_same ..)).trans (Map.get?_put_same ..)
  · rw [State.colAt_setCol_same]
    exact Column.ctlr_setCtl_same ..
  · intro c st hs
    exact ⟨fun hc h1 h4 hnew => purge_accepted hc h1 h4 hs hnew, fun h => purge_refused h hs⟩

end Sys2Proof.Machine
end
